-- ==== Sys2Proof/Word.lean ====
section
/-! DEFINITION. The word types of the PL-ZY16-M and the two plain containers every later file uses:
an association list `AMap` (sparse state keyed by name) and byte lists in the little-endian order of R2. -/

namespace Sys2Proof

/-- One byte of memory. -/
abbrev Byte := BitVec 8
/-- A register or scalar word: 64 bits (R8, R66). -/
abbrev W64 := BitVec 64
/-- A 32-bit lane, fault code, count or handle. -/
abbrev W32 := BitVec 32

/-- Sparse state: a list of keys with their values; a key that is not listed has the value its
reader names as the default. -/
abbrev AMap (κ : Type) (α : Type) := List (κ × α)

namespace AMap
variable {κ α : Type} [DecidableEq κ]

/-- The value listed for a key. -/
def find? (m : AMap κ α) (k : κ) : Option α :=
  match m with
  | [] => none
  | (k', v) :: t => if k' = k then some v else find? t k

/-- The value listed for a key, or the default. -/
def getD (m : AMap κ α) (k : κ) (d : α) : α := (find? m k).getD d

/-- List the value for the key, in the place of an earlier one or at the end. -/
def insert (m : AMap κ α) (k : κ) (v : α) : AMap κ α :=
  match m with
  | [] => [(k, v)]
  | (k', v') :: t => if k' = k then (k, v) :: t else (k', v') :: insert t k v

/-- Remove every entry of the key. -/
def erase (m : AMap κ α) (k : κ) : AMap κ α := m.filter (fun p => decide (p.1 ≠ k))

end AMap

/-- The little-endian number that a list of bytes spells (R2). -/
def leNat : List Byte → Nat
  | [] => 0
  | b :: t => b.toNat + 256 * leNat t

/-- The `n` low bytes of a number, lowest first (R2). -/
def leBytes : Nat → Nat → List Byte
  | 0, _ => []
  | n + 1, x => BitVec.ofNat 8 x :: leBytes n (x / 256)

/-- Bits [lo + n - 1 : lo] of a number. -/
def bitsOf (x lo n : Nat) : Nat := x / 2 ^ lo % 2 ^ n

/-- Bit `i` of a number. -/
def bitOf (x i : Nat) : Bool := x / 2 ^ i % 2 == 1

/-- A number below `2^n` read as two's complement of `n` bits. -/
def signOf (n x : Nat) : Int :=
  if x % 2 ^ n < 2 ^ (n - 1) then (x % 2 ^ n : Nat) else (x % 2 ^ n : Nat) - (2 ^ n : Nat)

/-- The low `n` bits of an integer, as a number. -/
def toUnsigned (n : Nat) (x : Int) : Nat := (x % (2 ^ n : Nat)).toNat

/-- `x` rounded up to a multiple of `m` units: ceil(x ÷ m). -/
def ceilDiv (x m : Nat) : Nat := (x + m - 1) / m

/-- Add without passing the stop value (every counter of the register tables that "stops at"). -/
def satAdd (stop x n : Nat) : Nat := if stop ≤ x then x else min stop (x + n)

/-- The 0 or 1 of a flag. -/
def b2n (b : Bool) : Nat := if b then 1 else 0

/-- The n-th element of a list, or the default. -/
def nthD {α : Type} (l : List α) (n : Nat) (d : α) : α := l.getD n d

/-- Replace the n-th element of a list; a list that is too short is unchanged. -/
def setNth {α : Type} (l : List α) (n : Nat) (v : α) : List α :=
  match l, n with
  | [], _ => []
  | _ :: t, 0 => v :: t
  | h :: t, n + 1 => h :: setNth t n v

/-- The numbers 0 … n - 1. -/
def upTo (n : Nat) : List Nat := List.range n

/-- Serial comparison of counts of width `w` (R60): `some true` when `b` is newer than `a`,
`some false` when it is older or equal, `none` when the two are not comparable. -/
def serialNewer (w a b : Nat) : Option Bool :=
  let d := (b + 2 ^ w - a % 2 ^ w) % 2 ^ w
  if d == 2 ^ (w - 1) then none else some (0 < d && d < 2 ^ (w - 1))

end Sys2Proof
end

