-- ==== Sys2Proof/Syntax.lean ====
section
/-! DEFINITION. The commands of the PL-ZY16-M: one constructor of `Instr` for each row of
spec/opcode_table.json, with the operands the command carries. The spec's rows give no bits. -/

namespace Sys2Proof

/-- Context 0–1024 (R25). -/
abbrev Ctx := Fin 1025
/-- Queue 0–63 of a context (R25). -/
abbrev QIdx := Fin 64
/-- Fence 0–255 of a context (R316). -/
abbrev FenceId := Fin 256
/-- Basin die 0–3 (R14). -/
abbrev Die := Fin 4
/-- HBM4 stack 0–15 (R25). -/
abbrev Stack := Fin 16
/-- Optical port 0–15 (R25). -/
abbrev Port := Fin 16
/-- Global well 0–63 (R25). -/
abbrev WellId := Fin 64
/-- Global logical core 0–383 (R25). -/
abbrev CoreId := Fin 384
/-- Model instance 0–15 (R341). -/
abbrev Model := Fin 16
/-- Cache instance 0–7 (R210). -/
abbrev CacheInst := Fin 8

/-- Which half of a 64-bit register an access reaches (R8). -/
inductive Half where
  /-- a 64-bit access -/
  | full
  /-- a 32-bit access to bits [31:0] -/
  | lo
  /-- a 32-bit access to bits [63:32]; the value's low 32 bits are the data -/
  | hi
  deriving DecidableEq, Repr

/-- The path of a register access (R443, R578). -/
inductive Via where
  /-- PF0 BAR0 -/
  | pf0
  /-- BAR0 of the VF of a client context -/
  | vf (c : Ctx)
  deriving DecidableEq, Repr

/-- The registers whose 32-bit reads latch the high half (R63, R556). -/
inductive LatchReg where
  | time
  | cycle (d : Die)
  | coreCnt (k : Fin 8)
  | ctxCnt (c : Ctx) (k : Fin 8)
  deriving DecidableEq, Repr

/-- A DMA engine (R293). -/
inductive DmaEng where
  | core (n : CoreId)
  | die (d : Die)
  deriving DecidableEq, Repr

/-- The fields of a tick beacon (R38, R432). -/
structure Beacon where
  step : BitVec 48
  tickTime : BitVec 64
  masterId : BitVec 16
  priority : BitVec 8
  hops : BitVec 8
  period : BitVec 18
  nextPeriod : BitVec 18
  nextStep : BitVec 48
  digest : BitVec 128
  epoch : BitVec 32
  pathPs : BitVec 32
  deriving DecidableEq, Repr

/-- The 32-byte header of a routed message (R428). -/
structure MsgHdr where
  dst : BitVec 16
  src : BitVec 16
  dstCtx : BitVec 11
  srcCtx : BitVec 11
  id : BitVec 32
  hops : BitVec 16
  step : BitVec 8
  /-- the four 4-byte route steps of R425 -/
  route : List W32
  deriving DecidableEq, Repr

/-- Why a lane fails (R415): it loses signal or lock, or this many of its symbols were corrected in the step. -/
inductive LaneFault where
  | lost
  | symbols (n : Nat)
  deriving DecidableEq, Repr

/-- The pair whose spillway has moved and, where it opens, whether the engines of its ports calibrated (R416). -/
structure SpillSwitch where
  pair : Fin 8
  evenOk : Bool
  oddOk : Bool
  deriving DecidableEq, Repr

/-- A flit (R422) as the receiver sees it after the FEC: header, payload as it came, and GCM tag. `good` is false for an
uncorrectable codeword. -/
structure Flit where
  vc : Fin 4
  som : Bool
  eom : Bool
  epoch : Bool
  idle : Bool
  type : BitVec 8
  seq : BitVec 12
  ack : BitVec 12
  nak : Bool
  credit : BitVec 12
  creditVc : Fin 4
  frame : BitVec 32
  length : Nat
  payload : List Byte
  good : Bool
  tag : BitVec 128
  /-- FEC codewords of the flit that were corrected -/
  corrected : Nat
  deriving DecidableEq, Repr

/-- The outcome of a host request (R449). -/
inductive HostResult where
  | data (bytes : List Byte)
  | unreachable
  | poison
  | refused
  deriving DecidableEq, Repr

/-- A unit that self-test, parity, a watchdog or a retirement names (R491, R493, R506). -/
inductive HwUnit where
  | core (n : CoreId)
  | well (w : WellId)
  | coreDma (n : CoreId)
  | dieDma (d : Die)
  | coll (d : Die)
  deriving DecidableEq, Repr

/-- What a self-test found (R161–R164, R182, R506). -/
inductive TestResult where
  /-- nothing new -/
  | pass
  /-- newly found faulty columns, by number -/
  | columns (cols : List (Fin 66))
  /-- a failure in another part than a column -/
  | fail
  deriving DecidableEq, Repr

/-- What a patrol read found (R166, R489, R490). -/
inductive Patrol where
  | corrected (n : CoreId) (bank : Fin 16) (count : Nat)
  | scratchWord (n : CoreId) (word : Nat)
  | scratchTag (n : CoreId) (line : Nat)
  | storeCorrected (cluster : Fin 48) (bank : Fin 32) (count : Nat)
  | storeWord (cluster : Fin 48) (word : Nat)
  | poolLine (granule : Nat)
  | onDie (j : Stack) (corrected uncorrected : Nat)
  | onDieRow (granule : Nat)
  /-- corrected errors of a bank of a pool cache -/
  | poolCorrected (d : Die) (bank : Nat) (count : Nat)
  /-- the die-network port of a cluster has failed hard (R508) -/
  | portHard (cluster : Fin 48)
  deriving DecidableEq, Repr

/-- The cause of a context reset (R499). -/
inductive ResetCause where
  | destroy | flr | overrun | reclaim | lifeCycle | hardFault
  deriving DecidableEq, Repr

/-- The kind field of a COLLECTIVE message (R428). -/
inductive CollBody where
  | join (members channels kind : Nat) (crc : W64)
  | header (crc : W64)
  | partialSum
  | value
  deriving DecidableEq, Repr

/-- How an RDMA operation ended (R437). -/
inductive RdmaResult where
  | ok
  | failed
  deriving DecidableEq, Repr

/-- The MCTP messages of R541. -/
inductive MctpMsg where
  | control
  | pldmBase
  | readSensor (i : Nat)
  | readState
  | setEffecter (watts : Nat)
  deriving DecidableEq, Repr

/-- What the built-in self-test of WIPE_BIST, the start of the roles, or the training of HBM finds (R16, R161, R162, R167,
R182, R264, R507–R509): faulty columns of the array of a physical core 0–8 of a physical cluster 0–13; a physical core
that fails otherwise; a scratchpad bank of a logical core; a logical cluster; faulty columns of a well; a plinth core; a
failed lane of a channel. -/
inductive StartFind where
  | array (d : Die) (cluster : Fin 14) (core : Fin 9) (cols : List (Fin 66))
  | core (d : Die) (cluster : Fin 14) (core : Fin 9)
  | bank (n : CoreId) (bank : Fin 16)
  | cluster (d : Die) (k : Fin 12)
  | well (x : WellId) (cols : List (Fin 66))
  | plinth (k : Fin 8)
  | lane (j : Stack) (ch : Fin 32) (lane : Fin 80)
  deriving DecidableEq, Repr

/-- The result of a start-up stage (R531, R532): it passes, or passes with finds that spares take up, or fails. -/
inductive StageResult where
  | ok
  | found (finds : List StartFind)
  | security
  | dieDead
  | hbmFail
  deriving DecidableEq, Repr

/-- The cause of a module fault (R518). -/
inductive ModuleFaultCause where
  | role (k : Fin 4)
  | security
  | cxlPort
  deriving DecidableEq, Repr

/-- The commands of the block, one constructor per row of spec/opcode_table.json. In a row that is an
Etwipel instruction, `w` holds the word's bits below the opcode bits that the row itself fixes:
[49:0] where the row fixes major and minor, [55:0] where it fixes the major only (R70–R72). -/
inductive Instr where
  -- tick and time
  | tick
  | holdoverExpiry
  | acquireTimeout
  | beacon (p : Port) (b : Beacon)
  | tickInEdge (offNs : Int)
  | ppsInEdge (t : BitVec 64)
  | linkDelayMeasure (p : Port) (t1 : BitVec 64)
  | delayReq (p : Port) (t1 t2 t3 : BitVec 64)
  | delayRsp (p : Port) (t2 t3 t4 : BitVec 64)
  | tkCtrlWrite (h : Half) (v : W64)
  | tkPeriodStepWrite (h : Half) (v : W64)
  | tkAdvanceWrite (h : Half) (v : W64)
  | tkStepRead (h : Half)
  | lowHalfReadLatch (via : Via) (r : LatchReg)
  | deadlineMark (m80 : Bool)
  -- Etwipel: control
  | ctlNop (n : CoreId) (w : BitVec 50)
  | ctlEnd (n : CoreId) (w : BitVec 50)
  | ctlBr (n : CoreId) (w : BitVec 50)
  | ctlCall (n : CoreId) (w : BitVec 50)
  | ctlJr (n : CoreId) (w : BitVec 50)
  | ctlLoop (n : CoreId) (w : BitVec 50)
  | ctlYield (n : CoreId) (w : BitVec 50)
  | coreStop (n : CoreId)
  -- scalar
  | salu (n : CoreId) (w : BitVec 56)
  | salui (n : CoreId) (w : BitVec 56)
  -- descriptor
  | dscLd (n : CoreId) (w : BitVec 50)
  | dscLdx (n : CoreId) (w : BitVec 50)
  | dscSt (n : CoreId) (w : BitVec 50)
  | dscMov (n : CoreId) (w : BitVec 50)
  | dscOrg (n : CoreId) (w : BitVec 50)
  | dscOrgadd (n : CoreId) (w : BitVec 50)
  | dscSize (n : CoreId) (w : BitVec 50)
  | dscResize (n : CoreId) (w : BitVec 50)
  -- matrix
  | mxZero (n : CoreId) (w : BitVec 50)
  | mxMma (n : CoreId) (w : BitVec 50)
  | mxLd (n : CoreId) (w : BitVec 50)
  | mxSt (n : CoreId) (w : BitVec 50)
  | mxRd (n : CoreId) (w : BitVec 50)
  | mxWr (n : CoreId) (w : BitVec 50)
  | mxFinish (n : CoreId) (k : Nat)
  -- vector
  | vx (n : CoreId) (w : BitVec 56)
  | rsum (n : CoreId) (w : BitVec 50)
  | rmax (n : CoreId) (w : BitVec 50)
  | rmin (n : CoreId) (w : BitVec 50)
  | rabsmax (n : CoreId) (w : BitVec 50)
  | shuf (n : CoreId) (w : BitVec 50)
  | rot (n : CoreId) (w : BitVec 50)
  | cvt (n : CoreId) (w : BitVec 50)
  | quant (n : CoreId) (w : BitVec 50)
  | dequant (n : CoreId) (w : BitVec 50)
  | tos (n : CoreId) (w : BitVec 50)
  | pack (n : CoreId) (w : BitVec 50)
  | unpack (n : CoreId) (w : BitVec 50)
  | vgath (n : CoreId) (w : BitVec 50)
  | vscat (n : CoreId) (w : BitVec 50)
  -- memory
  | ldSp (n : CoreId) (w : BitVec 50)
  | stSp (n : CoreId) (w : BitVec 50)
  | ldCs (n : CoreId) (w : BitVec 50)
  | stCs (n : CoreId) (w : BitVec 50)
  | ldG (n : CoreId) (w : BitVec 50)
  | stG (n : CoreId) (w : BitVec 50)
  | vldSp (n : CoreId) (w : BitVec 50)
  | vstSp (n : CoreId) (w : BitVec 50)
  | vldCs (n : CoreId) (w : BitVec 50)
  | vstCs (n : CoreId) (w : BitVec 50)
  | vldG (n : CoreId) (w : BitVec 50)
  | vstG (n : CoreId) (w : BitVec 50)
  | globalDataReturn (n : CoreId) (k : Nat)
  -- DMA
  | dmaCp (n : CoreId) (w : BitVec 50)
  | dmaRun (n : CoreId) (w : BitVec 50)
  | dmaPoll (n : CoreId) (w : BitVec 50)
  | dmaBurst (e : DmaEng) (ch : Fin 32)
  | dmaRequestComplete (e : DmaEng) (ch : Fin 32)
  -- synchronisation and atomics
  | syncFence (n : CoreId) (w : BitVec 50)
  | syncWt (n : CoreId) (w : BitVec 50)
  | syncBar (n : CoreId) (w : BitVec 50)
  | atAdd (n : CoreId) (w : BitVec 50)
  | atAnd (n : CoreId) (w : BitVec 50)
  | atOr (n : CoreId) (w : BitVec 50)
  | atXor (n : CoreId) (w : BitVec 50)
  | atSwap (n : CoreId) (w : BitVec 50)
  | atMax (n : CoreId) (w : BitVec 50)
  | atMin (n : CoreId) (w : BitVec 50)
  | atMaxu (n : CoreId) (w : BitVec 50)
  | atMinu (n : CoreId) (w : BitVec 50)
  | atCas (n : CoreId) (w : BitVec 50)
  | atFadd (n : CoreId) (w : BitVec 50)
  -- wells, attention, collectives, enqueue, CSR
  | wlPost (n : CoreId) (w : BitVec 50)
  | wlPostm (n : CoreId) (w : BitVec 50)
  | atQk (n : CoreId) (w : BitVec 50)
  | atSm (n : CoreId) (w : BitVec 50)
  | atPv (n : CoreId) (w : BitVec 50)
  | atMrg (n : CoreId) (w : BitVec 50)
  | atFin (n : CoreId) (w : BitVec 50)
  | atRp (n : CoreId) (w : BitVec 50)
  | clPost (n : CoreId) (w : BitVec 50)
  | enPush (n : CoreId) (w : BitVec 50)
  | enDb (n : CoreId) (w : BitVec 50)
  | csrRd (n : CoreId) (w : BitVec 50)
  | csrWr (n : CoreId) (w : BitVec 50)
  -- wells
  | wellCommandStart (x : WellId)
  | wellPass (x : WellId)
  | wellCommandComplete (x : WellId)
  -- front end
  | feQcfgEnableSet (c : Ctx) (q : QIdx) (h : Half) (v : W64)
  | queueActive (c : Ctx) (q : QIdx)
  | feQcfgEnableClear (c : Ctx) (q : QIdx) (h : Half) (v : W64)
  | queueFree (c : Ctx) (q : QIdx)
  | feQdbWrite (c : Ctx) (q : QIdx) (h : Half) (v : W64)
  | feQcptrWrite (c : Ctx) (q : QIdx) (h : Half) (v : W64)
  | feEvptrWrite (c : Ctx) (h : Half) (v : W64)
  | obTrptrWrite (h : Half) (v : W64)
  | feFvalWrite (c : Ctx) (f : FenceId) (h : Half) (v : W64)
  | fenceReset (c : Ctx) (f : FenceId) (h : Half) (v : W64)
  | prefetch (c : Ctx) (q : QIdx)
  | registerWaits (c : Ctx) (q : QIdx)
  | commandStart (c : Ctx) (q : QIdx)
  | waitTimeout (c : Ctx) (q : QIdx)
  | kernel (c : Ctx) (q : QIdx) (cores : List CoreId)
  | dma (c : Ctx) (q : QIdx)
  | marker (c : Ctx) (q : QIdx)
  | request (c : Ctx) (q : QIdx)
  | commandComplete (c : Ctx) (q : QIdx) (index : W32)
  | msixIntervalExpiry (c : Ctx) (v : Fin 2)
  -- scheduler
  | ctxCreate (q : QIdx)
  | ctxDestroy (q : QIdx)
  | partition (q : QIdx)
  | reclaim (q : QIdx)
  | reclaimDeadline
  | contextReset (c : Ctx) (cause : ResetCause)
  | stageStart (m : Model) (cores : List CoreId)
  | sliceEnd (c : Ctx)
  | imageSave (c : Ctx)
  | imageRestore (c : Ctx)
  | nonpreemptOverrun (c : Ctx) (q : QIdx) (index : W32)
  | budgetExpiry (c : Ctx) (q : QIdx) (index : W32)
  -- weights
  | wtLoad (q : QIdx)
  | wtReplace (q : QIdx)
  | wtResume (q : QIdx)
  | shardArrival (m : Model) (k : Nat) (data : Option (List Byte))
  | shardTimeout (m : Model) (k : Nat)
  | layerCopy (m : Model)
  | layerCopyComplete (m : Model)
  | streamFetchStart (m : Model)
  -- collectives
  | jobCreate (q : QIdx)
  | jobDestroy (q : QIdx)
  | joinTimeout (c : Ctx)
  | collective (src : BitVec 16) (job : W32) (ch : Fin 64) (body : CollBody) (opNum elem : W32)
      (data : List Byte)
  | collectiveComplete (c : Ctx) (ch : Fin 64)
  | clStall (c : Ctx) (ch : Fin 64)
  | abort (job : W32) (origin : BitVec 16) (code : Byte)
  | drainStart (c : Ctx)
  | drainComplete (c : Ctx) (ok : Bool)
  -- memory
  | trInvLeaf (h : Half) (v : W64)
  | trInvContext (h : Half) (v : W64)
  | trInvAll (h : Half) (v : W64)
  | invalidationComplete
  | trRekeyWrite (h : Half) (v : W64)
  | rekeyComplete
  | msZeroWrite (h : Half) (v : W64)
  | zeroFillComplete
  | msPartWrite (h : Half) (v : W64)
  | channelRetrain (j : Stack) (ch : Fin 32) (lane : Option (Fin 83))
  | selfRefreshExit (j : Stack)
  | patrolScrub (p : Patrol)
  | rollingSelfTest (u : HwUnit)
  | selfTestComplete (u : HwUnit) (r : TestResult)
  | parityError (u : HwUnit)
  | unitStuck (u : HwUnit)
  | drainMarkerAck (endpoint : Nat)
  | drainMarkerStuck (endpoint : Nat)
  | heartbeatMiss (k : Fin 4) (standby : Bool)
  | takeoverComplete (k : Fin 4) (pass : Bool)
  | rpRetire (q : QIdx)
  | clusterSpare (d : Die) (cl : Fin 12)
  | moduleFault (cause : ModuleFaultCause)
  | config (p : Port) (digest : BitVec 128) (epoch : W32) (mismatch : Bool)
  | graceExpiry (p : Port)
  -- fabric
  | laneFailure (p : Port) (lane : Fin 9) (cause : LaneFault)
  | spillwaySwitch (x : SpillSwitch)
  | linkTraining (p : Port) (good : List (Fin 9))
  | hello (p : Port) (device : BitVec 16) (peerPort : BitVec 8) (width : BitVec 8) (nonce : List Byte)
  | report (p : Port) (bytes : List Byte)
  | encap (p : Port) (ciphertext : List Byte)
  | attestRetry (p : Port)
  | rekeyThreshold (p : Port)
  | rekey (p : Port) (key : List Byte)
  | keyHoldTimeout (p : Port)
  | flit (p : Port) (f : Flit)
  | nak (p : Port) (seq : BitVec 12)
  | retryTimeout (p : Port)
  | write (p : Port) (m : MsgHdr) (window : W32) (offset : W64) (data : List Byte)
  | read (p : Port) (m : MsgHdr) (window : W32) (offset : W64) (length : Nat)
  | readRsp (p : Port) (m : MsgHdr) (req : W32) (status : Byte) (data : List Byte)
  | signal (p : Port) (m : MsgHdr) (fence op flags : Byte) (value : W64)
  | ack (p : Port) (m : MsgHdr) (req : W32) (status : Byte)
  | trace (p : Port) (m : MsgHdr) (marker : W64)
  | routedForward (p : Port) (type : Byte) (m : MsgHdr) (body : List Byte)
  | e2eTimeout (id : W32)
  | send (qp : Fin 4096) (psn : BitVec 24) (data : List Byte)
  | congestionNotification (qp : Fin 4096)
  | rateRecovery (qp : Fin 4096)
  | pfcPause (p : Port) (prio : Fin 8) (on : Bool)
  | rdmaCompletion (qp : Fin 4096) (r : RdmaResult)
  -- host attachment
  | hostMemAccess (addr : Nat) (store : Option (List Byte)) (len : Nat)
  | backInvalidate (line : Nat)
  | hostSnoop (line : Nat)
  | atsInvalidation (c : Ctx)
  | hostRequestCompletion (id : Nat) (r : HostResult)
  | functionLevelReset (c : Ctx)
  | uioSignal (rid : BitVec 16) (aligned : Bool) (msg : List Byte)
  | cxlLinkTrained (width rate : Nat)
  | fwImage (offset : Nat) (data : List Byte)
  | attest (nonce : List Byte)
  | peerFetchTimeout
  -- security
  | seRegister (q : QIdx)
  | seSetJoin (q : QIdx)
  | seSetLeave (q : QIdx)
  | seAttest (q : QIdx)
  | seLc (q : QIdx)
  | entropyRecovery
  -- firmware and power
  | fwUpdate (q : QIdx)
  | roleHandover
  | restoreFactory (q : QIdx)
  | activeToQuiet (h : Half) (v : W64)
  | quietToActive (h : Half) (v : W64)
  | park (h : Half) (v : W64)
  | unpark (h : Half) (v : W64)
  | powerTransitionComplete
  | controlInterval (meanW peakW : Nat) (sensors : List Int)
  | thermalTrip (sensor : Fin 56)
  | perstAssert
  | perstDeassert (straps : BitVec 12)
  | startUpStage (r : StageResult)
  | powerRemoval
  | powerApply
  | inputLow (volts16 : Nat) (amps16 : Nat)
  -- register writes
  | kvInstEnable (inst : CacheInst) (h : Half) (v : W64)
  | ssModelEnable (m : Model) (h : Half) (v : W64)
  | cxHdmValid (h : Half) (v : W64)
  | jlPortCfgWrite (p : Port) (h : Half) (v : W64)
  | obTrmarkWrite (h : Half) (v : W64)
  | registerWrite (via : Via) (off : Nat) (bits : Nat) (v : W64)
  -- rows listed last
  | illegalOpcode (n : CoreId) (w : W64)
  | codeRegionExtent (n : CoreId)
  | entropyFail
  | keyAgreementTimeout (p : Port)
  | cxlLinkDown
  | ethLinkUp (p : Port) (sub : Fin 2)
  | ethLinkDown (p : Port) (sub : Fin 2)
  | qpAckTimeout (qp : Fin 4096)
  | mctpMessage (m : MctpMsg)
  | doeDiscovery (index : Nat)
  | hdmDecoderCommit (base size : Nat)
  | numvfsWrite (n : Nat)
  | imageSaveComplete (c : Ctx)
  | imageRestoreComplete (c : Ctx)
  | spareCopyComplete
  | channelRetrainComplete (j : Stack) (ch : Fin 32)
  | roleReloadComplete (pass : Bool)
  | uioCompletion (tag : Nat) (ok : Bool)
  | msixVectorUnmask (c : Ctx) (v : Fin 2)
  | latchDiscardRead (via : Via) (r : LatchReg)
  deriving DecidableEq, Repr

end Sys2Proof
end

