-- ==== Sys2Proof/Decode.lean ====
section
/-! DEFINITION. Commands from words. The rows of the opcode table give no bits, so no word spells one. -/

namespace Sys2Proof

/-- The command that a word spells by the bits of the opcode table: no row gives any. -/
def decodeTableWord (_nbits _w : Nat) : Option Instr := none

end Sys2Proof
end

