-- ==== Sys2Proof/Config.lean ====
section
/-! DEFINITION. The free values: what the spec leaves open. Each is a constant with no body, so nothing can
evaluate it; a fresh one is taken by applying it to the state's counter `seed`. -/

namespace Sys2Proof.Config

/-- Nanoseconds by which device time advances between two looks at it (R55). -/
opaque elapsed : Nat → Nat
/-- Picoseconds from a tick, or from a beacon's arrival, to the launch of a beacon (R432). -/
opaque launchPs : Nat → Nat
/-- What OFFSET_NS shows of an offset that does not fit its 32 bits. -/
opaque wideOffset : Nat → Nat
/-- Whether a cached translation entry is still cached when an access looks it up (R252). -/
opaque tlbHit : Nat → Bool
/-- Whether a granule still lies in its home pool cache (R261). -/
opaque poolHit : Nat → Bool
/-- Whether a burst on a channel whose spare is used up fails its four retries (R266). -/
opaque burstFails : Nat → Bool
/-- AES-256-XTS of a sector (R253): key pair, tweak, the 32 bytes; the ciphertext as a number. -/
opaque xts : Nat → Nat → List Nat → Nat
/-- The 52-bit keyed MAC of a granule (R254): integrity key, ciphertext sectors, DPA, SLOT, PHASE. The spec names it and
does not define it. -/
opaque mac : Nat → List Nat → Nat → Nat → Bool → Nat
/-- The MAC of the zero state, by DPA (R254). -/
opaque zeroMac : Nat → Nat
/-- The MAC in a poisoned tag (R490): any but the one that checks. -/
opaque badMac : Nat → Nat
/-- Whether a line is still in a core's read cache (R174). -/
opaque readCacheHit : Nat → Bool
/-- Which line the coherence cache evicts when it is full (R448 states no replacement). -/
opaque evictLine : Nat → Nat
/-- Whether an element that an instruction writes twice keeps the value written before (R140), and whether a byte that a
burst of a DMA request writes is read as it was before that burst by a later burst (R299). -/
opaque keepsFirst : Nat → Bool
/-- How many ULPs a function of R116 lies from the nearest value: function and operands, element type, rounded result. The
model takes it only within the function's bound. -/
opaque ulpOffset : Nat → Nat → Nat → Int
/-- Whether the device adds term `i` of a sum before term `j`, where it states no order (R131). -/
opaque addFirst : Nat → Nat → Nat → Bool

/-- The status that a row gets when its generation is no longer current (R350 names no code). -/
opaque staleRowStatus : Nat → Nat
/-- Arithmetic cycles that have passed (R56, R543). -/
opaque cycles : Nat → Nat
/-- Cycles that requesters waited for a scratchpad bank (R543). -/
opaque bankWait : Nat → Nat
/-- Stream cycles of a matrix operation beyond ceil(K / kd), where the operand port limits it (R156). -/
opaque portExtra : Nat → Nat
/-- Cycles in which a ready burst waited (R543). -/
opaque burstWait : Nat → Nat
/-- Which batch row a row of a core's array holds in a pooled command (R126, R160). -/
opaque pooledRow : Nat → Nat → Nat
/-- Whether the masking of scores in at.rp also changes the S tile, as that of at.sm does (R96, R97). -/
opaque maskStays : Nat → Bool
/-- Whether at.mrg scales the columns of the O tiles beyond the partial's (R226). -/
opaque mergeScales : Nat → Bool
/-- Whether quant leaves its scales, not its elements, in a register that it names for both (R88). -/
opaque scalesLast : Nat → Bool
/-- Whether rabsmax takes the absolute value of an INT32 lane of −2^31 as −2^31, which R117's wrapping gives, and not as
2^31: by the lanes (R88 and R117 do not say which is compared). -/
opaque leastLaneWraps : List Nat → Bool
/-- Cycles that have passed on a DMA engine since it was last looked at (R302, R303). -/
opaque sluiceCycles : Nat → Nat
/-- Which of the channels 24–31 with a place takes a transfer of the device's own (R293). -/
opaque ownChannel : Nat → Nat
/-- A byte of a COLLECTIVE message past the end of the tensor (R400). -/
opaque clPad : Nat → Nat → Byte
/-- The die that receives a shard (R375 states none). -/
opaque shardDie : Nat → Nat
/-- Bits beside packed elements that a DMA write puts into bytes outside this device (R138 states no merge
there). -/
opaque outsideBits : Nat → Nat
/-- The tag in the record of a command whose ring entry could not be read (R321, R323 state none). -/
opaque lostTag : Nat → Nat
/-- The die that writes a trace record of an event that the spec places on no die (R551). -/
opaque traceDie : Nat → Nat
/-- A statistic of a tap over no element that is not NaN (R549 states none). -/
opaque emptyStat : Nat → Nat → Nat
/-- Cycles of a well command (R191). -/
opaque wellCycles : Nat → Nat
/-- Whether a well rounds the probabilities to BF16 before it weighs the values (R224). -/
opaque wellRoundsP : Nat → Bool
/-- The place of a cluster in the order in which the scheduler tries clusters for a grant (R356 leaves it open). -/
opaque clusterFirst : Nat → Nat → Nat → Bool
/-- Which free page of a pool is granted (R232 leaves it open). -/
opaque pickPage : Nat → Nat
/-- Page lists of a sequence of a cache instance, one per layer and KV-head group (no register of the spec holds the
count). -/
opaque listCount : Nat → Nat
/-- A byte of the last 8 KiB of a core block, from the registers and counters that it holds (R358 gives no layout there). -/
opaque imageTail : List Nat → Nat → Byte
/-- The register that such bytes hold at a place, where they are not those that were saved. -/
opaque imageField : List Byte → Nat → Nat
/-- How many ULPs a^b of an optimizer program lies from the nearest value (R402). -/
opaque powOffset : Nat → Nat → Int
/-- Cistern bytes that the drain target had acknowledged when a RoCEv2 error ended a drain (R409). -/
opaque ackedBytes : Nat → Nat
/-- ML-DSA-65 (R368): key, message and signature bytes. The spec names the function and does not define it. -/
opaque mldsaVerify : List Nat → Nat → List Nat → Bool
/-- SHAKE256 with 512 bits of output (R368). -/
opaque shake512 : List Nat → Nat
/-- AES key unwrap of RFC 3394 (R369): key and wrapped bytes; none where the integrity check fails. -/
opaque keyUnwrap : Nat → List Nat → Option Nat
/-- AES-256-GCM decryption (R367): key, nonce, ciphertext with tag; none where the tag does not check. -/
opaque gcmOpen : Nat → Nat → List Nat → Option (List Nat)
/-- AES-256-GCM of a flit's payload (R420): key, nonce, additional data, payload; the ciphertext and tag as a number. -/
opaque gcmSeal : Nat → Nat → List Nat → List Nat → Nat
/-- The AES-256-GCM tag (R420): key, nonce, additional data, ciphertext. -/
opaque gcmTag : Nat → Nat → List Nat → List Nat → Nat
/-- Nanoseconds for which the fetches of a step were in flight (R380). -/
opaque fetchNs : Nat → Nat
/-- SHAKE256 of a byte string, as a number of 256 bits (R470, R512): the spec names the function and does not
define it. -/
opaque shake256 : List Nat → Nat
/-- SHAKE256 with 544 bits of output (R419). -/
opaque shake544 : List Nat → Nat
/-- The ML-DSA-65 public key, as a number of 1,952 bytes, of an identity seed (R465). -/
opaque mldsaPublic : Nat → Nat
/-- ML-DSA-65 signing: private key, message, randomness; the signature's bytes as a number (R470). -/
opaque mldsaSign : Nat → Nat → Nat → Nat
/-- The ML-KEM-768 encapsulation key of a seed (R465). -/
opaque kemPublic : Nat → Nat
/-- ML-KEM-768 encapsulation to a key with randomness: the ciphertext, and the shared secret (R419). -/
opaque kemCipher : Nat → Nat → Nat
opaque kemSecret : Nat → Nat → Nat
/-- ML-KEM-768 decapsulation: seed and ciphertext (R419, R474). -/
opaque kemOpen : Nat → Nat → Nat
/-- A value of the random bit generator (R462). -/
opaque random : Nat → Nat
/-- Verification of an X.509 chain, stored leaf first (R466): the digest of the root key and the leaf's key. -/
opaque chainLeaf : List Nat → Option (Nat × Nat)
/-- Data that a poisoned read returns to the host (R451). -/
opaque poisonData : Nat → Nat
/-- Idle flits that a port has sent since it was last looked at (R422). -/
opaque idleFlits : Nat → Nat
/-- The reply status, less one, to an access whose window table entry cannot be read (R431 states none). -/
opaque tableReply : Nat → Nat
/-- How far the OTP writes of a life-cycle transition had come when power was lost, or PERST# asserted (R483): below 4,
the life-cycle rows were not written. -/
opaque otpWrites : Nat → Nat
/-- By how much, less one, the cap pace falls in an interval (R525: up to 8). -/
opaque paceDrop : Nat → Nat
/-- The settings to which a lane, a channel or a sensor calibrates in the field (R539). -/
opaque calibrated : Nat → Nat
/-- Milliseconds from the deassertion of PERST# to ready (R542). -/
opaque bootMs : Nat → Nat
/-- The answer to an MCTP control or PLDM base message (R541 names the standards only). -/
opaque mctpReply : Nat → Byte

end Sys2Proof.Config
end

