-- ==== Sys2Proof/Machine/State.lean ====
section
/-! DEFINITION. The state of one PL-ZY16-M module as plain data: every register of the register index, the
memories, the cores, engines, queues, contexts, links, keys, pins; and the queue of waiting commands. -/

namespace Sys2Proof.Machine

/-- Every register of the register index (R574–R578), by name. -/
inductive Reg where
  | idPart | idShape | idClock | idMem
  | tkCtrl | tkStatus | tkPeriod | tkPeriodNext | tkPeriodStep | tkStep | tkTickTime | tkTime
  | tkMaster | tkOffset | tkAdvance | tkPpsSeconds | tkMarks | tkCycle (d : Die)
  | feCtrl | feStat | feDeadlocks
  | ssCtrl | ssWctrl | ssCluster (d : Die) | ssModelCfg (m : Model) | ssModelPlan (m : Model)
  | ssModelBatch (m : Model) | ssModelPolicy (m : Model) | ssModelStat (m : Model)
  | ssModelMiss (m : Model) | ssModelWver (m : Model) | ssModelWstat (m : Model) | ssPart (c : Ctx)
  | msPart | msSweep | msZero | msZeroStat | msRetrain | msChan (j : Stack) | msErr (j : Stack)
  | trCtrl | trInvAddr | trInvCmd | trInvStat | trRekey | trRekeyStat | trRoot (c : Ctx)
  | seLc | seSerial | seRegistry | seSets | seStat | seSetId0 (k : Fin 16) | seSetId1 (k : Fin 16)
  | jlCtrl | jlRtbase | jlWtbase | jlWtcount | jlQpbase | jlStat
  | jlPortCfg (p : Port) | jlPortStat (p : Port) | jlPortPeer (p : Port) | jlPortDelay (p : Port)
  | jlPortFec (p : Port) | jlPortLink (p : Port) | jlPortTx (p : Port) | jlPortMac (p : Port)
  | cxCtrl | cxLink | cxHdm | cxHdmBase | cxPeerbase | cxPeercount | cxStat | cxSeg (k : Fin 256)
  | pwReq | pwStatus | pwCap | pwPace | pwPower | pwTherm | pwSensorIndex | pwSensorData | pwRoles
  | pwFw | pwFwUpd | pwBoot
  | rpCtrl | rpStat | rpPlinth | rpMapCount | rpMapIndex | rpMapData | rpCfgEpoch | rpCfgCtrl
  | rpCfgOp (k : Fin 8) | rpCfgDigest (k : Fin 2) | rpCfgStat | rpDrain | rpResets
  | obCoreSel | obCoreCnt (k : Fin 8) | obTapbase | obTapcount | obTapstat | obTrbase | obTrcfg
  | obTrptr | obTrmarkDst | obTrmark | obTrstat
  | clCtrl | clEng (d : Die) | clAborts
  | mxShape (n : CoreId) | mxTestCtrl (d : Die) | mxTestStatus (d : Die)
  | wlStatus (x : WellId) | wlBytes (j : Stack) | wlCtrl (d : Die)
  | kvPoolBase (j : Stack) (i : CacheInst) | kvPoolSize (j : Stack) (i : CacheInst)
  | kvPoolStat (j : Stack) (i : CacheInst) | kvPoolRec (j : Stack) (i : CacheInst)
  | kvInst (i : CacheInst)
  | dmCore (n : CoreId) | dmDie (d : Die) | dmCh (d : Die) (ch : Fin 32) | dmBytes (d : Die)
  | dmCoreBytes (d : Die) | dmFaults (d : Die)
  | feQcfg (c : Ctx) (q : QIdx) | feQring (c : Ctx) (q : QIdx) | feQcring (c : Ctx) (q : QIdx)
  | feQdb (c : Ctx) (q : QIdx) | feQptr (c : Ctx) (q : QIdx) | feQcptr (c : Ctx) (q : QIdx)
  | feQstat (c : Ctx) (q : QIdx)
  | feEvbase (c : Ctx) | feEvcfg (c : Ctx) | feEvptr (c : Ctx) | feHtbase (c : Ctx) | feHtcount (c : Ctx)
  | feFval (c : Ctx) (f : FenceId) | feFcfg (c : Ctx) (f : FenceId)
  | vxSatCfg (c : Ctx) (k : Fin 16) | vxSatStep (c : Ctx) (k : Fin 16) | vxSatLast (c : Ctx) (k : Fin 16)
  | vxSatTotal (c : Ctx) (k : Fin 16)
  | kvReserve (c : Ctx) (i : CacheInst) | kvPressure (c : Ctx) (i : CacheInst)
  | ssJobs (c : Ctx) | ssRequests (c : Ctx) | ssSlice (c : Ctx)
  | clJob (c : Ctx) | clDrain (c : Ctx)
  | obCtxSel (c : Ctx) | obCtxCnt (c : Ctx) (k : Fin 8)
  | clDigScrc (c : Ctx) (ch : Fin 64) | clDigSbytes (c : Ctx) (ch : Fin 64)
  | clDigRcrc (c : Ctx) (ch : Fin 64) | clDigRbytes (c : Ctx) (ch : Fin 64)
  deriving DecidableEq, Repr

/-- A field of a register: bits [lo + width - 1 : lo]. -/
structure Fld where
  reg : Reg
  lo : Nat
  width : Nat
  deriving DecidableEq, Repr

/-- A SYSTEM command of context 0: its queue, the queue's generation and the count of its entry. -/
abbrev SysRef := QIdx × Nat × W32

/-- A byte memory: addresses strictly rising, no entry equal to the unlisted value 0. -/
abbrev Memory := List Host.Cell

/-! ### Time (chapter 2) -/

/-- A beacon that the module adopts, with its port, and how it places the next tick: the step number, the device time
just before it, and the jump of device time at it (R39, R40, R432). -/
structure Adopt where
  beacon : Beacon
  port : Port
  nextStep : Nat
  nextAt : Nat
  jumpNs : Int
  deriving DecidableEq, Repr

/-- The tick, the domain and the counts of time that no register of its own holds. -/
structure TimeSt where
  /-- device time of the current step's tick (R36) -/
  tickTime : Nat
  /-- local ticks since ready; every duration in ticks counts these (R54) -/
  ticks : Nat
  /-- held high halves of 32-bit reads (R63) -/
  latches : AMap LatchReg W32
  /-- consecutive missed ticks (R47) -/
  missed : Nat
  /-- the beacon adopted since the last tick: a follower follows it at once; a MASTER or FREE module joins at its next
  tick (R39, R47) -/
  adopted : Option Adopt
  /-- the last beacon adopted, with its port: a later copy of its tick must be better, and a local tick is missed while it
  is of an earlier step (R39, R47) -/
  heard : Option (Beacon × Port)
  /-- a better master whose beacon would move step or time backwards (R43) -/
  conflictWith : Option (BitVec 16)
  /-- the port of the master's beacons, once one has been followed -/
  masterPort : Option Port
  /-- pending advance in steps, 0 for none (R44) -/
  pendAdvance : Nat
  /-- pending period change: period in µs and step (R52, R53) -/
  pendPeriod : Option (Nat × Nat)
  /-- PPS_IN has locked once (R51) -/
  ppsLocked : Bool
  /-- marks of the current step that have been taken: 0, 1 (mark 50) or 2 (mark 80) (R57) -/
  marks : Nat
  deriving DecidableEq, Repr

/-! ### Memory (chapter 9) -/

/-- A granule's integrity tag (R254): the slot, its phase, the identity of the key pair and integrity key that the granule
was written under, and whether its MAC checks (that of a poisoned tag of R490 does not). A granule that is not listed is
in the zero state. `MemSt.tagWord` is the 64-bit tag. -/
structure Tag where
  slot : Nat
  phase : Bool
  key : Nat
  ok : Bool
  deriving DecidableEq, Repr

/-- What DRAM holds under a dirty pool-cache line (R262, R263): the bytes, the tag, and whether the stack reports an
uncorrected error there. -/
structure Under where
  bytes : List Byte
  tag : Option Tag
  bad : Bool
  deriving DecidableEq, Repr

/-- The keys of one slot (R253): identities of the phase keys and the current phase. -/
structure SlotKeys where
  phase : Bool
  key0 : Option Nat
  key1 : Option Nat
  deriving DecidableEq, Repr

/-- Why a range is being zero-filled (R259). -/
inductive FillWhy where
  | page (j : Stack) (i : CacheInst)
  | teardown (c : Ctx)
  | msZero
  | msPart
  | job (c : Ctx)
  deriving DecidableEq, Repr

/-- A range queued for zero-fill: DPA ranges and the reason (R259, R260). -/
structure Fill where
  why : FillWhy
  ranges : List (Nat × Nat)
  deriving DecidableEq, Repr

/-- A running rekey (R258). -/
structure Rekey where
  slot : Nat
  oldKey : Option Nat
  deriving DecidableEq, Repr

/-- A cached translation entry (R252): context, generation, level 0–4 (A–E), address bits, entry. -/
structure TlbKey where
  ctx : Nat
  gen : Nat
  level : Nat
  vpn : Nat
  deriving DecidableEq, Repr

/-- Retraining of a channel (R265, R266). -/
structure Retrain where
  stack : Stack
  ch : Fin 32
  lane : Option (Fin 83)
  /-- the command RESTORE_FACTORY that waits for it (R540) -/
  factory : Option SysRef
  deriving DecidableEq, Repr

/-- Device memory and everything that guards it. -/
structure MemSt where
  /-- device memory by DPA; an unlisted byte reads 0 (the zero-fill of R478) -/
  bytes : Memory
  /-- tags by granule number (DPA ÷ 256) -/
  tags : AMap Nat Tag
  /-- keys of slots 1–1040 -/
  keys : AMap Nat SlotKeys
  /-- next key identity -/
  nextKey : Nat
  /-- granules that lie dirty in their home pool cache, with what DRAM holds there (R262, R263, R490) -/
  dirty : AMap Nat Under
  /-- granules that the home pool cache has filled or written, with the slot of the line; whether a clean one is still
  cached is a free value (R261) -/
  lines : AMap Nat Nat
  /-- granules for which the stack reports an uncorrected on-die error (R255) -/
  eccBad : List Nat
  /-- cached translation entries (R252) -/
  tlb : AMap TlbKey Nat
  /-- running invalidation: its scope (R252) -/
  inv : Option (Nat × Nat × Nat)
  rekey : Option Rekey
  /-- queued zero-fills, oldest first -/
  fills : List Fill
  /-- MS_ZERO.BASE held from a 32-bit write (R268) -/
  zeroBase : Nat
  /-- an accepted change of MS_PART (global, die, stack GiB) that the next tick applies (R245) -/
  pendPart : Option (Nat × Nat × Nat)
  /-- the window sizes in force (R242) -/
  partNow : Nat × Nat × Nat
  /-- channels in retraining (R265) -/
  retrain : List Retrain
  /-- spare lanes in use: stack, channel, spare lane (R264) -/
  lanes : List (Stack × Fin 32 × Nat)
  /-- stacks in self-refresh (R267) -/
  selfRefresh : List Stack
  deriving DecidableEq, Repr

/-- An owner tag (R169, R172): context, generation, and the valid bits of the line's words. -/
structure OwnerTag where
  ctx : Nat
  gen : Nat
  valid : Nat
  deriving DecidableEq, Repr

/-- Scratchpads and cluster stores (R166–R173). -/
structure SramSt where
  /-- scratchpad bytes: core × 2^22 + offset -/
  spad : Memory
  /-- owner tags of scratchpad lines: core × 4096 + line -/
  spadTags : AMap Nat OwnerTag
  /-- poisoned scratchpad words: core × 65536 + word (R489) -/
  spadPoison : List Nat
  /-- cluster store bytes: cluster × 2^24 + offset -/
  store : Memory
  /-- owner tags of store lines: cluster × 8192 + line -/
  storeTags : AMap Nat OwnerTag
  storePoison : List Nat
  /-- corrected errors: (cluster store?, core × 16 + bank or cluster × 32 + bank) (R166, R489) -/
  bankErrs : AMap (Bool × Nat) Nat
  /-- corrected errors of the pool caches by die and bank (R489) -/
  poolErrs : AMap (Nat × Nat) Nat
  /-- banks to be remapped at the core's next command boundary (R167) -/
  bankRemap : List (CoreId × Nat)
  deriving DecidableEq, Repr

/-! ### Cores (chapters 3, 6) -/

/-- A handle's object, as relocation copies it (R318, R319). -/
structure HandleObj where
  /-- 1 DEVICE, 2 HOST, 3 PEER -/
  kind : Nat
  rights : Nat
  peer : Nat
  window : Nat
  address : Nat
  size : Nat
  deriving DecidableEq, Repr

/-- A descriptor register (R66, R150): the 128 bytes, the extension, the origin, and the objects that
resolution found for a HANDLE descriptor's base, fine-scale pointer and coarse-scale pointer. -/
structure DReg where
  raw : BitVec 1024
  ext : Option (BitVec 512)
  origin : List Int
  obj : Option HandleObj
  fobj : Option HandleObj
  cobj : Option HandleObj
  deriving DecidableEq, Repr

/-- Why a core does not issue its next instruction. -/
inductive CoreWait where
  | running
  /-- ctl.end waits for the pending counts (R77) -/
  | ending
  /-- at a preemption point, waiting for the pending counts (R78) -/
  | preempting
  /-- stopped at ctl.end -/
  | stopped
  /-- stopped at a preemption point -/
  | preempted
  deriving DecidableEq, Repr

/-- An issued MX-class instruction in the matrix engine's queue or stage (R157): its operation, the word,
and the operands it read at issue. -/
structure MxOp where
  /-- 0 zero, 1 mma, 2 ld, 3 st, 5 wr, 8 qk, 9 sm, 10 pv, 11 mrg, 12 fin, 13 rp -/
  op : Nat
  w : BitVec 50
  /-- scalar operands s(sa), s(sb) at issue -/
  sa : W64
  sb : W64
  dx : DReg
  dy : DReg
  v : BitVec 2048
  pc : W64
  deriving DecidableEq, Repr

/-- Global data on its way (R73): where it goes when it returns. -/
inductive GlDest where
  /-- scalar register and value -/
  | s (r : Nat) (v : W64)
  | v (r : Nat) (x : BitVec 2048)
  /-- descriptor register loaded from device memory -/
  | d (r : Nat) (x : DReg)
  /-- descriptor register or its extension, whose bytes the host has not sent yet -/
  | dRaw (r : Nat) (ext : Bool)
  /-- a store that has not taken effect at its home: address and bytes (R276) -/
  | st (va : Nat) (bs : List Byte)
  /-- a store that has taken effect: only the token returns -/
  | none
  deriving DecidableEq, Repr

/-- A global access that has issued and not returned; `host` names the host request it waits for. -/
structure GlPend where
  dest : GlDest
  /-- a store or an atomic -/
  wr : Bool
  host : Option Nat
  pc : W64
  /-- an acquire that has not completed: 1 of CORE scope, 2 of a wider one, 0 no acquire (R278) -/
  acq : Nat
  deriving DecidableEq, Repr

/-- The state of R66 of a core that runs a command, with the work it has in flight. -/
structure Core where
  ctx : Ctx
  gen : Nat
  q : QIdx
  /-- entry count of the command, as R310 -/
  idx : W32
  /-- the model instance whose stage this is, for a pooled command (R343) -/
  stage : Option Model
  rank : Nat
  ranks : Nat
  args : W64
  codeBase : Nat
  codeLen : Nat
  pc : W64
  s : AMap Nat W64
  d : AMap Nat DReg
  p : AMap Nat (BitVec 128)
  v : AMap Nat (BitVec 2048)
  /-- accumulator rows: tile × 64 + row, 64 FP32 lanes -/
  acc : AMap Nat (BitVec 2048)
  /-- tiles with a score mark (R85) -/
  marks : List Nat
  cvtClass : Nat
  satCount : Nat
  user : AMap Nat W64
  /-- pending counts MX, GL, DMA, WL, CL (R74) -/
  pend : List Nat
  wait : CoreWait
  /-- in sync.bar, not yet released: barrier number and extent die (R92) -/
  bar : Option (Nat × Bool)
  /-- barriers at which the core has arrived and that have not completed -/
  arrived : List (Nat × Bool)
  /-- issued MX-class instructions not yet finished, oldest first (R157) -/
  mxq : List MxOp
  /-- global accesses in flight, oldest first -/
  gl : List GlPend
  /-- read-cache lines by virtual line number (R174) -/
  rcache : AMap Nat (List Byte)
  /-- instruction words that the instruction buffer holds, by address (R64) -/
  ibuf : AMap Nat W64
  /-- bit 0 of the step number when the stage started (R29, R350) -/
  parity : Nat
  deriving DecidableEq, Repr

/-! ### DMA (chapter 11) -/

/-- A DMA request of R296, or a dma.cp, on a channel. -/
structure DmaReq where
  /-- its number in the order of issue on the engine -/
  order : Nat
  /-- 1 COPY, 2 FILL, 3 CHECK, 4 dma.cp -/
  op : Nat
  /-- the checks of R300 that are the engine's have been made -/
  checked : Bool
  ctx : Ctx
  gen : Nat
  q : QIdx
  idx : W32
  core : Option CoreId
  /-- the pc of the instruction that made the request; zero for a command of a queue -/
  pc : W64
  sum : Nat
  chain : Bool
  /-- the first request of its command on a die channel: its stream starts afresh (R305) -/
  first : Bool
  ordered : Bool
  prio : Nat
  share : Nat
  run : Nat
  count : List Nat
  /-- source and destination: space, and start address or offset within the space -/
  srcSpace : Nat
  src : Nat
  srcObj : Option HandleObj
  dstSpace : Nat
  dst : Nat
  dstObj : Option HandleObj
  srcStep : List Int
  dstStep : List Int
  fill : W64
  sumPtr : Nat
  sumObj : Option HandleObj
  /-- dma.cp: destination and source descriptors -/
  dx : DReg
  dy : DReg
  /-- bytes (or elements of a dma.cp) already moved -/
  done : Nat
  /-- bytes of the stream kept for the checksum, by stream offset -/
  got : AMap Nat (List Byte)
  /-- what the request's bursts have written over, by address in the space that its source lies in too: the bytes that
  stood there, newest first (R299) -/
  before : AMap Nat (List Byte)
  /-- host requests (2 × number) and messages (2 × number + 1) still without their completion -/
  waits : List Nat
  /-- the read that makes its host writes visible has been sent (R446) -/
  flushed : Bool
  /-- its checksum has been stored -/
  stored : Bool
  deriving DecidableEq, Repr

/-- A DMA channel (R294, R303, R305). -/
structure DmaCh where
  reqs : List DmaReq
  /-- sluice credit in 1/256 byte -/
  credit : Nat
  /-- chain state: sum kind, running value, stream length -/
  chain : Option (Nat × Nat × Nat)
  /-- caps in force: PRIO_CAP, SHARE_CAP (R306) -/
  prioCap : Nat
  shareCap : Nat
  deriving DecidableEq, Repr

/-- What the device moves for itself over die channels 24–31 (R293): the save and the restore of a context's image, a shard,
the copy of a layer, a drain. -/
inductive OwnUse where
  | save (c : Ctx) | restore (c : Ctx) | shard (m : Model) (k step : Nat) | copy (m : Model) | drain (c : Ctx)
  deriving DecidableEq, Repr

/-- A DMA engine: mode in force, the channel served last (R302), the number of the next request; the channels served in this
cycle and the bytes they started; for how many cycles a ready channel has been passed over; the device's own transfers, by
channel (R293). -/
structure DmaEngSt where
  mode : Nat
  last : Nat
  next : Nat
  chans : AMap Nat DmaCh
  turn : List Nat
  used : Nat
  passed : AMap Nat Nat
  own : List (Nat × OwnUse)
  deriving DecidableEq, Repr

/-! ### Wells (chapter 7) -/

/-- A posted well command (R184). -/
structure WellCmd where
  core : CoreId
  ctx : Ctx
  gen : Nat
  q : QIdx
  idx : W32
  /-- the pc of the posting instruction -/
  pc : W64
  /-- the well named by the post and its slot among the mask's set bits (R185) -/
  named : WellId
  slot : Nat
  /-- header and row table as copied at issue -/
  bytes : List Byte
  /-- issue order -/
  order : Nat
  deriving DecidableEq, Repr

/-- A running well command (R196): rows' statuses, accumulated results and the passes done. -/
structure WellRun where
  cmd : WellCmd
  /-- completion status per row -/
  rowStatus : List Nat
  inputs : List (List Byte)
  passes : Nat
  passesDone : Nat
  /-- what the passes have computed, as FP32 encodings: by row; by entry for EXPERT -/
  out : AMap Nat (List Nat)
  /-- saturations and NaN conversions counted: context, class, saturations, NaN conversions (R126, R127) -/
  counts : List (Ctx × Nat × Nat × Nat)
  /-- bytes read and written in the stack (R191) -/
  bytes : Nat
  deriving DecidableEq, Repr

/-- Wells: queued commands in issue order and the running command of each well. -/
structure WellSt where
  queue : List WellCmd
  run : AMap WellId WellRun
  order : Nat
  deriving DecidableEq, Repr

/-! ### Front end (chapter 12) -/

/-- A wait entry (R316). -/
structure WaitEnt where
  fence : FenceId
  value : W64
  deriving DecidableEq, Repr

/-- A signal entry (R316). -/
structure SigEnt where
  op : Nat
  remote : Bool
  poisonErr : Bool
  fence : FenceId
  device : Nat
  context : Nat
  value : W64
  deriving DecidableEq, Repr

/-- How a command ended: completion status and fault code (R328, R323), and the core of a core fault. -/
structure Ending where
  status : Nat
  fault : Nat
  core : Option (CoreId × W64)
  deriving DecidableEq, Repr

/-- How far a command has come. -/
inductive CmdPhase where
  /-- read and checked, not yet next to start (R320) -/
  | fetched
  /-- its waits are registered (R330) -/
  | waiting
  /-- started; its kind's step has not run -/
  | started
  /-- on its engines, or in a long operation of the device -/
  | running
  /-- it has ended; its records are not written -/
  | ended
  deriving DecidableEq, Repr

/-- A relocated command (R314–R316, R319). -/
structure Cmd where
  idx : W32
  tag : W32
  kind : Nat
  preemptible : Bool
  overlap : Bool
  waits : List WaitEnt
  signals : List SigEnt
  bound : Nat
  waitTicks : Nat
  counters : Option HandleObj
  code : Option HandleObj
  args : Nat
  ranks : Nat
  records : Option HandleObj
  count : Nat
  die : Die
  /-- body bytes of REQUEST and SYSTEM, and the objects of the handles in it, by offset; none for an absent one -/
  body : List Byte
  objs : List (Nat × Option HandleObj)
  phase : CmdPhase
  /-- it has started (R325) -/
  started : Bool
  ending : Option Ending
  /-- the counter record's start time and step (R546) -/
  startTime : Nat
  startStep : Nat
  /-- ticks since registration, or ticks held since the start (R334, R492, R357) -/
  ticks : Nat
  /-- DMA records not yet entered on the channel, and the channel (R294, R322) -/
  recLeft : List DmaReq
  chan : Option (Fin 32)
  /-- records of the DMA command that have completed -/
  recDone : Nat
  /-- what its record waits for once it has ended: host reads (2 × number) and peer writes (2 × number + 1) without their
  answer (R283, R284) -/
  holds : List Nat
  deriving DecidableEq, Repr

/-- The front end's state of one queue (R308–R335): commands in ring order, and the push count. -/
structure QueueSt where
  cmds : List Cmd
  push : W32
  /-- ring bases in force since ENABLE was set (R336) -/
  ring : Nat
  cring : Nat
  deriving DecidableEq, Repr

/-! ### Contexts and scheduler (chapter 13) -/

/-- The stage of a context's life (R338, R500). -/
inductive CtxPhase where
  | absent
  /-- CTX_CREATE waits for drain, zero-fill, rekey or entropy (R339, R477, R494): queue and ticks -/
  | creating (q : SysRef) (ticks : Nat)
  | live
  /-- reset: drain and teardown zero-fill run -/
  | teardown
  deriving DecidableEq, Repr

/-- A saved image (R358): the cores by logical number, SRAM lines kept, and the command. -/
structure Image where
  q : QIdx
  idx : W32
  /-- the clusters that the context held -/
  held : List Nat
  /-- where the save area holds the first core block and the first line -/
  base : Nat
  lineBase : Nat
  cores : List (CoreId × Core × Nat)
  /-- scratchpad lines: key, valid mask, bytes by offset -/
  spad : List (Nat × Nat × List Byte)
  store : List (Nat × Nat × List Byte)
  /-- counter sets of the cores with start latches (R544) -/
  cnts : List (CoreId × List Nat × Nat × Nat)
  deriving DecidableEq, Repr

/-- A context: grant, images and permissions. -/
structure CtxSt where
  phase : CtxPhase
  gen : Nat
  models : Nat
  saveClusters : Nat
  saveArea : Nat
  /-- clusters held now: die × 12 + cluster -/
  holds : List Nat
  /-- clusters given to the grant that other work still holds (R356, R360) -/
  claims : List Nat
  /-- tick count at which the grant last ran (R356) -/
  lastRan : Nat
  /-- commands asked to preempt (R357) -/
  preempt : Bool
  /-- an image save or restore runs -/
  saving : Bool
  restoring : Bool
  images : List Image
  /-- CTX_DESTROY commands that wait for the teardown (R502) -/
  destroyer : List SysRef
  cause : Nat
  /-- classes that have raised SATURATION in this step (R128) -/
  satRaised : List Nat
  /-- cache instances with KV_PRESSURE raised (R235) -/
  pressured : List Nat
  /-- events dropped since the last record (R32) -/
  lost : Bool
  /-- deadline step of a reclaim (R361) -/
  reclaimAt : Option Nat
  deriving DecidableEq, Repr

/-- A running reclaim (R361): the command's queue, the drain region and the contexts named. -/
structure ReclaimSt where
  q : SysRef
  /-- tick of the post, and deadline step -/
  posted : Nat
  deadline : Nat
  /-- drain region: queue pair, rkey, base, slot bytes (R408) -/
  qp : Nat
  rkey : Nat
  base : Nat
  slotBytes : Nat
  ctxs : List Ctx
  deriving DecidableEq, Repr

/-- A joined serving request (R344–R346). -/
structure ReqSt where
  ctx : Ctx
  gen : Nat
  q : QIdx
  idx : W32
  model : Model
  fallbackOk : Bool
  bestEffort : Bool
  strict : Bool
  priority : Nat
  draft : Nat
  prompt : Nat
  maxNew : Nat
  firstTicks : Nat
  tokenTicks : Nat
  lists : Nat
  fbLists : Nat
  tokens : Nat
  /-- order of start -/
  order : Nat
  /-- it has joined its instance (R345) -/
  joined : Bool
  /-- prompt and generated tokens whose keys are cached -/
  done : Nat
  produced : Nat
  /-- step by which the next token is due, 0 for none -/
  due : Nat
  deferrals : Nat
  /-- deferred in the previous step -/
  deferredLast : Bool
  moved : Bool
  /-- it has moved, and its primary lists have been freed (R353) -/
  freed : Bool
  mixed : Bool
  held : Bool
  /-- its command has been removed (R335, R500) -/
  cancelled : Bool
  deriving DecidableEq, Repr

/-- A row of a batch (R349). -/
structure RowSt where
  order : Nat
  kind : Nat
  active : Bool
  moved : Bool
  shadow : Bool
  status : Nat
  position : Nat
  count : Nat
  kpos : Nat
  deriving DecidableEq, Repr

/-- A stage of a step plan (R342). -/
structure StagePlan where
  code : Nat
  args : Nat
  ranks : Nat
  baseNs : Nat
  rowNs : Nat
  tokenNs : Nat
  kposNs : Nat
  deriving DecidableEq, Repr

/-- A model instance (R341–R354): its plan, the step in flight and the joined requests. -/
structure ModelSt where
  plan : List StagePlan
  rows : List RowSt
  step : Nat
  stepOpen : Bool
  /-- next stage to start, and whether one runs -/
  nextStage : Nat
  stageRuns : Bool
  /-- uncorrected plan time of the step (R348) -/
  planTime : Nat
  /-- device time of the tick of the step -/
  startTime : Nat
  /-- the paces seen in the step, at its build and after each control interval: their sum and how many (R527) -/
  paceSum : Nat
  paces : Nat
  /-- rows that the running stage holds, and planned time of the completed stages (R352) -/
  runRows : List RowSt
  donePlan : Nat
  /-- the rate E that the plan was made with; it fixes the unit of the plan times (R379) -/
  rate : Nat
  /-- per stage: the least time that streaming gives it (R379), and the time of a layer copy (R382) -/
  floors : List Nat
  adds : List Nat
  declared : Bool
  /-- overrun event raised at a tick -/
  overrun : Bool
  /-- a declared step: the next tick builds no batch (R354) -/
  skipBuild : Bool
  /-- bytes that STEP taps of the instance have read since its last build (R548) -/
  tapped : Nat
  /-- bytes that evictions moved for the step (R348) -/
  evictedBytes : Nat
  /-- the step is mixed (R383) -/
  mixed : Bool
  deriving DecidableEq, Repr

/-- Scheduler-wide state. -/
structure SchedSt where
  reqs : List ReqSt
  order : Nat
  models : AMap Model ModelSt
  reclaims : List ReclaimSt
  deriving DecidableEq, Repr

/-! ### Weights (chapter 14) -/

/-- A source entry (R372). -/
structure WtSource where
  kind : Nat
  qp : Nat
  rkey : Nat
  base : Nat
  obj : Option HandleObj
  deriving DecidableEq, Repr

/-- A parsed manifest (R365, R366): version, set, layers (bytes, first, count), shards (layer, length,
offset, source, digest). -/
structure Package where
  version : Nat
  setId : Nat
  wrapped : List Byte
  /-- the content key, while the security block holds it (R369) -/
  key : Option Nat
  layers : List (Nat × Nat × Nat)
  shards : List (Nat × Nat × Nat × Nat × Nat)
  deriving DecidableEq, Repr

/-- A shard in flight: index, source in use, and, for a STREAMED instance, the step for which its layer is fetched
(R376, R378). -/
structure ShardSt where
  k : Nat
  source : Nat
  step : Nat
  /-- PEER source: the bytes that have arrived, by offset -/
  got : List (Nat × List Byte)
  deriving DecidableEq, Repr

/-- What a STREAMED replacement brings from the first step built after it (R386). -/
structure WtNext where
  pkg : Package
  sources : List WtSource
  map : Nat
  ring : Nat
  buffers : Nat
  distance : Nat
  rate : Nat
  deriving DecidableEq, Repr

/-- A layer of a STREAMED instance in its ring: the step it is fetched for, its shards verified, whether it is
complete (R378). -/
structure StreamEnt where
  step : Nat
  layer : Nat
  verified : List Nat
  complete : Bool
  deriving DecidableEq, Repr

/-- Weight state of a model instance (R377–R386). -/
structure WtSt where
  /-- the SYSTEM command that runs -/
  q : Option SysRef
  pkg : Option Package
  /-- a STREAMED replacement that has not taken effect (R386) -/
  next : Option WtNext
  sources : List WtSource
  map : Nat
  staging : Option HandleObj
  ring : Nat
  buffers : Nat
  distance : Nat
  /-- shards of the current layer verified, and in flight -/
  verified : List Nat
  flight : List ShardSt
  layer : Nat
  ready : Bool
  /-- the ready layer's copy belongs to a step that has been built (R381) -/
  copyDue : Bool
  copying : Bool
  /-- layers that carry the new package -/
  newLayers : List Nat
  reverting : Bool
  /-- STREAMED: layers in flight or complete and not yet consumed, oldest first; the last one begun -/
  stream : List StreamEnt
  lastFetch : Option (Nat × Nat)
  /-- STREAMED: step and layer consumed last (R378) -/
  consumed : Option (Nat × Nat)
  /-- STREAMED: the step before whose successor the next package does not apply (R386) -/
  swapAfter : Nat
  /-- STREAMED: bytes fetched in the step (R380) -/
  fetched : Nat
  deriving DecidableEq, Repr

/-! ### Collectives (chapter 15) -/

/-- A pending collective operation on a channel (R394, R397). -/
structure ClOp where
  core : CoreId
  /-- the pc of the posting instruction -/
  pc : W64
  q : QIdx
  idx : W32
  opNum : Nat
  /-- the 128-byte record, and 128 program bytes for PROGRAM -/
  bytes : List Byte
  prog : List Byte
  /-- the header of the operation has been received and matched -/
  headerOk : Bool
  headerSent : Bool
  /-- partial sums and values: elements received from the predecessor -/
  partialsIn : Nat
  valuesIn : Nat
  /-- ticks without a message (R403) -/
  silent : Nat
  /-- elements of the own shard whose optimizer step or sum is done (R401) -/
  ownDone : Nat
  deriving DecidableEq, Repr

/-- A job on this module (R388–R406). -/
structure JobSt where
  job : W32
  die : Die
  channels : Nat
  kind : Nat
  rank : Nat
  table : List (Nat × Nat)
  cistern : Nat
  cisternBytes : Nat
  /-- the JOB_CREATE that waits for joins, and ticks waited -/
  creator : Option SysRef
  destroyer : List SysRef
  waited : Nat
  filled : Bool
  joins : List Nat
  aborted : Bool
  /-- it is being destroyed: its cistern's last zero-fill runs (R392) -/
  dying : Bool
  ops : AMap Nat (List ClOp)
  nextOp : AMap Nat Nat
  /-- drain slot index and region of a reclaim (R409) -/
  drain : Option (Nat × Nat × Nat × Nat × Nat)
  noOpt : Bool
  deriving DecidableEq, Repr

/-! ### Fabric (chapter 16) -/

/-- A flit to send, or kept for retry (R422, R424): it has its sequence number once it has been sent. -/
structure SentFlit where
  seq : Option Nat
  vc : Fin 4
  type : Nat
  som : Bool
  eom : Bool
  payload : List Byte
  deriving DecidableEq, Repr

/-- An optical port and its link (R413–R424). -/
structure PortSt where
  /-- the physical lanes of logical lanes 0, 1, …; the spare; lanes that failed since the last training (R414, R415) -/
  lanes : List (Fin 9)
  spare : Option (Fin 9)
  failed : List (Fin 9)
  /-- lanes that failed with no spare and that the port still uses (R415) -/
  worn : List (Fin 9)
  /-- the lanes are trained (R418) -/
  trained : Bool
  /-- the nonces: this side's, and the peer's identity, port, width and nonce -/
  helloSent : Option (List Byte)
  helloPeer : Option (Nat × Nat × Nat × List Byte)
  /-- this side's ephemeral key, the peer's, and the digests of both reports (R418, R419) -/
  eseed : Option Nat
  peerKey : Option (List Byte)
  ownReport : Nat
  peerReport : Nat
  /-- the secret that this side encapsulated, with its ciphertext; the peer's ciphertext -/
  sealed : Option (Nat × List Byte)
  encapIn : Option (List Byte)
  /-- keys by generation, transmit and receive; the last generation agreed; this side has sent REKEY (R419–R421) -/
  keys : AMap Nat (Nat × Nat)
  keyGen : Nat
  rekeying : Bool
  txFrame : Nat
  rxFrame : Nat
  txSeq : Nat
  rxSeq : Nat
  retry : List SentFlit
  /-- flits that wait for credit, a place in the retry buffer or a key -/
  wait : List SentFlit
  nakked : Bool
  /-- credits held per virtual channel; the port has entered UP since its last training, and sends only with credit
  (R423) -/
  credits : List Nat
  entered : Bool
  /-- tag failures in the step (R424) -/
  tagFails : Nat
  /-- send time stamp of the DELAY_REQ under way; steps to the next measurement (R433) -/
  delayReq : Option Nat
  stepsToDelay : Nat
  /-- attestation failed less than 1 s ago (R418) -/
  retryAt : Bool
  /-- configuration checks: transition start tick, mismatch reason, CONFIG flag last sent; source, device and epoch of
  the last check (R515, R516) -/
  transition : Option Nat
  mismatch : Nat
  flagSent : Bool
  cfgRemote : Nat × Nat × Nat
  /-- Ethernet: paused priorities -/
  paused : List (Fin 8)
  deriving DecidableEq, Repr

/-- A request sent to a peer and not answered (R429). -/
structure SentMsg where
  id : Nat
  /-- 1 WRITE, 2 READ, 4 SIGNAL -/
  type : Nat
  hdr : MsgHdr
  resent : Bool
  /-- the DMA request that waits for it (engine, channel, number) and the stream offset; none for a signal -/
  eng : Option (DmaEng × Nat × Nat × Nat)
  body : List Byte
  /-- the shard that a READ is for: instance, shard, step, and the offset in it (R372) -/
  shard : Option (Model × Nat × Nat × Nat) := none
  deriving DecidableEq, Repr

/-- VC 1 messages of one source (R429): id, reply type, status and data of the last 4,096, newest first. -/
structure PeerIn where
  seen : List (Nat × Nat × Nat × List Byte)
  deriving DecidableEq, Repr

/-- A join that came before this module's JOB_CREATE (R391). -/
structure EarlyJoin where
  job : W32
  src : Nat
  members : Nat
  channels : Nat
  kind : Nat
  crc : Nat
  deriving DecidableEq, Repr

/-- A RoCEv2 frame of a queue pair (R436, R438): an RDMA READ or WRITE with remote key and remote address, the answer to a
SEND (0 acknowledged, 1 receiver not ready, 2 invalid request), or the operation under way once more. -/
inductive Roce where
  | read (rkey addr len : Nat)
  | write (rkey addr : Nat) (data : List Byte)
  | ack (code : Nat)
  | retry
  deriving DecidableEq, Repr

/-- The fabric. -/
structure FabSt where
  ports : AMap Port PortSt
  /-- RoCEv2 frames that wait for a paused priority of a port, oldest first, with their queue pair (R435) -/
  held : List (Port × Nat × Nat × Roce)
  /-- closed spillways -/
  closed : List (Fin 8)
  /-- spillway switches under way: pair, to closed -/
  moving : List (Fin 8 × Bool)
  /-- ports whose optical engine has calibrated on internal loopback (R416) -/
  calibrated : List Port
  nextId : W32
  sent : List SentMsg
  peers : AMap Nat PeerIn
  /-- queue pair send rates in 2^-64 of the port rate (R439) -/
  rates : AMap Nat Nat
  /-- the last valid receive head of a queue pair (R438) -/
  rheads : AMap Nat Nat
  /-- retries used per queue pair (R437) -/
  qpRetry : AMap Nat Nat
  joins : List EarlyJoin
  deriving DecidableEq, Repr

/-! ### Host attachment (chapter 17) -/

/-- What a request to host memory is for (R446, R448). -/
inductive HostUse where
  /-- a part of a DMA request's stream, at an offset -/
  | dmaRead (e : DmaEng) (ch order off : Nat)
  /-- the read of length zero after a DMA request's host writes (R446) -/
  | dmaWrite (e : DmaEng) (ch order : Nat)
  /-- the same, for the host writes of a command that ended before its requests were done (R284) -/
  | flush
  | load (n : CoreId)
  | store (n : CoreId)
  /-- operation, operands and width in bytes of an atomic (R94) -/
  | atomic (n : CoreId) (op : Nat) (rb rc : W64) (width : Nat)
  deriving DecidableEq, Repr

/-- A request to host memory that has no completion yet. -/
structure HostReq where
  id : Nat
  fn : Ctx
  addr : Nat
  len : Nat
  data : List Byte
  use : HostUse
  deriving DecidableEq, Repr

/-- A UIO signal write without completion (R455). -/
structure UioReq where
  tag : Nat
  deriving DecidableEq, Repr

/-- One MSI-X vector (R457). -/
structure VecSt where
  masked : Bool
  pending : Bool
  /-- the interval since its last message has not ended -/
  hot : Bool
  deriving DecidableEq, Repr

/-- The CXL attachment. -/
structure CxlSt where
  numVfs : Nat
  vecs : AMap (Ctx × Fin 2) VecSt
  reqs : List HostReq
  nextReq : Nat
  uio : List UioReq
  nextUio : Nat
  /-- window lines that the host may hold (R452) -/
  held : List Nat
  /-- coherence cache: host line address and function, dirty (R448) -/
  coh : AMap (Ctx × Nat) (Bool × List Byte)
  /-- functions with ATS entries -/
  ats : List (Ctx × Nat)
  /-- HDM decoder: base, size, committed -/
  hdm : Nat × Nat × Bool
  /-- bytes of the image held in FETCH (R534) -/
  fwHeld : List Byte
  deriving DecidableEq, Repr

/-! ### Security (chapter 18) -/

/-- An owner record of OTP (R464): 0 UNUSED, 1 ACTIVE, 2 REVOKED; the root digest and the chain. -/
structure OwnerRec where
  state : Nat
  digest : Nat
  chain : List Byte
  deriving DecidableEq, Repr

/-- A life-cycle transition whose OTP writes run (R483): the command, the target state, the owner record with its digest
and chain. -/
structure LcJob where
  q : SysRef
  target : Nat
  owner : Fin 4
  digest : Nat
  chain : List Byte
  deriving DecidableEq, Repr

/-- The security block. -/
structure SecSt where
  serial : Nat
  rootDigest : Nat
  /-- seeds, `none` when destroyed (R465) -/
  identitySeed : Option Nat
  transportSeed : Option Nat
  mfgChain : List Byte
  /-- factory calibration in OTP: Plynne's 28 bytes of settings by kind, a and b; an unlisted record's are zero (R539) -/
  factory : AMap (Nat × Nat × Nat) Nat
  owners : List OwnerRec
  /-- life-cycle state of the rows (R479) -/
  lcRows : Nat
  /-- registry entries: kind and digest (R467) -/
  registry : AMap (Fin 32) (Nat × Nat)
  /-- set slots: identifier and key (R473) -/
  sets : AMap (Fin 16) (Nat × Nat)
  lcJob : Option LcJob
  /-- SE_SET_JOIN commands that wait for entropy, with ticks waited (R462, R494) -/
  joinWait : List (SysRef × Nat)
  rekeyWait : List Nat
  deriving DecidableEq, Repr

/-! ### Faults and recovery (chapter 19) -/

/-- A generation in drain (R503): context, queue or none, value, and endpoints not yet acknowledged. -/
structure Drain where
  ctx : Ctx
  q : Option QIdx
  value : Nat
  endpoints : List Nat
  deriving DecidableEq, Repr

/-- A spare copy under way (R507, R509, R167). -/
inductive CopyJob where
  | bank (n : CoreId) (bank : Nat)
  | core (n : CoreId) (phys : Nat)
  | cluster (d : Die) (cl : Fin 12) (phys : Nat)
  deriving DecidableEq, Repr

/-- Repairs and what they rest on. -/
structure RepairSt where
  /-- repair map records, ascending (R512) -/
  map : List Nat
  drains : List Drain
  /-- generation values that wait for their drain to be reused: ticks (R61) -/
  marked : List CoreId
  markedClusters : List (Die × Fin 12)
  /-- wells that leave service at their next command boundary (R182, R510) -/
  markedWells : List WellId
  /-- engines retired for good: they take no more work (R493) -/
  retiredUnits : List HwUnit
  spareCoreUsed : List Nat
  physCore : AMap Nat Nat
  physCluster : AMap Nat Nat
  spareClustersUsed : AMap Nat Nat
  retiredClusters : List Nat
  hardFailed : List CoreId
  copies : List CopyJob
  /-- RP_RETIRE commands with the resource that each waits for: kind × 65,536 + number (R510) -/
  retireWait : List (SysRef × Nat)
  /-- units under self-test, and whether the test is required before more work (R163, R491, R493) -/
  testing : List (HwUnit × Bool)
  needTest : List HwUnit
  /-- faulty columns per core and well (R161, R182) -/
  coreCols : AMap CoreId (List (Fin 66))
  /-- columns that a test found and that the core's next command start bypasses (R164) -/
  pendCols : AMap CoreId (List (Fin 66))
  wellCols : AMap WellId (List (Fin 66))
  /-- what the built-in self-test of start-up found of physical cores, (die × 14 + cluster) × 9 + core: faulty columns, and
  cores that fail otherwise (R12, R162) -/
  arrays : AMap Nat (List (Fin 66))
  deadCores : List Nat
  /-- step of the last reset of a unit under R493 -/
  unitResets : AMap HwUnit Nat
  /-- writes of RP_CFG_OPk and RP_CFG_EPOCH that the next tick applies (R513) -/
  pendCfg : AMap Nat W64
  epochNow : W32
  opNow : AMap Nat W64
  /-- plinth cores reloading: role (R497) -/
  takeover : List Nat
  moduleFault : Bool
  bootFailed : Bool
  deriving DecidableEq, Repr

/-! ### Power and firmware (chapter 20) -/

/-- A running power transition (R522). -/
inductive PwTrans where
  | toQuiet | toActive | park (d : Die) | unpark (d : Die)
  deriving DecidableEq, Repr

/-- An update under way (R537): queue, role, step, image digest and version. -/
structure FwUpd where
  q : SysRef
  role : Nat
  /-- false: the standby starts the image; true: the former active core reloads -/
  reload : Bool
  digest : Nat
  version : Nat
  logVersion : Nat
  deriving DecidableEq, Repr

/-- Power, start-up and firmware. -/
structure PowerSt where
  trans : Option PwTrans
  /-- the other transitions of the same write, in order -/
  transRest : List PwTrans
  /-- a tick has passed since the transition was requested (R522, R524) -/
  transTick : Bool
  /-- the 1 s means of the sensors, in 1/16 of the unit (R528) -/
  sensors : List Int
  /-- the current second: intervals, sum and highest of the 1 ms means, and sums of the sensors; energy in mJ beyond the
  last kJ (R484, R542) -/
  intervals : Nat
  sumW : Nat
  peakW : Nat
  sumSensors : List Int
  energyMj : Nat
  /-- sensor that started the throttle in force -/
  throttleBy : Option Nat
  upd : Option FwUpd
  /-- field calibration by kind, a and b: the values in force where they are no longer the factory's (R539) -/
  fieldCal : AMap (Nat × Nat × Nat) Nat
  /-- digest and log version of the image each role runs -/
  roleFw : List (Nat × Nat)
  fwVersion : Nat
  /-- boot stage machine runs (not READY) -/
  booting : Bool
  /-- bytes of the image read from a peer in FETCH, while mask ROM tries one (R535) -/
  peerFetch : Option (List Byte)
  /-- input power state: 54 V present, and whether PERST# was asserted since it returned (R562) -/
  powered : Bool
  armed : Bool
  deriving DecidableEq, Repr

/-! ### Observability (chapter 21) -/

/-- Counter set of an engine: eight counters, start latch (time, step), end latch (R543, R544). -/
structure CntSet where
  cnt : List Nat
  startT : Nat
  startS : Nat
  endT : Nat
  endS : Nat
  /-- an end latch has been taken -/
  ended : Bool
  width : Nat
  deriving DecidableEq, Repr

/-- Counters, taps, traces. -/
structure ObsSt where
  cores : AMap CoreId CntSet
  chans : AMap (Die × Nat) CntSet
  /-- end-latched sets of a command's engines, by context, queue, entry and rank or record -/
  latched : AMap (Ctx × QIdx × W32 × Nat) (Nat × CntSet)
  /-- per tap: triggers seen and firings (R548, R550) -/
  taps : AMap Nat (Nat × Nat)
  /-- OB_TRMARK low half held (R555) -/
  markLow : W32
  deriving DecidableEq, Repr

/-! ### Pins and output -/

/-- The pins of the connector (R559, R565). -/
structure PinSt where
  perst : Bool
  alert : Bool
  thermtrip : Bool
  pwrGood : Bool
  tickOut : Nat
  mid : BitVec 12
  deriving DecidableEq, Repr

/-- What the device has sent out of itself, newest last. -/
inductive Out where
  | beacon (p : Port) (b : Beacon)
  | config (p : Port) (digest : BitVec 128) (epoch : W32) (mismatch : Bool)
  | link (p : Port) (subtype : Nat) (bytes : List Byte)
  /-- a flit, its header, and its payload and tag as sent; none: unencrypted, with an all-zero tag (R418, R420) -/
  | flit (p : Port) (f : SentFlit) (head : List Byte) (cipher : Option Nat)
  | nak (p : Port) (seq : Nat)
  /-- credit of a virtual channel returned to the peer -/
  | credit (p : Port) (vc : Nat) (n : Nat)
  | msg (type : Nat) (h : MsgHdr) (body : List Byte)
  | forward (egress : Port) (type : Byte) (h : MsgHdr)
  | msix (c : Ctx) (v : Fin 2)
  | hostReq (id : Nat) (addr : Nat) (len : Nat) (write : Bool)
  /-- a posted write or a write-back -/
  | hostWrite (fn : Ctx) (addr : Nat) (bytes : List Byte)
  | hostReply (data : List Byte) (poison : Bool)
  | snoop (line : Nat)
  | uio (tag : Nat) (addr : Nat) (bytes : List Byte)
  /-- the completion of a UIO write to the signal window -/
  | uioDone (rid : Nat)
  | doe (bytes : List Byte)
  | mctp (bytes : List Byte)
  | roce (qp : Nat) (f : Roce)
  | readData (v : W64)
  | unsupported
  deriving DecidableEq, Repr

/-- Faults of the model: the ways in which a run stops for a reason the model itself names. -/
inductive Fault where
  /-- Raised by no command of this block: no path of the spec stops the block without a state (a module
  fault, a thermal trip and a failed start-up are states, R518, R530, R532). Safe: it is never answered. -/
  | none
  deriving DecidableEq, Repr

/-- Refusals of the model. -/
inductive Refusal where
  /-- The row has no meaning yet; its arm in exec answers it. Safe: the run stops. -/
  | notModelled (mnemonic : String)
  deriving DecidableEq, Repr

/-- The state of the module. -/
structure State where
  /-- commands that wait, first in, first out (the model's own) -/
  pending : List Instr
  /-- every register of R574–R578 whose value differs from its reset value's default -/
  regs : AMap Reg W64
  time : TimeSt
  mem : MemSt
  sram : SramSt
  cores : AMap CoreId Core
  dma : AMap DmaEng DmaEngSt
  wells : WellSt
  queues : AMap (Ctx × QIdx) QueueSt
  ctxs : AMap Ctx CtxSt
  sched : SchedSt
  wts : AMap Model WtSt
  jobs : AMap Ctx JobSt
  fab : FabSt
  cxl : CxlSt
  sec : SecSt
  rep : RepairSt
  pow : PowerSt
  obs : ObsSt
  pins : PinSt
  /-- commands and messages the device has sent (the model's own record of its outputs) -/
  out : List Out
  /-- free values taken so far (the model's own; the argument of the opaque constants of Config) -/
  seed : Nat
  deriving DecidableEq, Repr

/-! ### The state right after reset -/

/-- A context that does not exist (R338). -/
def CtxSt.absent : CtxSt :=
  { phase := .absent, gen := 0, models := 0, saveClusters := 0, saveArea := 0, holds := [], claims := [], lastRan := 0,
    preempt := false, saving := false, restoring := false, images := [], destroyer := [], cause := 0,
    satRaised := [], pressured := [], lost := false, reclaimAt := none }

/-- A queue with no command. -/
def QueueSt.empty : QueueSt := { cmds := [], push := 0, ring := 0, cring := 0 }

/-- A DMA channel with no request (R294). -/
def DmaCh.empty : DmaCh :=
  { reqs := [], credit := 0, chain := none, prioCap := 3, shareCap := 256 }

/-- An idle DMA engine. -/
def DmaEngSt.idle : DmaEngSt :=
  { mode := 0, last := 0, next := 0, chans := [], turn := [], used := 0, passed := [], own := [] }

/-- A model instance with no plan read. -/
def ModelSt.idle : ModelSt :=
  { plan := [], rows := [], step := 0, stepOpen := false, nextStage := 0, stageRuns := false, planTime := 0, startTime := 0,
    paceSum := 0, paces := 0, runRows := [], donePlan := 0, rate := 0, floors := [], adds := [], declared := false, overrun := false, skipBuild := false, tapped := 0, evictedBytes := 0, mixed := false }

/-- A model instance with no weights. -/
def WtSt.none : WtSt :=
  { q := Option.none, pkg := Option.none, next := Option.none, sources := [], map := 0,
    staging := Option.none, ring := 0, buffers := 0, distance := 0, verified := [], flight := [], layer := 0,
    ready := false, copyDue := false, copying := false, newLayers := [], reverting := false, stream := [],
    lastFetch := Option.none, consumed := Option.none, swapAfter := 0, fetched := 0 }

/-- An optical port that is DOWN (R416). -/
def PortSt.down : PortSt :=
  { lanes := [], spare := none, failed := [], worn := [], trained := false, helloSent := none,
    helloPeer := none, eseed := none, peerKey := none, ownReport := 0, peerReport := 0, sealed := none,
    encapIn := none, keys := [], keyGen := 0, rekeying := false, txFrame := 0, rxFrame := 0, txSeq := 0, rxSeq := 0,
    retry := [], wait := [], nakked := false, credits := [0, 0, 0, 0], entered := false, tagFails := 0, delayReq := none, stepsToDelay := 1024,
    retryAt := false, transition := none, mismatch := 0, flagSent := false, cfgRemote := (0, 0, 0), paused := [] }

/-- An MSI-X vector as PCI Express leaves it at reset: masked (PRESUMED, log 2). -/
def VecSt.initial : VecSt := { masked := true, pending := false, hot := false }

/-- A counter set of zeros (R543). -/
def CntSet.zero : CntSet :=
  { cnt := List.replicate 8 0, startT := 0, startS := 0, endT := 0, endS := 0, ended := false, width := 0 }

/-- An unused owner record (R464). -/
def OwnerRec.unused : OwnerRec := { state := 0, digest := 0, chain := [] }

/-- The module when it first reports ready (R7, R48, R478). Every register is at its reset value: `regs`
lists none. The values that the spec does not give are those of log 1. -/
def State.reset : State where
  pending := []
  regs := []
  time :=
    { tickTime := 0, ticks := 0, latches := [], missed := 0, adopted := none, heard := none,
      conflictWith := none, masterPort := none, pendAdvance := 0, pendPeriod := none, ppsLocked := false, marks := 0 }
  mem :=
    { bytes := [], tags := [], keys := [], nextKey := 2048, dirty := [], lines := [], eccBad := [], tlb := [], inv := none,
      rekey := none, fills := [], zeroBase := 0, pendPart := none, partNow := (8, 4, 19), retrain := [],
      lanes := [], selfRefresh := [] }
  sram :=
    { spad := [], spadTags := [], spadPoison := [], store := [], storeTags := [], storePoison := [],
      bankErrs := [], poolErrs := [], bankRemap := [] }
  cores := []
  dma := []
  wells := { queue := [], run := [], order := 0 }
  queues := []
  ctxs := [(0, { CtxSt.absent with phase := .live })]
  sched := { reqs := [], order := 0, models := [], reclaims := [] }
  wts := []
  jobs := []
  fab :=
    { ports := [], held := [], closed := [], moving := [], calibrated := List.finRange 16, nextId := 0, sent := [], peers := [], rates := [],
      rheads := [], qpRetry := [], joins := [] }
  cxl :=
    { numVfs := 0, vecs := [], reqs := [], nextReq := 0, uio := [], nextUio := 0, held := [], coh := [],
      ats := [], hdm := (0, 0, false), fwHeld := [] }
  sec :=
    { serial := 0, rootDigest := 0, identitySeed := some 0, transportSeed := some 0, mfgChain := [], factory := [],
      owners := [{ state := 1, digest := 0, chain := [] }, .unused, .unused, .unused], lcRows := 2,
      registry := [], sets := [], lcJob := none, joinWait := [], rekeyWait := [] }
  rep :=
    { map := [], drains := [], marked := [], markedClusters := [], markedWells := [], retiredUnits := [], spareCoreUsed := [], physCore := [],
      physCluster := [], spareClustersUsed := [], retiredClusters := [], hardFailed := [], copies := [],
      retireWait := [], testing := [], needTest := [], coreCols := [], pendCols := [], wellCols := [], arrays := [], deadCores := [], unitResets := [],
      pendCfg := [], epochNow := 0, opNow := [], takeover := [], moduleFault := false, bootFailed := false }
  pow :=
    { trans := none, transRest := [], transTick := false, sensors := List.replicate 56 0, intervals := 0, sumW := 0, peakW := 0,
      sumSensors := List.replicate 56 0, energyMj := 0, throttleBy := none, upd := none, fieldCal := [],
      roleFw := List.replicate 4 (0, 0), fwVersion := 0, booting := false, peerFetch := none,
      powered := true, armed := true }
  obs := { cores := [], chans := [], latched := [], taps := [], markLow := 0 }
  pins := { perst := false, alert := false, thermtrip := false, pwrGood := true, tickOut := 0, mid := 0 }
  out := []
  seed := 0

end Sys2Proof.Machine
end

