-- ==== Sys2Proof/Machine/Regs.lean ====
section
/-! DEFINITION. The register file: reset values, offsets, fields with their access codes, named fields,
and the only operations that read and write a register (R5–R8, R574–R578). -/

namespace Sys2Proof.Machine

/-! ### Reset values (R7, R574–R578) -/

/-- The configuration digest at ready: that of the record of reset values (R513). -/
def readyDigest : Nat :=
  Config.shake256 ((leBytes 4 1 ++ leBytes 4 20000 ++ leBytes 16 0 ++ leBytes 2 8 ++ leBytes 102 0).map (·.toNat))

/-- Whole-register reset value. For a register that the index gives "At ready" the value is the model's
(DESIGN CHOICE, log 1). -/
def Reg.reset : Reg → Nat
  | .idPart => 0x5A161D7A
  | .idShape => 0x4040010104
  | .idClock => 0x01F406A4
  | .idMem => 0x001001F0
  | .tkCtrl => 0x8C00
  | .tkPeriod => 0x4E20
  | .tkCycle d => d.val
  | .tkMarks => 0x3E8000002710
  | .feCtrl => 0x01000040
  | .ssCtrl => 0xEA6001F40002
  | .ssWctrl => 0x00102710
  | .ssCluster _ => 0xFFF
  | .ssModelCfg _ => 0x00E0020008000000
  | .ssModelPolicy _ => 0x3F
  | .ssModelStat _ => 0x01000000
  | .msPart => 0x130408
  | .msSweep => 0x10
  | .msRetrain => 0x00400064
  | .trCtrl => 0x401
  | .seLc => 0x1412
  | .jlCtrl => 0x100003E80000
  | .jlPortCfg p => 0x27100001 + 0x10 * (p.val % 4)
  | .cxCtrl => 4
  | .cxLink => 0x608
  | .pwStatus => 0x2000
  | .pwCap => 0xA0BB8
  | .pwPace => 0x404040
  | .pwTherm => 0x697800055F69
  | .pwSensorData => 0x10000
  | .pwRoles => 0x16745230
  | .pwBoot => 8
  | .rpCtrl => 0x640C640040
  | .rpPlinth => 0x4444
  | .rpCfgCtrl => 0x40
  | .rpCfgDigest k => bitsOf readyDigest (64 * k.val) 64
  | .obTrcfg => 0xA00
  | .clCtrl => 0x01000008
  | .mxShape _ => 0x4040
  | .mxTestCtrl _ => 0x01000001
  | .wlStatus x => (x.val % 4) * 64
  | .wlCtrl _ => 1
  | .kvInst _ => 0x2008031000
  | .dmCore _ => 0x10006
  | .dmCh _ _ => 0x10003
  | .feQcfg _ _ => 0x600
  | .feEvcfg _ => 0x600
  | .vxSatCfg _ _ => 0x100000400
  | .kvPressure _ _ => 0x40
  | _ => 0

/-- The context in whose page a register lies (R578). -/
def Reg.page : Reg → Option Ctx
  | .feQcfg c _ | .feQring c _ | .feQcring c _ | .feQdb c _ | .feQptr c _ | .feQcptr c _
  | .feQstat c _ | .feEvbase c | .feEvcfg c | .feEvptr c | .feHtbase c | .feHtcount c
  | .feFval c _ | .feFcfg c _ | .vxSatCfg c _ | .vxSatStep c _ | .vxSatLast c _ | .vxSatTotal c _
  | .kvReserve c _ | .kvPressure c _ | .ssJobs c | .ssRequests c | .ssSlice c | .clJob c | .clDrain c
  | .obCtxSel c | .obCtxCnt c _ | .clDigScrc c _ | .clDigSbytes c _ | .clDigRcrc c _
  | .clDigRbytes c _ => some c
  | _ => none

/-! ### Offsets (R575–R578) -/

/-- A number as an index below n. -/
def finOf (n k : Nat) : Option (Fin n) := if h : k < n then some ⟨k, h⟩ else none

/-- The index of the register of a run of `n` registers, one each `stride` bytes from `base`. -/
def runIdx (base stride n off : Nat) : Option (Fin n) :=
  if off < base then none
  else if (off - base) % stride = 0 then finOf n ((off - base) / stride) else none

/-- The run of rows of `stride` bytes: row number and the offset within the row. -/
def rowIdx (base stride n off : Nat) : Option (Fin n × Nat) :=
  if off < base then none
  else (finOf n ((off - base) / stride)).map (fun k => (k, (off - base) % stride))

/-- The registers of a queue's 64 bytes (R336). -/
def Reg.ofQueue (c : Ctx) (q : QIdx) : Nat → Option Reg
  | 0x00 => some (.feQcfg c q) | 0x08 => some (.feQring c q) | 0x10 => some (.feQcring c q)
  | 0x18 => some (.feQdb c q) | 0x20 => some (.feQptr c q) | 0x28 => some (.feQcptr c q)
  | 0x30 => some (.feQstat c q) | _ => none

/-- A register of a context page, by its 8-byte offset (R578). -/
def Reg.ofPage (c : Ctx) (off : Nat) : Option Reg :=
  if off < 0x1000 then (rowIdx 0 0x40 64 off).bind (fun p => Reg.ofQueue c p.1 p.2)
  else if off < 0x2000 then
    (match off with
     | 0x1000 => some (.feEvbase c) | 0x1008 => some (.feEvcfg c) | 0x1010 => some (.feEvptr c)
     | 0x1020 => some (.feHtbase c) | 0x1028 => some (.feHtcount c) | _ => none)
  else if off < 0x3000 then
    (rowIdx 0x2000 0x10 256 off).bind (fun p =>
      if p.2 = 0 then some (.feFval c p.1) else if p.2 = 8 then some (.feFcfg c p.1) else none)
  else if off < 0x3200 then
    (rowIdx 0x3000 0x20 16 off).bind (fun p =>
      match p.2 with
      | 0 => some (.vxSatCfg c p.1) | 8 => some (.vxSatStep c p.1) | 0x10 => some (.vxSatLast c p.1)
      | 0x18 => some (.vxSatTotal c p.1) | _ => none)
  else if off < 0x3300 then
    (rowIdx 0x3200 0x10 8 off).bind (fun p =>
      if p.2 = 0 then some (.kvReserve c p.1) else if p.2 = 8 then some (.kvPressure c p.1) else none)
  else if off < 0x3500 then
    (match off with
     | 0x3300 => some (.ssJobs c) | 0x3308 => some (.ssRequests c) | 0x3310 => some (.ssSlice c)
     | 0x3400 => some (.clJob c) | 0x3408 => some (.clDrain c) | _ => none)
  else if off = 0x3500 then some (.obCtxSel c)
  else if off < 0x3800 then (runIdx 0x3508 8 8 off).map (Reg.obCtxCnt c)
  else if off < 0x4000 then
    (rowIdx 0x3800 0x20 64 off).bind (fun p =>
      match p.2 with
      | 0 => some (.clDigScrc c p.1) | 8 => some (.clDigSbytes c p.1) | 0x10 => some (.clDigRcrc c p.1)
      | 0x18 => some (.clDigRbytes c p.1) | _ => none)
  else none

/-- A register of the ID_ and TK_ blocks (R62, R576). -/
def Reg.ofTk : Nat → Option Reg
  | 0x000 => some .tkCtrl | 0x008 => some .tkStatus | 0x010 => some .tkPeriod
  | 0x018 => some .tkPeriodNext | 0x020 => some .tkPeriodStep | 0x028 => some .tkStep
  | 0x030 => some .tkTickTime | 0x038 => some .tkTime | 0x040 => some .tkMaster
  | 0x048 => some .tkOffset | 0x050 => some .tkAdvance | 0x058 => some .tkPpsSeconds
  | 0x060 => some .tkMarks | off => (runIdx 0x80 8 4 off).map Reg.tkCycle

/-- A register of the SS_ block. -/
def Reg.ofSs (off : Nat) : Option Reg :=
  if off = 0 then some .ssCtrl
  else if off = 8 then some .ssWctrl
  else if off < 0x100 then (runIdx 0x40 8 4 off).map Reg.ssCluster
  else if off < 0x500 then
    (rowIdx 0x100 0x40 16 off).bind (fun p =>
      match p.2 with
      | 0x00 => some (.ssModelCfg p.1) | 0x08 => some (.ssModelPlan p.1)
      | 0x10 => some (.ssModelBatch p.1) | 0x18 => some (.ssModelPolicy p.1)
      | 0x20 => some (.ssModelStat p.1) | 0x28 => some (.ssModelMiss p.1)
      | 0x30 => some (.ssModelWver p.1) | 0x38 => some (.ssModelWstat p.1) | _ => none)
  else if off = 0x1000 then none
  else (runIdx 0x1000 8 1025 off).map Reg.ssPart

/-- A register of the MS_ block (R268). -/
def Reg.ofMs : Nat → Option Reg
  | 0x000 => some .msPart | 0x008 => some .msSweep | 0x010 => some .msZero
  | 0x018 => some .msZeroStat | 0x020 => some .msRetrain
  | off => if off < 0x200 then (runIdx 0x100 8 16 off).map Reg.msChan
           else (runIdx 0x200 8 16 off).map Reg.msErr

/-- A register of the TR_ block (R269). -/
def Reg.ofTr : Nat → Option Reg
  | 0x000 => some .trCtrl | 0x008 => some .trInvAddr | 0x010 => some .trInvCmd
  | 0x018 => some .trInvStat | 0x020 => some .trRekey | 0x028 => some .trRekeyStat
  | off => (runIdx 0x1000 8 1025 off).map Reg.trRoot

/-- A register of the SE_ block. -/
def Reg.ofSe : Nat → Option Reg
  | 0x000 => some .seLc | 0x008 => some .seSerial | 0x010 => some .seRegistry
  | 0x018 => some .seSets | 0x020 => some .seStat
  | off => (rowIdx 0x100 0x10 16 off).bind (fun p =>
      if p.2 = 0 then some (.seSetId0 p.1) else if p.2 = 8 then some (.seSetId1 p.1) else none)

/-- A register of the JL_ block. -/
def Reg.ofJl : Nat → Option Reg
  | 0x000 => some .jlCtrl | 0x008 => some .jlRtbase | 0x010 => some .jlWtbase
  | 0x018 => some .jlWtcount | 0x020 => some .jlQpbase | 0x028 => some .jlStat
  | off => (rowIdx 0x100 0x40 16 off).bind (fun p =>
      match p.2 with
      | 0x00 => some (.jlPortCfg p.1) | 0x08 => some (.jlPortStat p.1) | 0x10 => some (.jlPortPeer p.1)
      | 0x18 => some (.jlPortDelay p.1) | 0x20 => some (.jlPortFec p.1) | 0x28 => some (.jlPortLink p.1)
      | 0x30 => some (.jlPortTx p.1) | 0x38 => some (.jlPortMac p.1) | _ => none)

/-- A register of the CX_ block. -/
def Reg.ofCx : Nat → Option Reg
  | 0x000 => some .cxCtrl | 0x008 => some .cxLink | 0x010 => some .cxHdm | 0x018 => some .cxHdmBase
  | 0x020 => some .cxPeerbase | 0x028 => some .cxPeercount | 0x030 => some .cxStat
  | off => (runIdx 0x200 8 256 off).map Reg.cxSeg

/-- A register of the PW_ block. -/
def Reg.ofPw : Nat → Option Reg
  | 0x000 => some .pwReq | 0x008 => some .pwStatus | 0x010 => some .pwCap | 0x018 => some .pwPace
  | 0x020 => some .pwPower | 0x028 => some .pwTherm | 0x030 => some .pwSensorIndex
  | 0x038 => some .pwSensorData | 0x040 => some .pwRoles | 0x048 => some .pwFw
  | 0x050 => some .pwFwUpd | 0x058 => some .pwBoot | _ => none

/-- A register of the RP_ block. -/
def Reg.ofRp : Nat → Option Reg
  | 0x000 => some .rpCtrl | 0x008 => some .rpStat | 0x010 => some .rpPlinth
  | 0x018 => some .rpMapCount | 0x020 => some .rpMapIndex | 0x028 => some .rpMapData
  | 0x030 => some .rpCfgEpoch | 0x038 => some .rpCfgCtrl | 0x080 => some (.rpCfgDigest 0)
  | 0x088 => some (.rpCfgDigest 1) | 0x090 => some .rpCfgStat | 0x098 => some .rpDrain
  | 0x0A0 => some .rpResets | off => (runIdx 0x40 8 8 off).map Reg.rpCfgOp

/-- A register of the OB_ block. -/
def Reg.ofOb : Nat → Option Reg
  | 0x000 => some .obCoreSel | 0x100 => some .obTapbase | 0x108 => some .obTapcount
  | 0x110 => some .obTapstat | 0x200 => some .obTrbase | 0x208 => some .obTrcfg
  | 0x210 => some .obTrptr | 0x218 => some .obTrmarkDst | 0x220 => some .obTrmark
  | 0x228 => some .obTrstat | off => (runIdx 0x40 8 8 off).map Reg.obCoreCnt

/-- Local core n of die d, globally numbered (R25). -/
def globalCore (d : Die) (n : Fin 96) : CoreId := ⟨d.val * 96 + n.val, by omega⟩
/-- Local well m of die d, globally numbered (R25). -/
def globalWell (d : Die) (m : Fin 16) : WellId := ⟨d.val * 16 + m.val, by omega⟩
/-- Local stack j of die d, globally numbered (R25). -/
def globalStack (d : Die) (j : Fin 4) : Stack := ⟨d.val * 4 + j.val, by omega⟩

/-- A register of a per-die block (R577). -/
def Reg.ofDie (d : Die) (off : Nat) : Option Reg :=
  if off < 0x400 then (runIdx 0 8 96 off).map (fun n => Reg.mxShape (globalCore d n))
  else if off = 0x400 then some (.mxTestCtrl d)
  else if off = 0x408 then some (.mxTestStatus d)
  else if off < 0x20100 then (runIdx 0x20000 8 16 off).map (fun m => Reg.wlStatus (globalWell d m))
  else if off < 0x20180 then (runIdx 0x20100 8 4 off).map (fun j => Reg.wlBytes (globalStack d j))
  else if off = 0x20180 then some (.wlCtrl d)
  else if off < 0x30400 then
    (rowIdx 0x30000 0x20 32 off).bind (fun p =>
      match finOf 4 (p.1.val / 8), finOf 8 (p.1.val % 8) with
      | some j, some i =>
        (match p.2 with
         | 0x00 => some (.kvPoolBase (globalStack d j) i) | 0x08 => some (.kvPoolSize (globalStack d j) i)
         | 0x10 => some (.kvPoolStat (globalStack d j) i) | 0x18 => some (.kvPoolRec (globalStack d j) i)
         | _ => none)
      | _, _ => none)
  else if off < 0x40000 then (if d = 0 then (runIdx 0x30400 8 8 off).map Reg.kvInst else none)
  else if off < 0x40400 then (runIdx 0x40000 8 96 off).map (fun n => Reg.dmCore (globalCore d n))
  else if off = 0x40400 then some (.dmDie d)
  else if off < 0x40600 then (runIdx 0x40500 8 32 off).map (Reg.dmCh d)
  else (match off with
    | 0x40600 => some (.dmBytes d) | 0x40608 => some (.dmCoreBytes d) | 0x40610 => some (.dmFaults d)
    | _ => none)

/-- A register of PF0 BAR0, by its 8-byte offset (R575). -/
def Reg.ofPf0 (off : Nat) : Option Reg :=
  if off < 0x10000 then
    (match off with
     | 0x00 => some .idPart | 0x08 => some .idShape | 0x10 => some .idClock | 0x18 => some .idMem
     | _ => none)
  else if off < 0x20000 then Reg.ofTk (off - 0x10000)
  else if off < 0x40000 then
    (match off - 0x20000 with
     | 0 => some .feCtrl | 8 => some .feStat | 0x10 => some .feDeadlocks | _ => none)
  else if off < 0x60000 then Reg.ofSs (off - 0x40000)
  else if off < 0x80000 then Reg.ofMs (off - 0x60000)
  else if off < 0xA0000 then Reg.ofTr (off - 0x80000)
  else if off < 0xC0000 then Reg.ofSe (off - 0xA0000)
  else if off < 0xE0000 then Reg.ofJl (off - 0xC0000)
  else if off < 0xF0000 then Reg.ofCx (off - 0xE0000)
  else if off < 0x100000 then none
  else if off < 0x120000 then Reg.ofPw (off - 0x100000)
  else if off < 0x140000 then Reg.ofRp (off - 0x120000)
  else if off < 0x150000 then Reg.ofOb (off - 0x140000)
  else if off < 0x160000 then
    (match off - 0x150000 with
     | 0 => some .clCtrl | 0x80 => some .clAborts | o => (runIdx 0x40 8 4 o).map Reg.clEng)
  else if off < 0x1000000 then none
  else if off < 0x2000000 then
    (finOf 4 ((off - 0x1000000) / 0x400000)).bind (fun d => Reg.ofDie d ((off - 0x1000000) % 0x400000))
  else (finOf 1025 ((off - 0x2000000) / 0x4000)).bind (fun c => Reg.ofPage c ((off - 0x2000000) % 0x4000))

/-! ### Fields and access codes (R5) -/

/-- What a write does to a field. -/
inductive Access where
  | rw
  | w1c
  /-- RO, RL and WO: a plain write does not change what the register holds -/
  | none
  deriving DecidableEq, Repr

/-- The writable fields of a register: low bit, width, access. Bits that no entry names are RO, WO, RL or
reserved: a plain write leaves them. -/
def Reg.fields : Reg → List (Nat × Nat × Access)
  | .tkCtrl => [(0, 8, .rw), (8, 2, .rw), (10, 1, .rw), (11, 1, .rw), (12, 4, .rw)]
  | .tkStatus => [(3, 1, .w1c), (4, 1, .w1c), (5, 1, .w1c), (6, 1, .w1c), (7, 1, .w1c)]
  | .tkPeriodNext => [(0, 18, .rw)]
  | .tkPeriodStep => [(0, 48, .rw)]
  | .tkPpsSeconds => [(0, 64, .rw)]
  | .feCtrl => [(0, 16, .rw), (16, 16, .rw)]
  | .ssCtrl => [(0, 4, .rw), (16, 16, .rw), (32, 32, .rw)]
  | .ssWctrl => [(0, 16, .rw), (16, 8, .rw)]
  | .ssModelCfg _ => [(0, 1, .rw), (1, 3, .rw), (4, 4, .rw), (8, 1, .rw), (16, 16, .rw), (32, 11, .rw), (48, 8, .rw)]
  | .ssModelPlan _ => [(0, 57, .rw)]
  | .ssModelBatch _ => [(0, 57, .rw)]
  | .ssModelPolicy _ => [(0, 6, .rw)]
  | .msPart => [(0, 5, .rw), (8, 5, .rw), (16, 5, .rw)]
  | .msSweep => [(0, 8, .rw)]
  | .msZeroStat => [(1, 1, .w1c)]
  | .msRetrain => [(0, 16, .rw), (16, 16, .rw)]
  | .trCtrl => [(0, 11, .rw)]
  | .trInvAddr => [(16, 41, .rw)]
  | .trInvStat => [(1, 1, .w1c)]
  | .trRekeyStat => [(1, 1, .w1c)]
  | .trRoot _ => [(0, 1, .rw), (12, 27, .rw)]
  | .jlCtrl => [(0, 16, .rw), (16, 16, .rw), (32, 16, .rw)]
  | .jlRtbase => [(0, 1, .rw), (12, 45, .rw)]
  | .jlWtbase => [(12, 45, .rw)]
  | .jlWtcount => [(0, 17, .rw)]
  | .jlQpbase => [(0, 1, .rw), (12, 45, .rw)]
  | .jlPortCfg _ => [(0, 1, .rw), (1, 2, .rw), (3, 1, .rw), (4, 4, .rw), (16, 16, .rw)]
  | .jlPortStat _ => [(13, 1, .w1c)]
  | .jlPortMac _ => [(0, 48, .rw)]
  | .cxCtrl => [(0, 16, .rw)]
  | .cxHdm => [(0, 1, .rw), (8, 9, .rw)]
  | .cxHdmBase => [(28, 11, .rw)]
  | .cxPeerbase => [(0, 1, .rw), (12, 45, .rw)]
  | .cxPeercount => [(0, 13, .rw)]
  | .cxSeg _ => [(0, 11, .rw), (16, 1, .rw)]
  | .pwReq => [(0, 2, .rw), (4, 4, .rw)]
  | .pwStatus => [(9, 1, .w1c)]
  | .pwCap => [(0, 12, .rw), (16, 10, .rw)]
  | .pwTherm => [(0, 8, .rw), (8, 8, .rw), (16, 8, .rw)]
  | .pwSensorIndex => [(0, 6, .rw)]
  | .rpCtrl => [(0, 16, .rw), (16, 10, .rw), (26, 4, .rw), (32, 16, .rw)]
  | .rpMapIndex => [(0, 13, .rw)]
  | .rpCfgEpoch => [(0, 32, .rw)]
  | .rpCfgCtrl => [(0, 16, .rw)]
  | .rpCfgOp _ => [(0, 64, .rw)]
  | .obCoreSel => [(0, 9, .rw)]
  | .obTapbase => [(0, 1, .rw), (12, 45, .rw)]
  | .obTapcount => [(0, 9, .rw)]
  | .obTrbase => [(12, 45, .rw)]
  | .obTrcfg => [(0, 1, .rw), (8, 4, .rw), (16, 5, .rw), (32, 16, .rw), (48, 5, .rw)]
  | .obTrptr => [(0, 32, .rw)]
  | .obTrmarkDst => [(0, 16, .rw), (16, 1, .rw)]
  | .clCtrl => [(0, 16, .rw), (16, 16, .rw)]
  | .mxTestCtrl _ => [(0, 1, .rw), (8, 24, .rw)]
  | .wlCtrl _ => [(0, 1, .rw)]
  | .kvPoolBase _ _ => [(0, 57, .rw)]
  | .kvPoolSize _ _ => [(0, 28, .rw)]
  | .kvPoolRec _ _ => [(0, 57, .rw)]
  | .kvInst _ => [(0, 1, .rw), (4, 4, .rw), (8, 3, .rw), (12, 2, .rw), (16, 4, .rw), (24, 8, .rw), (32, 8, .rw)]
  | .dmCore _ => [(0, 1, .rw), (1, 2, .rw), (8, 9, .rw)]
  | .dmDie _ => [(0, 1, .rw)]
  | .dmCh _ ch => if ch.val < 24 then [(0, 2, .rw), (8, 9, .rw)] else []
  | .feQcfg _ _ => [(0, 1, .rw), (1, 1, .rw), (2, 2, .rw), (8, 4, .rw)]
  | .feQring _ _ => [(12, 45, .rw)]
  | .feQcring _ _ => [(12, 45, .rw)]
  | .feQcptr _ _ => [(0, 32, .rw)]
  | .feQstat _ _ => [(16, 1, .w1c), (17, 1, .w1c), (18, 1, .w1c)]
  | .feEvbase _ => [(12, 45, .rw)]
  | .feEvcfg _ => [(0, 1, .rw), (1, 1, .w1c), (8, 4, .rw)]
  | .feEvptr _ => [(0, 32, .rw)]
  | .feHtbase _ => [(12, 45, .rw)]
  | .feHtcount _ => [(0, 21, .rw)]
  | .feFval _ _ => [(0, 64, .rw)]
  | .feFcfg _ _ => [(0, 6, .rw), (6, 1, .rw), (7, 1, .rw), (8, 1, .w1c), (16, 16, .rw), (32, 11, .rw)]
  | .vxSatCfg _ _ => [(0, 32, .rw), (32, 1, .rw)]
  | .kvReserve _ _ => [(0, 28, .rw)]
  | .kvPressure _ _ => [(0, 28, .rw)]
  | .obCtxSel _ => [(0, 6, .rw), (16, 9, .rw)]
  | _ => []

/-! ### Reading and writing registers -/

/-- What register `r` holds. -/
def State.reg (s : State) (r : Reg) : Nat := (s.regs.getD r (BitVec.ofNat 64 r.reset)).toNat

/-- Set a whole register. -/
def State.setReg (s : State) (r : Reg) (v : Nat) : State :=
  { s with regs := s.regs.insert r (BitVec.ofNat 64 v) }

/-- `x` with bits [lo + n - 1 : lo] replaced by `v`. -/
def putBits (x lo n v : Nat) : Nat :=
  x / 2 ^ (lo + n) * 2 ^ (lo + n) + v % 2 ^ n * 2 ^ lo + x % 2 ^ lo

/-- The value of a field. -/
def State.fld (s : State) (f : Fld) : Nat := bitsOf (s.reg f.reg) f.lo f.width

/-- Set a field. -/
def State.setFld (s : State) (f : Fld) (v : Nat) : State :=
  s.setReg f.reg (putBits (s.reg f.reg) f.lo f.width v)

/-- A one-bit field is set. -/
def State.flag (s : State) (f : Fld) : Bool := s.fld f == 1

/-- Set or clear a one-bit field. -/
def State.setFlag (s : State) (f : Fld) (b : Bool) : State := s.setFld f (b2n b)

/-- Add to a counter field that stops at `2^width - 2`. -/
def State.bumpBy (s : State) (f : Fld) (n : Nat) : State :=
  s.setFld f (satAdd (2 ^ f.width - 2) (s.fld f) n)

/-- Add one to a counter field that stops at `2^width - 2`. -/
def State.bump (s : State) (f : Fld) : State := s.bumpBy f 1

/-- Add one to a counter field that stays at all ones once reached. -/
def State.bumpFull (s : State) (f : Fld) : State :=
  s.setFld f (satAdd (2 ^ f.width - 1) (s.fld f) 1)

/-- The 64-bit value that an access presents: the data of a high-half access lie in bits [63:32] (R8). -/
def halfPlace (h : Half) (v : W64) : Nat :=
  match h with
  | .full => v.toNat
  | .lo => v.toNat % 2 ^ 32
  | .hi => v.toNat % 2 ^ 32 * 2 ^ 32

/-- The part of field [lo + n - 1 : lo] that the access reaches, as low bit and width. -/
def halfClip (h : Half) (lo n : Nat) : Nat × Nat :=
  match h with
  | .full => (lo, n)
  | .lo => (lo, min (lo + n) 32 - lo)
  | .hi => (max lo 32, (lo + n) - max lo 32)

/-- The effect of a plain write on one field (R5). -/
def writeField (x : Nat) (h : Half) (v : Nat) (f : Nat × Nat × Access) : Nat :=
  let c := halfClip h f.1 f.2.1
  match f.2.2 with
  | .rw => putBits x c.1 c.2 (bitsOf v c.1 c.2)
  | .w1c => putBits x c.1 c.2 (bitsOf x c.1 c.2 &&& (2 ^ c.2 - 1 - bitsOf v c.1 c.2))
  | .none => x

/-- What a register holds after a plain write (R5, R8). -/
def Reg.written (r : Reg) (x : Nat) (h : Half) (v : Nat) : Nat :=
  r.fields.foldl (fun y f => writeField y h v f) x

/-- A plain write by the access codes of R5. -/
def State.plainWrite (s : State) (r : Reg) (h : Half) (v : W64) : State :=
  s.setReg r (r.written (s.reg r) h (halfPlace h v))

/-- A plain write in which `ok` tells, from the whole register as it would stand, whether the field at a
low bit keeps its new value; a field it refuses keeps the old one. -/
def State.checkedWrite (s : State) (r : Reg) (h : Half) (v : W64) (ok : Nat → Nat → Bool) : State :=
  let x := s.reg r
  let y := r.written x h (halfPlace h v)
  s.setReg r (r.fields.foldl
    (fun z f => if ok f.1 y then z else putBits z f.1 f.2.1 (bitsOf x f.1 f.2.1)) y)

/-! ### Named fields -/

namespace F
def tkState : Fld := ⟨.tkStatus, 0, 3⟩
def tkPeriodReject : Fld := ⟨.tkStatus, 3, 1⟩
def tkTickInMiss : Fld := ⟨.tkStatus, 4, 1⟩
def tkPpsFault : Fld := ⟨.tkStatus, 5, 1⟩
def tkJumped : Fld := ⟨.tkStatus, 6, 1⟩
def tkAdvanceReject : Fld := ⟨.tkStatus, 7, 1⟩
def tkPending : Fld := ⟨.tkStatus, 8, 1⟩
def tkJumpCount : Fld := ⟨.tkStatus, 16, 16⟩
def tkPriority : Fld := ⟨.tkCtrl, 0, 8⟩
def tkPhaseSrc : Fld := ⟨.tkCtrl, 8, 2⟩
def tkTickOutEn : Fld := ⟨.tkCtrl, 10, 1⟩
def tkAlertConflict : Fld := ⟨.tkCtrl, 11, 1⟩
def tkHoldoverTicks : Fld := ⟨.tkCtrl, 12, 4⟩
def tkPeriod : Fld := ⟨.tkPeriod, 0, 18⟩
def tkPeriodNext : Fld := ⟨.tkPeriodNext, 0, 18⟩
def tkPeriodStep : Fld := ⟨.tkPeriodStep, 0, 48⟩
def tkStep : Fld := ⟨.tkStep, 0, 48⟩
def tkTickTime : Fld := ⟨.tkTickTime, 0, 64⟩
def tkTime : Fld := ⟨.tkTime, 0, 64⟩
def tkMasterId : Fld := ⟨.tkMaster, 0, 16⟩
def tkMasterPrio : Fld := ⟨.tkMaster, 16, 8⟩
def tkHops : Fld := ⟨.tkMaster, 24, 8⟩
def tkOffset : Fld := ⟨.tkOffset, 0, 32⟩
def tkPpsSeconds : Fld := ⟨.tkPpsSeconds, 0, 64⟩
def tkMark50 : Fld := ⟨.tkMarks, 0, 18⟩
def tkMark80 : Fld := ⟨.tkMarks, 32, 18⟩
def tkCycle (d : Die) : Fld := ⟨.tkCycle d, 0, 64⟩
def feWaitTicks : Fld := ⟨.feCtrl, 0, 16⟩
def feBudgetTicks : Fld := ⟨.feCtrl, 16, 16⟩
def fePrefetchFaults : Fld := ⟨.feStat, 0, 32⟩
def feRemoteReject : Fld := ⟨.feStat, 32, 16⟩
def feSignalLost : Fld := ⟨.feStat, 48, 16⟩
def feDeadlocks : Fld := ⟨.feDeadlocks, 0, 32⟩
def qEnable (c : Ctx) (q : QIdx) : Fld := ⟨.feQcfg c q, 0, 1⟩
def qWriter (c : Ctx) (q : QIdx) : Fld := ⟨.feQcfg c q, 1, 1⟩
def qPriority (c : Ctx) (q : QIdx) : Fld := ⟨.feQcfg c q, 2, 2⟩
def qSizeLog2 (c : Ctx) (q : QIdx) : Fld := ⟨.feQcfg c q, 8, 4⟩
def qHead (c : Ctx) (q : QIdx) : Fld := ⟨.feQptr c q, 0, 32⟩
def qTail (c : Ctx) (q : QIdx) : Fld := ⟨.feQptr c q, 32, 32⟩
def qChead (c : Ctx) (q : QIdx) : Fld := ⟨.feQcptr c q, 0, 32⟩
def qCtail (c : Ctx) (q : QIdx) : Fld := ⟨.feQcptr c q, 32, 32⟩
def qState (c : Ctx) (q : QIdx) : Fld := ⟨.feQstat c q, 0, 2⟩
def qGen (c : Ctx) (q : QIdx) : Fld := ⟨.feQstat c q, 8, 8⟩
def qDbReject (c : Ctx) (q : QIdx) : Fld := ⟨.feQstat c q, 16, 1⟩
def qCfgReject (c : Ctx) (q : QIdx) : Fld := ⟨.feQstat c q, 17, 1⟩
def qPtrReject (c : Ctx) (q : QIdx) : Fld := ⟨.feQstat c q, 18, 1⟩
def qRunning (c : Ctx) (q : QIdx) : Fld := ⟨.feQstat c q, 32, 16⟩
def evEnable (c : Ctx) : Fld := ⟨.feEvcfg c, 0, 1⟩
def evPtrReject (c : Ctx) : Fld := ⟨.feEvcfg c, 1, 1⟩
def evSizeLog2 (c : Ctx) : Fld := ⟨.feEvcfg c, 8, 4⟩
def evHead (c : Ctx) : Fld := ⟨.feEvptr c, 0, 32⟩
def evTail (c : Ctx) : Fld := ⟨.feEvptr c, 32, 32⟩
def htCount (c : Ctx) : Fld := ⟨.feHtcount c, 0, 21⟩
def fence (c : Ctx) (f : FenceId) : Fld := ⟨.feFval c f, 0, 64⟩
def fenceOwner (c : Ctx) (f : FenceId) : Fld := ⟨.feFcfg c f, 0, 6⟩
def fenceOwned (c : Ctx) (f : FenceId) : Fld := ⟨.feFcfg c f, 6, 1⟩
def fenceRemote (c : Ctx) (f : FenceId) : Fld := ⟨.feFcfg c f, 7, 1⟩
def fencePoison (c : Ctx) (f : FenceId) : Fld := ⟨.feFcfg c f, 8, 1⟩
def fenceSrcDev (c : Ctx) (f : FenceId) : Fld := ⟨.feFcfg c f, 16, 16⟩
def fenceSrcCtx (c : Ctx) (f : FenceId) : Fld := ⟨.feFcfg c f, 32, 11⟩
def serveMin : Fld := ⟨.ssCtrl, 0, 4⟩
def guardUs : Fld := ⟨.ssCtrl, 16, 16⟩
def reclaimMs : Fld := ⟨.ssCtrl, 32, 32⟩
def shardMs : Fld := ⟨.ssWctrl, 0, 16⟩
def inflight : Fld := ⟨.ssWctrl, 16, 8⟩
def serving (d : Die) : Fld := ⟨.ssCluster d, 0, 12⟩
def granted (d : Die) : Fld := ⟨.ssCluster d, 16, 12⟩
def saved (d : Die) : Fld := ⟨.ssCluster d, 32, 12⟩
def mEnable (m : Model) : Fld := ⟨.ssModelCfg m, 0, 1⟩
def mCache (m : Model) : Fld := ⟨.ssModelCfg m, 1, 3⟩
def mFallback (m : Model) : Fld := ⟨.ssModelCfg m, 4, 4⟩
def mFbValid (m : Model) : Fld := ⟨.ssModelCfg m, 8, 1⟩
def mChunk (m : Model) : Fld := ⟨.ssModelCfg m, 16, 16⟩
def mMaxRows (m : Model) : Fld := ⟨.ssModelCfg m, 32, 11⟩
def mFill (m : Model) : Fld := ⟨.ssModelCfg m, 48, 8⟩
def mPolicy (m : Model) : Fld := ⟨.ssModelPolicy m, 0, 6⟩
def mPlan (m : Model) : Fld := ⟨.ssModelPlan m, 0, 57⟩
def mBatch (m : Model) : Fld := ⟨.ssModelBatch m, 0, 57⟩
def mRows (m : Model) : Fld := ⟨.ssModelStat m, 0, 16⟩
def mCorr (m : Model) : Fld := ⟨.ssModelStat m, 16, 16⟩
def mMoved (m : Model) : Fld := ⟨.ssModelStat m, 32, 16⟩
def mFault (m : Model) : Fld := ⟨.ssModelStat m, 48, 8⟩
def mOverruns (m : Model) : Fld := ⟨.ssModelMiss m, 0, 32⟩
def mDeclared (m : Model) : Fld := ⟨.ssModelMiss m, 32, 32⟩
def wVer (m : Model) : Fld := ⟨.ssModelWver m, 0, 64⟩
def wState (m : Model) : Fld := ⟨.ssModelWstat m, 0, 3⟩
def wMode (m : Model) : Fld := ⟨.ssModelWstat m, 3, 1⟩
def wHeldRun (m : Model) : Fld := ⟨.ssModelWstat m, 8, 8⟩
def wLayer (m : Model) : Fld := ⟨.ssModelWstat m, 16, 12⟩
def wRefetch (m : Model) : Fld := ⟨.ssModelWstat m, 32, 16⟩
def wRate (m : Model) : Fld := ⟨.ssModelWstat m, 48, 16⟩
def partClusters (c : Ctx) : Fld := ⟨.ssPart c, 0, 16⟩
def partPriority (c : Ctx) : Fld := ⟨.ssPart c, 16, 2⟩
def partSlice (c : Ctx) : Fld := ⟨.ssPart c, 32, 16⟩
def partRunning (c : Ctx) : Fld := ⟨.ssPart c, 48, 1⟩
def partSaved (c : Ctx) : Fld := ⟨.ssPart c, 49, 1⟩
def partReclaim (c : Ctx) : Fld := ⟨.ssPart c, 50, 1⟩
def ssJobs (c : Ctx) : Fld := ⟨.ssJobs c, 0, 64⟩
def ssRequests (c : Ctx) : Fld := ⟨.ssRequests c, 0, 64⟩
def sliceLeft (c : Ctx) : Fld := ⟨.ssSlice c, 0, 16⟩
def sliceDeduct (c : Ctx) : Fld := ⟨.ssSlice c, 16, 16⟩
def msGlobal : Fld := ⟨.msPart, 0, 5⟩
def msDie : Fld := ⟨.msPart, 8, 5⟩
def msStack : Fld := ⟨.msPart, 16, 5⟩
def msChanging : Fld := ⟨.msPart, 63, 1⟩
def zeroBusy : Fld := ⟨.msZeroStat, 0, 1⟩
def zeroReject : Fld := ⟨.msZeroStat, 1, 1⟩
def zeroDone : Fld := ⟨.msZeroStat, 32, 32⟩
def chSpared (j : Stack) : Fld := ⟨.msChan j, 0, 32⟩
def chExhausted (j : Stack) : Fld := ⟨.msChan j, 32, 32⟩
def msCorrected (j : Stack) : Fld := ⟨.msErr j, 0, 32⟩
def msUncorrected (j : Stack) : Fld := ⟨.msErr j, 32, 16⟩
def msIntegrity (j : Stack) : Fld := ⟨.msErr j, 48, 16⟩
def tableSlot : Fld := ⟨.trCtrl, 0, 11⟩
def invVa : Fld := ⟨.trInvAddr, 16, 41⟩
def invBusy : Fld := ⟨.trInvStat, 0, 1⟩
def invReject : Fld := ⟨.trInvStat, 1, 1⟩
def rekeyBusy : Fld := ⟨.trRekeyStat, 0, 1⟩
def rekeyReject : Fld := ⟨.trRekeyStat, 1, 1⟩
def rekeySlot : Fld := ⟨.trRekeyStat, 16, 11⟩
def rekeyDone : Fld := ⟨.trRekeyStat, 32, 32⟩
def rootValid (c : Ctx) : Fld := ⟨.trRoot c, 0, 1⟩
def root (c : Ctx) : Fld := ⟨.trRoot c, 12, 27⟩
def lcState : Fld := ⟨.seLc, 0, 3⟩
def lcPending : Fld := ⟨.seLc, 3, 3⟩
def lcOwner : Fld := ⟨.seLc, 8, 2⟩
def lcActive : Fld := ⟨.seLc, 10, 1⟩
def lcUsed : Fld := ⟨.seLc, 12, 3⟩
def lcBusy : Fld := ⟨.seLc, 15, 1⟩
def seSerial : Fld := ⟨.seSerial, 0, 64⟩
def regUsed : Fld := ⟨.seRegistry, 0, 32⟩
def setsHeld : Fld := ⟨.seSets, 0, 16⟩
def setsInUse : Fld := ⟨.seSets, 16, 16⟩
def setId0 (k : Fin 16) : Fld := ⟨.seSetId0 k, 0, 64⟩
def setId1 (k : Fin 16) : Fld := ⟨.seSetId1 k, 0, 64⟩
def entropyFail : Fld := ⟨.seStat, 0, 1⟩
def sigFail : Fld := ⟨.seStat, 16, 16⟩
def reseeds : Fld := ⟨.seStat, 32, 32⟩
def deviceId : Fld := ⟨.jlCtrl, 0, 16⟩
def e2eUs : Fld := ⟨.jlCtrl, 16, 16⟩
def maxHops : Fld := ⟨.jlCtrl, 32, 16⟩
def rtValid : Fld := ⟨.jlRtbase, 0, 1⟩
def wtCount : Fld := ⟨.jlWtcount, 0, 17⟩
def qpValid : Fld := ⟨.jlQpbase, 0, 1⟩
def misroute : Fld := ⟨.jlStat, 0, 16⟩
def e2eResend : Fld := ⟨.jlStat, 16, 16⟩
def e2eFail : Fld := ⟨.jlStat, 32, 16⟩
def portEnable (p : Port) : Fld := ⟨.jlPortCfg p, 0, 1⟩
def portMode (p : Port) : Fld := ⟨.jlPortCfg p, 1, 2⟩
def portBypass (p : Port) : Fld := ⟨.jlPortCfg p, 3, 1⟩
def portTrunk (p : Port) : Fld := ⟨.jlPortCfg p, 4, 4⟩
def serLimit (p : Port) : Fld := ⟨.jlPortCfg p, 16, 16⟩
def portState (p : Port) : Fld := ⟨.jlPortStat p, 0, 3⟩
def portSpill (p : Port) : Fld := ⟨.jlPortStat p, 3, 1⟩
def portSubUp (p : Port) : Fld := ⟨.jlPortStat p, 4, 2⟩
def portWidth (p : Port) : Fld := ⟨.jlPortStat p, 8, 4⟩
def portSpareFree (p : Port) : Fld := ⟨.jlPortStat p, 12, 1⟩
def attestFail (p : Port) : Fld := ⟨.jlPortStat p, 13, 1⟩
def keyHold (p : Port) : Fld := ⟨.jlPortStat p, 14, 1⟩
def peerDevice (p : Port) : Fld := ⟨.jlPortPeer p, 0, 16⟩
def peerPort (p : Port) : Fld := ⟨.jlPortPeer p, 16, 4⟩
def linkId (p : Port) : Fld := ⟨.jlPortPeer p, 32, 32⟩
def delayPs (p : Port) : Fld := ⟨.jlPortDelay p, 0, 32⟩
def fecCorrected (p : Port) : Fld := ⟨.jlPortFec p, 0, 32⟩
def fecUncorr (p : Port) : Fld := ⟨.jlPortFec p, 32, 32⟩
def linkRetry (p : Port) : Fld := ⟨.jlPortLink p, 0, 16⟩
def linkTagFail (p : Port) : Fld := ⟨.jlPortLink p, 16, 16⟩
def linkRekeys (p : Port) : Fld := ⟨.jlPortLink p, 32, 32⟩
def txFrames (p : Port) : Fld := ⟨.jlPortTx p, 0, 64⟩
def cxWidth : Fld := ⟨.cxLink, 0, 5⟩
def cxRate : Fld := ⟨.cxLink, 8, 3⟩
def cxDegraded : Fld := ⟨.cxLink, 16, 1⟩
def hdmValid : Fld := ⟨.cxHdm, 0, 1⟩
def hdmSize : Fld := ⟨.cxHdm, 8, 9⟩
def hdmBase : Fld := ⟨.cxHdmBase, 28, 11⟩
def peerValid : Fld := ⟨.cxPeerbase, 0, 1⟩
def peerCount : Fld := ⟨.cxPeercount, 0, 13⟩
def hdmErr : Fld := ⟨.cxStat, 0, 32⟩
def uioReject : Fld := ⟨.cxStat, 32, 16⟩
def hostFault : Fld := ⟨.cxStat, 48, 16⟩
def segSlot (k : Fin 256) : Fld := ⟨.cxSeg k, 0, 11⟩
def segValid (k : Fin 256) : Fld := ⟨.cxSeg k, 16, 1⟩
def pwReqMode : Fld := ⟨.pwReq, 0, 2⟩
def pwReqPark : Fld := ⟨.pwReq, 4, 4⟩
def pwMode : Fld := ⟨.pwStatus, 0, 2⟩
def pwParked : Fld := ⟨.pwStatus, 4, 4⟩
def pwBusy : Fld := ⟨.pwStatus, 8, 1⟩
def pwReject : Fld := ⟨.pwStatus, 9, 1⟩
def pwThrottle : Fld := ⟨.pwStatus, 10, 1⟩
def pwCapUnmet : Fld := ⟨.pwStatus, 11, 1⟩
def pwTripped : Fld := ⟨.pwStatus, 12, 1⟩
def pwReady : Fld := ⟨.pwStatus, 13, 1⟩
def pwInputLow : Fld := ⟨.pwStatus, 14, 1⟩
def pwReason : Fld := ⟨.pwStatus, 16, 4⟩
def capW : Fld := ⟨.pwCap, 0, 12⟩
def capWindow : Fld := ⟨.pwCap, 16, 10⟩
def capPace : Fld := ⟨.pwPace, 0, 7⟩
def throttlePace : Fld := ⟨.pwPace, 8, 7⟩
def pace : Fld := ⟨.pwPace, 16, 7⟩
def meanW : Fld := ⟨.pwPower, 0, 16⟩
def peakW : Fld := ⟨.pwPower, 16, 16⟩
def energyKj : Fld := ⟨.pwPower, 32, 32⟩
def throttleC : Fld := ⟨.pwTherm, 0, 8⟩
def dramThrottleC : Fld := ⟨.pwTherm, 8, 8⟩
def hystC : Fld := ⟨.pwTherm, 16, 8⟩
def sensorValue : Fld := ⟨.pwSensorData, 0, 16⟩
def sensorValid : Fld := ⟨.pwSensorData, 16, 1⟩
def tripC : Fld := ⟨.pwTherm, 32, 8⟩
def dramTripC : Fld := ⟨.pwTherm, 40, 8⟩
def sensorIndex : Fld := ⟨.pwSensorIndex, 0, 6⟩
def roleActive (k : Nat) : Fld := ⟨.pwRoles, 8 * k, 3⟩
def roleStandby (k : Nat) : Fld := ⟨.pwRoles, 8 * k + 4, 3⟩
def roleNoStandby (k : Nat) : Fld := ⟨.pwRoles, 8 * k + 7, 1⟩
def fwVersion : Fld := ⟨.pwFw, 0, 64⟩
def updState : Fld := ⟨.pwFwUpd, 0, 2⟩
def updRolesNew : Fld := ⟨.pwFwUpd, 4, 4⟩
def updFault : Fld := ⟨.pwFwUpd, 8, 8⟩
def bootStage : Fld := ⟨.pwBoot, 0, 4⟩
def bootError : Fld := ⟨.pwBoot, 8, 4⟩
def bootSource : Fld := ⟨.pwBoot, 16, 1⟩
def bootMs : Fld := ⟨.pwBoot, 32, 32⟩
def bankCe : Fld := ⟨.rpCtrl, 0, 16⟩
def hbUs : Fld := ⟨.rpCtrl, 16, 10⟩
def hbMiss : Fld := ⟨.rpCtrl, 26, 4⟩
def stopUs : Fld := ⟨.rpCtrl, 32, 16⟩
def repairs : Fld := ⟨.rpStat, 0, 32⟩
def hung : Fld := ⟨.rpStat, 32, 16⟩
def moduleFault : Fld := ⟨.rpStat, 63, 1⟩
def plinth (k : Nat) : Fld := ⟨.rpPlinth, 2 * k, 2⟩
def mapCount : Fld := ⟨.rpMapCount, 0, 13⟩
def mapChanges : Fld := ⟨.rpMapCount, 32, 32⟩
def mapIndex : Fld := ⟨.rpMapIndex, 0, 13⟩
def cfgEpoch : Fld := ⟨.rpCfgEpoch, 0, 32⟩
def graceTicks : Fld := ⟨.rpCfgCtrl, 0, 16⟩
def cfgPorts : Fld := ⟨.rpCfgStat, 0, 16⟩
def cfgEvents : Fld := ⟨.rpCfgStat, 32, 32⟩
def drainPending : Fld := ⟨.rpDrain, 0, 16⟩
def drainStuck : Fld := ⟨.rpDrain, 32, 16⟩
def resetsContexts : Fld := ⟨.rpResets, 0, 32⟩
def resetsBudget : Fld := ⟨.rpResets, 32, 32⟩
def coreSel : Fld := ⟨.obCoreSel, 0, 9⟩
def tapValid : Fld := ⟨.obTapbase, 0, 1⟩
def tapCount : Fld := ⟨.obTapcount, 0, 9⟩
def tapRuns : Fld := ⟨.obTapstat, 0, 32⟩
def tapFaults : Fld := ⟨.obTapstat, 32, 16⟩
def trEnable : Fld := ⟨.obTrcfg, 0, 1⟩
def trSizeLog2 : Fld := ⟨.obTrcfg, 8, 4⟩
def trClass (c : Nat) : Fld := ⟨.obTrcfg, 16 + c, 1⟩
def trTypeMask : Fld := ⟨.obTrcfg, 32, 16⟩
def trSample : Fld := ⟨.obTrcfg, 48, 5⟩
def trHead : Fld := ⟨.obTrptr, 0, 32⟩
def trTail : Fld := ⟨.obTrptr, 32, 32⟩
def trmarkDev : Fld := ⟨.obTrmarkDst, 0, 16⟩
def trmarkSend : Fld := ⟨.obTrmarkDst, 16, 1⟩
def trLost : Fld := ⟨.obTrstat, 0, 32⟩
def ctxSelQueue (c : Ctx) : Fld := ⟨.obCtxSel c, 0, 6⟩
def ctxSelRank (c : Ctx) : Fld := ⟨.obCtxSel c, 16, 9⟩
def stallTicks : Fld := ⟨.clCtrl, 0, 16⟩
def joinTicks : Fld := ⟨.clCtrl, 16, 16⟩
def engJobs (d : Die) : Fld := ⟨.clEng d, 0, 16⟩
def engPending (d : Die) : Fld := ⟨.clEng d, 16, 16⟩
def clAborts : Fld := ⟨.clAborts, 0, 32⟩
def clJobId (c : Ctx) : Fld := ⟨.clJob c, 0, 32⟩
def clRank (c : Ctx) : Fld := ⟨.clJob c, 32, 12⟩
def clState (c : Ctx) : Fld := ⟨.clJob c, 48, 3⟩
def clChannels (c : Ctx) : Fld := ⟨.clJob c, 51, 7⟩
def clDie (c : Ctx) : Fld := ⟨.clJob c, 58, 2⟩
def drainState (c : Ctx) : Fld := ⟨.clDrain c, 0, 3⟩
def drainBytes (c : Ctx) : Fld := ⟨.clDrain c, 16, 48⟩
def digScrc (c : Ctx) (ch : Fin 64) : Fld := ⟨.clDigScrc c ch, 0, 64⟩
def digSbytes (c : Ctx) (ch : Fin 64) : Fld := ⟨.clDigSbytes c ch, 0, 64⟩
def digRcrc (c : Ctx) (ch : Fin 64) : Fld := ⟨.clDigRcrc c ch, 0, 64⟩
def digRbytes (c : Ctx) (ch : Fin 64) : Fld := ⟨.clDigRbytes c ch, 0, 64⟩
def mxWidth (n : CoreId) : Fld := ⟨.mxShape n, 0, 7⟩
def mxNextWidth (n : CoreId) : Fld := ⟨.mxShape n, 8, 7⟩
def mxFaulty (n : CoreId) : Fld := ⟨.mxShape n, 16, 5⟩
def mxRetired (n : CoreId) : Fld := ⟨.mxShape n, 24, 1⟩
def mxBankSpared (n : CoreId) : Fld := ⟨.mxShape n, 25, 1⟩
def mxLastTest (n : CoreId) : Fld := ⟨.mxShape n, 32, 32⟩
def testEnable (d : Die) : Fld := ⟨.mxTestCtrl d, 0, 1⟩
def testInterval (d : Die) : Fld := ⟨.mxTestCtrl d, 8, 24⟩
def testRun (d : Die) : Fld := ⟨.mxTestStatus d, 0, 32⟩
def testFound (d : Die) : Fld := ⟨.mxTestStatus d, 32, 16⟩
def testYielded (d : Die) : Fld := ⟨.mxTestStatus d, 48, 16⟩
def wlFaulty (x : WellId) : Fld := ⟨.wlStatus x, 0, 5⟩
def wlOffline (x : WellId) : Fld := ⟨.wlStatus x, 5, 1⟩
def wlServedBy (x : WellId) : Fld := ⟨.wlStatus x, 6, 2⟩
def wlQueued (x : WellId) : Fld := ⟨.wlStatus x, 8, 8⟩
def wlLastTest (x : WellId) : Fld := ⟨.wlStatus x, 32, 32⟩
def wlBytes (j : Stack) : Fld := ⟨.wlBytes j, 0, 64⟩
def wlTestEnable (d : Die) : Fld := ⟨.wlCtrl d, 0, 1⟩
def poolBase (j : Stack) (i : CacheInst) : Fld := ⟨.kvPoolBase j i, 0, 57⟩
def poolPages (j : Stack) (i : CacheInst) : Fld := ⟨.kvPoolSize j i, 0, 28⟩
def poolFree (j : Stack) (i : CacheInst) : Fld := ⟨.kvPoolStat j i, 0, 28⟩
def poolZeroing (j : Stack) (i : CacheInst) : Fld := ⟨.kvPoolStat j i, 32, 28⟩
def poolRec (j : Stack) (i : CacheInst) : Fld := ⟨.kvPoolRec j i, 0, 57⟩
def kvEnable (i : CacheInst) : Fld := ⟨.kvInst i, 0, 1⟩
def kvPageLog2 (i : CacheInst) : Fld := ⟨.kvInst i, 4, 4⟩
def kvGroupLog2 (i : CacheInst) : Fld := ⟨.kvInst i, 8, 3⟩
def kvHeadDim (i : CacheInst) : Fld := ⟨.kvInst i, 12, 2⟩
def kvFormat (i : CacheInst) : Fld := ⟨.kvInst i, 16, 4⟩
def kvDeferLimit (i : CacheInst) : Fld := ⟨.kvInst i, 24, 8⟩
def kvHeadroom (i : CacheInst) : Fld := ⟨.kvInst i, 32, 8⟩
def kvReserve (c : Ctx) (i : CacheInst) : Fld := ⟨.kvReserve c i, 0, 28⟩
def kvHeld (c : Ctx) (i : CacheInst) : Fld := ⟨.kvReserve c i, 32, 28⟩
def kvThreshold (c : Ctx) (i : CacheInst) : Fld := ⟨.kvPressure c i, 0, 28⟩
def kvAvail (c : Ctx) (i : CacheInst) : Fld := ⟨.kvPressure c i, 32, 28⟩
def satThreshold (c : Ctx) (k : Fin 16) : Fld := ⟨.vxSatCfg c k, 0, 32⟩
def satEventEn (c : Ctx) (k : Fin 16) : Fld := ⟨.vxSatCfg c k, 32, 1⟩
def satStep (c : Ctx) (k : Fin 16) : Fld := ⟨.vxSatStep c k, 0, 32⟩
def nanStep (c : Ctx) (k : Fin 16) : Fld := ⟨.vxSatStep c k, 32, 32⟩
def satTotal (c : Ctx) (k : Fin 16) : Fld := ⟨.vxSatTotal c k, 0, 64⟩
def dmCoreMode (n : CoreId) : Fld := ⟨.dmCore n, 0, 1⟩
def dmCorePrioCap (n : CoreId) : Fld := ⟨.dmCore n, 1, 2⟩
def dmCoreShareCap (n : CoreId) : Fld := ⟨.dmCore n, 8, 9⟩
def dmDieMode (d : Die) : Fld := ⟨.dmDie d, 0, 1⟩
def dmPrioCap (d : Die) (ch : Fin 32) : Fld := ⟨.dmCh d ch, 0, 2⟩
def dmShareCap (d : Die) (ch : Fin 32) : Fld := ⟨.dmCh d ch, 8, 9⟩
def dmQueued (d : Die) (ch : Fin 32) : Fld := ⟨.dmCh d ch, 24, 3⟩
def dmBusy (d : Die) (ch : Fin 32) : Fld := ⟨.dmCh d ch, 32, 1⟩
def dmBytes (d : Die) : Fld := ⟨.dmBytes d, 0, 64⟩
def dmCoreBytes (d : Die) : Fld := ⟨.dmCoreBytes d, 0, 64⟩
def dmFaults (d : Die) : Fld := ⟨.dmFaults d, 0, 32⟩
end F

/-- Return every register of a context page to its reset value (R7). -/
def State.resetPage (s : State) (c : Ctx) : State :=
  { s with regs := s.regs.filter (fun p => decide (p.1.page ≠ some c)) }

end Sys2Proof.Machine
end

