-- ==== Sys2Proof/Machine/Ops.lean ====
section
/-! DEFINITION. The named operations over memory: the canonical byte memory, placement, integrity,
translation, access by device virtual address; device time, event records and trace records. -/

namespace Sys2Proof.Machine

/-! ### Byte memories in canonical form -/

/-- The byte at an address; an unlisted byte reads 0 (R478, R169). -/
def Memory.read : Memory → Nat → Byte
  | [], _ => 0
  | (k, v) :: t, a => if k = a then v else if a < k then 0 else Memory.read t a

/-- Put an entry in its place; a zero byte removes the entry. -/
def Memory.write : Memory → Nat → Byte → Memory
  | [], a, b => if b = 0 then [] else [(a, b)]
  | (k, v) :: t, a, b =>
    if a < k then (if b = 0 then (k, v) :: t else (a, b) :: (k, v) :: t)
    else if k = a then (if b = 0 then t else (a, b) :: t)
    else (k, v) :: Memory.write t a b

/-- Write consecutive bytes. -/
def Memory.writeList (m : Memory) (a : Nat) : List Byte → Memory
  | [] => m
  | b :: t => Memory.writeList (Memory.write m a b) (a + 1) t

/-- Read `n` consecutive bytes. -/
def Memory.readList (m : Memory) (a : Nat) : Nat → List Byte
  | 0 => []
  | n + 1 => m.read a :: Memory.readList m (a + 1) n

/-- Zero every byte of [lo, hi). -/
def Memory.clear (m : Memory) (lo hi : Nat) : Memory := m.filter (fun p => decide (p.1 < lo ∨ hi ≤ p.1))

/-- The canonical form: addresses strictly rising, no zero entry. -/
def Memory.wfFrom : Nat → Memory → Bool
  | _, [] => true
  | lo, (k, v) :: t => decide (lo ≤ k) && decide (v ≠ 0) && Memory.wfFrom (k + 1) t

/-- The canonical form of a memory. -/
def Memory.wf (m : Memory) : Bool := Memory.wfFrom 0 m

/-! ### The effect of a command -/

/-- Why an operation does not complete. -/
inductive Err where
  /-- it must wait for another event: the command that needs it leaves the state as it is -/
  | wait
  | translation | protection | integrity
  /-- a fault code of the instruction, engine or check that names it -/
  | code (status fault : Nat)
  deriving DecidableEq, Repr

/-- A state transformer that may end in an `Err`; the state reached is kept in both cases. -/
abbrev M := EStateM Err State

/-- The completion status of an error (R328). -/
def Err.status : Err → Nat
  | .wait => 0 | .translation => 3 | .protection => 4 | .integrity => 5 | .code st _ => st

/-- A command in any phase of the module's life: it answers the state reached; one that must wait, or that
ends in an error no handler of its own has taken, leaves the state as it was (log 3). -/
def runAny (m : M Unit) (s : State) : Host.Outcome State Fault Refusal :=
  match m s with
  | .ok _ t => .next t
  | .error _ _ => .next s

/-- No module fault and no thermal trip has stopped the engines (R518, R530). -/
def State.unstopped (s : State) : Bool := !s.rep.moduleFault && !s.flag F.pwTripped

/-- The module works: it has reported ready since its last start, and nothing has stopped it (R518, R530, R531). -/
def State.works (s : State) : Bool := s.flag F.pwReady && s.unstopped

/-- The links run: the module works, start-up is in OPTICS, or mask ROM fetches its image from a peer (R531, R535). -/
def State.linksRun (s : State) : Bool :=
  s.works || (s.pow.booting && s.unstopped && (s.fld F.bootStage == 7 || s.pow.peerFetch.isSome))

/-- A command of a module that works; a module that does not stays as it is (R518). -/
def run (m : M Unit) (s : State) : Host.Outcome State Fault Refusal :=
  if s.works then runAny m s else .next s

/-- A command of a link, or of the tick while start-up acquires it. -/
def runLink (m : M Unit) (s : State) : Host.Outcome State Fault Refusal :=
  if s.linksRun then runAny m s else .next s

/-- A register access that a thermal trip does not stop (R521 reason 8). -/
def runPw (m : M Unit) (s : State) : Host.Outcome State Fault Refusal :=
  if s.flag F.pwReady && !s.rep.moduleFault then runAny m s else .next s

/-- Run `m`; an error other than a wait is answered as a value, with the state that `m` reached. -/
def attempt {α : Type} (m : M α) : M (Except Err α) := fun s =>
  match m s with
  | .ok a t => .ok (.ok a) t
  | .error .wait t => .error .wait t
  | .error e t => .ok (.error e) t

/-- Do `m` now where it can be done; else leave it to its own command. -/
def orLater (m : M Unit) : M Unit := fun s =>
  match m s with
  | .ok _ t => .ok () t
  | .error _ _ => .ok () s

/-- Go on only if the condition of the event holds. -/
def guardWait (b : Bool) : M Unit := if b then pure () else throw .wait

/-- Fail with a code unless the condition holds. -/
def guardCode (b : Bool) (status fault : Nat) : M Unit := if b then pure () else throw (.code status fault)

/-- Take the value or wait. -/
def needSome {α : Type} (o : Option α) : M α :=
  match o with
  | some a => pure a
  | none => throw .wait

/-- Take the value or fail with the error. -/
def orErr {α : Type} (o : Option α) (e : Err) : M α :=
  match o with
  | some a => pure a
  | none => throw e

/-- Run for each element in order. -/
def eachM {α : Type} (l : List α) (f : α → M Unit) : M Unit :=
  match l with
  | [] => pure ()
  | a :: t => do f a; eachM t f

/-- Fold in order. -/
def foldM' {α β : Type} (l : List α) (b : β) (f : β → α → M β) : M β :=
  match l with
  | [] => pure b
  | a :: t => do foldM' t (← f b a) f

/-- Map in order. -/
def mapM' {α β : Type} (l : List α) (f : α → M β) : M (List β) :=
  match l with
  | [] => pure []
  | a :: t => do
    let b ← f a
    let r ← mapM' t f
    pure (b :: r)

/-- A fresh argument for a free value. -/
def fresh : M Nat := fun s => .ok s.seed { s with seed := s.seed + 1 }

/-- Send something out of the device. -/
def emit (o : Out) : M Unit := modify (fun s => { s with out := s.out ++ [o] })

def getFld (f : Fld) : M Nat := do pure ((← get).fld f)
def putFld (f : Fld) (v : Nat) : M Unit := modify (fun s => s.setFld f v)
def getFlag (f : Fld) : M Bool := do pure ((← get).flag f)
def putFlag (f : Fld) (b : Bool) : M Unit := modify (fun s => s.setFlag f b)
def bump (f : Fld) : M Unit := modify (fun s => s.bump f)
def bumpBy (f : Fld) (n : Nat) : M Unit := modify (fun s => s.bumpBy f n)
def bumpFull (f : Fld) : M Unit := modify (fun s => s.bumpFull f)
def modMem (f : MemSt → MemSt) : M Unit := modify (fun s => { s with mem := f s.mem })
def modTime (f : TimeSt → TimeSt) : M Unit := modify (fun s => { s with time := f s.time })

/-! ### Time -/

/-- The current step number. -/
def State.stepNo (s : State) : Nat := s.fld F.tkStep

/-- Device time just before the next tick: as an adopted beacon places it, else one period after the last (R40, R50). -/
def State.nextTickAt (s : State) : Nat :=
  match s.time.adopted with
  | some a => a.nextAt
  | none => s.time.tickTime + s.fld F.tkPeriod * 1000

/-- Device time, looked at now: at least the last value seen, and before the next tick (R55, log 4). -/
def sampleTime : M Nat := do
  let s ← get
  let now := s.fld F.tkTime
  let t := max now (min (now + Config.elapsed s.seed) (s.nextTickAt - 1))
  set { s.setFld F.tkTime t with seed := s.seed + 1 }
  pure t

/-- Device time as a context sees it (R58, R484). -/
def timeFor (c : Ctx) (t : Nat) : Nat := if c = 0 then t else t / 10000 * 10000

/-- A counter as a context sees it (R484). -/
def countFor (c : Ctx) (n : Nat) : Nat := if c = 0 then n else n / 1024 * 1024

/-! ### Placement (R241–R244) -/

/-- A placement window: class, unit (die or stack), base and size in bytes. -/
structure Window where
  cls : Nat
  unit : Nat
  base : Nat
  size : Nat
  deriving DecidableEq, Repr

def gib : Nat := 2 ^ 30

/-- The window that holds a DPA under window sizes (GLOBAL_GIB, DIE_GIB, STACK_GIB) (R242). -/
def windowOf (w : Nat × Nat × Nat) (dpa : Nat) : Option Window :=
  let g := 16 * w.1 * gib
  let d := 4 * w.2.1 * gib
  let k := w.2.2 * gib
  if dpa < g then some ⟨0, 0, 0, g⟩
  else if dpa < g + 4 * d then
    let u := (dpa - g) / d
    some ⟨1, u, g + u * d, d⟩
  else if dpa < g + 4 * d + 16 * k then
    let u := (dpa - g - 4 * d) / k
    some ⟨2, u, g + 4 * d + u * k, k⟩
  else none

/-- The exclusive or of the n-bit fields of u; `fuel` fields at most (R243). -/
def fold (n : Nat) : Nat → Nat → Nat
  | 0, _ => 0
  | fuel + 1, u => if u = 0 then 0 else (u % 2 ^ n) ^^^ fold n fuel (u / 2 ^ n)

/-- Where a DPA lies: stack, channel, pseudo-channel, offset in the pseudo-channel (R243). -/
def place (w : Nat × Nat × Nat) (dpa : Nat) : Option (Nat × Nat × Nat × Nat) :=
  (windowOf w dpa).map fun win =>
    let g := (dpa - win.base) / 256
    let n := if win.cls = 0 then 10 else if win.cls = 1 then 8 else 6
    let u := g / 2 ^ n
    let i := (g % 2 ^ n) ^^^ fold n 40 u
    let mib := 2 ^ 20
    if win.cls = 0 then (bitsOf i 0 4, bitsOf i 4 5, bitsOf i 9 1, u * 256 + dpa % 256)
    else if win.cls = 1 then
      (4 * win.unit + bitsOf i 0 2, bitsOf i 2 5, bitsOf i 7 1, w.1 * 16 * mib + u * 256 + dpa % 256)
    else (win.unit, bitsOf i 0 5, bitsOf i 5 1, (w.1 + w.2.1) * 16 * mib + u * 256 + dpa % 256)

/-- The stack of a DPA. -/
def stackOf (w : Nat × Nat × Nat) (dpa : Nat) : Option Stack :=
  (place w dpa).bind (fun p => finOf 16 p.1)

/-- The home die of a DPA (R244). -/
def homeDie (w : Nat × Nat × Nat) (dpa : Nat) : Nat :=
  match stackOf w dpa with
  | some j => j.val / 4
  | none => 0

/-- The first DPA that is not allocatable (R241). -/
def allocTop : Nat := 0x7C00000000

/-! ### Integrity, encryption and the granule (R253–R263) -/

/-- The keys of a slot: a system slot holds its key from start-up (R475). -/
def MemSt.slotKeys (m : MemSt) (slot : Nat) : SlotKeys :=
  m.keys.getD slot
    (if 1025 ≤ slot ∧ slot ≤ 1040 then ⟨false, some slot, none⟩ else ⟨false, none, none⟩)

/-- The identity of the slot's current key, 0 when it holds none. -/
def MemSt.currentKey (m : MemSt) (slot : Nat) : Nat :=
  let k := m.slotKeys slot
  ((if k.phase then k.key1 else k.key0).getD 0)

/-- The key of a phase of a slot. -/
def SlotKeys.at (k : SlotKeys) (phase : Bool) : Option Nat := if phase then k.key1 else k.key0

/-- A read of granule `g` from DRAM under `slot` passes the check of R255. -/
def MemSt.granuleOk (m : MemSt) (slot g : Nat) : Bool :=
  !m.eccBad.contains g && (match m.tags.find? g with
    | none => true
    | some t => t.ok && t.slot == slot && (m.slotKeys slot).at t.phase == some t.key)

/-- What DRAM holds of sector `k`, the 32 bytes at DPA 32 × k: AES-256-XTS ciphertext under the key pair that its granule's
tag names, with the sector's number as tweak; a sector of the zero state has none (R253, R255). -/
def MemSt.cipher (m : MemSt) (k : Nat) : Option Nat :=
  (m.tags.find? (k / 8)).map (fun t => Config.xts t.key k ((m.bytes.readList (32 * k) 32).map (·.toNat)))

/-- The 64-bit tag of granule `g` (R254): SLOT, PHASE, and the MAC over ciphertext, DPA, SLOT and PHASE under the phase's
integrity key, or, in the zero state, over the DPA alone under the zero key. A poisoned tag carries another MAC. -/
def MemSt.tagWord (m : MemSt) (g : Nat) : BitVec 64 :=
  BitVec.ofNat 64 (match m.tags.find? g with
    | none => Config.zeroMac (256 * g) % 2 ^ 52 * 2 ^ 12
    | some t =>
      let data := (upTo 8).map (fun i => (m.cipher (8 * g + i)).getD 0)
      let mac := Config.mac t.key data (256 * g) t.slot t.phase % 2 ^ 52
      let off := if t.ok then 0 else 1 + Config.badMac g % (2 ^ 52 - 1)
      t.slot % 2 ^ 11 + b2n t.phase * 2 ^ 11 + (mac + off) % 2 ^ 52 * 2 ^ 12)

/-- The part of a list of granule ranges [lo, hi) that leaves out granule g. -/
def cutGranule (g : Nat) : List (Nat × Nat) → List (Nat × Nat)
  | [] => []
  | (lo, hi) :: t =>
    if lo ≤ g ∧ g < hi then
      (if lo < g then [(lo, g)] else []) ++ (if g + 1 < hi then [(g + 1, hi)] else []) ++ cutGranule g t
    else (lo, hi) :: cutGranule g t

/-- Zero-fill granules [lo, hi): zero bytes, zero-state tags, no cached line (R259). -/
def MemSt.zeroGranules (m : MemSt) (lo hi : Nat) : MemSt :=
  { m with
    bytes := m.bytes.clear (lo * 256) (hi * 256)
    tags := m.tags.filter (fun p => decide (p.1 < lo ∨ hi ≤ p.1))
    dirty := m.dirty.filter (fun p => decide (p.1 < lo ∨ hi ≤ p.1))
    lines := m.lines.filter (fun p => decide (p.1 < lo ∨ hi ≤ p.1))
    eccBad := m.eccBad.filter (fun g => decide (g < lo ∨ hi ≤ g)) }

/-- Whether granule g waits in a queued zero-fill. -/
def MemSt.fillWaits (m : MemSt) (g : Nat) : Bool :=
  m.fills.any (fun f => f.ranges.any (fun r => decide (r.1 ≤ g ∧ g < r.2)))

/-- An access to a granule of a queued zero-fill comes after that granule's zero-fill (R260): the granule
is zero-filled now and leaves the ranges still to be filled. -/
def MemSt.settleFill (m : MemSt) (g : Nat) : MemSt :=
  if m.fillWaits g then
    { m.zeroGranules g (g + 1) with
      fills := m.fills.map (fun f => { f with ranges := cutGranule g f.ranges }) }
  else m

/-- The device may touch the granule: its stack is not in self-refresh (R267), its channel is not being retrained
(R265), and the host holds no line of it (R452); a queued zero-fill of it is done first (R260). -/
def reachGranule (g : Nat) : M Unit := do
  let s ← get
  let asleep := match place s.mem.partNow (g * 256) with
    | some p => s.mem.selfRefresh.any (fun j => j.val == p.1)
        || s.mem.retrain.any (fun r => r.stack.val == p.1 && r.ch.val == p.2.1)
    | none => false
  guardWait (!asleep)
  guardWait (!s.cxl.held.any (fun l => l / 4 == g))
  modMem (fun m => m.settleFill g)

/-- Count an INTEGRITY outcome and end the access (R255). -/
def integrityFault {α : Type} (g : Nat) : M α := do
  let s ← get
  match stackOf s.mem.partNow (g * 256) with
  | some j => bump (F.msIntegrity j)
  | none => pure ()
  throw .integrity

/-- A burst of granule `g` gets through: on a channel whose spare is used up it may still fail after four retries
(R266). -/
def burstOk (g : Nat) : M Bool := do
  let s ← get
  match place s.mem.partNow (g * 256) with
  | some p =>
    (match finOf 16 p.1 with
     | some j =>
       if bitOf (s.fld (F.chExhausted j)) p.2.1 then do
         let n ← fresh
         pure (!Config.burstFails n)
       else pure true
     | none => pure true)
  | none => pure true

/-- DRAM serves the access: its burst gets through and, where it reads, the check of R255 passes. -/
def dramOk (slot g : Nat) (reads : Bool) : M Bool := do
  let through ← burstOk g
  pure (through && (!reads || (← get).mem.granuleOk slot g))

/-- An access through the home pool cache. A line is hit under its own slot alone; whether a line is still cached is a
free value, and it matters only where DRAM would answer otherwise. After the access the line is the slot's (R261). -/
def poolAccess (slot g : Nat) (reads : Bool) : M Unit := do
  reachGranule g
  let miss ← dramOk slot g reads
  let ok ← (match (← get).mem.lines.find? g with
    | none => pure miss
    | some b =>
      if (b == slot) = miss then pure miss
      else do
        let n ← fresh
        pure (Config.poolHit n == (b == slot)))
  if ok then modMem (fun m => { m with lines := m.lines.insert g slot }) else integrityFault g

/-- A granule may be read under the slot (R255, R261). -/
def checkRead (slot g : Nat) : M Unit := poolAccess slot g true

/-- A granule may be written under the slot. A write of part of a granule reads it first (R256). -/
def checkWrite (slot g : Nat) (whole : Bool) : M Unit := poolAccess slot g (!whole)

/-- A well's or the sweep's access of a granule, which goes to DRAM (R262). -/
def checkDram (slot g : Nat) (reads : Bool) : M Unit := do
  reachGranule g
  if ← dramOk slot g reads then pure () else integrityFault g

/-- What DRAM holds of a granule. -/
def MemSt.underOf (m : MemSt) (g : Nat) : Under :=
  { bytes := m.bytes.readList (g * 256) 256, tag := m.tags.find? g, bad := m.eccBad.contains g }

/-- The page of a DPA has class STACK, or the DPA is of no window. -/
def MemSt.stackPage (m : MemSt) (dpa : Nat) : Bool :=
  match windowOf m.partNow dpa with
  | some w => w.cls == 2
  | none => true

/-- Write bytes into one granule under the slot: they take the slot's current phase (R253, R254). Lines of GLOBAL and DIE
pages stay dirty in the home pool cache, and DRAM keeps what it held (R262, R263). -/
def writeGranule (slot dpa : Nat) (bs : List Byte) : M Unit :=
  modMem fun m =>
    let g := dpa / 256
    { m with
      bytes := m.bytes.writeList dpa bs
      tags := m.tags.insert g ⟨slot, (m.slotKeys slot).phase, m.currentKey slot, true⟩
      eccBad := m.eccBad.filter (· ≠ g)
      dirty := if m.stackPage dpa || (m.dirty.find? g).isSome then m.dirty else m.dirty.insert g (m.underOf g) }

/-- A dirty line is discarded without a write-back: DRAM's granule shows again (R263). -/
def MemSt.discardLine (m : MemSt) (g : Nat) (u : Under) : MemSt :=
  { m with
    bytes := m.bytes.writeList (g * 256) u.bytes
    tags := match u.tag with
      | some t => m.tags.insert g t
      | none => m.tags.erase g
    eccBad := if u.bad then g :: m.eccBad else m.eccBad
    dirty := m.dirty.erase g }

/-- Each pool cache discards the lines of a slot. A dirty line that has been evicted before, which is a free value, has
been written back (R262, R263). -/
def discardSlot (slot : Nat) : M Unit := do
  eachM (← get).mem.dirty (fun p => do
    let m := (← get).mem
    if m.lines.find? p.1 = some slot then do
      let n ← fresh
      if Config.poolHit n then modMem (fun m => m.discardLine p.1 p.2) else modMem (fun m => { m with dirty := m.dirty.erase p.1 })
    else pure ())
  modMem (fun m => { m with lines := m.lines.filter (fun p => p.2 ≠ slot) })

/-! ### Chunks -/

/-- Split the `n` bytes at `a` where they cross a granule: at most `fuel` pieces. -/
def chunks : Nat → Nat → Nat → List (Nat × Nat)
  | 0, _, _ => []
  | fuel + 1, a, n =>
    if n = 0 then [] else
      let k := min n (256 - a % 256)
      (a, k) :: chunks fuel (a + k) (n - k)

/-- The pieces of an access of `n` bytes at `a`, each within one granule. -/
def pieces (a n : Nat) : List (Nat × Nat) := chunks (n / 256 + 2) a n

/-- Read bytes of device memory by DPA under a slot. -/
def readDpa (slot dpa n : Nat) : M (List Byte) := do
  eachM (pieces dpa n) (fun p => checkRead slot (p.1 / 256))
  pure ((← get).mem.bytes.readList dpa n)

/-! ### Translation (R246–R252) -/

/-- The rights an access needs. -/
inductive Right where
  | r | w | rw | x
  deriving DecidableEq, Repr

/-- The generation of a context. -/
def State.genOf (s : State) (c : Ctx) : Nat := (s.ctxs.getD c .absent).gen

/-- The context exists (R338). -/
def State.ctxLive (s : State) (c : Ctx) : Bool :=
  match (s.ctxs.getD c .absent).phase with
  | .live => true
  | _ => false

/-- A cached entry, if one is listed and still cached. -/
def tlbLook (k : TlbKey) : M (Option Nat) := do
  let s ← get
  match s.mem.tlb.find? k with
  | none => pure none
  | some e =>
    let n ← fresh
    pure (if Config.tlbHit n then some e else none)

/-- The rights of a leaf allow the access (R247). -/
def leafAllows (e : Nat) : Right → Bool
  | .r => bitOf e 2
  | .w => bitOf e 3
  | .rw => bitOf e 2 && bitOf e 3
  | .x => bitOf e 4

/-- The levels of a walk: number, index shift, index bits (R246). -/
def walkLevels : List (Nat × Nat × Nat) := [(0, 48, 9), (1, 39, 9), (2, 30, 9), (3, 21, 9), (4, 16, 5)]

/-- The leaf of level shift `sh` is well formed (R248). -/
def leafOk (w : Nat × Nat × Nat) (e sh : Nat) : Bool :=
  let a := bitsOf e 24 31 * 256
  let size := 2 ^ sh
  let slot := bitsOf e 8 11
  bitsOf e 7 1 == 0 && bitsOf e 19 5 == 0 && bitsOf e 55 9 == 0 && a % size == 0 &&
    decide (a + size ≤ allocTop) &&
    (match windowOf w a with
     | some win => decide (a + size ≤ win.base + win.size) && bitsOf e 5 2 == win.cls
     | none => false) &&
    decide (1 ≤ slot ∧ slot ≤ 1040)

/-- A table entry is well formed (R247, R248); `sh` is the index shift of the next level. -/
def tableOk (e sh : Nat) : Bool :=
  let a := bitsOf e 24 31 * 256
  bitsOf e 2 6 == 0 && bitsOf e 8 11 == 0 && bitsOf e 19 5 == 0 && bitsOf e 55 9 == 0 &&
    a % (if sh = 16 then 256 else 4096) == 0 && decide (a < allocTop)

/-- Walk the remaining levels from a table; the answer is the leaf and its shift. -/
def walkFrom (c : Ctx) (gen va : Nat) : List (Nat × Nat × Nat) → Nat → M (Nat × Nat)
  | [], _ => throw .translation
  | (lv, sh, n) :: rest, base => do
    let key : TlbKey := ⟨c.val, gen, lv, va / 2 ^ sh⟩
    let hit ← tlbLook key
    match hit with
    | some e =>
      if bitOf e 1 then pure (e, sh) else walkFrom c gen va rest (bitsOf e 24 31 * 256)
    | none =>
      let e := leNat (← readDpa (← getFld F.tableSlot) (base + 8 * bitsOf va sh n) 8)
      if !bitOf e 0 then throw .translation
      else if bitOf e 1 then
        if decide (2 ≤ lv) && leafOk (← get).mem.partNow e sh then do
          modMem (fun m => { m with tlb := m.tlb.insert key e })
          pure (e, sh)
        else throw .translation
      else if decide (lv < 4) && tableOk e ((rest.headD (0, 0, 0)).2.1) then do
        modMem (fun m => { m with tlb := m.tlb.insert key e })
        walkFrom c gen va rest (bitsOf e 24 31 * 256)
      else throw .translation

/-- The DPA lies in the cistern of a job (R393). -/
def State.inCistern (s : State) (dpa : Nat) : Bool :=
  s.jobs.any (fun p => decide (p.2.cistern ≤ dpa ∧ dpa < p.2.cistern + p.2.cisternBytes))

/-- The leaf that maps an address of a context, and the DPA. No translation reaches a cistern (R393). -/
def walk (c : Ctx) (va : Nat) : M (Nat × Nat) := do
  let s ← get
  if va / 2 ^ 57 ≠ 0 || va / 2 ^ 48 == 0x1FE || !s.flag (F.rootValid c) then throw .translation
  else
    let (e, sh) ← walkFrom c (s.genOf c) va walkLevels (s.fld (F.root c) * 4096)
    let dpa := bitsOf e 24 31 * 256 + va % 2 ^ sh
    if s.inCistern dpa then throw .protection else pure (e, dpa)

/-- The page size of a cache instance in bytes (R210). -/
def State.pageSize (s : State) (i : CacheInst) : Nat := 65536 * 2 ^ s.fld (F.kvPageLog2 i)

/-- The enabled pool whose range holds an address: stack, instance, page index (R213, R250). -/
def State.poolOf (s : State) (va : Nat) : Option (Stack × CacheInst × Nat) :=
  (List.finRange 8).findSome? fun i =>
    if s.flag (F.kvEnable i) then
      (List.finRange 16).findSome? fun j =>
        let b := s.fld (F.poolBase j i)
        if b ≤ va ∧ va < b + s.fld (F.poolPages j i) * s.pageSize i then
          some (j, i, (va - b) / s.pageSize i)
        else none
    else none

/-- The DPA of a page's record (R215): context 0's tables map the record table. -/
def recordDpa (j : Stack) (i : CacheInst) (x : Nat) : M Nat := do
  let (_, a) ← walk 0 ((← getFld (F.poolRec j i)) + 64 * x)
  pure a

/-- The 64 bytes of a page record, read under TABLE_SLOT (R251). -/
def readRecord (j : Stack) (i : CacheInst) (x : Nat) : M (List Byte) := do
  readDpa (← getFld F.tableSlot) (← recordDpa j i x) 64

/-- Translate one address of a context for an access: DPA and slot (R246–R250). -/
def translate (c : Ctx) (va : Nat) (need : Right) : M (Nat × Nat) := do
  match (← get).poolOf va with
  | some (j, i, x) =>
    let r ← readRecord j i x
    let owner := leNat ((r.drop 2).take 2)
    if !(bitOf owner 15 && bitsOf owner 0 11 == c.val) then throw .translation
    let (_, dpa) ← walk 0 va
    let s ← get
    match windowOf s.mem.partNow dpa with
    | some w =>
      if w.cls == 2 && w.unit == j.val then
        if need = .x then throw .protection
        else pure (dpa, if c = 0 then 1025 else c.val)
      else throw .translation
    | none => throw .translation
  | none =>
    let (e, dpa) ← walk c va
    let slot := bitsOf e 8 11
    if leafAllows e need && (c == 0 || slot == c.val) then pure (dpa, slot) else throw .protection

/-- Translate every piece of an access: DPA, slot and length of each. -/
def translatePieces (c : Ctx) (va n : Nat) (need : Right) : M (List (Nat × Nat × Nat)) :=
  mapM' (pieces va n) fun p => do
    let (d, sl) ← translate c p.1 need
    pure (d, sl, p.2)

/-- Read `n` bytes of a context's address space. -/
def vaReadAs (c : Ctx) (va n : Nat) (need : Right) : M (List Byte) := do
  let ps ← translatePieces c va n need
  eachM ps (fun p => checkRead p.2.1 (p.1 / 256))
  let m := (← get).mem.bytes
  pure (ps.flatMap (fun p => m.readList p.1 p.2.2))

/-- Read `n` bytes with right R. -/
def vaRead (c : Ctx) (va n : Nat) : M (List Byte) := vaReadAs c va n .r

/-- Write the pieces' bytes in order. -/
def writePieces : List (Nat × Nat × Nat) → List Byte → M Unit
  | [], _ => pure ()
  | p :: t, bs => do
    writeGranule p.2.1 p.1 (bs.take p.2.2)
    writePieces t (bs.drop p.2.2)

/-- Write bytes of a context's address space: every piece is translated and checked before any is
written. -/
def vaWriteAs (c : Ctx) (va : Nat) (bs : List Byte) (need : Right) : M Unit := do
  let ps ← translatePieces c va bs.length need
  eachM ps (fun p => checkWrite p.2.1 (p.1 / 256) (p.2.2 == 256))
  writePieces ps bs

/-- Write bytes with right W. -/
def vaWrite (c : Ctx) (va : Nat) (bs : List Byte) : M Unit := vaWriteAs c va bs .w

/-- Write a page record (R215): the device writes it whatever the leaf's rights are. -/
def writeRecord (j : Stack) (i : CacheInst) (x : Nat) (bs : List Byte) : M Unit := do
  let a ← recordDpa j i x
  let slot ← getFld F.tableSlot
  checkWrite slot (a / 256) false
  writeGranule slot a bs

/-! ### Interrupts, events and traces -/

/-- Fire an MSI-X vector of a context's function, where there is one (R442, R457). -/
def fireMsix (c : Ctx) (v : Fin 2) : M Unit := do
  let s ← get
  let x := s.cxl.vecs.getD (c, v) .initial
  let send := !x.masked && !x.hot
  if s.cxl.numVfs < c.val then pure ()
  else set { s with
    cxl := { s.cxl with
      vecs := s.cxl.vecs.insert (c, v)
        (if send then { x with pending := false, hot := true } else { x with pending := true }) }
    out := if send then s.out ++ [Out.msix c v] else s.out }

/-- Update what the state lists for a context. -/
def modCtx (c : Ctx) (f : CtxSt → CtxSt) : M Unit :=
  modify (fun s => { s with ctxs := s.ctxs.insert c (f (s.ctxs.getD c .absent)) })

/-- The 32 bytes of an event record (R31). -/
def eventBytes (code : Nat) (lost : Bool) (about seq step time detail : Nat) : List Byte :=
  leBytes 1 code ++ leBytes 1 (b2n lost) ++ leBytes 2 about ++ leBytes 4 seq ++ leBytes 8 step
    ++ leBytes 8 time ++ leBytes 8 detail

/-- Write an event to a context's ring, or drop it (R30–R33). -/
def raiseEvent (c : Ctx) (code about detail : Nat) : M Unit := do
  let s ← get
  if !(s.ctxLive c && s.flag (F.evEnable c)) then pure ()
  else
    let head := s.fld (F.evHead c)
    let tail := s.fld (F.evTail c)
    let size := 2 ^ s.fld (F.evSizeLog2 c)
    let cs := s.ctxs.getD c .absent
    if size ≤ (tail + 2 ^ 32 - head) % 2 ^ 32 then modCtx c (fun x => { x with lost := true })
    else
      let t ← sampleTime
      let r ← attempt (vaWrite c (bitsOf (s.reg (.feEvbase c)) 12 45 * 4096 + 32 * (tail % size))
        (eventBytes code cs.lost about tail s.stepNo (timeFor c t) detail))
      match r with
      | .ok _ =>
        putFld (F.evTail c) ((tail + 1) % 2 ^ 32)
        modCtx c (fun x => { x with lost := false })
        fireMsix c 1
      | .error _ => modCtx c (fun x => { x with lost := true })

/-- Write one event to the system context. -/
def systemEvent (code about detail : Nat) : M Unit := raiseEvent 0 code about detail

/-- Write a trace record (R551, R552): class `cls`, or `none` for a kind that is always written. -/
def trace (cls : Option Nat) (kind die ctx id arg0 arg1 : Nat) : M Unit := do
  let s ← get
  let on := s.flag F.trEnable && (match cls with
    | none => true
    | some k => s.flag (F.trClass k))
  if !on then pure ()
  else
    let head := s.fld F.trHead
    let tail := s.fld F.trTail
    let size := 2 ^ (s.fld F.trSizeLog2 + 4)
    if size ≤ (tail + 2 ^ 32 - head) % 2 ^ 32 then bump F.trLost
    else
      let t ← sampleTime
      let r ← attempt (vaWrite 0 (bitsOf (s.reg .obTrbase) 12 45 * 4096 + 32 * (tail % size))
        (leBytes 1 kind ++ leBytes 1 die ++ leBytes 2 ctx ++ leBytes 4 id ++ leBytes 8 t
          ++ leBytes 8 arg0 ++ leBytes 8 arg1))
      match r with
      | .ok _ => putFld F.trTail ((tail + 1) % 2 ^ 32)
      | .error _ => bump F.trLost

/-! ### Key slots -/

/-- Load a new key into phase 0 of a slot (R475). -/
def MemSt.loadKey (m : MemSt) (slot : Nat) : MemSt :=
  { m with keys := m.keys.insert slot ⟨false, some m.nextKey, none⟩, nextKey := m.nextKey + 1 }

/-- Discard both phases of a slot (R476). -/
def MemSt.dropKey (m : MemSt) (slot : Nat) : MemSt :=
  { m with keys := m.keys.insert slot ⟨false, none, none⟩ }

end Sys2Proof.Machine
end

