-- ==== Sys2Proof/Machine/Flags.lean ====
section
/-! DEFINITION. The counts that conversions leave behind: saturations and NaN conversions per context and
tensor class, and the SATURATION event (R126–R130). The block has no processor flags. -/

namespace Sys2Proof.Machine

/-- A class number below 16. -/
def classOf (n : Nat) : Fin 16 := ⟨n % 16, by omega⟩

/-- Raise an event in a context's ring and in the system context's (R30, R33). -/
def eventBoth (c : Ctx) (code detail : Nat) : M Unit := do
  if c = 0 then pure () else raiseEvent c code c.val detail
  raiseEvent 0 code c.val detail

/-- Add counts to a context's counters of a class, and raise SATURATION at most once per step (R127, R128). -/
def addCounts (c : Ctx) (cls sat nanc : Nat) : M Unit := do
  let k := classOf cls
  if sat = 0 ∧ nanc = 0 then pure ()
  else do
    bumpBy (F.satStep c k) sat
    bumpBy (F.nanStep c k) nanc
    bumpBy (F.satTotal c k) sat
    let s ← get
    let done := (s.ctxs.getD c .absent).satRaised.contains k.val
    if sat ≠ 0 ∧ s.fld (F.satThreshold c k) < s.fld (F.satStep c k) ∧ s.flag (F.satEventEn c k) ∧ !done then do
      modCtx c (fun x => { x with satRaised := k.val :: x.satRaised })
      eventBoth c 0x02 k.val
    else pure ()

end Sys2Proof.Machine
end

