-- ==== Sys2Proof/Machine/Numbers.lean ====
section
/-! DEFINITION. Number formats, the rounding rule, arithmetic on exact values, scales and quantisation
(R104–R121). A value is an exact fraction until the one rounding that ends an operation. -/

namespace Sys2Proof.Machine

/-! ### Exact values -/

/-- An exact value: NaN, an infinity, or a signed fraction `± n / d` (d > 0; a zero keeps its sign). -/
inductive Val where
  | nan
  | inf (neg : Bool)
  | fin (neg : Bool) (n d : Nat)
  deriving DecidableEq, Repr

namespace Val

def zero : Val := .fin false 0 1
def one : Val := .fin false 1 1
def ofInt (x : Int) : Val := .fin (decide (x < 0)) x.natAbs 1

/-- m × 2^k as a fraction. -/
def scaled (m : Nat) (k : Int) : Nat × Nat :=
  if 0 ≤ k then (m * 2 ^ k.toNat, 1) else (m, 2 ^ (-k).toNat)

def isNan : Val → Bool
  | .nan => true
  | _ => false

def isFin : Val → Bool
  | .fin _ _ _ => true
  | _ => false

def isZero : Val → Bool
  | .fin _ n _ => n == 0
  | _ => false

def isNeg : Val → Bool
  | .nan => false
  | .inf s => s
  | .fin s _ _ => s

def neg : Val → Val
  | .nan => .nan
  | .inf s => .inf !s
  | .fin s n d => .fin (!s) n d

def abs : Val → Val
  | .nan => .nan
  | .inf _ => .inf false
  | .fin _ n d => .fin false n d

/-- The exact sum; zeros of opposite sign, and x - x, give +0 (R113); infinity - infinity is NaN (R117). -/
def add : Val → Val → Val
  | .nan, _ => .nan
  | _, .nan => .nan
  | .inf a, .inf b => if a = b then .inf a else .nan
  | .inf a, _ => .inf a
  | _, .inf b => .inf b
  | .fin a n d, .fin b m e =>
    if a = b then .fin a (n * e + m * d) (d * e)
    else if n * e = m * d then .fin false 0 1
    else if m * d < n * e then .fin a (n * e - m * d) (d * e)
    else .fin b (m * d - n * e) (d * e)

def sub (a b : Val) : Val := add a b.neg

/-- The exact product; 0 × infinity is NaN (R117). -/
def mul : Val → Val → Val
  | .nan, _ => .nan
  | _, .nan => .nan
  | .inf a, .inf b => .inf (a != b)
  | .inf a, .fin b n _ => if n = 0 then .nan else .inf (a != b)
  | .fin a n _, .inf b => if n = 0 then .nan else .inf (a != b)
  | .fin a n d, .fin b m e => .fin (a != b) (n * m) (d * e)

/-- The exact quotient by a finite non-zero value. -/
def div : Val → Val → Val
  | .fin a n d, .fin b m e => if m = 0 then .nan else .fin (a != b) (n * e) (d * m)
  | .inf a, .fin b m _ => if m = 0 then .nan else .inf (a != b)
  | _, _ => .nan

/-- a < b by value; false when either is NaN. Zeros of both signs are equal. -/
def lt : Val → Val → Bool
  | .nan, _ => false
  | _, .nan => false
  | .inf a, .inf b => a && !b
  | .inf a, .fin _ _ _ => a
  | .fin _ _ _, .inf b => !b
  | .fin a n d, .fin b m e =>
    if a && !b then decide (0 < n ∨ 0 < m)
    else if !a && b then false
    else if !a then decide (n * e < m * d)
    else decide (m * d < n * e)

/-- Equal by value; false when either is NaN. -/
def eqv (a b : Val) : Bool := !a.isNan && !b.isNan && !lt a b && !lt b a

def le (a b : Val) : Bool := lt a b || eqv a b

/-- Strictly below in the order of max and min, which puts -0 below +0 (R117). -/
def below (a b : Val) : Bool := lt a b || (eqv a b && a.isNeg && !b.isNeg)

/-- The greater value; NaN if either is (R117). -/
def max (a b : Val) : Val := if a.isNan || b.isNan then .nan else if below a b then b else a

/-- The lesser value; NaN if either is (R117). -/
def min (a b : Val) : Val := if a.isNan || b.isNan then .nan else if below b a then b else a

end Val

/-! ### Formats (R104–R109) -/

/-- A floating-point format: field widths, bias, largest finite magnitude, infinity if it has one, canonical
NaN if it has one. -/
structure FFmt where
  e : Nat
  m : Nat
  bias : Int
  top : Nat
  inf : Option Nat
  nan : Option Nat
  deriving DecidableEq, Repr

/-- The floating-point formats by type code (R104, R106). -/
def ffmt : Nat → Option FFmt
  | 0x0 => some ⟨8, 7, 127, 0x7F7F, some 0x7F80, some 0x7FC0⟩
  | 0x1 => some ⟨8, 23, 127, 0x7F7FFFFF, some 0x7F800000, some 0x7FC00000⟩
  | 0x2 => some ⟨5, 10, 15, 0x7BFF, some 0x7C00, some 0x7E00⟩
  | 0x3 => some ⟨4, 3, 7, 0x7E, none, some 0x7F⟩
  | 0x4 => some ⟨5, 2, 15, 0x7B, some 0x7C, some 0x7F⟩
  | 0x5 => some ⟨3, 2, 3, 0x1F, none, none⟩
  | 0x6 => some ⟨2, 3, 1, 0x1F, none, none⟩
  | 0x7 => some ⟨2, 1, 1, 0x7, none, none⟩
  | _ => none

/-- Bits of an element (R104). -/
def ebits : Nat → Nat
  | 0x0 => 16 | 0x1 => 32 | 0x2 => 16 | 0x3 => 8 | 0x4 => 8 | 0x5 => 6 | 0x6 => 6 | 0x7 => 4
  | 0x8 => 8 | 0x9 => 32 | _ => 8

/-- A narrow format (R104). -/
def isNarrow (t : Nat) : Bool := decide (3 ≤ t ∧ t ≤ 8)

/-- A valid type code. -/
def isType (t : Nat) : Bool := decide (t ≤ 9)

/-- The value of a finite magnitude (R105). -/
def FFmt.magnitude (f : FFmt) (x : Nat) : Nat × Nat :=
  let e := x / 2 ^ f.m
  let m := x % 2 ^ f.m
  if e = 0 then Val.scaled m (1 - f.bias - f.m) else Val.scaled (2 ^ f.m + m) ((e : Int) - f.bias - f.m)

/-- The value that an encoding stands for (R105–R108). -/
def decodeNum (t x : Nat) : Val :=
  match ffmt t with
  | some f =>
    let w := f.e + f.m
    let s := bitOf x w
    let a := x % 2 ^ w
    if f.inf = some a then .inf s
    else if f.top < a then .nan
    else let v := f.magnitude a; .fin s v.1 v.2
  | none => Val.ofInt (signOf (ebits t) x)

/-! ### Rounding (R110–R114) -/

/-- floor(log2(n / d)) for n, d > 0. -/
def floorLog2 (n d : Nat) : Int :=
  let k : Int := (Nat.log2 n : Int) - Nat.log2 d
  let ok := if 0 ≤ k then d * 2 ^ k.toNat ≤ n else d ≤ n * 2 ^ (-k).toNat
  if ok then k else k - 1

/-- n / d rounded to the nearest whole number, ties up (away from zero for a magnitude). -/
def roundNat (n d : Nat) : Nat := (2 * n + d) / (2 * d)

/-- The exponent of the spacing of a format at n / d: an ULP is 2 to it. -/
def FFmt.ulpExp (f : FFmt) (n d : Nat) : Int :=
  if n = 0 then 1 - f.bias - f.m else Max.max (floorLog2 n d) (1 - f.bias) - f.m

/-- The encoding of the magnitude n / d rounded under R110, as if the format had no largest value. -/
def FFmt.roundMag (f : FFmt) (n d : Nat) : Nat :=
  if n = 0 then 0
  else
    let q := f.ulpExp n d
    let r := if 0 ≤ q then roundNat n (d * 2 ^ q.toNat) else roundNat (n * 2 ^ (-q).toNat) d
    (q + f.m + f.bias - 1).toNat * 2 ^ f.m + r

/-- The outcome of a conversion: the encoding, and what R126 counts. -/
structure Conv where
  bits : Nat
  sat : Nat
  nanc : Nat
  deriving DecidableEq, Repr

/-- The largest magnitude of an integer format for a sign (R108, R111). -/
def intLimit (t : Nat) (s : Bool) : Nat :=
  if t = 8 then 127 else if s then 2 ^ 31 else 2 ^ 31 - 1

/-- Convert an exact value to a format with one rounding (R110, R111, R114). -/
def convert (t : Nat) (x : Val) : Conv :=
  match ffmt t with
  | some f =>
    let w := f.e + f.m
    let sg := fun (s : Bool) (a : Nat) => b2n s * 2 ^ w + a
    (match x with
     | .nan => match f.nan with
       | some c => ⟨c, 0, 0⟩
       | none => ⟨0, 0, 1⟩
     | .inf s =>
       if isNarrow t then ⟨sg s f.top, 1, 0⟩ else ⟨sg s (f.inf.getD f.top), 0, 0⟩
     | .fin s n d =>
       let v := f.magnitude f.top
       if isNarrow t && decide (v.1 * d < n * v.2) then ⟨sg s f.top, 1, 0⟩
       else
         let r := f.roundMag n d
         if f.top < r then ⟨sg s (f.inf.getD f.top), 0, 0⟩ else ⟨sg s r, 0, 0⟩)
  | none =>
    (match x with
     | .nan => ⟨0, 0, 1⟩
     | .inf s => ⟨toUnsigned (ebits t) (if s then -(intLimit t s : Int) else intLimit t s), 1, 0⟩
     | .fin s n d =>
       let lim := intLimit t s
       if lim * d < n then ⟨toUnsigned (ebits t) (if s then -(lim : Int) else lim), 1, 0⟩
       else
         let r := roundNat n d
         ⟨toUnsigned (ebits t) (if s then -(r : Int) else r), 0, 0⟩)

/-- Round to FP32 and read the result back as a value. -/
def fp32 (x : Val) : Val := decodeNum 1 (convert 1 x).bits

/-- The FP32 encoding of a value. -/
def toFp32 (x : Val) : Nat := (convert 1 x).bits

/-- The value of an FP32 encoding. -/
def ofFp32 (b : Nat) : Val := decodeNum 1 b

/-- A product rounded to FP32 and added to an FP32 accumulator with its own rounding (R115). -/
def macStep (acc : Nat) (p : Val) : Nat := toFp32 ((ofFp32 acc).add (fp32 p))

/-! ### Roots and the bounded functions (R116, R117) -/

/-- floor(sqrt n), by trying the bits from 2^k down. -/
def isqrtFrom : Nat → Nat → Nat → Nat
  | 0, _, r => r
  | k + 1, n, r => let c := r + 2 ^ k; isqrtFrom k n (if c * c ≤ n then c else r)

/-- floor(sqrt n). -/
def isqrt (n : Nat) : Nat := isqrtFrom (Nat.log2 n / 2 + 1) n 0

/-- The encoding of sqrt(n / d) rounded under R110. -/
def FFmt.roundSqrt (f : FFmt) (n d : Nat) : Nat :=
  if n = 0 then 0
  else
    let e := Max.max (floorLog2 n d / 2) (1 - f.bias)
    let q := e - f.m
    let y := if 0 ≤ q then (4 * n) / (d * 2 ^ (2 * q).toNat) else (4 * n * 2 ^ (-(2 * q)).toNat) / d
    (e + f.bias - 1).toNat * 2 ^ f.m + (isqrt y + 1) / 2

/-- Bits of the fixed-point fractions below. -/
def fixBits : Nat := 320

/-- The Taylor sum of e^y for a fixed-point y: k terms from term i. -/
def expTaylor (y : Nat) : Nat → Nat → Nat → Nat
  | 0, _, _ => 0
  | k + 1, i, t => t + expTaylor y k (i + 1) (t * y / 2 ^ fixBits / (i + 1))

/-- Square a fixed-point number k times. -/
def squareTimes : Nat → Nat → Nat
  | 0, x => x
  | k + 1, x => squareTimes k (x * x / 2 ^ fixBits)

/-- e^(n/d) for 0 ≤ n/d ≤ 512, as a fixed-point number. -/
def expFix (n d : Nat) : Nat :=
  squareTimes 16 (expTaylor (n * 2 ^ fixBits / (d * 2 ^ 16)) 30 0 (2 ^ fixBits))

/-- The sum z + z^3/3 + z^5/5 + … of k terms for a fixed-point z. -/
def atanhSum (z2 : Nat) : Nat → Nat → Nat → Nat
  | 0, _, _ => 0
  | k + 1, i, t => t / (2 * i + 1) + atanhSum z2 k (i + 1) (t * z2 / 2 ^ fixBits)

/-- 2 atanh(a / b) as a fixed-point number. -/
def twoAtanh (a b : Nat) : Nat :=
  let z := a * 2 ^ fixBits / b
  2 * atanhSum (z * z / 2 ^ fixBits) 120 0 z

/-- ln 2 as a fixed-point number. -/
def ln2Fix : Nat := twoAtanh 1 3

/-- ln(n / d) as a fixed-point integer, for n, d > 0. -/
def lnFix (n d : Nat) : Int :=
  let e := floorLog2 n d
  let n' := if 0 ≤ e then n else n * 2 ^ (-e).toNat
  let d' := if 0 ≤ e then d * 2 ^ e.toNat else d
  (twoAtanh (n' - d') (n' + d') : Int) + e * ln2Fix

/-- e^x of a finite value, close enough to place it within an ULP (log 6). -/
def expNum : Val → Val
  | .nan => .nan
  | .inf s => if s then Val.zero else .inf false
  | .fin s n d =>
    if 512 * d < n then (if s then .fin false 1 (2 ^ 700) else .fin false (2 ^ 700) 1)
    else
      let e := expFix n d
      if s then .fin false (2 ^ fixBits) e else .fin false e (2 ^ fixBits)

/-- ln x of a value. -/
def lnNum : Val → Val
  | .nan => .nan
  | .inf s => if s then .nan else .inf false
  | .fin s n d =>
    if n = 0 then .inf true
    else if s then .nan
    else let l := lnFix n d; .fin (decide (l < 0)) l.natAbs (2 ^ fixBits)

/-- 1 / (1 + e^(-x)). -/
def sigmoidNum : Val → Val
  | .nan => .nan
  | .inf s => if s then Val.zero else Val.one
  | x => Val.div Val.one (Val.add Val.one (expNum x.neg))

/-- tanh x. -/
def tanhNum : Val → Val
  | .nan => .nan
  | .inf s => .fin s 1 1
  | .fin s n d =>
    if n * 2 ^ 24 < d then .fin s (n * (3 * d * d - n * n)) (3 * d * d * d)
    else
      let e := expNum (.fin false (2 * n) d)
      let r := Val.div (Val.sub e Val.one) (Val.add e Val.one)
      if s then r.neg else r

/-- x × sigmoid(x), with the limits of R117. -/
def siluNum : Val → Val
  | .nan => .nan
  | .inf s => if s then .fin true 0 1 else .inf false
  | x => Val.mul x (sigmoidNum x)

/-- The tanh form of gelu, as x × sigmoid(2 y) with y = sqrt(2/π) (x + 0.044715 x³), with the limits of
R117. -/
def geluNum : Val → Val
  | .nan => .nan
  | .inf s => if s then .fin true 0 1 else .inf false
  | x =>
    let k : Val := .fin false 1595769121605730711759542397537527473904 (10 ^ 39)
    let y := Val.mul k (Val.add x (Val.mul (.fin false 44715 1000000) (Val.mul x (Val.mul x x))))
    Val.mul x (sigmoidNum y)

/-- The transcendental unit's functions: the VX minor opcodes 0x0E–0x19 (R87). -/
inductive Fn where
  | expsub | exp | exp2 | log2 | ln | rcp | rsqrt | sqrt | tanh | sigmoid | silu | gelu
  deriving DecidableEq, Repr

/-- A number for each function. -/
def Fn.code : Fn → Nat
  | .expsub => 0 | .exp => 1 | .exp2 => 2 | .log2 => 3 | .ln => 4 | .rcp => 5 | .rsqrt => 6 | .sqrt => 7
  | .tanh => 8 | .sigmoid => 9 | .silu => 10 | .gelu => 11

/-- The bound of R116 in ULPs, for FP32 lanes and for 16-bit lanes. -/
def Fn.bound (f : Fn) (fp32Lanes : Bool) : Nat :=
  if !fp32Lanes then 1
  else match f with
    | .rcp | .rsqrt => 1
    | .exp | .exp2 | .expsub | .log2 | .ln => 2
    | _ => 4

/-- The exact value of a function, up to a relative error far below any bound of R116 (log 6). -/
def Fn.value (f : Fn) (x : Val) : Val :=
  match f with
  | .exp | .expsub => expNum x
  | .exp2 => match x with
    | .fin s n d => expNum (.fin s (n * ln2Fix) (d * 2 ^ fixBits))
    | y => expNum y
  | .ln => lnNum x
  | .log2 => match lnNum x with
    | .fin s n d => .fin s (n * 2 ^ fixBits) (d * ln2Fix)
    | y => y
  | .rcp => match x with
    | .nan => .nan
    | .inf s => .fin s 0 1
    | .fin s n d => if n = 0 then .inf s else .fin s d n
  | .rsqrt => match x with
    | .nan => .nan
    | .inf s => if s then .nan else Val.zero
    | .fin s n d => if n = 0 then .inf s else if s then .nan
                    else .fin false (isqrt (d * 2 ^ (2 * fixBits) / n)) (2 ^ fixBits)
  | .sqrt => match x with
    | .nan => .nan
    | .inf s => if s then .nan else .inf false
    | .fin s n d => if n = 0 then .fin s 0 1 else if s then .nan else .fin false n d
  | .tanh => tanhNum x
  | .sigmoid => sigmoidNum x
  | .silu => siluNum x
  | .gelu => geluNum x

/-- Whether magnitudes a and n/d of a format differ by at most k ULPs of n/d. -/
def FFmt.within (f : FFmt) (k a n d : Nat) : Bool :=
  let v := f.magnitude a
  let u := Val.scaled 1 (f.ulpExp n d)
  -- |v - n/d| ≤ k u, multiplied out
  let x := v.1 * d
  let y := n * v.2
  decide ((if x ≤ y then y - x else x - y) * u.2 ≤ k * u.1 * (v.2 * d))

/-- The result of a bounded function on one lane of type t, whose operands `key` tells: the exact value, rounded, moved by the free
offset as far as the bound of R116 allows; sqrt is rounded under R110, and at an infinity the values of R117 hold. -/
def Fn.lane (f : Fn) (t key : Nat) (x : Val) : Nat :=
  match ffmt t with
  | none => 0
  | some fm =>
    let w := fm.e + fm.m
    (match f, Fn.value f x with
     | .sqrt, .fin s n d => b2n s * 2 ^ w + fm.roundSqrt n d
     | _, .fin s n d =>
       let r := fm.roundMag n d
       let k := f.bound (t == 1)
       let c := (r : Int) + Config.ulpOffset (f.code + 16 * key) t r
       let a := if n ≠ 0 ∧ x.isFin ∧ 0 ≤ c ∧ c ≤ fm.top ∧ fm.within k c.toNat n d then c.toNat else r
       (convert t (if fm.top < a then .inf s else
         let v := fm.magnitude a; .fin s v.1 v.2)).bits
     | _, y => (convert t y).bits)

/-- e^(a - b) with the difference not rounded (R116). -/
def expsubNum (a b : Val) : Val := expNum (Val.sub a b)

/-! ### Scales and quantisation (R118–R121) -/

/-- The value of an E5M3 fine scale (R118). -/
def fineNum (b : Nat) : Val :=
  if b = 0xFF then .nan
  else
    let v := (FFmt.mk 5 3 30 0xFE none none).magnitude b
    .fin false v.1 v.2

/-- Round a non-negative value to E5M3; values above 3.5 give 0xFE (R118, R121). -/
def roundFine : Val → Nat
  | .nan => 0xFF
  | .inf _ => 0xFE
  | .fin _ n d => Nat.min 0xFE ((FFmt.mk 5 3 30 0xFE none none).roundMag n d)

/-- The largest finite value of a narrow type (R121). -/
def qmaxNum (t : Nat) : Val :=
  match ffmt t with
  | some f => let v := f.magnitude f.top; .fin false v.1 v.2
  | none => .fin false 127 1

/-- A coarse scale that counts as NaN (R120). -/
def coarseBad : Val → Bool
  | .nan => true
  | .inf _ => true
  | .fin s n _ => s || n == 0

/-- A quantised block: elements, fine scale, saturations, NaN conversions. -/
structure QBlock where
  q : List Nat
  fine : Nat
  sat : Nat
  nanc : Nat
  deriving DecidableEq, Repr

/-- Quantise one block to narrow type t under coarse scale c (R121). -/
def quantiseBlock (xs : List Val) (c : Val) (t : Nat) : QBlock :=
  if coarseBad c then
    ⟨xs.map (fun _ => (convert t .nan).bits), 0xFF, 0, xs.length⟩
  else
    let a := xs.foldl (fun m x => if x.isNan then m else Val.max m (Val.div x c).abs) Val.zero
    if a.isZero then
      let r := xs.map (fun x => if x.isNan then convert t .nan else convert t (.fin x.isNeg 0 1))
      ⟨r.map (·.bits), 0, 0, (r.map (·.nanc)).sum⟩
    else
      let f0 := roundFine (match a with
        | .inf s => .inf s
        | y => Val.div (Val.mul y (.fin false 17 1)) (Val.mul (.fin false 16 1) (qmaxNum t)))
      let f := if f0 = 0 then 1 else f0
      let r := xs.map (fun x => convert t (Val.div x (Val.mul c (fineNum f))))
      ⟨r.map (·.bits), f, (r.map (·.sat)).sum, (r.map (·.nanc)).sum⟩

/-- The value that a narrow element stands for: x × f × c, and NaN under a coarse scale that counts as NaN
(R119, R120). -/
def widen (t x : Nat) (fine coarse : Val) : Val :=
  if isNarrow t then
    (if coarseBad coarse then .nan else Val.mul (Val.mul (decodeNum t x) fine) coarse)
  else decodeNum t x

/-! ### Sums whose order the device does not state (R131) -/

/-- Put i into a list kept in the order of the free choice. -/
def placeTerm (seed i : Nat) : List Nat → List Nat
  | [] => [i]
  | j :: t => if Config.addFirst seed i j then i :: j :: t else j :: placeTerm seed i t

/-- The terms 0 … n - 1 in an order that the free choice decides: always one of the orders of the terms. -/
def termOrder (seed : Nat) : Nat → List Nat
  | 0 => []
  | n + 1 => placeTerm seed n (termOrder seed n)

end Sys2Proof.Machine
end

