-- ==== Sys2Proof/Machine/Operands.lean ====
section
/-! DEFINITION. Operands: handles, the on-core memories with their owner tags, tensor descriptors with their
checks and address generation, scale trackers, and the registers of a core. -/

namespace Sys2Proof.Machine

/-! ### Handles (R317, R318) -/

/-- The object that a handle table entry describes, or none where the entry reads as absent (R318). -/
def parseHandle (b : List Byte) : Option HandleObj :=
  let f := fun (o n : Nat) => leNat ((b.drop o).take n)
  let kind := f 0 1
  let o : HandleObj := ⟨kind, f 1 1, f 2 2, f 4 4, f 8 8, f 0x10 8⟩
  if 1 ≤ kind ∧ kind ≤ 3 ∧ o.rights < 8 ∧ f 0x18 8 = 0 ∧ (kind = 3 ∨ (o.peer = 0 ∧ o.window = 0)) ∧
      o.size % 32 = 0 ∧ 32 ≤ o.size ∧ o.size ≤ 2 ^ 57 ∧ (kind ≠ 1 ∨ o.address % 32 = 0) then some o
  else none

/-- Look a handle up in a context's table; none when it is absent (R317). -/
def handleLookup (c : Ctx) (h : Nat) : M (Option HandleObj) := do
  let s ← get
  if h = 0 ∨ s.fld (F.htCount c) ≤ h ∨ 2 ^ 20 ≤ h then pure none
  else
    let b ← vaRead 0 (bitsOf (s.reg (.feHtbase c)) 12 45 * 4096 + 32 * h) 32
    pure (parseHandle b)

/-! ### Scratchpads and cluster stores (R166–R173) -/

/-- One on-core memory: a core's scratchpad, or the store of a cluster. -/
structure Sram where
  store : Bool
  unit : Nat
  deriving DecidableEq, Repr

def Sram.size (m : Sram) : Nat := if m.store then 2 ^ 24 else 2 ^ 22
def Sram.lineBytes (m : Sram) : Nat := if m.store then 2048 else 1024
def Sram.cell (m : Sram) (o : Nat) : Nat := m.unit * m.size + o
def Sram.lineKey (m : Sram) (o : Nat) : Nat := m.unit * (m.size / m.lineBytes) + o / m.lineBytes
def Sram.wordKey (m : Sram) (o : Nat) : Nat := m.unit * (m.size / 64) + o / 64

def SramSt.bytesOf (x : SramSt) (m : Sram) : Memory := if m.store then x.store else x.spad
def SramSt.tagsOf (x : SramSt) (m : Sram) : AMap Nat OwnerTag := if m.store then x.storeTags else x.spadTags
def SramSt.poisonOf (x : SramSt) (m : Sram) : List Nat := if m.store then x.storePoison else x.spadPoison
def SramSt.setBytes (x : SramSt) (m : Sram) (b : Memory) : SramSt :=
  if m.store then { x with store := b } else { x with spad := b }
def SramSt.setTags (x : SramSt) (m : Sram) (t : AMap Nat OwnerTag) : SramSt :=
  if m.store then { x with storeTags := t } else { x with spadTags := t }
def SramSt.setPoison (x : SramSt) (m : Sram) (p : List Nat) : SramSt :=
  if m.store then { x with storePoison := p } else { x with spadPoison := p }

/-- The word of an offset is valid for an owner: its line carries the owner's tag and its valid bit is set
(R169). -/
def SramSt.valid (x : SramSt) (m : Sram) (ctx gen o : Nat) : Bool :=
  match (x.tagsOf m).find? (m.lineKey o) with
  | some t => t.ctx == ctx && t.gen == gen && bitOf t.valid (o % m.lineBytes / 64)
  | none => false

/-- A byte as its owner reads it: data, or zero (R169). -/
def SramSt.readByte (x : SramSt) (m : Sram) (ctx gen o : Nat) : Byte :=
  if x.valid m ctx gen o then (x.bytesOf m).read (m.cell o) else 0

/-- `n` bytes as their owner reads them. -/
def SramSt.readBytes (x : SramSt) (m : Sram) (ctx gen o : Nat) : Nat → List Byte
  | 0 => []
  | n + 1 => x.readByte m ctx gen o :: x.readBytes m ctx gen (o + 1) n

/-- Make the word of an offset the owner's: retag the line, and zero a word that is not valid (R169). -/
def SramSt.claim (x : SramSt) (m : Sram) (ctx gen o : Nat) : SramSt :=
  let k := m.lineKey o
  let bit := o % m.lineBytes / 64
  let t0 := (x.tagsOf m).getD k ⟨ctx, gen, 0⟩
  let t := if t0.ctx = ctx ∧ t0.gen = gen then t0 else ⟨ctx, gen, 0⟩
  if bitOf t.valid bit then x.setTags m ((x.tagsOf m).insert k t)
  else
    let w := m.cell (o / 64 * 64)
    (x.setTags m ((x.tagsOf m).insert k { t with valid := t.valid + 2 ^ bit })).setBytes m
      ((x.bytesOf m).clear w (w + 64))

/-- Write bytes that lie in one word. A write of the whole word clears its poison (R489). -/
def SramSt.writeWord (x : SramSt) (m : Sram) (ctx gen o : Nat) (bs : List Byte) : SramSt :=
  let y := x.claim m ctx gen o
  let z := y.setBytes m ((y.bytesOf m).writeList (m.cell o) bs)
  if bs.length = 64 then z.setPoison m ((z.poisonOf m).filter (fun w => w ≠ m.wordKey o)) else z

/-- Write consecutive bytes, word by word; `fuel` words at most. -/
def SramSt.writeWords (m : Sram) (ctx gen : Nat) : Nat → SramSt → Nat → List Byte → SramSt
  | 0, x, _, _ => x
  | f + 1, x, o, bs =>
    if bs.isEmpty then x
    else
      let k := 64 - o % 64
      SramSt.writeWords m ctx gen f (x.writeWord m ctx gen o (bs.take k)) (o + k) (bs.drop k)

/-- The engine that works for a command: the core whose memories it reaches, and the owner tag. -/
structure Who where
  core : CoreId
  ctx : Ctx
  gen : Nat
  deriving DecidableEq, Repr

def Who.spad (w : Who) : Sram := ⟨false, w.core.val⟩
def Who.store (w : Who) : Sram := ⟨true, w.core.val / 8⟩
/-- The memory of a descriptor space: 2 SCRATCHPAD, 3 CLUSTER_STORE (R133). -/
def Who.sram (w : Who) (space : Nat) : Sram := if space = 3 then w.store else w.spad

/-- Read on-core memory; a poisoned word ends the command with RP_SRAM_UNCORRECTABLE (R489). -/
def sramRead (w : Who) (m : Sram) (o n : Nat) : M (List Byte) := do
  let x := (← get).sram
  if n ≠ 0 ∧ (x.poisonOf m).any (fun k => decide (m.wordKey o ≤ k ∧ k ≤ m.wordKey (o + n - 1))) then
    throw (.code 5 0xB0)
  else pure (x.readBytes m w.ctx.val w.gen o n)

/-- Write on-core memory under the owner tag. -/
def sramWrite (w : Who) (m : Sram) (o : Nat) (bs : List Byte) : M Unit :=
  modify (fun s => { s with
    sram := SramSt.writeWords m w.ctx.val w.gen (bs.length / 64 + 2) s.sram o bs })

/-! ### Descriptor fields (R132, R133) -/

namespace DReg

/-- A descriptor register at kernel start: invalid (R66). -/
def invalid : DReg := ⟨0xF, none, List.replicate 6 0, none, none, none⟩

/-- `n` bytes at a byte offset of the descriptor. -/
def get (d : DReg) (o n : Nat) : Nat := bitsOf d.raw.toNat (8 * o) (8 * n)
def ctrl (d : DReg) (lo n : Nat) : Nat := bitsOf d.raw.toNat lo n
def etype (d : DReg) : Nat := d.ctrl 0 4
def rank (d : DReg) : Nat := d.ctrl 4 3
def layout (d : DReg) : Nat := d.ctrl 8 2
def view (d : DReg) : Nat := d.ctrl 10 2
def space (d : DReg) : Nat := d.ctrl 12 3
def placement (d : DReg) : Nat := d.ctrl 16 2
def sblk (d : DReg) : Nat := if d.ctrl 18 2 = 1 then 32 else 16
def scaleDim (d : DReg) : Nat := d.ctrl 20 3
def cls (d : DReg) : Nat := d.ctrl 24 4
def tracker (d : DReg) : Bool := d.ctrl 28 1 == 1
def readOnly (d : DReg) : Bool := d.ctrl 29 1 == 1
def bits (d : DReg) : Nat := ebits d.etype
def tile0 (d : DReg) : Nat := bitsOf (d.get 4 1) 0 4
def tile1 (d : DReg) : Nat := bitsOf (d.get 4 1) 4 4
def base (d : DReg) : Nat := d.get 8 8
def size (d : DReg) (k : Nat) : Nat := d.get (0x10 + 4 * k) 4
def stride (d : DReg) (k : Nat) : Int := signOf 48 (d.get (0x28 + 6 * k) 6)
def finePtr (d : DReg) : Nat := d.get 0x50 8
def coarsePtr (d : DReg) : Nat := d.get 0x58 8
def viewByte (d : DReg) (o n : Nat) : Nat := d.get (0x60 + o) n
def isDevice (d : DReg) : Bool := decide (d.space ≤ 1)
def packed (d : DReg) : Bool := decide (d.bits < 8)

/-- The dimensions below rank. -/
def dims (d : DReg) : List Nat := upTo d.rank

/-- A pointer in the form of the space names these bits only (R134). -/
def ptrReserved (d : DReg) (p : Nat) : Bool :=
  match d.space with
  | 0 => decide (2 ^ 57 ≤ p)
  | 1 => false
  | 2 => decide (2 ^ 22 ≤ p)
  | _ => decide (2 ^ 24 ≤ p)

/-- Where a pointer lies: an address for DEVICE_VA, an offset in the object for HANDLE, an offset of the
on-core memory (R134). -/
def ptrOffset (d : DReg) (p : Nat) : Nat := if d.space = 1 then p / 2 ^ 32 * 32 else p

/-- The address that an offset of the space stands for: a HANDLE offset counts from its object. -/
def addressIn (d : DReg) (obj : Option HandleObj) (o : Int) : Int :=
  match d.space, obj with
  | 1, some b => b.address + o
  | _, _ => o

/-- The address of an offset of the base's object. -/
def address (d : DReg) (o : Int) : Int := d.addressIn d.obj o

/-- The number of offsets of the space or object (R134, R147). -/
def limitIn (d : DReg) (obj : Option HandleObj) : Nat :=
  match d.space with
  | 0 => 2 ^ 57
  | 1 => match obj with
    | some b => b.size
    | none => 0
  | 2 => 2 ^ 22
  | _ => 2 ^ 24

/-- Any reserved field or code is non-zero (R147). -/
def reservedSet (d : DReg) : Bool :=
  d.ctrl 7 1 != 0 || d.layout == 3 || decide (2 ≤ d.view) || decide (4 ≤ d.space) || d.ctrl 15 1 != 0
    || decide (2 ≤ d.ctrl 18 2) || d.ctrl 23 1 != 0 || d.ctrl 30 2 != 0 || d.get 5 3 != 0
    || d.get 0x4C 4 != 0 || d.get 0x70 16 != 0
    || (upTo 6).any (fun k => decide (d.rank ≤ k) && (d.size k != 0 || d.stride k != 0))
    || d.ptrReserved d.base || d.ptrReserved d.finePtr || d.ptrReserved d.coarsePtr
    || (d.view == 1 && d.viewByte 0xC 4 != 0)

/-- A base or pointer is misaligned (R135, R136). In HANDLE form the test is of the pointer, not of the address it gives
(log 114). -/
def misaligned (d : DReg) : Bool :=
  let a := d.ptrOffset d.base
  let c := d.ptrOffset d.coarsePtr
  a % (if d.isDevice then 32 else 64) != 0
    || (d.coarsePtr != 0 && c % (if d.tracker then 128 else 4) != 0)

/-- The conditions of DIAG (R141). -/
def diagOk (d : DReg) : Bool :=
  d.space == 2 && decide (2 ≤ d.rank) && d.base % 1024 == 0
    && d.stride 0 == (if d.packed then 0 else ((d.bits / 8 : Nat) : Int))
    && decide (d.stride 1 % 64 = 0 ∧ 64 ≤ d.stride 1 ∧ d.stride 1 ≤ 1024)
    && decide (((d.size 0 * d.bits + 7) / 8 : Nat) ≤ (d.stride 1).toNat)
    && d.dims.all (fun k => decide (k < 2) || d.stride k % 1024 == 0)

/-- The conditions of CONV (R143), or an empty view field for PLAIN. -/
def viewOk (d : DReg) : Bool :=
  if d.view = 0 then d.viewByte 0 16 == 0
  else
    (d.rank == 3 || d.rank == 4) && d.layout == 0
      && (upTo 6).all (fun o => decide (1 ≤ d.viewByte o 1 ∧ d.viewByte o 1 ≤ 16))
      && decide (d.viewByte 6 1 ≤ 15 ∧ d.viewByte 7 1 ≤ 15)
      && decide (1 ≤ d.viewByte 8 2 ∧ d.viewByte 8 2 ≤ 65534)
      && decide (1 ≤ d.viewByte 0xA 2 ∧ d.viewByte 0xA 2 ≤ 65534)

/-- The checks of R147 that need no handle, in order: the first that fails names the fault code. -/
def staticFault (d : DReg) : Option Nat :=
  let narrow := isNarrow d.etype
  if 0xA ≤ d.etype then some 0x03
  else if d.reservedSet then some 0x02
  else if d.rank = 0 ∨ d.rank = 7 then some 0x06
  else if d.dims.any (fun k => d.size k == 0xFFFFFFFF) then some 0x06
  else if d.misaligned then some 0x04
  else if (16 ≤ d.bits) && d.dims.any (fun k => d.stride k % ((d.bits / 8 : Nat) : Int) != 0) then some 0x06
  else if d.packed && d.layout != 1 && d.stride 0 != 0 then some 0x06
  else if d.layout = 1 ∧ ¬ (2 ≤ d.rank ∧ 3 ≤ d.tile0 ∧ d.tile0 ≤ 6 ∧ 3 ≤ d.tile1 ∧ d.tile1 ≤ 6) then some 0x06
  else if d.layout ≠ 1 ∧ d.get 4 1 ≠ 0 then some 0x06
  else if d.layout = 2 ∧ !d.diagOk then some 0x06
  else if !d.viewOk then some 0x06
  else if d.placement ≠ 3 ∧ !d.isDevice then some 0x06
  else if !narrow && (d.finePtr != 0 || d.ctrl 18 2 != 0 || d.scaleDim != 0 || d.tracker) then some 0x06
  else if d.rank ≤ d.scaleDim then some 0x06
  else none

/-- The least and greatest value of i × step for i from 0 to n - 1. -/
def span (n : Nat) (step : Int) : Int × Int :=
  let x := ((n : Int) - 1) * step
  (min 0 x, max 0 x)

/-- The candidates for the extreme bit offsets along a tiled dimension: first and last tile, first and last
element of each. -/
def tiledSpan (n t : Nat) (step inner : Int) : Int × Int :=
  let at' := fun (c : Nat) => ((c / t : Nat) : Int) * step * 8 + ((c % t : Nat) : Int) * inner
  let last := n - 1
  let cs := [0, min (t - 1) last, last / t * t, last] ++ (if t ≤ last / t * t then [last / t * t - 1] else [])
  (cs.foldl (fun m c => min m (at' c)) (at' 0), cs.foldl (fun m c => max m (at' c)) (at' 0))

/-- The first and last byte, from the base, that a coordinate within the sizes can address (R147); none when
a size is zero. -/
def extent (d : DReg) : Option (Int × Int) :=
  if d.dims.any (fun k => d.size k == 0) then none
  else
    let hi := (d.dims.filter (2 ≤ ·)).map (fun k => span (d.size k) (d.stride k))
    let lo0 := (hi.map (·.1)).sum
    let hi0 := (hi.map (·.2)).sum
    if d.layout = 2 then
      let r := (d.stride 1).toNat / 64
      let j := ((d.size 0 - 1) * d.bits) / 8 / 64
      some (lo0, hi0 + (((d.size 1 - 1) / 16 * r + j : Nat) : Int) * 1024 + 1023)
    else if d.layout = 1 then
      let b : Int := d.bits
      let t0 := 2 ^ d.tile0
      let x := tiledSpan (d.size 0) t0 (d.stride 0) b
      let y := tiledSpan (d.size 1) (2 ^ d.tile1) (d.stride 1) (b * t0)
      some (lo0 + (x.1 + y.1) / 8, hi0 + (x.2 + y.2 + b - 1) / 8)
    else
      let y := if 2 ≤ d.rank then span (d.size 1) (d.stride 1) else (0, 0)
      let x : Int × Int :=
        if d.packed then (0, ((d.size 0 * d.bits - 1) / 8 : Nat))
        else let z := span (d.size 0) (d.stride 0); (z.1, z.2 + ((d.bits / 8 : Nat) : Int) - 1)
      some (lo0 + y.1 + x.1, hi0 + y.2 + x.2)

/-- Entries of the fine-scale array along a dimension (R136). -/
def fineDim (d : DReg) (k : Nat) : Nat :=
  if k = d.scaleDim then ceilDiv (d.size k) d.sblk else d.size k

/-- Bytes of the fine-scale array. -/
def fineBytes (d : DReg) : Nat := (d.dims.map d.fineDim).prod

/-- Every byte that the descriptor can address lies in its space or object (R147). -/
def extentOk (d : DReg) : Bool :=
  let room := fun (obj : Option HandleObj) (a b : Int) =>
    decide (0 ≤ a ∧ b < d.limitIn obj ∧ d.addressIn obj b < 2 ^ 57)
  (match d.extent with
   | none => true
   | some (a, b) => let o := (d.ptrOffset d.base : Int); room d.obj (o + a) (o + b))
    && (d.finePtr == 0 || d.fineBytes == 0 ||
      (let o := (d.ptrOffset d.finePtr : Int); room d.fobj o (o + d.fineBytes - 1)))
    && (d.coarsePtr == 0 ||
      (let o := (d.ptrOffset d.coarsePtr : Int); room d.cobj o (o + (if d.tracker then 127 else 3))))

end DReg

/-- The object of a pointer in HANDLE form; an absent handle is BAD_DESCRIPTOR (R147). -/
def resolvePtr (c : Ctx) (p : Nat) : M (Option HandleObj) := do
  match ← handleLookup c (p % 2 ^ 32) with
  | some o => pure (some o)
  | none => throw (.code 2 0x06)

/-- Resolve a descriptor for a context (R147): the register with its handles' objects, or the fault. -/
def resolveDesc (c : Ctx) (raw : BitVec 1024) : M DReg := do
  let d : DReg := { DReg.invalid with raw := raw }
  if d.etype = 0xF then pure d
  else
    match d.staticFault with
    | some f => throw (.code 2 f)
    | none =>
      let d' ← (if d.space = 1 then do
          let o ← resolvePtr c d.base
          let f ← (if d.finePtr = 0 then pure none else resolvePtr c d.finePtr)
          let k ← (if d.coarsePtr = 0 then pure none else resolvePtr c d.coarsePtr)
          pure { d with obj := o, fobj := f, cobj := k }
        else pure d)
      if d'.extentOk then pure d' else throw (.code 2 0x06)

/-! ### Address generation (R137–R144) -/

namespace DReg

/-- The input coordinates of a view coordinate (R144). -/
def mapConv (d : DReg) (q p : Int) : Option (List Int) :=
  let cin : Int := d.size 0
  let kx : Int := d.viewByte 0 1
  let ky : Int := d.viewByte 1 1
  let ow : Int := d.viewByte 8 2
  let oh : Int := d.viewByte 0xA 2
  let n : Int := if d.rank = 4 then d.size 3 else 1
  if q < 0 ∨ cin * kx * ky ≤ q ∨ p < 0 ∨ ow * oh * n ≤ p then none
  else
    let ix := (q / cin) % kx
    let iy := q / (cin * kx)
    let ox := p % ow
    let oy := (p / ow) % oh
    some [q % cin, ox * d.viewByte 2 1 + ix * d.viewByte 4 1 - d.viewByte 6 1,
      oy * d.viewByte 3 1 + iy * d.viewByte 5 1 - d.viewByte 7 1, p / (ow * oh)]

/-- The tensor coordinates of local coordinates, or none outside the window (R137). -/
def coords (d : DReg) (l : List Int) : Option (List Int) :=
  let c := (upTo 6).map (fun k => d.origin.getD k 0 + l.getD k 0)
  let c' := if d.view = 1 then d.mapConv (c.getD 0 0) (c.getD 1 0) else some c
  c'.bind (fun c =>
    if d.dims.all (fun k => decide (0 ≤ c.getD k 0 ∧ c.getD k 0 < d.size k)) then some c else none)

/-- The byte, from the start of the space or object, and the bit in it of tensor coordinates in the window
(R137, R141). -/
def place (d : DReg) (c : List Int) : Int × Nat :=
  let x := fun k => c.getD k 0
  let b : Int := d.bits
  let a0 := (d.ptrOffset d.base : Int) + ((d.dims.filter (2 ≤ ·)).map (fun k => x k * d.stride k)).sum
  if d.layout = 2 then
    let byteInRow := (x 0).toNat * d.bits / 8
    let j := byteInRow / 64
    let r := (x 1).toNat
    let rr := (d.stride 1).toNat / 64
    (a0 + (((r / 16) * rr + j : Nat) : Int) * 1024 + (((r + j) % 16 * 64 + byteInRow % 64 : Nat) : Int),
      (x 0).toNat * d.bits % 8)
  else if d.layout = 1 then
    let t0 : Int := 2 ^ d.tile0
    let t1 : Int := 2 ^ d.tile1
    let e := (x 1 % t1) * t0 + x 0 % t0
    (a0 + (x 0 / t0) * d.stride 0 + (x 1 / t1) * d.stride 1 + e * b / 8, (e * b % 8).toNat)
  else
    let a := if 2 ≤ d.rank then a0 + x 1 * d.stride 1 else a0
    if d.packed then (a + x 0 * b / 8, (x 0 * b % 8).toNat)
    else (a + x 0 * d.stride 0, 0)

/-- Locate the element at local coordinates: byte offset and bit, or none outside the window (R137). -/
def locate (d : DReg) (l : List Int) : Option (Int × Nat) := (d.coords l).map d.place

/-- The block of the fine-scale array for tensor coordinates (R136). -/
def fineIndex (d : DReg) (c : List Int) : Nat :=
  (d.dims.reverse).foldl (fun a k =>
    let i := (c.getD k 0).toNat
    a * d.fineDim k + (if k = d.scaleDim then i / d.sblk else i)) 0

/-- The window's size along a dimension from the origin: local coordinates 0 … n - 1 can lie inside. -/
def windowSize (d : DReg) (k : Nat) : Int :=
  let full : Int :=
    if d.view = 1 then
      (if k = 0 then (d.size 0 * d.viewByte 0 1 * d.viewByte 1 1 : Nat)
       else if k = 1 then (d.viewByte 8 2 * d.viewByte 0xA 2 * (if d.rank = 4 then d.size 3 else 1) : Nat)
       else 1)
    else if k < d.rank then d.size k else 1
  full - d.origin.getD k 0

end DReg

/-! ### Elements in memory -/

/-! ### The transaction header (R26–R29, R35) -/

/-- The fields of a transaction header. -/
structure Header where
  context : Nat
  ctxGen : Nat
  queue : Nat
  queueGen : Nat
  scope : Nat
  placement : Nat
  stepParity : Nat
  deriving DecidableEq, Repr

/-- The 48 bits of a header (R26). -/
def Header.word (h : Header) : BitVec 48 :=
  BitVec.ofNat 48 (h.context % 2 ^ 11 + h.ctxGen % 2 ^ 12 * 2 ^ 11 + h.queue % 2 ^ 6 * 2 ^ 23 + h.queueGen % 2 ^ 8 * 2 ^ 29
    + h.scope % 2 ^ 2 * 2 ^ 37 + h.placement % 2 ^ 2 * 2 ^ 39 + h.stepParity % 2 * 2 ^ 41)

/-- The placement code of a target: its page's class, or 3 for a transaction that addresses no device memory (R27). -/
def State.placementOf (s : State) (dpa : Option Nat) : Nat :=
  match dpa.bind (windowOf s.mem.partNow) with
  | some w => w.cls
  | none => 3

/-- The header of a transaction of a queue's command. -/
def State.header (s : State) (c : Ctx) (gen : Nat) (q : QIdx) (scope : Nat) (dpa : Option Nat) (parity : Nat) : Header :=
  { context := c.val, ctxGen := gen, queue := q.val, queueGen := s.fld (F.qGen c q), scope := scope
    placement := s.placementOf dpa, stepParity := parity }

/-- The header of a core's transaction. One of a pooled command carries the parity of the step that its stage was started
for, also past the next tick: R29 gives that as the outcome, and R35 names the step of the cycle of issue (DEDUCED,
log 101). -/
def State.coreHeader (s : State) (k : Core) (scope : Nat) (dpa : Option Nat) : Header :=
  s.header k.ctx k.gen k.q scope dpa (if k.stage.isSome then k.parity else s.stepNo % 2)

/-- The header of a DMA request's transaction, and of a well command's. -/
def State.dmaHeader (s : State) (r : DmaReq) (dpa : Option Nat) : Header :=
  s.header r.ctx r.gen r.q 0 dpa (s.stepNo % 2)
def State.wellHeader (s : State) (w : WellCmd) (dpa : Option Nat) : Header :=
  s.header w.ctx w.gen w.q 0 dpa (s.stepNo % 2)

/-- The destination of a transaction takes it: both generations are current (R28). -/
def State.takes (s : State) (h : Header) : Bool :=
  match finOf 1025 h.context, finOf 64 h.queue with
  | some c, some q => s.genOf c == h.ctxGen && s.fld (F.qGen c q) == h.queueGen
  | _, _ => false

/-! ### Accesses of an engine, and the row aperture (R350) -/

/-- The batch table of a pooled command's stage and the row that an aperture address names. -/
def State.apertureOf (s : State) (w : Who) (va : Nat) : Option (Nat × Nat) :=
  (s.cores.find? w.core).bind fun k =>
    match k.stage with
    | some m =>
      if w.ctx = 0 ∧ va / 2 ^ 48 = 0x1FF then
        some (s.fld (F.mBatch m) + (s.coreHeader k 0 none).stepParity * 65536, va % 2 ^ 48 / 2 ^ 37)
      else none
    | none => none

/-- Record the first status of a row's aperture accesses in its table entry. -/
def recordRow (entry status : Nat) : M Unit := do
  let r ← attempt (do
    let old ← vaRead 0 (entry + 6) 1
    if leNat old = 0 then vaWrite 0 (entry + 6) (leBytes 1 status) else pure ())
  match r with
  | .ok _ => pure ()
  | .error _ => pure ()

/-- Make an access at a device virtual address for an engine: in the context of the command, or, through the
row aperture of a pooled command, in the context of the row, where a fault answers `dflt` (R350). -/
def accAt {α : Type} (w : Who) (va : Nat) (dflt : α) (f : Ctx → Nat → M α) : M α := do
  match (← get).apertureOf w va with
  | none => f w.ctx va
  | some (table, r) =>
    let rows := leNat (← vaRead 0 (table + 8) 2)
    let entry := table + 64 + 32 * r
    if rows ≤ r then pure dflt
    else
      let e ← vaRead 0 entry 4
      let gen := bitsOf (leNat e) 16 12
      match finOf 1025 (bitsOf (leNat e) 0 11) with
      | some c =>
        if (← get).genOf c = gen ∧ (← get).ctxLive c then
          match ← attempt (f c (va % 2 ^ 37)) with
          | .ok a => pure a
          | .error er => do
            recordRow entry er.status
            pure dflt
        else do
          recordRow entry (1 + Config.staleRowStatus (← fresh) % 14)
          pure dflt
      | none => pure dflt

/-- Read `n` bytes at an engine's device virtual address. -/
def accRead (w : Who) (va n : Nat) (need : Right) : M (List Byte) :=
  accAt w va (List.replicate n 0) (fun c a => vaReadAs c a n need)

/-- Write bytes at an engine's device virtual address. -/
def accWrite (w : Who) (va : Nat) (bs : List Byte) (need : Right) : M Unit :=
  accAt w va () (fun c a => vaWriteAs c a bs need)

/-- The pages of an access carry the placement class that the descriptor expects (R149). -/
def placedAs (c : Ctx) (va n cls : Nat) (need : Right) : M Unit := do
  if cls = 3 then pure ()
  else
    let ps ← translatePieces c va n need
    let parts := (← get).mem.partNow
    if ps.all (fun p => match windowOf parts p.1 with
        | some x => x.cls == cls
        | none => false) then pure () else throw .protection

/-- An object behind a HANDLE descriptor admits an access of the device's engines other than DMA: it is in
device memory and carries the right (R318, R149). -/
def objAllows (d : DReg) (obj : Option HandleObj) (right : Nat) : M Unit :=
  match d.space, obj with
  | 1, some o => do
    guardCode (o.kind == 1) 2 0x06
    if bitOf o.rights right then pure () else throw .protection
  | _, _ => pure ()

/-- Read `n` bytes at an offset of a descriptor's space, counted in an object where the form is HANDLE. `data`
tells an element or fine scale, to which the placement applies (R149). -/
def dscReadIn (w : Who) (d : DReg) (obj : Option HandleObj) (o : Int) (n : Nat) (data : Bool) :
    M (List Byte) := do
  if d.isDevice then do
    objAllows d obj 0
    accAt w (d.addressIn obj o).toNat (List.replicate n 0) fun c a => do
      placedAs c a n (if data then d.placement else 3) .r
      vaRead c a n
  else sramRead w (w.sram d.space) o.toNat n

/-- Read bytes of a descriptor's elements. -/
def dscRead (w : Who) (d : DReg) (o : Int) (n : Nat) : M (List Byte) := dscReadIn w d d.obj o n true

/-- Write bytes of a descriptor's elements. -/
def dscWrite (w : Who) (d : DReg) (o : Int) (bs : List Byte) : M Unit := do
  if d.isDevice then do
    objAllows d d.obj 1
    accAt w (d.address o).toNat () fun c a => do
      placedAs c a bs.length d.placement .w
      vaWrite c a bs
  else sramWrite w (w.sram d.space) o.toNat bs

/-- The byte after a byte of a row: in DIAG layout the last byte of a word is followed by the next word's first, a line and
a bank on (R141; a DIAG base and its higher strides are multiples of 1,024). -/
def DReg.byteAfter (d : DReg) (a : Int) : Int :=
  if d.layout = 2 ∧ a % 64 = 63 then a / 1024 * 1024 + 1024 + (a % 1024 / 64 + 1) % 16 * 64 else a + 1

/-- A run of n bytes from a byte of a row, as the runs that lie together: two where an element straddles two words of a DIAG
row. -/
def DReg.runs (d : DReg) (a : Int) (n : Nat) : List (Int × Nat) :=
  if n = 2 ∧ d.byteAfter a ≠ a + 1 then [(a, 1), (d.byteAfter a, 1)] else [(a, n)]

/-- Write bytes of an element in the runs that they take. -/
def writeRuns (w : Who) (d : DReg) (bs : List Byte) : List (Int × Nat) → M Unit
  | [] => pure ()
  | r :: t => do
    dscWrite w d r.1 (bs.take r.2)
    writeRuns w d (bs.drop r.2) t

/-- The encoding of the element at a located byte and bit. -/
def readAt (w : Who) (d : DReg) (p : Int × Nat) : M Nat := do
  let b ← mapM' (d.runs p.1 ((p.2 + d.bits + 7) / 8)) (fun r => dscRead w d r.1 r.2)
  pure (bitsOf (leNat b.flatten) p.2 d.bits)

/-- The bytes of on-core memory, or of device memory by right W, that a masked write merges into (R138). -/
def mergeBase (w : Who) (d : DReg) (o : Int) (n : Nat) : M (List Byte) := do
  if d.isDevice then accRead w (d.address o).toNat n .w
  else pure ((← get).sram.readBytes (w.sram d.space) w.ctx.val w.gen o.toNat n)

/-- Write one element's encoding; packed elements merge at bit granularity (R138). -/
def writeAt (w : Who) (d : DReg) (p : Int × Nat) (x : Nat) : M Unit := do
  let n := (p.2 + d.bits + 7) / 8
  if d.bits % 8 = 0 then dscWrite w d p.1 (leBytes n x)
  else
    let old ← mapM' (d.runs p.1 n) (fun r => mergeBase w d r.1 r.2)
    writeRuns w d (leBytes n (putBits (leNat old.flatten) p.2 d.bits x)) (d.runs p.1 n)

/-- The element at local coordinates, zero outside the window (R82). -/
def readElem (w : Who) (d : DReg) (l : List Int) : M Nat :=
  match d.locate l with
  | some p => readAt w d p
  | none => pure 0

/-- Write located elements in order; `done` are the places that the instruction has written, and the answer adds the
new ones. A place that is written again holds either value (R140). -/
def writePlaces (w : Who) (d : DReg) (done : List (Int × Nat)) (l : List ((Int × Nat) × Nat)) : M (List (Int × Nat)) :=
  foldM' l done (fun done c => do
    if done.contains c.1 then
      if Config.keepsFirst (← fresh) then pure () else writeAt w d c.1 c.2
    else writeAt w d c.1 c.2
    pure (c.1 :: done))

/-- Write the elements at local coordinates that lie in the window (R82), as `writePlaces`. -/
def writeElems (w : Who) (d : DReg) (done : List (Int × Nat)) (l : List (List Int × Nat)) : M (List (Int × Nat)) :=
  writePlaces w d done (l.filterMap (fun c => (d.locate c.1).map (fun p => (p, c.2))))

/-! ### Scale trackers (R122–R125) -/

/-- A tracker's fields as read from its 128 bytes. -/
structure Tracker where
  raw : List Byte
  deriving DecidableEq, Repr

namespace Tracker
def f (t : Tracker) (o n : Nat) : Nat := leNat ((t.raw.drop o).take n)
def coarse (t : Tracker) : Nat := t.f 0 4
def headroom (t : Tracker) : Val := ofFp32 (t.f 4 4)
def stepMax (t : Tracker) : Nat := t.f 8 4
def n (t : Tracker) : Nat := t.f 0xC 1
def etype (t : Tracker) : Nat := t.f 0xD 1
def cls (t : Tracker) : Nat := bitsOf (t.f 0xE 1) 0 4
def frozen (t : Tracker) : Bool := bitOf (t.f 0xF 1) 0
def lastStep (t : Tracker) : Nat := bitsOf (t.f 0x10 8) 0 48
def count (t : Tracker) : Nat := t.f 0x18 1
def next (t : Tracker) : Nat := t.f 0x19 1
def hist (t : Tracker) (k : Nat) : Nat := t.f (0x40 + 4 * k) 4

/-- Replace `n` bytes at an offset. -/
def put (t : Tracker) (o n x : Nat) : Tracker :=
  ⟨t.raw.take o ++ leBytes n x ++ t.raw.drop (o + n)⟩

/-- The conditions of R123. -/
def valid (t : Tracker) : Bool :=
  Val.le Val.one t.headroom && Val.le t.headroom (.fin false 8 1) && decide (1 ≤ t.n ∧ t.n ≤ 16)
    && isNarrow t.etype && decide (t.count ≤ t.n ∧ t.next < t.n)
    && bitsOf (t.f 0xE 1) 4 4 == 0 && bitsOf (t.f 0xF 1) 1 7 == 0 && bitsOf (t.f 0x10 8) 48 16 == 0
    && t.f 0x1A 38 == 0

/-- The roll of R124 at step s. -/
def roll (t : Tracker) (s : Nat) : Tracker :=
  if t.lastStep = s then t
  else
    let a := if Val.lt Val.zero (ofFp32 t.stepMax) then
        let u := t.put (0x40 + 4 * t.next) 4 t.stepMax
        let v := u.put 0x19 1 ((t.next + 1) % t.n)
        v.put 0x18 1 (min (t.count + 1) t.n)
      else t
    let b := (a.put 8 4 0).put 0x10 8 s
    if !b.frozen && decide (0 < b.count) then
      let h := (upTo b.count).foldl (fun m k => Val.max m (ofFp32 (b.hist k))) Val.zero
      b.put 0 4 (toFp32 (Val.div (Val.mul h b.headroom) (qmaxNum b.etype)))
    else b
end Tracker

/-- Read the tracker at an address of a context, rolled for this step (R124); none when it is not valid
(R123). The roll is the home pool cache's own write. -/
def useTracker (c : Ctx) (va : Nat) : M (Option Tracker) := do
  let t : Tracker := ⟨← vaRead c va 128⟩
  if t.valid then
    let r := t.roll (← get).stepNo
    if r ≠ t then vaWriteAs c va r.raw .r else pure ()
    pure (some r)
  else pure none

/-- Raise a tracker's step_max to a finite magnitude (R125). -/
def raiseStepMax (c : Ctx) (va : Nat) (x : Val) : M Unit := do
  let t : Tracker := ⟨← vaRead c va 128⟩
  if Val.lt (ofFp32 t.stepMax) x then vaWriteAs c (va + 8) (leBytes 4 (toFp32 x)) .r else pure ()

/-- A volatile load or atomic of a tracker's bytes finds it rolled (R124). Any 128 aligned bytes that hold a valid tracker
are one, whether an engine uses it or kernels alone (R125; log 68). -/
def rollTouched (c : Ctx) (va len : Nat) : M Unit :=
  eachM ((upTo ((va + len - 1) / 128 - va / 128 + 1)).map (fun i => (va / 128 + i) * 128)) (fun base => do
    let (dpa, _) ← translate c base .r
    if (Tracker.mk ((← get).mem.bytes.readList dpa 128)).valid then do
      let _ ← useTracker c base
      pure ()
    else pure ())

/-- The coarse scale of a descriptor and the class its counts go to (R119, R126). A tracker behind a descriptor of on-core
memory is rolled and kept there by the engine (R136; log 108). -/
def coarseOf (w : Who) (d : DReg) : M (Val × Nat) := do
  if d.coarsePtr = 0 ∨ !isNarrow d.etype then pure (Val.one, d.cls)
  else
    let o := d.ptrOffset d.coarsePtr
    if d.tracker ∧ d.isDevice then do
      objAllows d d.cobj 0
      match ← accAt w (d.addressIn d.cobj o).toNat none useTracker with
      | some t => pure (ofFp32 t.coarse, t.cls)
      | none => throw (.code 2 0x06)
    else if d.tracker then do
      let t : Tracker := ⟨← dscReadIn w d d.cobj o 128 false⟩
      if t.valid then do
        let r := t.roll (← get).stepNo
        sramWrite w (w.sram d.space) o r.raw
        pure (ofFp32 r.coarse, t.cls)
      else throw (.code 2 0x06)
    else do
      let b ← dscReadIn w d d.cobj o 4 false
      pure (ofFp32 (leNat b), d.cls)

/-- The fine scale of the block of tensor coordinates (R119, R136). -/
def fineOf (w : Who) (d : DReg) (c : List Int) : M Val := do
  if d.finePtr = 0 ∨ !isNarrow d.etype then pure Val.one
  else
    let b ← dscReadIn w d d.fobj ((d.ptrOffset d.finePtr : Int) + d.fineIndex c) 1 true
    pure (fineNum (leNat b))

/-! ### Lanes -/

/-- The value of lane i, w bits wide, of a register. -/
def laneOf {n : Nat} (v : BitVec n) (w i : Nat) : Nat := bitsOf v.toNat (w * i) w

/-- A register from its lanes, lane 0 lowest. -/
def packLanes (w : Nat) : List Nat → Nat
  | [] => 0
  | x :: t => x % 2 ^ w + 2 ^ w * packLanes w t

/-- A 256-byte register from its lanes. -/
def ofLanes (w : Nat) (l : List Nat) : BitVec 2048 := BitVec.ofNat 2048 (packLanes w l)

/-- Packed elements of w bits as bytes. -/
def packBytes (w : Nat) (l : List Nat) : List Byte := leBytes ((w * l.length + 7) / 8) (packLanes w l)

end Sys2Proof.Machine
end

