-- ==== Sys2Proof/Machine/Routing.lean ====
section
/-! DEFINITION. Sending over the Jelucy fabric: flits, credits and frame counters of a port, the route table, trunks,
hops, and the messages kept until their reply arrives (R420–R429). -/

namespace Sys2Proof.Machine

/-! ### Flits of a port (R420–R424) -/

/-- The bytes of a list as numbers. -/
def natBytes (bs : List Byte) : List Nat := bs.map BitVec.toNat

def State.portOf (s : State) (p : Port) : PortSt := s.fab.ports.getD p .down

/-- Update what the state lists for a port. -/
def modPort (p : Port) (f : PortSt → PortSt) : M Unit :=
  modify (fun s => { s with fab := { s.fab with ports := s.fab.ports.insert p (f (s.portOf p)) } })

/-- The virtual channel of a message type (R427). -/
def vcOf (type : Nat) : Fin 4 :=
  if type = 1 ∨ type = 2 ∨ type = 4 ∨ type = 10 then 1 else if type = 3 ∨ type = 5 then 2 else if type = 6 then 3 else 0

/-- The flits of a message, 224 payload bytes each; `fuel` flits. -/
def flitsOf (type : Nat) : Nat → Bool → List Byte → List SentFlit
  | 0, _, _ => []
  | k + 1, som, bs =>
    let f : SentFlit :=
      { seq := none, vc := vcOf type, type := type, som := som, eom := bs.length ≤ 224, payload := bs.take 224 }
    if bs.length ≤ 224 then [f] else f :: flitsOf type k false (bs.drop 224)

/-- The 16 bytes of a flit header (R422). -/
def flitHeader (ctl type seq ack credit frame length : Nat) : List Byte :=
  leBytes 1 ctl ++ leBytes 1 type ++ leBytes 2 seq ++ leBytes 2 ack ++ leBytes 2 credit ++ leBytes 4 frame
    ++ leBytes 2 length ++ leBytes 2 0

/-- The byte ctl of a flit header (R422). -/
def flitCtl (vc : Fin 4) (som eom epoch idle : Bool) : Nat :=
  vc.val + b2n som * 4 + b2n eom * 8 + b2n epoch * 16 + b2n idle * 32

/-- The key generation of a frame counter, and its EPOCH (R421). -/
def frameGen (frame : Nat) : Nat := frame / 2 ^ 32
def frameEpoch (frame : Nat) : Bool := frameGen frame % 2 == 1

/-- The nonce of a frame: the link identifier, then the frame counter (R420). -/
def State.flitNonce (s : State) (p : Port) (frame : Nat) : Nat := s.fld (F.linkId p) + frame % 2 ^ 64 * 2 ^ 32

/-- A flit may be sent now: a resent one; else one with a place in the retry buffer and, once the port has entered UP,
credit on its channel. -/
def PortSt.sendable (x : PortSt) (f : SentFlit) : Bool :=
  f.seq.isSome ||
    ((!x.entered || decide (0 < nthD x.credits f.vc.val 0)) && (f.type == 7 || decide (x.retry.length < 1024)))

/-- The flit that leaves at the next boundary: a BEACON, then channel 0, then the others (R423). -/
def PortSt.nextFlit (x : PortSt) : Option SentFlit :=
  (x.wait.find? (fun f => f.type == 7 && x.sendable f)).or
    ((x.wait.find? (fun f => f.vc == 0 && x.sendable f)).or (x.wait.find? x.sendable))

/-- The first frame counter of the generation after the last one agreed (R421). -/
def PortSt.frameEnd (x : PortSt) : Nat := (x.keyGen + 1) * 2 ^ 32

/-- A direction's counter stands at `frame`; at the end of its last generation it holds (R421). -/
def noteFrame (p : Port) (frame : Nat) : M Unit := do
  let x := (← get).portOf p
  modPort p (fun y => { y with txFrame := frame })
  putFld (F.txFrames p) frame
  if frame = x.frameEnd then putFlag (F.keyHold p) true else pure ()

/-- The idle flits sent since the last look have passed: the frame counter (R420, R422). -/
def passIdle (p : Port) : M Nat := do
  let x := (← get).portOf p
  let n ← fresh
  let frame := min (x.txFrame + Config.idleFlits n) x.frameEnd
  noteFrame p frame
  pure frame

/-- A flit leaves with a frame counter: its sequence number, its credit and its place in the retry buffer. Before the keys
it is unencrypted (R418); then it is sealed under the key of its generation (R420, R421). -/
def sendFlit (p : Port) (f : SentFlit) (frame : Nat) : M Unit := do
  let s ← get
  let x := s.portOf p
  let numbered := f.seq.isNone && f.type != 7
  let g : SentFlit := if numbered then { f with seq := some x.txSeq } else f
  let head := flitHeader (flitCtl g.vc g.som g.eom (frameEpoch frame) false) g.type (g.seq.getD 0)
    ((x.rxSeq + 4095) % 4096) 0 frame g.payload.length
  modPort p (fun y => { y with
    wait := y.wait.erase f
    txSeq := if numbered then (y.txSeq + 1) % 4096 else y.txSeq
    credits := if f.seq.isNone && y.entered then setNth y.credits f.vc.val (nthD y.credits f.vc.val 0 - 1) else y.credits
    retry := if f.type = 7 then y.retry else y.retry ++ [g] })
  let key := (AMap.find? x.keys (frameGen frame)).map (·.1)
  emit (.flit p g head (key.map (fun k =>
    Config.gcmSeal k (s.flitNonce p frame) (natBytes head) (natBytes g.payload))))

/-- Send what can be sent; at most `fuel` flits. Without the key of the next generation the direction holds (R421). -/
def sendFlits (p : Port) : Nat → M Unit
  | 0 => pure ()
  | k + 1 => do
    let x := (← get).portOf p
    match x.nextFlit with
    | none => pure ()
    | some f =>
      if x.keys.isEmpty then do
        sendFlit p f 0
        sendFlits p k
      else do
        let frame ← passIdle p
        if x.frameEnd ≤ frame then pure ()
        else do
          sendFlit p f frame
          noteFrame p (frame + 1)
          sendFlits p k

/-- Send everything that waits at a port. -/
def drainPort (p : Port) : M Unit := do sendFlits p ((← get).portOf p).wait.length

/-- A message leaves through a port. -/
def transmit (p : Port) (type : Nat) (bytes : List Byte) : M Unit := do
  modPort p (fun x => { x with wait := x.wait ++ flitsOf type (bytes.length / 224 + 1) true bytes })
  drainPort p

/-! ### Routes (R425, R426) -/

/-- A route entry: four steps with their reserved bits zero, step 0 VALID (R3, R425). -/
def routeOk (b : List Byte) : Bool :=
  bitOf (leNat (b.take 4)) 4 && (upTo 4).all (fun i => bitsOf (leNat ((b.drop (4 * i)).take 4)) 5 11 == 0)

/-- The four steps of the route to a device, or none: the table is not valid, its read faults, or the entry is no route
(R425, R426). -/
def routeTo (dst : Nat) : M (Option (List W32)) := do
  let s ← get
  if !s.flag F.rtValid then pure none
  else
    match ← attempt (vaRead 0 (bitsOf (s.reg .jlRtbase) 12 45 * 4096 + 16 * dst) 16) with
    | .error _ => pure none
    | .ok b =>
      if routeOk b then
        pure (some ((upTo 4).map (fun i => BitVec.ofNat 32 (leNat ((b.drop (4 * i)).take 4)))))
      else pure none

/-- Bits of a route step: port, VALID, end device. -/
def stepPort (w : W32) : Nat := w.toNat % 16
def stepValid (w : W32) : Bool := bitOf w.toNat 4
def stepEnd (w : W32) : Nat := bitsOf w.toNat 16 16

/-- The ports of the trunk that holds a port: those of its die with the same TRUNK (R425). -/
def State.trunkOf (s : State) (p : Nat) : List Port :=
  match finOf 16 p with
  | none => []
  | some a => (List.finRange 16).filter (fun b =>
      b.val / 4 == a.val / 4 && s.fld (F.portTrunk b) == s.fld (F.portTrunk a))

/-- The first UP Jelucy port of a trunk. -/
def State.trunkUp (s : State) (p : Nat) : Option Port :=
  (s.trunkOf p).find? (fun b => s.fld (F.portMode b) == 0 && s.fld (F.portState b) == 4)

/-- The 32 bytes of a message header (R428). -/
def hdrBytes (h : MsgHdr) : List Byte :=
  leBytes 2 h.dst.toNat ++ leBytes 2 h.src.toNat ++ leBytes 2 h.dstCtx.toNat ++ leBytes 2 h.srcCtx.toNat
    ++ leBytes 4 h.id.toNat ++ leBytes 2 h.hops.toNat ++ leBytes 1 h.step.toNat ++ leBytes 1 0
    ++ (upTo 4).flatMap (fun i => leBytes 4 (nthD h.route i 0).toNat)

/-- Trace a routed message at its source (0x07) or its destination (0x08): kind, the device at the other end, and its
context (R552, R553). -/
def traceMsg (kind type : Nat) (p : Port) (id dev own other : Nat) (again : Bool) : M Unit := do
  let s ← get
  if bitOf (s.fld F.trTypeMask) type ∧ id % 2 ^ s.fld F.trSample = 0 then
    trace (some 2) kind (p.val / 4) own id (dev + type * 2 ^ 16 + p.val * 2 ^ 24 + b2n again * 2 ^ 32) other
  else pure ()

/-- Send a message with its route in place from its source (R425): it leaves, or it is dropped. -/
def launch (type : Nat) (h : MsgHdr) (body : List Byte) (again : Bool) : M Unit := do
  let s ← get
  if h.dst.toNat = s.fld F.deviceId then emit (.msg type h body)
  else
    let h' := { h with hops := h.hops + 1 }
    if s.fld F.maxHops < h'.hops.toNat then bump F.misroute
    else
      match s.trunkUp (stepPort (h.route.headD 0)) with
      | none => bump F.misroute
      | some p => do
        emit (.msg type h' body)
        transmit p type (hdrBytes h' ++ body)
        traceMsg 7 type p h.id.toNat h.dst.toNat h.srcCtx.toNat h.dstCtx.toNat again

/-- Send a routed message; a WRITE, READ or SIGNAL is kept until its reply arrives. With no route it is
undelivered at once (R426, R429). The answer is its identifier. -/
def sendRouted (type dst dstCtx srcCtx : Nat) (body : List Byte) (eng : Option (DmaEng × Nat × Nat × Nat)) :
    M (Option Nat) := do
  let s ← get
  let id := s.fab.nextId
  set { s with fab := { s.fab with nextId := id + 1 } }
  match ← routeTo dst with
  | none => do
    bump F.e2eFail
    pure none
  | some r => do
    let h : MsgHdr :=
      { dst := BitVec.ofNat 16 dst, src := BitVec.ofNat 16 (s.fld F.deviceId), dstCtx := BitVec.ofNat 11 dstCtx,
        srcCtx := BitVec.ofNat 11 srcCtx, id := id, hops := 0, step := 0, route := r }
    if type = 1 ∨ type = 2 ∨ type = 4 then
      modify (fun s => { s with fab := { s.fab with
        sent := s.fab.sent ++ [{ id := id.toNat, type := type, hdr := h, resent := false, eng := eng, body := body }] } })
    else pure ()
    launch type h body false
    pure (some id.toNat)

/-- The body of a WRITE or READ (R428): window, offset, length, and data. -/
def accessBody (window offset len : Nat) (data : List Byte) : List Byte :=
  leBytes 4 window ++ leBytes 4 0 ++ leBytes 8 offset ++ leBytes 4 len ++ leBytes 4 0 ++ data

end Sys2Proof.Machine
end

