-- ==== Sys2Proof/Machine/Commands.lean ====
section
/-! DEFINITION. Commands in flight: finding them, their cores and work, and the shared operations that end a
command, remove its work from every engine and abort a job (R102, R335, R405, R406, R343). -/

namespace Sys2Proof.Machine

/-! ### Finding and changing -/

def State.queueOf (s : State) (c : Ctx) (q : QIdx) : QueueSt := s.queues.getD (c, q) .empty

def modQueue (c : Ctx) (q : QIdx) (f : QueueSt → QueueSt) : M Unit :=
  modify (fun s => { s with queues := s.queues.insert (c, q) (f (s.queueOf c q)) })

/-- The command of a queue whose entry has a count. -/
def State.cmdOf (s : State) (c : Ctx) (q : QIdx) (idx : W32) : Option Cmd :=
  (s.queueOf c q).cmds.find? (fun x => x.idx == idx)

def modCmd (c : Ctx) (q : QIdx) (idx : W32) (f : Cmd → Cmd) : M Unit :=
  modQueue c q (fun x => { x with cmds := x.cmds.map (fun y => if y.idx = idx then f y else y) })

/-- Field calibration gives one lane (1), channel (2) or sensor (3) new values (R539). -/
def recalibrate (kind a b : Nat) : M Unit := do
  let n ← fresh
  modify (fun s => { s with pow := { s.pow with fieldCal := s.pow.fieldCal.insert (kind, a, b) (Config.calibrated n) } })

/-- The factory's values apply to it (R540). -/
def toFactory (kind a b : Nat) : M Unit :=
  modify (fun s => { s with pow := { s.pow with fieldCal := s.pow.fieldCal.erase (kind, a, b) } })

/-- The calibration values in force of a lane, channel or sensor: the field's, else the factory's (R539). -/
def State.calibration (s : State) (kind a b : Nat) : Nat :=
  (s.pow.fieldCal.find? (kind, a, b)).getD (s.sec.factory.getD (kind, a, b) 0)

/-- What a factory record names: every optical lane, channel and sensor (R539). -/
def calibrationKeys : List (Nat × Nat × Nat) :=
  (upTo 16).flatMap (fun a => (upTo 9).map (fun b => (1, a, b)))
    ++ (upTo 16).flatMap (fun a => (upTo 32).map (fun b => (2, a, b))) ++ (upTo 56).map (fun a => (3, a, 0))

/-- The bytes of the factory calibration area of OTP (R463, R539). -/
def SecSt.calibrationArea (x : SecSt) : List Byte :=
  leBytes 2 calibrationKeys.length ++ leBytes 6 0 ++ calibrationKeys.flatMap (fun k =>
    leBytes 1 k.1 ++ leBytes 1 0 ++ leBytes 1 k.2.1 ++ leBytes 1 k.2.2 ++ leBytes 28 (x.factory.getD k 0))

/-- The reference to a SYSTEM command of context 0. -/
def State.sysRef (s : State) (q : QIdx) (idx : W32) : SysRef := (q, s.fld (F.qGen 0 q), idx)

/-- The SYSTEM command that a reference names, while its queue's generation stands. -/
def State.sysCmd (s : State) (r : SysRef) : Option Cmd :=
  if s.fld (F.qGen 0 r.1) = r.2.1 then s.cmdOf 0 r.1 r.2.2 else none

/-- End a SYSTEM command, if it still runs. -/
def endSys (r : SysRef) (status fault : Nat) : M Unit := do
  match (← get).sysCmd r with
  | some x =>
    if x.ending.isNone then
      modCmd 0 r.1 r.2.2 (fun y => { y with phase := .ended, ending := some ⟨status, fault, none⟩ })
    else pure ()
  | none => pure ()

/-- The state with a core's state changed; a core that runs nothing has none. -/
def State.onCore (s : State) (n : CoreId) (f : Core → Core) : State :=
  match s.cores.find? n with
  | some k => { s with cores := s.cores.insert n (f k) }
  | none => s

def modCore (n : CoreId) (f : Core → Core) : M Unit := modify (fun s => s.onCore n f)

def modModel (m : Model) (f : ModelSt → ModelSt) : M Unit :=
  modify (fun s => { s with
    sched := { s.sched with models := s.sched.models.insert m (f (s.sched.models.getD m .idle)) } })

def State.modelOf (s : State) (m : Model) : ModelSt := s.sched.models.getD m .idle

def modJob (c : Ctx) (f : JobSt → JobSt) : M Unit :=
  modify (fun s => match s.jobs.find? c with
    | some j => { s with jobs := s.jobs.insert c (f j) }
    | none => s)

def State.dmaOf (s : State) (e : DmaEng) : DmaEngSt := s.dma.getD e .idle
def DmaEngSt.chan (x : DmaEngSt) (ch : Nat) : DmaCh := x.chans.getD ch .empty
def State.chanOf (s : State) (e : DmaEng) (ch : Nat) : DmaCh := (s.dmaOf e).chan ch

def modChan (e : DmaEng) (ch : Nat) (f : DmaCh → DmaCh) : M Unit :=
  modify (fun s =>
    let x := s.dmaOf e
    { s with dma := s.dma.insert e { x with chans := x.chans.insert ch (f (x.chan ch)) } })

/-- What a core runs for: a command of a queue, or a stage of a model instance (R343). -/
inductive Work where
  | cmd (c : Ctx) (q : QIdx) (idx : W32)
  | stage (m : Model)
  deriving DecidableEq, Repr

def Core.work (k : Core) : Work :=
  match k.stage with
  | some m => .stage m
  | none => .cmd k.ctx k.q k.idx

/-- The cores of a command, in order of logical number. -/
def State.coresOf (s : State) (w : Work) : List CoreId :=
  (List.finRange 384).filter (fun n => match s.cores.find? n with
    | some k => k.work == w
    | none => false)

/-- The engine that works for a core's command. -/
def Core.who (k : Core) (n : CoreId) : Who := ⟨n, k.ctx, k.gen⟩

/-! ### Counters (R543, R544) -/

def State.cntOf (s : State) (n : CoreId) : CntSet := s.obs.cores.getD n .zero

def CntSet.add (x : CntSet) (k amount : Nat) : CntSet :=
  { x with cnt := setNth x.cnt k (satAdd (2 ^ 64 - 2) (nthD x.cnt k 0) amount) }

/-- Count an amount on a core's counter k. -/
def countCore (n : CoreId) (k amount : Nat) : M Unit :=
  modify (fun s => { s with
    obs := { s.obs with cores := s.obs.cores.insert n ((s.cntOf n).add k amount) } })

def State.chanCnt (s : State) (d : Die) (ch : Nat) : CntSet := s.obs.chans.getD (d, ch) .zero

/-- Count an amount on a die channel's counter k. -/
def countChan (d : Die) (ch k amount : Nat) : M Unit :=
  modify (fun s => { s with
    obs := { s.obs with chans := s.obs.chans.insert (d, ch) ((s.chanCnt d ch).add k amount) } })

/-- The end latch of a core (R544), kept for the counter record. The counts of cycles are free values. -/
def latchCore (n : CoreId) : M Unit := do
  let t ← sampleTime
  let a ← fresh
  let s ← get
  match s.cores.find? n with
  | none => pure ()
  | some k =>
    let x := ((s.cntOf n).add 0 (Config.cycles a)).add 4 (Config.bankWait a)
    let y := { x with endT := t, endS := s.stepNo, ended := true, width := s.fld (F.mxWidth n) }
    set { s with
      obs := { s.obs with
        cores := s.obs.cores.insert n y
        latched := if k.stage.isNone then s.obs.latched.insert (k.ctx, k.q, k.idx, k.rank) (n.val, y)
                   else s.obs.latched } }

/-! ### Derived register fields -/

/-- WL_STATUS.QUEUED of every well named by a queued command, and of well x. -/
def refreshWell (x : WellId) : M Unit :=
  modify (fun s => s.setFld (F.wlQueued x)
    (min 255 ((s.wells.queue.filter (fun w => w.named == x)).length)))

/-- CL_ENGd.PENDING and JOBS (R410). -/
def refreshEng (d : Die) : M Unit :=
  modify (fun s =>
    let js := s.jobs.filter (fun p => p.2.die == d)
    let n := (js.map (fun p => (p.2.ops.map (fun o => o.2.length)).sum)).sum
    (s.setFld (F.engPending d) (if s.fld (F.engPending d) = 0xFFFF then 0xFFFF else min 0xFFFF n)).setFld (F.engJobs d)
      (min 0xFFFF js.length))

/-- DM_CHc.QUEUED and BUSY (R307). -/
def refreshChan (e : DmaEng) (ch : Nat) : M Unit :=
  modify (fun s => match e, finOf 32 ch with
    | .die d, some k =>
      let own := (s.dmaOf e).own.filter (fun o => o.1 == ch)
      (s.setFld (F.dmQueued d k) (min 4 ((s.chanOf e ch).reqs.length + own.length))).setFlag (F.dmBusy d k)
        ((s.chanOf e ch).reqs.any (fun r => !r.waits.isEmpty) || !own.isEmpty)
    | _, _ => s)

/-- The device begins a transfer of its own on a die engine: a free choice of channel 24–31 that has a place (R293). -/
def beginOwn (d : Die) (use : OwnUse) : M Unit := do
  let a ← fresh
  let x := (← get).dmaOf (.die d)
  let free := (upTo 8).map (24 + ·) |>.filter (fun ch => decide ((x.own.filter (fun o => o.1 == ch)).length < 4))
  let ch := nthD free (Config.ownChannel a % free.length) 24
  modify (fun s => { s with dma := s.dma.insert (.die d) { x with own := x.own ++ [(ch, use)] } })
  refreshChan (.die d) ch

/-- A transfer of its own leaves the die engines that carry it, which have moved so many bytes (R307, R543). -/
def endOwn (use : OwnUse) (bytes : Die → Nat) : M Unit :=
  eachM (List.finRange 4) (fun d => do
    let x := (← get).dmaOf (.die d)
    match x.own.find? (fun o => o.2 == use) with
    | some o => do
      modify (fun s => { s with dma := s.dma.insert (.die d) { x with own := x.own.filter (fun y => y.2 != use) } })
      bumpBy (F.dmBytes d) (bytes d)
      countChan d o.1 0 (bytes d)
      refreshChan (.die d) o.1
    | none => pure ())

/-! ### Records on a die channel (R294, R305) -/

/-- A command starts on a die channel: its counters are zero and its start latch is taken (R543, R544). -/
def startOnChannel (d : Die) (ch : Nat) : M Unit := do
  let t ← sampleTime
  modify (fun s => { s with obs := { s.obs with
    chans := s.obs.chans.insert (d, ch) { CntSet.zero with startT := t, startS := s.stepNo } } })

/-- Let waiting records of DMA commands enter a die channel as places free, in the order of their placement. -/
def enterRecords (d : Die) (ch : Fin 32) : Nat → M Unit
  | 0 => pure ()
  | f + 1 => do
    let s ← get
    if 4 ≤ (s.chanOf (.die d) ch.val).reqs.length then pure ()
    else
      let waiting := s.queues.flatMap (fun p =>
        p.2.cmds.filterMap (fun c =>
          if c.die = d ∧ c.chan = some ch ∧ c.ending.isNone then
            c.recLeft.head?.map (fun r => (p.1.1, p.1.2, c.idx, r))
          else none))
      match waiting with
      | [] => pure ()
      | w :: rest =>
        let best := rest.foldl (fun b x => if x.2.2.2.order < b.2.2.2.order then x else b) w
        let first := match s.cmdOf best.1 best.2.1 best.2.2.1 with
          | some c => c.recLeft.length == c.count
          | none => false
        modCmd best.1 best.2.1 best.2.2.1 (fun c => { c with recLeft := c.recLeft.drop 1 })
        if first then startOnChannel d ch.val else pure ()
        modChan (.die d) ch.val (fun x => { x with reqs := x.reqs ++ [{ best.2.2.2 with first := first }] })
        enterRecords d ch f

/-! ### Removing work (R102, R197, R306, R335) -/

/-- An endpoint's object lies in host memory. -/
def hostSide (o : Option HandleObj) : Option HandleObj := o.filter (fun x => x.kind == 2)

/-- What the writes of dropped requests still owe (R284): the answers to peer writes that have been sent; and, where host
writes have been sent, that of a read of length zero that follows them. -/
def oweWrites (rs : List DmaReq) : M (List Nat) := do
  let s ← get
  let peer := (rs.flatMap (·.waits)).filter (fun w =>
    w % 2 == 1 && s.fab.sent.any (fun m => m.id == w / 2 && m.type == 1))
  match rs.findSome? (fun r => if r.done = 0 then none else
      ((hostSide (if r.op = 4 then r.dx.obj else r.dstObj)).or (if r.stored then hostSide r.sumObj else none)).map
        (fun o => (r.ctx, o.address))) with
  | none => pure peer
  | some (c, a) => do
    let id := (← get).cxl.nextReq
    modify (fun s => { s with cxl := { s.cxl with
      reqs := s.cxl.reqs ++ [HostReq.mk id c a 0 [] .flush], nextReq := id + 1 } })
    emit (.hostReq id a 0 false)
    pure (peer ++ [2 * id])

/-- A host request serves one of the cores. -/
def HostReq.ofCores (r : HostReq) (ns : List CoreId) : Bool :=
  match r.use with
  | .load n => ns.contains n
  | .store n => ns.contains n
  | .atomic n _ _ _ _ => ns.contains n
  | .dmaRead (.core n) _ _ _ => ns.contains n
  | .dmaWrite (.core n) _ _ => ns.contains n
  | _ => false

/-- A channel that drops the requests that `p` names; its chain state is cleared with them (R305, R306). -/
def DmaCh.dropReqs (x : DmaCh) (p : DmaReq → Bool) : DmaCh :=
  if x.reqs.any p then
    { x with
      reqs := x.reqs.filter (fun r => !p r)
      chain := none }
  else x

/-- Remove cores from the machine with all their work on other engines. -/
def dropCores (ns : List CoreId) : M Unit := do
  eachM ns latchCore
  let s0 ← get
  set { s0 with
    cores := s0.cores.filter (fun p => !ns.contains p.1)
    wells := { s0.wells with
      queue := s0.wells.queue.filter (fun w => !ns.contains w.core)
      run := s0.wells.run.filter (fun p => !ns.contains p.2.cmd.core) }
    dma := s0.dma.map (fun (p : DmaEng × DmaEngSt) => match p.1 with
      | .core n =>
        if ns.contains n then
          (p.1, { p.2 with chans := p.2.chans.map (fun (c : Nat × DmaCh) => (c.1, c.2.dropReqs (fun _ => true))) })
        else p
      | .die _ => p)
    cxl := { s0.cxl with reqs := s0.cxl.reqs.filter (fun r => !r.ofCores ns) }
    jobs := s0.jobs.map (fun (p : Ctx × JobSt) => (p.1, { p.2 with
      ops := p.2.ops.map (fun (o : Nat × List ClOp) => (o.1, o.2.filter (fun x => !ns.contains x.core))) })) }
  eachM ((s0.wells.queue.filter (fun w => ns.contains w.core)).map (·.named)) refreshWell
  eachM (s0.jobs.map (fun p => p.2.die)) refreshEng

/-- A DMA request of a command of a queue, not of a core. -/
def DmaReq.ofCmd (r : DmaReq) (c : Ctx) (q : QIdx) (idx : W32) : Bool :=
  r.core.isNone && r.ctx == c && r.q == q && r.idx == idx

/-- The end latch of a channel at the end of a request (R544), kept for the counter record. -/
def latchChan (d : Die) (ch : Nat) (c : Ctx) (q : QIdx) (idx : W32) : M Unit := do
  let t ← sampleTime
  let s ← get
  match s.cmdOf c q idx with
  | none => pure ()
  | some x =>
    let y := { s.chanCnt d ch with endT := t, endS := s.stepNo, ended := true }
    set { s with obs := { s.obs with
      chans := s.obs.chans.insert (d, ch) y
      latched := s.obs.latched.insert (c, q, idx, x.recDone) (d.val * 32 + ch, y) } }

/-- Remove the requests of a DMA command from the die engines; records of other commands enter the places that this frees
(R294). -/
def dropDma (c : Ctx) (q : QIdx) (idx : W32) : M Unit := do
  let s0 ← get
  let hit := fun (e : DmaEng) (ch : Nat) => (s0.chanOf e ch).reqs.any (fun r => r.ofCmd c q idx)
  eachM (List.finRange 4) fun d =>
    eachM (List.finRange 32) fun ch =>
      if hit (.die d) ch.val then latchChan d ch.val c q idx else pure ()
  let s1 ← get
  set { s1 with
    dma := s1.dma.map (fun (p : DmaEng × DmaEngSt) => (p.1, { p.2 with
      chans := p.2.chans.map (fun (x : Nat × DmaCh) => (x.1, x.2.dropReqs (fun r => r.ofCmd c q idx))) }))
    cxl := { s1.cxl with reqs := s1.cxl.reqs.filter (fun r => match r.use with
      | .dmaRead (.die d) ch o _ => !(s0.chanOf (.die d) ch).reqs.any (fun r => r.order == o && r.ofCmd c q idx)
      | .dmaWrite (.die d) ch o => !(s0.chanOf (.die d) ch).reqs.any (fun r => r.order == o && r.ofCmd c q idx)
      | _ => true) } }
  eachM (List.finRange 4) fun d =>
    eachM (List.finRange 32) fun ch =>
      if hit (.die d) ch.val then do
        enterRecords d ch 4
        refreshChan (.die d) ch.val
      else pure ()

/-! ### Ending -/

/-- The detail of TICK_OVERRUN (R354). -/
def overrunDetail (m : Model) (declared fault : Bool) (endUs : Nat) : Nat :=
  m.val + b2n declared * 2 ^ 8 + b2n fault * 2 ^ 9 + min 0xFFFFFF endUs * 2 ^ 40

/-- Raise TICK_OVERRUN in the system context and each context with rows in the step (R30). -/
def raiseOverrun (m : Model) (detail : Nat) : M Unit := do
  let s ← get
  let orders := (s.modelOf m).rows.map (·.order)
  let cs := ((s.sched.reqs.filter (fun r => orders.contains r.order)).map (·.ctx)).eraseDups
  eachM (cs.filter (fun c => c ≠ 0)) (fun c => raiseEvent c 0x01 c.val detail)
  raiseEvent 0 0x01 0 detail

/-- A fault in a stage ends the instance's step (R343). -/
def faultStage (m : Model) (fault : Nat) : M Unit := do
  let s ← get
  dropCores (s.coresOf (.stage m))
  raiseOverrun m (overrunDetail m false true 0)
  let orders := (s.modelOf m).rows.map (·.order)
  modify (fun s => { s with
    sched := { s.sched with
      reqs := s.sched.reqs.map (fun r => if orders.contains r.order then { r with deferredLast := true } else r) } })
  modModel m (fun x => { x with stepOpen := false, stageRuns := false, rows := [] })
  putFlag (F.mEnable m) false
  putFld (F.mFault m) fault

/-- End a command's work on every engine. The first ending of a command stands (R102, R502). -/
def stopWork (w : Work) (e : Ending) : M Unit := do
  match w with
  | .stage m => faultStage m e.fault
  | .cmd c q idx =>
    match (← get).cmdOf c q idx with
    | none => pure ()
    | some x =>
      if x.ending.isSome then pure ()
      else do
        let ns := (← get).coresOf w
        let owed ← oweWrites ((← get).dma.flatMap (fun (p : DmaEng × DmaEngSt) =>
          p.2.chans.flatMap (fun ch => ch.2.reqs.filter (fun r => match p.1 with
            | .core n => ns.contains n
            | .die _ => r.ofCmd c q idx))))
        modCmd c q idx (fun y => { y with phase := .ended, ending := some e, recLeft := [], holds := owed })
        dropCores ns
        dropDma c q idx

/-- The commands that have pending operations of a job, each once. -/
def State.jobWorks (s : State) (j : JobSt) : List Work :=
  ((j.ops.flatMap (·.2)).filterMap (fun o => (s.cores.find? o.core).map Core.work)).eraseDups

/-- The job of a context aborts (R405, R406): every command with a pending operation ends, the job becomes
ABORTED, and, where this member found the cause, an abort goes to the members. -/
def abortJob (c : Ctx) (code : Nat) (found : Bool) : M Unit := do
  match (← get).jobs.find? c with
  | none => pure ()
  | some j =>
    if j.aborted then pure ()
    else do
      eachM ((← get).jobWorks j) (fun w => stopWork w ⟨0x0A, 0x77, none⟩)
      modJob c (fun x => { x with aborted := true, ops := [] })
      putFld (F.clState c) 3
      bump F.clAborts
      refreshEng j.die
      if found then
        eachM (j.table.zipIdx.filter (fun m => m.2 ≠ j.rank)) (fun m => do
          let _ ← sendRouted 8 m.1.1 m.1.2 c.val
            (leBytes 4 j.job.toNat ++ leBytes 2 j.rank ++ leBytes 1 code ++ leBytes 1 0) none
          pure ())
      else pure ()

/-- End a command: its work is removed, and the job of an operation that is removed with it aborts. -/
def endWork (w : Work) (e : Ending) : M Unit := do
  let s ← get
  let ns := s.coresOf w
  let hit := s.jobs.filter (fun p => p.2.ops.any (fun o => o.2.any (fun x => ns.contains x.core)))
  stopWork w e
  eachM hit (fun p => abortJob p.1 e.fault true)

/-- End a command of a queue. -/
def endCmd (c : Ctx) (q : QIdx) (idx : W32) (e : Ending) : M Unit := endWork (.cmd c q idx) e

/-- End the command that a core runs. -/
def endCore (n : CoreId) (e : Ending) : M Unit := do
  match (← get).cores.find? n with
  | some k => endWork k.work e
  | none => pure ()

/-- Return a token of a class (0 MX, 1 GL, 2 DMA, 3 WL, 4 CL) to a core (R74). -/
def returnToken (n : CoreId) (cls : Nat) : M Unit :=
  modCore n (fun k => { k with pend := setNth k.pend cls (nthD k.pend cls 0 - 1) })

/-! ### Units (R491, R493, R510) -/

/-- The unit takes no work now: it owes a self-test, or is retired for good. -/
def State.unitHeld (s : State) (u : HwUnit) : Bool := s.rep.needTest.contains u || s.rep.retiredUnits.contains u

/-- RP_RETIRE commands that wait for a resource (kind and number) complete. -/
def finishRetire (kind number : Nat) : M Unit := do
  let k := kind * 65536 + number
  eachM ((← get).rep.retireWait.filter (fun r => r.2 == k)) (fun r => endSys r.1 0 0)
  modify (fun s => { s with rep := { s.rep with retireWait := s.rep.retireWait.filter (fun r => r.2 ≠ k) } })

/-! ### Identity of a repair (R511) -/

/-- RP_MAP_DATA: the record that the index names. -/
def refreshMapData : M Unit := modify (fun s => s.setReg .rpMapData (nthD s.rep.map (s.fld F.mapIndex) 0))

/-- The map's records change; RP_MAP_COUNT and RP_MAP_DATA follow. The map holds 8,191 records (R512). -/
def setMap (f : List Nat → List Nat) : M Unit := do
  modify (fun s => { s with rep := { s.rep with map := (f s.rep.map).take 8191 } })
  putFld F.mapCount ((← get).rep.map.length)
  refreshMapData

/-- Put a record into the ascending map. -/
def mapInsert (d : Nat) (m : List Nat) : List Nat :=
  if 8191 ≤ m.length then m else (m.filter (fun x => decide (x ≤ d))) ++ [d] ++ m.filter (fun x => decide (d < x))

/-- A REPAIR detail (R511). -/
def repairDetail (kind : Nat) (exhausted : Bool) (die unit sub physical : Nat) : Nat :=
  kind + b2n exhausted * 16 + die * 2 ^ 8 + unit * 2 ^ 12 + sub * 2 ^ 20 + physical * 2 ^ 28

/-- The record of the repair in the map and, once the module is ready, the event REPAIR and its counts (R505, R511,
R512). -/
def raiseRepair (kind : Nat) (exhausted : Bool) (die unit sub physical : Nat) : M Unit := do
  let d := repairDetail kind exhausted die unit sub physical
  setMap (mapInsert d)
  if (← get).flag F.pwReady then do
    bump F.mapChanges
    bump F.repairs
    raiseEvent 0 0x04 0 d
  else pure ()

end Sys2Proof.Machine
end

