-- ==== Sys2Proof/Machine/Issue.lean ====
section
/-! DEFINITION. The sequencer of a core: instruction words, fetch, guards, decode faults, the scoreboard, the
registers of a core, and how a fault of an instruction ends its command (R64–R78, R101, R102). -/

namespace Sys2Proof.Machine

/-! ### Words and fields (R70, R71) -/

/-- The instruction word of a row that fixes major and minor. -/
def wordOf (major minor : Nat) (w : BitVec 50) : Nat := major * 2 ^ 56 + minor * 2 ^ 50 + w.toNat

/-- The instruction word of a row that fixes the major only. -/
def wordOf56 (major : Nat) (w : BitVec 56) : Nat := major * 2 ^ 56 + w.toNat

namespace Wd
def minor (x : Nat) : Nat := bitsOf x 50 6
def guard (x : Nat) : Nat := bitsOf x 0 4
/-- rd, or ra of format B, or vd -/
def f45 (x : Nat) : Nat := bitsOf x 45 5
/-- ra, or va of format V -/
def f40 (x : Nat) : Nat := bitsOf x 40 5
/-- rb, or vb of format V -/
def f35 (x : Nat) : Nat := bitsOf x 35 5
/-- rc, or vc of format V -/
def f30 (x : Nat) : Nat := bitsOf x 30 5
def etype (x : Nat) : Nat := bitsOf x 26 4
def mod (x : Nat) : Nat := bitsOf x 20 6
/-- imm36 or off36, signed -/
def imm36 (x : Nat) : Int := signOf 36 (bitsOf x 4 36)
def imm36u (x : Nat) : Nat := bitsOf x 4 36
def scope (x : Nat) : Nat := bitsOf x 38 2
def ord (x : Nat) : Nat := bitsOf x 36 2
def size (x : Nat) : Nat := bitsOf x 34 2
def imm30 (x : Nat) : Int := signOf 30 (bitsOf x 4 30)
def dx (x : Nat) : Nat := bitsOf x 46 4
def dy (x : Nat) : Nat := bitsOf x 42 4
def acc (x : Nat) : Nat := bitsOf x 36 2
def sa (x : Nat) : Nat := bitsOf x 31 5
def sb (x : Nat) : Nat := bitsOf x 26 5
def vaT (x : Nat) : Nat := bitsOf x 21 5
def mod6 (x : Nat) : Nat := bitsOf x 15 6
def imm11 (x : Nat) : Nat := bitsOf x 4 11
def pl (x : Nat) : Nat := bitsOf x 23 3
def zm (x : Nat) : Bool := bitOf x 22
def saV (x : Nat) : Nat := bitsOf x 17 5
def imm13 (x : Nat) : Nat := bitsOf x 4 13
end Wd

/-- Every bit of [49:4] outside the used fields is zero (R70). -/
def onlyUses (x : Nat) (used : List (Nat × Nat)) : Bool :=
  used.foldl (fun y f => putBits y f.1 f.2 0) (x % 2 ^ 50 / 16 * 16) == 0

/-- RESERVED_FIELD unless only the used fields are set. -/
def reservedUnless (x : Nat) (used : List (Nat × Nat)) : Option Nat :=
  if onlyUses x used then none else some 0x02

/-! ### Registers of a core (R66) -/

namespace Core
def getS (k : Core) (r : Nat) : W64 := if r = 0 then 0 else k.s.getD r 0
def setS (k : Core) (r : Nat) (v : W64) : Core := if r = 0 then k else { k with s := k.s.insert r v }
def getP (k : Core) (p : Nat) : BitVec 128 := if p = 0 then BitVec.allOnes 128 else k.p.getD p 0
def setP (k : Core) (p : Nat) (v : BitVec 128) : Core := if p = 0 then k else { k with p := k.p.insert p v }
def getV (k : Core) (v : Nat) : BitVec 2048 := k.v.getD v 0
def setV (k : Core) (r : Nat) (x : BitVec 2048) : Core := { k with v := k.v.insert r x }
def getD (k : Core) (d : Nat) : DReg := k.d.getD d DReg.invalid
def setD (k : Core) (r : Nat) (x : DReg) : Core := { k with d := k.d.insert r x }
/-- Row i of accumulator tile t. -/
def row (k : Core) (t i : Nat) : BitVec 2048 := k.acc.getD (t * 64 + i) 0
def setRow (k : Core) (t i : Nat) (x : BitVec 2048) : Core := { k with acc := k.acc.insert (t * 64 + i) x }
def jump (k : Core) (a : W64) : Core := { k with pc := a }

/-- The vector registers that an issued matrix or attention instruction will write (R96, R97). -/
def mxVectors (o : MxOp) : List Nat :=
  let va := Wd.vaT o.w.toNat
  if o.op = 9 ∨ o.op = 11 then [va, va + 1] else if o.op = 12 then [va] else []

def sBusy (k : Core) (r : Nat) : Bool :=
  k.gl.any (fun g => match g.dest with
    | .s r' _ => r' == r && r != 0
    | _ => false)
def vBusy (k : Core) (r : Nat) : Bool :=
  k.gl.any (fun g => match g.dest with
    | .v r' _ => r' == r
    | _ => false) || k.mxq.any (fun o => (mxVectors o).contains r)
def dBusy (k : Core) (r : Nat) : Bool :=
  k.gl.any (fun g => match g.dest with
    | .d r' _ => r' == r
    | .dRaw r' _ => r' == r
    | _ => false)

/-- Address lies on a word of the code region (R76, R77). -/
def inCode (k : Core) (a : Nat) : Bool := decide (k.codeBase ≤ a ∧ a + 8 ≤ k.codeBase + k.codeLen)
end Core

/-! ### Issue (R64, R65, R70) -/

/-- The guard holds: bit 0 of predicate g, or its complement with the negate bit (R67, R70). -/
def guardHolds (k : Core) (x : Nat) : Bool :=
  let g := Wd.guard x
  (bitOf (k.getP (g % 8)).toNat 0) != (8 ≤ g)

/-- Read the word at an address with right X, into the instruction buffer (R64). -/
def readWord (n : CoreId) (k : Core) (a : Nat) : M Nat := do
  let x := leNat (← accRead (k.who n) a 8 .x)
  modCore n (fun k => { k with ibuf := ((a, BitVec.ofNat 64 x) :: k.ibuf.filter (fun p => p.1 ≠ a)).take 8192 })
  pure x

/-- The instruction word at an address, where the row's word is `x`: from the instruction buffer, or fetched with right
X. A kernel that rewrites its own code runs the old or the new words (R64): a buffered word runs, and so does the one
that memory holds now. -/
def fetchWord (n : CoreId) (k : Core) (a x : Nat) : M Nat := do
  match k.ibuf.find? a with
  | some w =>
    if w.toNat = x then pure x
    else match ← attempt (readWord n k a) with
      | .ok y => pure y
      | .error _ => throw .wait
  | none => readWord n k a

/-- The fault code of an error in an instruction (R101). -/
def Err.coreCode : Err → Nat
  | .wait => 0 | .translation => 7 | .protection => 8 | .integrity => 9 | .code _ f => f

/-- A fault of an instruction ends its command and names the core and the pc (R101, R102). -/
def coreFault (n : CoreId) (pc : W64) (e : Err) : M Unit :=
  endCore n ⟨e.status, e.coreCode, some (n, pc)⟩

/-- Issue one instruction on a core: the core runs and is at a word of its code region, the word fetched there
is `x`; then decode faults, the guard, and the effect. The effect finds pc at the next instruction. -/
def issue (n : CoreId) (x : Nat) (bad : Option Nat) (body : Core → M Unit) : M Unit := do
  let k ← needSome ((← get).cores.find? n)
  guardWait (k.wait == .running && k.bar.isNone)
  guardWait (k.inCode k.pc.toNat)
  let r ← attempt (do
    let w ← fetchWord n k k.pc.toNat x
    guardWait (w == x)
    match bad with
    | some f => throw (.code 2 f)
    | none =>
      modCore n (fun k => k.jump (k.pc + 8))
      if guardHolds k x then body k else pure ())
  match r with
  | .ok _ => pure ()
  | .error e => coreFault n k.pc e

/-- Stall until the named registers have no pending write (R65). -/
def stallS (k : Core) (rs : List Nat) : M Unit := guardWait (!rs.any k.sBusy)
def stallV (k : Core) (rs : List Nat) : M Unit := guardWait (!rs.any k.vBusy)
def stallD (k : Core) (rs : List Nat) : M Unit := guardWait (!rs.any k.dBusy)

/-- An acquire that has not completed holds later memory instructions (R278). -/
def stallAcquire (k : Core) : M Unit := guardWait (k.gl.all (fun g => g.acq == 0))

/-- The loads and atomics, and the stores and atomics, that have not returned. -/
def Core.loadsOut (k : Core) : Bool := k.gl.any (fun g => match g.dest with
  | .none | .st .. => false
  | _ => true)
def Core.storesOut (k : Core) : Bool := k.gl.any (fun g => g.wr)

/-- Add `m` tokens of a class; a count that would pass 255 stalls the issue (R74). -/
def takeToken (n : CoreId) (cls m : Nat) : M Unit := do
  let k ← needSome ((← get).cores.find? n)
  guardWait (nthD k.pend cls 0 + m ≤ 255)
  modCore n (fun k => { k with pend := setNth k.pend cls (nthD k.pend cls 0 + m) })

/-- Bits of a value held in no more than n bits as a scalar. -/
def w64 (x : Nat) : W64 := BitVec.ofNat 64 x

/-- A predicate of all ones or all zeros. -/
def allPred (b : Bool) : BitVec 128 := if b then BitVec.allOnes 128 else 0

end Sys2Proof.Machine
end

