-- ==== Sys2Proof/Machine/Global.lean ====
section
/-! DEFINITION. Global accesses of a core: the read cache, the host aperture with its coherence cache, loads,
stores and atomics, and the return of their data (R89, R90, R94, R174, R273–R279, R289–R290, R447–R449). -/

namespace Sys2Proof.Machine

/-! ### The read cache (R174, R175) -/

/-- Bytes [lo, lo + n) of a 64-byte line, by its address. -/
def linePart (line : List Byte) (at' lo n : Nat) : List Byte := (line.drop (lo - at')).take n

/-- Put a line into a read cache of 512 sets of eight ways: a full set gives up one of its lines (R174). The set of a line
and the line given up are not stated (log 109). -/
def cacheInsert (c : AMap Nat (List Byte)) (pick l : Nat) (b : List Byte) : AMap Nat (List Byte) :=
  let ways := (c.filter (fun p => p.1 % 512 == l % 512 && p.1 != l)).map (·.1)
  let kept := if ways.length < 8 then c else c.erase (nthD ways (Config.evictLine pick % ways.length) 0)
  kept.insert l b

/-- The bytes at an address as the core sees them: its stores that have not taken effect stand over what was read
(R276). -/
def Core.forward (k : Core) (va : Nat) (bs : List Byte) : List Byte :=
  k.gl.foldl (fun b g => match g.dest with
    | .st a w => b.zipIdx.map (fun x => if a ≤ va + x.2 then w.getD (va + x.2 - a) x.1 else x.1)
    | _ => b) bs

/-- A store of the core to some of the bytes has not taken effect. -/
def Core.storing (k : Core) (va n : Nat) : Bool :=
  k.gl.any (fun g => match g.dest with
    | .st a w => decide (a < va + n ∧ va < a + w.length)
    | _ => false)

/-- One line for a plain load: from the read cache if it is still there, and otherwise from the home. -/
def readLine (n : CoreId) (k : Core) (l : Nat) : M (List Byte) := do
  let a ← fresh
  match ((← get).cores.find? n).bind (fun c => c.rcache.find? l) with
  | some b =>
    if Config.readCacheHit a then pure b
    else do
      let b := k.forward (64 * l) (← accRead (k.who n) (64 * l) 64 .r)
      modCore n (fun c => { c with rcache := cacheInsert c.rcache a l b })
      pure b
  | none => do
    let b := k.forward (64 * l) (← accRead (k.who n) (64 * l) 64 .r)
    modCore n (fun c => { c with rcache := cacheInsert c.rcache a l b })
    pure b

/-- A plain read of device memory by a core: its addresses are translated at the access (R149), its data come
line by line. -/
def plainRead (n : CoreId) (k : Core) (va len : Nat) : M (List Byte) := do
  accAt (k.who n) va () (fun c a => do let _ ← translatePieces c a len .r; pure ())
  let ls := (upTo ((va + len - 1) / 64 - va / 64 + 1)).map (fun i => va / 64 + i)
  let bs ← mapM' ls (readLine n k)
  pure ((bs.flatten.drop (va % 64)).take len)

/-- A store by the core updates the lines that its read cache holds. -/
def cacheStore (c : AMap Nat (List Byte)) (va : Nat) (bs : List Byte) : AMap Nat (List Byte) :=
  c.map (fun p => (p.1, p.2.zipIdx.map (fun x =>
    let a := 64 * p.1 + x.2
    if va ≤ a then bs.getD (a - va) x.1 else x.1)))

/-! ### The host aperture (R447–R449) -/

/-- The address lies in the host aperture. -/
def inHostAperture (va : Nat) : Bool := va / 2 ^ 48 == 0x1FE

/-- The host address of an access through the aperture (R447): rights in the bits of R318. -/
def hostAddress (c : Ctx) (va n rights : Nat) : M Nat := do
  match ← handleLookup c (va % 2 ^ 48 / 2 ^ 28) with
  | some o =>
    if o.kind = 2 ∧ va % 2 ^ 28 + n ≤ o.size then
      if o.rights &&& rights = rights then pure (o.address + va % 2 ^ 28) else throw .protection
    else throw .translation
  | none => throw .translation

/-- The lines of the coherence cache that an access touches. -/
def hostLines (addr n : Nat) : List Nat := (upTo ((addr + n - 1) / 64 - addr / 64 + 1)).map (fun i => addr / 64 + i)

/-- The bytes of an access, if the coherence cache holds every line of it; `dirty` asks for lines that it
holds exclusively and has written. -/
def CxlSt.cohRead (x : CxlSt) (fn : Ctx) (addr n : Nat) (dirty : Bool) : Option (List Byte) :=
  let ls := (hostLines addr n).map (fun l => x.coh.find? (fn, l))
  if ls.all (fun o => match o with
      | some (d, _) => d || !dirty
      | none => false) then
    some (((ls.flatMap (fun o => (o.map (·.2)).getD [])).drop (addr % 64)).take n)
  else none

/-- Evict one line of the set of line `l`, any other one (R448 does not say which); a dirty line is written back. -/
def cohEvict (l : Nat) : M Unit := do
  let k ← fresh
  let c := (← get).cxl.coh
  let ways : List ((Ctx × Nat) × Bool × List Byte) := c.filter (fun p => p.1.2 % 1024 == l % 1024 && p.1.2 != l)
  match ways[Config.evictLine k % ways.length]? with
  | some p => do
    if p.2.1 then emit (.hostWrite p.1.1 (64 * p.1.2) p.2.2) else pure ()
    modify (fun s => { s with cxl := { s.cxl with coh := s.cxl.coh.erase p.1 } })
  | none => pure ()

/-- The cache holds 1,024 sets of 16 lines (R448): the sets of the lines just filled give up what is too much. -/
def cohTrim (lines : List Nat) : M Unit := eachM lines (fun l => do
  let n := ((← get).cxl.coh.filter (fun p => p.1.2 % 1024 == l % 1024)).length
  eachM (upTo (n - 16)) (fun _ => cohEvict l))

/-- Put bytes into lines that the cache holds; they become dirty. -/
def CxlSt.cohWrite (x : CxlSt) (fn : Ctx) (addr : Nat) (bs : List Byte) : CxlSt :=
  { x with coh := x.coh.map (fun (p : (Ctx × Nat) × Bool × List Byte) =>
      if p.1.1 = fn ∧ (hostLines addr bs.length).contains p.1.2 then
        (p.1, true, p.2.2.zipIdx.map (fun b =>
          let a := 64 * p.1.2 + b.2
          if addr ≤ a then bs.getD (a - addr) b.1 else b.1))
      else p) }

/-- Install the lines that a host request returned. A line that is already dirty keeps its bytes. -/
def CxlSt.cohFill (x : CxlSt) (fn : Ctx) (addr n : Nat) (bs : List Byte) : CxlSt :=
  { x with coh := (hostLines addr n).zipIdx.foldl (fun (c : AMap (Ctx × Nat) (Bool × List Byte)) l =>
      match c.find? (fn, l.1) with
      | some (true, _) => c
      | _ => c.insert (fn, l.1) (false, (bs.drop (64 * l.2)).take 64)) x.coh }

/-- Send a request to host memory; the answer is its number. -/
def sendHost (fn : Ctx) (addr len : Nat) (data : List Byte) (use : HostUse) (write : Bool) : M Nat := do
  let s ← get
  let id := s.cxl.nextReq
  set { s with cxl := { s.cxl with
    reqs := s.cxl.reqs ++ [HostReq.mk id fn addr len data use]
    nextReq := id + 1 } }
  emit (.hostReq id addr len write)
  pure id

/-! ### Atomics (R94) -/

/-- What memory receives, for the minor opcodes 0x10–0x1A, on operands of `w` bits (R94). -/
def atomicNew (minor w old b c : Nat) : Nat :=
  let m := 2 ^ w
  let lt := fun (x y : Nat) => decide (signOf w x < signOf w y)
  match minor with
  | 0x10 => (old + b) % m
  | 0x11 => old &&& b
  | 0x12 => old ||| b
  | 0x13 => old ^^^ b
  | 0x14 => b
  | 0x15 => if lt old b then b else old
  | 0x16 => if lt b old then b else old
  | 0x17 => max old b
  | 0x18 => min old b
  | 0x19 => if old = b then c else old
  | _ => toFp32 ((ofFp32 old).add (ofFp32 b))

/-! ### Issue of global accesses -/

/-- List a global access as in flight. -/
def pushGl (n : CoreId) (g : GlPend) : M Unit := modCore n (fun k => { k with gl := k.gl ++ [g] })

/-- Give a destination its data. -/
def GlDest.fill (d : GlDest) (b : List Byte) : GlDest :=
  match d with
  | .s r _ => .s r (w64 (leNat b))
  | .v r _ => .v r (BitVec.ofNat 2048 (leNat b))
  | x => x

/-- How far a load's acquire goes: 0 none, 1 CORE scope, 2 wider (R278). -/
def acqLevel (acquire : Bool) (scope : Nat) : Nat := if acquire then (if scope = 0 then 1 else 2) else 0

/-- The data of a load of device memory: ord 0 plain, 1 acquire, 3 volatile (R90, R124, R174). A load at the home waits for
the core's own stores to the location. -/
def homeRead (n : CoreId) (k : Core) (va len ord : Nat) : M (List Byte) :=
  if ord = 0 then plainRead n k va len
  else do
    guardWait (!k.storing va len)
    accAt (k.who n) va (List.replicate len 0) (fun c a => do
      if ord = 3 then rollTouched c a len else pure ()
      vaRead c a len)

/-- A global load: ord 0 plain, 1 acquire, 3 volatile (R90, R273). Data that the host must send come later. -/
def globalLoad (n : CoreId) (k : Core) (va len ord scope : Nat) (dest : GlDest) : M Unit := do
  stallAcquire k
  takeToken n 1 1
  if ord = 3 then guardWait (!k.loadsOut) else pure ()
  countCore n 5 len
  let acq := acqLevel (ord == 1) scope
  if inHostAperture va then do
    let a ← hostAddress k.ctx va len 1
    match (← get).cxl.cohRead k.ctx a len false with
    | some b => pushGl n ⟨dest.fill b, false, none, k.pc, acq⟩
    | none => do
      let id ← sendHost k.ctx a len [] (.load n) false
      pushGl n ⟨dest, false, some id, k.pc, acq⟩
  else do
    let b ← homeRead n k va len ord
    pushGl n ⟨dest.fill b, false, none, k.pc, acq⟩

/-- A release of a scope wider than CORE waits for the core's earlier stores and atomics; inside CORE scope they are visible
already (R271, R277). -/
def releaseWait (k : Core) (release : Bool) (scope : Nat) : M Unit :=
  if release && scope != 0 then guardWait (!k.storesOut) else pure ()

/-- A store's address is translated and its rights are checked when it issues (R149). -/
def storeCheck (w : Who) (va n : Nat) : M Unit :=
  accAt w va () (fun c a => do let _ ← translatePieces c a n .w; pure ())

/-- A global store. It takes effect at its home when it returns, after or before other stores of the core (R276). -/
def globalStore (n : CoreId) (k : Core) (va : Nat) (bs : List Byte) (release : Bool) (scope : Nat) : M Unit := do
  stallAcquire k
  takeToken n 1 1
  releaseWait k release scope
  countCore n 5 bs.length
  if inHostAperture va then do
    let a ← hostAddress k.ctx va bs.length 2
    match (← get).cxl.cohRead k.ctx a bs.length true with
    | some _ => do
      modify (fun s => { s with cxl := s.cxl.cohWrite k.ctx a bs })
      pushGl n ⟨.none, true, none, k.pc, 0⟩
    | none => do
      let id ← sendHost k.ctx a bs.length bs (.store n) false
      pushGl n ⟨.none, true, some id, k.pc, 0⟩
  else do
    storeCheck (k.who n) va bs.length
    modCore n (fun c => { c with rcache := cacheStore c.rcache va bs })
    pushGl n ⟨.st va bs, true, none, k.pc, 0⟩

/-- Run an access without back-invalidating host copies (R289: an atomic below SYSTEM scope). -/
def ignoringHeld {α : Type} (m : M α) : M α := do
  let h := (← get).cxl.held
  modify (fun s => { s with cxl := { s.cxl with held := [] } })
  let r ← attempt m
  modify (fun s => { s with cxl := { s.cxl with held := h } })
  match r with
  | .ok a => pure a
  | .error e => throw e

/-- An atomic at its home: the old value is read and the new one written with rights R and W (R94, R289). -/
def homeAtomic (n : CoreId) (k : Core) (minor nb scope va b c : Nat) : M Nat :=
  let act := accAt (k.who n) va 0 (fun cx a => do
    rollTouched cx a nb
    let old := leNat (← vaReadAs cx a nb .rw)
    vaWriteAs cx a (leBytes nb (atomicNew minor (8 * nb) old b c)) .rw
    pure old)
  if scope = 2 then act else ignoringHeld act

/-- A global atomic, performed at the home or, on a host-resident object, in the coherence cache (R94, R289,
R290). -/
def globalAtomic (n : CoreId) (k : Core) (x : Nat) : M Unit := do
  let minor := Wd.minor x
  let mod := Wd.mod x
  let scope := mod % 4
  let nb := if mod / 16 = 2 then 4 else 8
  let va := (k.getS (Wd.f40 x)).toNat
  let b := (k.getS (Wd.f35 x)).toNat % 2 ^ (8 * nb)
  let c := (k.getS (Wd.f30 x)).toNat % 2 ^ (8 * nb)
  guardCode (va % nb == 0) 2 0x04
  stallAcquire k
  takeToken n 1 1
  releaseWait k (bitOf mod 3) scope
  countCore n 5 nb
  let acq := acqLevel (bitOf mod 2) scope
  let dest := fun (old : Nat) => GlDest.s (Wd.f45 x) (w64 old)
  if inHostAperture va then do
    let a ← hostAddress k.ctx va nb 3
    match (← get).cxl.cohRead k.ctx a nb true with
    | some o => do
      modify (fun s => { s with
        cxl := s.cxl.cohWrite k.ctx a (leBytes nb (atomicNew minor (8 * nb) (leNat o) b c)) })
      pushGl n ⟨dest (leNat o), true, none, k.pc, acq⟩
    | none => do
      let id ← sendHost k.ctx a nb [] (.atomic n minor (w64 b) (w64 c) nb) false
      pushGl n ⟨dest 0, true, some id, k.pc, acq⟩
  else do
    guardWait (!k.storing va nb)
    let old ← homeAtomic n k minor nb scope va b c
    modCore n (fun k => { k with rcache := k.rcache.erase (va / 64) })
    pushGl n ⟨dest old, true, none, k.pc, acq⟩

/-! ### Loads and stores -/

/-- The address of a MEM instruction: s(ra) + imm30 (R89). -/
def memAddress (k : Core) (x : Nat) : Nat := (k.getS (Wd.f40 x) + BitVec.ofInt 64 (Wd.imm30 x)).toNat

/-- The size of a scalar access in bytes. -/
def memSize (x : Nat) : Nat := 2 ^ Wd.size x

/-- An access to on-core memory is aligned and lies in the memory (R89). -/
def onCoreOk (m : Sram) (a n align : Nat) : M Unit := do
  guardCode (a % align == 0) 2 0x04
  guardCode (a + n ≤ m.size) 2 0x05

/-- The scope and ord of a global access, as decode faults (R90). -/
def ordBad (x : Nat) (used : List (Nat × Nat)) (ords : List Nat) : Option Nat :=
  if Wd.scope x = 3 ∨ !ords.contains (Wd.ord x) then some 0x02
  else reservedUnless x (used ++ [(38, 2), (36, 2)])

/-- Fields of a scalar form, and of a vector form. -/
def scalarUse : List (Nat × Nat) := [(45, 5), (40, 5), (34, 2), (4, 30)]
def vectorUse : List (Nat × Nat) := [(45, 5), (40, 5), (4, 30)]

/-- A scalar load from on-core memory. -/
def onCoreLoad (n : CoreId) (m : Sram) (x : Nat) (k : Core) : M Unit := do
  stallS k [Wd.f45 x, Wd.f40 x]
  onCoreOk m (memAddress k x) (memSize x) (memSize x)
  let b ← sramRead (k.who n) m (memAddress k x) (memSize x)
  modCore n (fun k => k.setS (Wd.f45 x) (w64 (leNat b)))

/-- A scalar store to on-core memory. -/
def onCoreStore (n : CoreId) (m : Sram) (x : Nat) (k : Core) : M Unit := do
  stallS k [Wd.f45 x, Wd.f40 x]
  onCoreOk m (memAddress k x) (memSize x) (memSize x)
  sramWrite (k.who n) m (memAddress k x) (leBytes (memSize x) (k.getS (Wd.f45 x)).toNat)

/-- A vector load from on-core memory. -/
def onCoreVLoad (n : CoreId) (m : Sram) (x : Nat) (k : Core) : M Unit := do
  stallS k [Wd.f40 x]
  stallV k [Wd.f45 x]
  onCoreOk m (memAddress k x) 256 64
  let b ← sramRead (k.who n) m (memAddress k x) 256
  modCore n (fun k => k.setV (Wd.f45 x) (BitVec.ofNat 2048 (leNat b)))

/-- A vector store to on-core memory. -/
def onCoreVStore (n : CoreId) (m : Sram) (x : Nat) (k : Core) : M Unit := do
  stallS k [Wd.f40 x]
  stallV k [Wd.f45 x]
  onCoreOk m (memAddress k x) 256 64
  sramWrite (k.who n) m (memAddress k x) (leBytes 256 (k.getV (Wd.f45 x)).toNat)

/-- A core's scratchpad and its cluster's store. -/
def padOf (n : CoreId) : Sram := ⟨false, n.val⟩
def storeOf (n : CoreId) : Sram := ⟨true, n.val / 8⟩

/-- ld.sp (R89). -/
def execLdSp (n : CoreId) (w : BitVec 50) (s : State) : Host.Outcome State Fault Refusal :=
  run (let x := wordOf 8 0 w
    issue n x (reservedUnless x scalarUse) (onCoreLoad n (padOf n) x)) s

/-- st.sp (R89). -/
def execStSp (n : CoreId) (w : BitVec 50) (s : State) : Host.Outcome State Fault Refusal :=
  run (let x := wordOf 8 1 w
    issue n x (reservedUnless x scalarUse) (onCoreStore n (padOf n) x)) s

/-- ld.cs (R89). -/
def execLdCs (n : CoreId) (w : BitVec 50) (s : State) : Host.Outcome State Fault Refusal :=
  run (let x := wordOf 8 2 w
    issue n x (reservedUnless x scalarUse) (onCoreLoad n (storeOf n) x)) s

/-- st.cs (R89). -/
def execStCs (n : CoreId) (w : BitVec 50) (s : State) : Host.Outcome State Fault Refusal :=
  run (let x := wordOf 8 3 w
    issue n x (reservedUnless x scalarUse) (onCoreStore n (storeOf n) x)) s

/-- ld.g (R89, R90, R273). -/
def execLdG (n : CoreId) (w : BitVec 50) (s : State) : Host.Outcome State Fault Refusal :=
  run (let x := wordOf 8 4 w
    issue n x (ordBad x scalarUse [0, 1, 3]) (fun k => do
      stallS k [Wd.f45 x, Wd.f40 x]
      guardCode (memAddress k x % memSize x == 0) 2 0x04
      globalLoad n k (memAddress k x) (memSize x) (Wd.ord x) (Wd.scope x) (.s (Wd.f45 x) 0))) s

/-- st.g (R89, R90, R277). -/
def execStG (n : CoreId) (w : BitVec 50) (s : State) : Host.Outcome State Fault Refusal :=
  run (let x := wordOf 8 5 w
    issue n x (ordBad x scalarUse [0, 2]) (fun k => do
      stallS k [Wd.f45 x, Wd.f40 x]
      guardCode (memAddress k x % memSize x == 0) 2 0x04
      globalStore n k (memAddress k x) (leBytes (memSize x) (k.getS (Wd.f45 x)).toNat) (Wd.ord x == 2)
        (Wd.scope x))) s

/-- vld.sp (R89). -/
def execVldSp (n : CoreId) (w : BitVec 50) (s : State) : Host.Outcome State Fault Refusal :=
  run (let x := wordOf 8 8 w
    issue n x (reservedUnless x vectorUse) (onCoreVLoad n (padOf n) x)) s

/-- vst.sp (R89). -/
def execVstSp (n : CoreId) (w : BitVec 50) (s : State) : Host.Outcome State Fault Refusal :=
  run (let x := wordOf 8 9 w
    issue n x (reservedUnless x vectorUse) (onCoreVStore n (padOf n) x)) s

/-- vld.cs (R89). -/
def execVldCs (n : CoreId) (w : BitVec 50) (s : State) : Host.Outcome State Fault Refusal :=
  run (let x := wordOf 8 0xA w
    issue n x (reservedUnless x vectorUse) (onCoreVLoad n (storeOf n) x)) s

/-- vst.cs (R89). -/
def execVstCs (n : CoreId) (w : BitVec 50) (s : State) : Host.Outcome State Fault Refusal :=
  run (let x := wordOf 8 0xB w
    issue n x (reservedUnless x vectorUse) (onCoreVStore n (storeOf n) x)) s

/-- vld.g (R89, R90). -/
def execVldG (n : CoreId) (w : BitVec 50) (s : State) : Host.Outcome State Fault Refusal :=
  run (let x := wordOf 8 0xC w
    issue n x (ordBad x vectorUse [0, 1, 3]) (fun k => do
      stallS k [Wd.f40 x]
      stallV k [Wd.f45 x]
      guardCode (memAddress k x % 32 == 0) 2 0x04
      globalLoad n k (memAddress k x) 256 (Wd.ord x) (Wd.scope x) (.v (Wd.f45 x) 0))) s

/-- vst.g (R89, R90). -/
def execVstG (n : CoreId) (w : BitVec 50) (s : State) : Host.Outcome State Fault Refusal :=
  run (let x := wordOf 8 0xD w
    issue n x (ordBad x vectorUse [0, 2]) (fun k => do
      stallS k [Wd.f40 x]
      stallV k [Wd.f45 x]
      guardCode (memAddress k x % 32 == 0) 2 0x04
      globalStore n k (memAddress k x) (leBytes 256 (k.getV (Wd.f45 x)).toNat) (Wd.ord x == 2) (Wd.scope x))) s

/-- A store takes effect at its home; an earlier store of the core to some of its bytes goes first. -/
def landStore (n : CoreId) (k : Core) (i : Nat) (g : GlPend) : M Unit :=
  match g.dest with
  | .st va bs => do
    guardWait (!Core.storing { k with gl := k.gl.take i } va bs.length)
    accWrite (k.who n) va bs .w
  | _ => pure ()

/-- Global data return: a store takes effect, or the register is written; an acquire completes, and the GL token returns
(R73, R276, R278). Data that the host has not sent do not return yet. -/
def execGlobalDataReturn (n : CoreId) (i : Nat) (s : State) : Host.Outcome State Fault Refusal :=
  run (do
    let k ← needSome ((← get).cores.find? n)
    let g ← needSome (k.gl[i]?)
    guardWait g.host.isNone
    match ← attempt (landStore n k i g) with
    | .ok _ => do
      modCore n (fun k =>
        let k := { k with gl := k.gl.eraseIdx i, rcache := if g.acq = 2 then [] else k.rcache }
        match g.dest with
        | .s r v => k.setS r v
        | .v r x => k.setV r x
        | .d r x => k.setD r x
        | _ => k)
      returnToken n 1
    | .error e => coreFault n g.pc e) s

/-! ### The atomics (R94) -/

/-- The decode fault of an atomic (R94). -/
def atomicBad (x : Nat) : Option Nat :=
  let mod := Wd.mod x
  if mod % 4 = 3 ∨ mod / 16 < 2 ∨ (Wd.minor x = 0x1A ∧ mod / 16 = 3) then some 0x02
  else reservedUnless x
    ([(45, 5), (40, 5), (35, 5), (20, 6)] ++ (if Wd.minor x = 0x19 then [(30, 5)] else []))

/-- Issue an atomic. -/
def issueAtomic (n : CoreId) (x : Nat) : M Unit :=
  issue n x (atomicBad x) (fun k => do
    stallS k ([Wd.f45 x, Wd.f40 x, Wd.f35 x] ++ (if Wd.minor x = 0x19 then [Wd.f30 x] else []))
    globalAtomic n k x)

/-- at.add -/
def execAtAdd (n : CoreId) (w : BitVec 50) (s : State) : Host.Outcome State Fault Refusal :=
  run (issueAtomic n (wordOf 0x0B 0x10 w)) s
/-- at.and -/
def execAtAnd (n : CoreId) (w : BitVec 50) (s : State) : Host.Outcome State Fault Refusal :=
  run (issueAtomic n (wordOf 0x0B 0x11 w)) s
/-- at.or -/
def execAtOr (n : CoreId) (w : BitVec 50) (s : State) : Host.Outcome State Fault Refusal :=
  run (issueAtomic n (wordOf 0x0B 0x12 w)) s
/-- at.xor -/
def execAtXor (n : CoreId) (w : BitVec 50) (s : State) : Host.Outcome State Fault Refusal :=
  run (issueAtomic n (wordOf 0x0B 0x13 w)) s
/-- at.swap -/
def execAtSwap (n : CoreId) (w : BitVec 50) (s : State) : Host.Outcome State Fault Refusal :=
  run (issueAtomic n (wordOf 0x0B 0x14 w)) s
/-- at.max -/
def execAtMax (n : CoreId) (w : BitVec 50) (s : State) : Host.Outcome State Fault Refusal :=
  run (issueAtomic n (wordOf 0x0B 0x15 w)) s
/-- at.min -/
def execAtMin (n : CoreId) (w : BitVec 50) (s : State) : Host.Outcome State Fault Refusal :=
  run (issueAtomic n (wordOf 0x0B 0x16 w)) s
/-- at.maxu -/
def execAtMaxu (n : CoreId) (w : BitVec 50) (s : State) : Host.Outcome State Fault Refusal :=
  run (issueAtomic n (wordOf 0x0B 0x17 w)) s
/-- at.minu -/
def execAtMinu (n : CoreId) (w : BitVec 50) (s : State) : Host.Outcome State Fault Refusal :=
  run (issueAtomic n (wordOf 0x0B 0x18 w)) s
/-- at.cas -/
def execAtCas (n : CoreId) (w : BitVec 50) (s : State) : Host.Outcome State Fault Refusal :=
  run (issueAtomic n (wordOf 0x0B 0x19 w)) s
/-- at.fadd -/
def execAtFadd (n : CoreId) (w : BitVec 50) (s : State) : Host.Outcome State Fault Refusal :=
  run (issueAtomic n (wordOf 0x0B 0x1A w)) s

end Sys2Proof.Machine
end

