-- ==== Sys2Proof/Machine/Matrix.lean ====
section
/-! DEFINITION. The matrix engine: its queue and stages, operand checks, and the matrix instructions (R82–R85,
R139, R142, R148, R154–R158). -/

namespace Sys2Proof.Machine

/-- The width of a core's arrays in force (R103, R176). -/
def State.widthOf (s : State) (n : CoreId) : Nat := s.fld (F.mxWidth n)

/-! ### Checks at issue (R83, R139, R148) -/

/-- stride[0] of a matrix or attention operand (R139). -/
def DReg.matrixStride (d : DReg) : Bool :=
  d.layout == 1 || d.stride 0 == (if d.packed then 0 else ((d.bits / 8 : Nat) : Int))

/-- A valid descriptor whose memory is one of the spaces, with the stride of a matrix operand. -/
def operandOk (d : DReg) (spaces : List Nat) (other : Err) : M Unit := do
  guardCode (decide (d.etype ≠ 0xF)) 2 0x06
  if spaces.contains d.space then pure () else throw other
  guardCode d.matrixStride 2 0x06

/-- The type code is one of those an instruction names. -/
def typeIn (d : DReg) (ts : List Nat) : M Unit := guardCode (ts.contains d.etype) 2 0x03

/-- A write through the descriptor is allowed (R144, R148). -/
def writableOk (d : DReg) : M Unit := do
  guardCode (decide (d.view ≠ 1)) 2 0x06
  if d.readOnly then throw .protection else pure ()

/-- A reduction of length k along a local dimension stays in the window (R82); a zero length does (R4). -/
def reductionOk (d : DReg) (dim k : Nat) : M Unit :=
  guardCode (k == 0 || decide ((k : Int) ≤ d.windowSize dim)) 2 0x05

/-- A scaled operand (R83). -/
def DReg.scaled (d : DReg) : Bool := isNarrow d.etype && d.finePtr != 0

/-- The origin of a scaled matrix operand lies on a block (R148). -/
def scaledOrigin (d : DReg) : M Unit :=
  guardCode (!d.scaled || d.origin.getD d.scaleDim 0 % (d.sblk : Int) == 0) 2 0x04

/-- K is a multiple of the block of a scaled operand (R83). -/
def scaledLength (d : DReg) (k : Nat) : M Unit := guardCode (!d.scaled || k % d.sblk == 0) 2 0x02

/-- The reduction depth per cycle of an operand pair, or none where mx.mma refuses the pair (R84, R154). -/
def pairDepth (a b : Nat) : Option Nat :=
  let f8 := fun t => t == 3 || t == 4
  let f6 := fun t => t == 5 || t == 6 || t == 7
  if a = 0 ∧ b = 0 then some 1
  else if f8 a && f8 b then some 2
  else if f6 a && f6 b then some 4
  else if a = 8 ∧ b = 8 then some 2
  else none

/-! ### The queue and the two stages (R157) -/

/-- The tiles that an O-mask selects, in ascending order (R96). -/
def maskTiles (x : Nat) : List Nat := (upTo 4).filter (fun t => bitOf (Wd.imm11 x) t)

/-- The tiles that an issued instruction names. -/
def MxOp.tiles (o : MxOp) : List Nat :=
  let x := o.w.toNat
  if o.op = 9 then Wd.acc x :: maskTiles x
  else if o.op = 11 ∨ o.op = 12 then maskTiles x
  else [Wd.acc x]

/-- It runs in the array stage. -/
def MxOp.array (o : MxOp) : Bool := o.op == 1 || o.op == 8 || o.op == 10

/-- Two instructions name a tile in common. -/
def MxOp.meets (a b : MxOp) : Bool := a.tiles.any (fun t => b.tiles.contains t)

/-- Which of the instructions after `before` can have started. Each stage takes instructions in issue order, and an
instruction starts when no earlier unfinished one names a tile of it; array-stage instructions chain behind one that has
started. -/
def mxStarts (before : List (MxOp × Bool)) : List MxOp → List Bool
  | [] => []
  | o :: rest =>
    let b := before.all (fun e => if e.1.array == o.array then o.array && e.2 else !e.1.meets o)
    b :: mxStarts (before ++ [(o, b)]) rest

/-- Instruction i can finish: it has started and no earlier one of its stage is unfinished. -/
def mxReady (q : List MxOp) (i : Nat) : Bool :=
  match q[i]? with
  | none => false
  | some o => (q.take i).all (fun e => e.array != o.array && !e.meets o)

/-- The number of instructions whose stage cannot have started them. -/
def mxWaiting (q : List MxOp) : Nat := (mxStarts [] q).count false

/-- Enter an instruction in the queue (R157): a full queue stalls the sequencer. -/
def pushMx (n : CoreId) (k : Core) (op : Nat) (x : Nat) (v : BitVec 2048) : M Unit := do
  guardWait (decide (mxWaiting k.mxq < 8))
  takeToken n 0 1
  modCore n (fun c => { c with mxq := c.mxq ++ [
    { op := op, w := BitVec.ofNat 50 x, sa := k.getS (Wd.sa x), sb := k.getS (Wd.sb x),
      dx := k.getD (Wd.dx x), dy := k.getD (Wd.dy x), v := v, pc := k.pc }] })

/-- The field of acc, and those of the scalar and descriptor operands of format T. -/
def useAcc : Nat × Nat := (36, 2)
def useDx : Nat × Nat := (46, 4)
def useDy : Nat × Nat := (42, 4)
def useSa : Nat × Nat := (31, 5)
def useSb : Nat × Nat := (26, 5)
def useVa : Nat × Nat := (21, 5)

/-! ### Elements and rows -/

/-- The value of the element at local coordinates, as it is widened (R119); zero outside the window (R82). -/
def valueAt (w : Who) (d : DReg) (coarse : Val) (l : List Int) : M Val :=
  match d.coords l with
  | none => pure Val.zero
  | some c => do
    let x ← readAt w d (d.place c)
    let f ← fineOf w d c
    pure (widen d.etype x f coarse)

/-- Rows × columns values, each at the local coordinates that `f` gives. -/
def readMatrix (w : Who) (d : DReg) (coarse : Val) (rows cols : Nat) (f : Nat → Nat → List Int) :
    M (List (List Val)) :=
  mapM' (upTo rows) (fun i => mapM' (upTo cols) (fun j => valueAt w d coarse (f i j)))

/-- The elements of row i of an operand that lie in the window. -/
def inWindow (d : DReg) (cols : Nat) (f : Nat → List Int) : Nat :=
  ((upTo cols).filter (fun j => (d.coords (f j)).isSome)).length

/-- The context that row i of a core's command is charged to (R126, R160): the context of the command; for a
pooled command, that of one of the batch rows, and the spec does not say which one row i of an array holds. -/
def rowContext (n : CoreId) (i : Nat) : M Ctx := do
  let s ← get
  match s.cores.find? n with
  | none => pure 0
  | some k =>
    match k.stage with
    | none => pure k.ctx
    | some m => do
      let a ← fresh
      let rs := (s.modelOf m).rows
      match rs[Config.pooledRow a i % (max 1 rs.length)]? with
      | none => pure k.ctx
      | some r => pure (((s.sched.reqs.find? (fun q => q.order == r.order)).map (·.ctx)).getD k.ctx)

/-- Counts that a core's instruction makes: to the context and class, and to csr.SAT_COUNT (R68, R126). -/
def coreCounts (n : CoreId) (c : Ctx) (cls sat nanc : Nat) : M Unit := do
  modCore n (fun k => { k with satCount := k.satCount + sat })
  addCounts c cls sat nanc

/-- Count the widenings that R120 turns into NaN: rows of a row-indexed operand to their contexts. -/
def countWidenRows (n : CoreId) (d : DReg) (coarse : Val) (cls rows cols : Nat) (f : Nat → Nat → List Int) :
    M Unit :=
  if isNarrow d.etype && coarseBad coarse then
    eachM (upTo rows) (fun i => do addCounts (← rowContext n i) cls 0 (inWindow d cols (f i)))
  else pure ()

/-- Count the widenings of a shared operand to the context of the command. -/
def countWiden (c : Ctx) (d : DReg) (coarse : Val) (cls rows cols : Nat) (f : Nat → Nat → List Int) : M Unit :=
  if isNarrow d.etype && coarseBad coarse then
    addCounts c cls 0 ((upTo rows).map (fun i => inWindow d cols (f i))).sum
  else pure ()

/-- Row i of tile t with the columns below W replaced (R83). -/
def Core.putRow (k : Core) (t i W : Nat) (f : Nat → Nat) : Core :=
  k.setRow t i (ofLanes 32 ((upTo 64).map (fun j => if j < W then f j else laneOf (k.row t i) 32 j)))

/-- Every row of tile t with the columns below W replaced. -/
def Core.putTile (k : Core) (t W : Nat) (f : Nat → Nat → Nat) : Core :=
  (upTo 64).foldl (fun c i => c.putRow t i W (f i)) k

/-- Entry (i, j) of a table of values. -/
def entry (m : List (List Val)) (i j : Nat) : Val := nthD (nthD m i []) j Val.zero

/-- Add the products of one output element in ascending order of the reduction, each rounded, to an
accumulator (R115, R154). -/
def dotFrom (acc : Nat) (K : Nat) (f : Nat → Val) : Nat := (upTo K).foldl (fun a k => macStep a (f k)) acc

/-- The array stage has streamed a reduction of length K (R154–R156). -/
def countStream (n : CoreId) (K kd : Nat) : M Unit := do
  let s ← get
  let c := ceilDiv K kd
  let a ← fresh
  countCore n 1 (c + Config.portExtra a)
  countCore n 2 (64 * s.widthOf n * kd * c)

/-- The local coordinates of the element (row, column) of a matrix, and of its transpose. -/
def atRC (i j : Nat) : List Int := [(j : Int), (i : Int)]
def atCR (i j : Nat) : List Int := [(i : Int), (j : Int)]

/-! ### Issue of the matrix instructions (R83, R84) -/

/-- mx.zero. -/
def execMxZero (n : CoreId) (w : BitVec 50) (s : State) : Host.Outcome State Fault Refusal :=
  run (let x := wordOf 5 0 w
    issue n x (reservedUnless x [useAcc]) (fun k => do
      stallAcquire k
      pushMx n k 0 x 0)) s

/-- The checks of mx.mma, all made at issue. -/
def mmaChecks (x : Nat) (k : Core) : M Unit := do
  let a := k.getD (Wd.dx x)
  let b := k.getD (Wd.dy x)
  let len := (k.getS (Wd.sa x)).toNat
  let tb := bitOf (Wd.mod6 x) 1
  let ta := bitOf (Wd.mod6 x) 2
  operandOk a [2] (.code 2 0x06)
  operandOk b [2] (.code 2 0x06)
  guardCode (!ta || a.layout == 2) 2 0x06
  guardCode (!tb || b.layout == 2) 2 0x06
  guardCode (pairDepth a.etype b.etype).isSome 2 0x03
  scaledOrigin a
  scaledOrigin b
  scaledLength a len
  scaledLength b len
  reductionOk a (if ta then 1 else 0) len
  reductionOk b (if tb then 0 else 1) len

/-- mx.mma. -/
def execMxMma (n : CoreId) (w : BitVec 50) (s : State) : Host.Outcome State Fault Refusal :=
  run (let x := wordOf 5 1 w
    issue n x (reservedUnless x [useAcc, useDx, useDy, useSa, (15, 3)]) (fun k => do
      stallS k [Wd.sa x]
      stallD k [Wd.dx x, Wd.dy x]
      stallAcquire k
      mmaChecks x k
      pushMx n k 1 x 0)) s

/-- mx.ld. -/
def execMxLd (n : CoreId) (w : BitVec 50) (s : State) : Host.Outcome State Fault Refusal :=
  run (let x := wordOf 5 2 w
    issue n x (reservedUnless x [useAcc, useDx]) (fun k => do
      stallD k [Wd.dx x]
      stallAcquire k
      operandOk (k.getD (Wd.dx x)) [2] (.code 2 0x06)
      typeIn (k.getD (Wd.dx x)) [0, 1]
      pushMx n k 2 x 0)) s

/-- The score mark that a tile will carry when the instructions ahead in the queue have finished (R85). A reduction of
length zero is a no-op (R83) and leaves it. -/
def Core.markAhead (k : Core) (t : Nat) : Bool :=
  k.mxq.foldl (fun m o =>
    if Wd.acc o.w.toNat = t then
      (if o.op = 8 ∧ o.sa ≠ 0 then true
       else if o.op = 0 ∨ o.op = 2 ∨ (o.op = 1 ∧ bitOf (Wd.mod6 o.w.toNat) 0 ∧ o.sa ≠ 0) then false else m)
    else m) (k.marks.contains t)

/-- mx.st: a marked tile leaves for the scratchpad only (R85). -/
def execMxSt (n : CoreId) (w : BitVec 50) (s : State) : Host.Outcome State Fault Refusal :=
  run (let x := wordOf 5 3 w
    issue n x (reservedUnless x [useAcc, useDx]) (fun k => do
      stallD k [Wd.dx x]
      stallAcquire k
      let d := k.getD (Wd.dx x)
      guardCode (decide (d.etype ≠ 0xF)) 2 0x06
      guardCode (d.space == 2 || !k.markAhead (Wd.acc x)) 4 0x0B
      operandOk d [2, 3] (.code 2 0x06)
      typeIn d [0, 1]
      writableOk d
      pushMx n k 3 x 0)) s

/-- mx.rd: it waits for the instructions that name its tile (R157). -/
def execMxRd (n : CoreId) (w : BitVec 50) (s : State) : Host.Outcome State Fault Refusal :=
  run (let x := wordOf 5 4 w
    issue n x (reservedUnless x [useAcc, useVa, useSa]) (fun k => do
      stallS k [Wd.sa x]
      stallV k [Wd.vaT x]
      stallAcquire k
      let i := (k.getS (Wd.sa x)).toNat
      guardCode (decide (i ≤ 63)) 2 0x02
      guardWait (!k.mxq.any (fun o => o.tiles.contains (Wd.acc x)))
      let W := (← get).widthOf n
      let r := k.row (Wd.acc x) i
      modCore n (fun c => c.setV (Wd.vaT x)
        (ofLanes 32 ((upTo 64).map (fun j => if j < W then laneOf r 32 j else 0)))))) s

/-- mx.wr. -/
def execMxWr (n : CoreId) (w : BitVec 50) (s : State) : Host.Outcome State Fault Refusal :=
  run (let x := wordOf 5 5 w
    issue n x (reservedUnless x [useAcc, useVa, useSa]) (fun k => do
      stallS k [Wd.sa x]
      stallV k [Wd.vaT x]
      stallAcquire k
      guardCode (decide ((k.getS (Wd.sa x)).toNat ≤ 63)) 2 0x02
      pushMx n k 5 x (k.getV (Wd.vaT x)))) s

/-! ### What they do when they finish -/

/-- Clear the score mark of a tile. -/
def Core.unmark (k : Core) (t : Nat) : Core := { k with marks := k.marks.filter (fun m => m ≠ t) }

/-- mx.mma: acc[i][j] ← (z ? 0 : acc[i][j]) + Σ A[i][k] × B[k][j]. -/
def finishMma (n : CoreId) (k : Core) (o : MxOp) : M Unit := do
  let x := o.w.toNat
  let z := bitOf (Wd.mod6 x) 0
  let tb := bitOf (Wd.mod6 x) 1
  let ta := bitOf (Wd.mod6 x) 2
  let K := o.sa.toNat
  if K = 0 then pure ()
  else do
    let W := (← get).widthOf n
    let fa := fun i p => if ta then atCR i p else atRC i p
    let fb := fun p j => if tb then atCR p j else atRC p j
    let (ca, ka) ← coarseOf (k.who n) o.dx
    let (cb, kb) ← coarseOf (k.who n) o.dy
    let a ← readMatrix (k.who n) o.dx ca 64 K fa
    let b ← readMatrix (k.who n) o.dy cb K W fb
    countWidenRows n o.dx ca ka 64 K fa
    countWiden k.ctx o.dy cb kb K W fb
    countStream n K ((pairDepth o.dx.etype o.dy.etype).getD 1)
    modCore n (fun c =>
      let c' := c.putTile (Wd.acc x) W (fun i j =>
        dotFrom (if z then 0 else laneOf (c.row (Wd.acc x) i) 32 j) K
          (fun p => Val.mul (entry a i p) (entry b p j)))
      if z then c'.unmark (Wd.acc x) else c')

/-- mx.ld: acc[i][j] ← element (i, j), read as FP32 or BF16; a NaN is written in its canonical form (R109). -/
def finishLd (n : CoreId) (k : Core) (o : MxOp) : M Unit := do
  let W := (← get).widthOf n
  let m ← mapM' (upTo 64) (fun i => mapM' (upTo W) (fun j => readElem (k.who n) o.dx (atRC i j)))
  modCore n (fun c => (c.putTile (Wd.acc o.w.toNat) W (fun i j =>
    toFp32 (decodeNum o.dx.etype (nthD (nthD m i []) j 0)))).unmark (Wd.acc o.w.toNat))

/-- mx.st: element (i, j) ← acc[i][j] converted to dx's type, FP32 or BF16 (R83); a NaN takes its canonical form (R109). -/
def finishSt (n : CoreId) (k : Core) (o : MxOp) : M Unit := do
  let W := (← get).widthOf n
  let _ ← writeElems (k.who n) o.dx [] ((upTo 64).flatMap (fun i => (upTo W).map (fun j =>
    (atRC i j, (convert o.dx.etype (ofFp32 (laneOf (k.row (Wd.acc o.w.toNat) i) 32 j))).bits))))

/-- mx.wr: acc[s(sa)][j] ← v(va) lane j. -/
def finishWr (n : CoreId) (o : MxOp) : M Unit := do
  let W := (← get).widthOf n
  modCore n (fun c => c.putRow (Wd.acc o.w.toNat) o.sa.toNat W (fun j => laneOf o.v 32 j))

end Sys2Proof.Machine
end

