-- ==== Sys2Proof/Machine/Attention.lean ====
section
/-! DEFINITION. The attention instructions, and the finish of every instruction of the matrix engine (R96, R97,
R157, R226). -/

namespace Sys2Proof.Machine

/-! ### Issue (R96) -/

/-- The checks of a descriptor named dP: the core's scratchpad, or SCORE_EXPORT (R96). -/
def probabilityOk (d : DReg) : M Unit := do
  operandOk d [2] (.code 4 0x0B)
  typeIn d [0]

/-- A decode fault of an instruction with a state pair: va is even (R96). -/
def pairBad (x : Nat) (bad : Option Nat) : Option Nat := if Wd.vaT x % 2 = 0 then bad else some 0x02

/-- at.qk: checks, then the matrix engine's queue. -/
def execAtQk (n : CoreId) (w : BitVec 50) (s : State) : Host.Outcome State Fault Refusal :=
  run (let x := wordOf 0xD 0 w
    issue n x (reservedUnless x [useAcc, useDx, useDy, useSa, useSb]) (fun k => do
      stallS k [Wd.sa x, Wd.sb x]
      stallD k [Wd.dx x, Wd.dy x]
      stallAcquire k
      let q := k.getD (Wd.dx x)
      let kk := k.getD (Wd.dy x)
      operandOk q [2] (.code 2 0x06)
      operandOk kk [2] (.code 2 0x06)
      typeIn q [0]
      typeIn kk [0, 3, 4, 7]
      reductionOk q 0 (k.getS (Wd.sa x)).toNat
      reductionOk kk 0 (k.getS (Wd.sa x)).toNat
      pushMx n k 8 x 0)) s

/-- at.sm. -/
def execAtSm (n : CoreId) (w : BitVec 50) (s : State) : Host.Outcome State Fault Refusal :=
  run (let x := wordOf 0xD 1 w
    let bad := if (maskTiles x).contains (Wd.acc x) then some 0x02
      else pairBad x (reservedUnless x [useAcc, useDx, useSa, useSb, useVa, (15, 2), (4, 4)])
    issue n x bad (fun k => do
      stallS k [Wd.sa x, Wd.sb x]
      stallV k [Wd.vaT x, Wd.vaT x + 1]
      stallD k [Wd.dx x]
      stallAcquire k
      probabilityOk (k.getD (Wd.dx x))
      writableOk (k.getD (Wd.dx x))
      pushMx n k 9 x 0)) s

/-- at.pv. Its reduction of length W runs along a row of P, which stays in the window (R82); V's last block may be partial,
and asks zeros (R223; log 106). -/
def execAtPv (n : CoreId) (w : BitVec 50) (s : State) : Host.Outcome State Fault Refusal :=
  run (let x := wordOf 0xD 2 w
    issue n x (reservedUnless x [useAcc, useDx, useDy]) (fun k => do
      stallD k [Wd.dx x, Wd.dy x]
      stallAcquire k
      probabilityOk (k.getD (Wd.dx x))
      operandOk (k.getD (Wd.dy x)) [2] (.code 2 0x06)
      typeIn (k.getD (Wd.dy x)) [0]
      reductionOk (k.getD (Wd.dx x)) 0 ((← get).widthOf n)
      pushMx n k 10 x 0)) s

/-- The columns of the O row of an instruction: t tiles of W (R226). -/
def outColumns (s : State) (n : CoreId) (x : Nat) : Nat := (maskTiles x).length * s.widthOf n

/-- at.mrg: dx describes FP32 rows of D + 2 elements; one without room for m2 and l2 is a bad descriptor (log 106). -/
def execAtMrg (n : CoreId) (w : BitVec 50) (s : State) : Host.Outcome State Fault Refusal :=
  run (let x := wordOf 0xD 3 w
    issue n x (pairBad x (reservedUnless x [useDx, useVa, (4, 4)])) (fun k => do
      stallV k [Wd.vaT x, Wd.vaT x + 1]
      stallD k [Wd.dx x]
      stallAcquire k
      let d := k.getD (Wd.dx x)
      operandOk d [2] (.code 2 0x06)
      typeIn d [1]
      guardCode (decide (2 ≤ d.size 0)) 2 0x06
      guardCode (decide (d.size 0 - 2 ≤ outColumns (← get) n x)) 2 0x05
      pushMx n k 11 x 0)) s

/-- at.fin. -/
def execAtFin (n : CoreId) (w : BitVec 50) (s : State) : Host.Outcome State Fault Refusal :=
  run (let x := wordOf 0xD 4 w
    issue n x (pairBad x (reservedUnless x [useDx, useVa, (4, 4)])) (fun k => do
      stallV k [Wd.vaT x, Wd.vaT x + 1]
      stallD k [Wd.dx x]
      stallAcquire k
      let d := k.getD (Wd.dx x)
      operandOk d [2] (.code 2 0x06)
      guardCode (decide (d.size 0 ≤ outColumns (← get) n x)) 2 0x05
      writableOk d
      pushMx n k 12 x (k.getV (Wd.vaT x + 1)))) s

/-- at.rp. -/
def execAtRp (n : CoreId) (w : BitVec 50) (s : State) : Host.Outcome State Fault Refusal :=
  run (let x := wordOf 0xD 5 w
    issue n x (reservedUnless x [useAcc, useDx, useSa, useSb, useVa, (15, 1)]) (fun k => do
      stallS k [Wd.sa x, Wd.sb x]
      stallV k [Wd.vaT x]
      stallD k [Wd.dx x]
      stallAcquire k
      probabilityOk (k.getD (Wd.dx x))
      writableOk (k.getD (Wd.dx x))
      pushMx n k 13 x (k.getV (Wd.vaT x)))) s

/-! ### What they compute (R97) -/

/-- e^(a - b) in FP32, within the bound of R116: the same for the same operands (R131). -/
def expsub32 (a b : Val) : Val :=
  ofFp32 (Fn.lane .expsub 1 (toFp32 a + 2 ^ 32 * toFp32 b + 2 ^ 64) (Val.sub a b))

/-- ln x in FP32, within the bound of R116. -/
def ln32 (x : Val) : Val := ofFp32 (Fn.lane .ln 1 (toFp32 x + 2 ^ 64) x)

/-- Add FP32 terms in an order that the device does not state (R131), from +0. -/
def sumTerms (key : Nat) (l : List Val) : Val :=
  (termOrder key l.length).foldl (fun a i => fp32 (Val.add a (nthD l i Val.zero))) Val.zero

/-- One row of the online softmax: what m, l, alpha and the probabilities become. -/
structure SoftRow where
  m : Val
  l : Val
  alpha : Val
  p : List Val
  deriving DecidableEq, Repr

/-- The step of R97 for one row with scores `x` already masked. -/
def softmaxRow (key : Nat) (m l : Val) (x : List Val) : SoftRow :=
  let mnew := x.foldl Val.max m
  if mnew = .inf true then ⟨mnew, fp32 (Val.mul Val.one l), Val.one, x.map (fun _ => Val.zero)⟩
  else
    let alpha := expsub32 m mnew
    let p := x.map (fun v => expsub32 v mnew)
    ⟨mnew, fp32 (Val.add (fp32 (Val.mul alpha l)) (sumTerms key p)), alpha, p⟩

/-- Position j of a row is masked: causal, and the key position lies beyond the query's (R97). Positions are unsigned and
their sums do not wrap (log 107). -/
def maskedAt (causal : Bool) (qpos kpos : W64) (i j : Nat) : Bool :=
  causal && decide (qpos.toNat + i < kpos.toNat + j)

/-- The FP32 value of column j of row i of a tile. -/
def Core.lane (k : Core) (t i j : Nat) : Val := ofFp32 (laneOf (k.row t i) 32 j)

/-- Write BF16 values to a dP descriptor. -/
def writeProbabilities (w : Who) (d : DReg) (p : List (List Val)) : M Unit := do
  let _ ← writeElems w d [] ((upTo p.length).flatMap (fun i =>
    (upTo (nthD p i []).length).map (fun j => (atRC i j, (convert 0 (entry p i j)).bits))))

/-- Masked scores in the S tile: at.sm sets them (R97), and at.rp, masked as in at.sm, where the free value has it (log
32). -/
def Core.maskTile (k : Core) (stay : Bool) (t W : Nat) (causal : Bool) (qpos kpos : W64) : Core :=
  if stay then
    k.putTile t W (fun i j =>
      if maskedAt causal qpos kpos i j then toFp32 (.inf true) else laneOf (k.row t i) 32 j)
  else k

/-- at.qk: S[i][j] ← scale × Σ Q[i][k] × K[j][k]; the tile is marked. Each product is that of the two elements and every
scale of the key, rounded once (R115; log 115). -/
def finishQk (n : CoreId) (k : Core) (o : MxOp) : M Unit := do
  let t := Wd.acc o.w.toNat
  let D := o.sa.toNat
  if D = 0 then pure ()
  else do
    let W := (← get).widthOf n
    let (ck, kk) ← coarseOf (k.who n) o.dy
    let q ← readMatrix (k.who n) o.dx Val.one 64 D atRC
    let ks ← readMatrix (k.who n) o.dy ck W D atRC
    countWiden k.ctx o.dy ck kk W D atRC
    countStream n D 1
    let scale := ofFp32 (o.sb.toNat % 2 ^ 32)
    modCore n (fun c =>
      let c' := c.putTile t W (fun i j =>
        toFp32 (Val.mul scale (ofFp32 (dotFrom 0 D (fun p =>
          Val.mul (entry q i p) (entry ks j p))))))
      { c' with marks := if c'.marks.contains t then c'.marks else t :: c'.marks })

/-- at.sm: the online softmax step. -/
def finishSm (n : CoreId) (k : Core) (o : MxOp) : M Unit := do
  let x := o.w.toNat
  let t := Wd.acc x
  let va := Wd.vaT x
  let causal := bitOf (Wd.mod6 x) 0
  let first := bitOf (Wd.mod6 x) 1
  let W := (← get).widthOf n
  let key ← fresh
  let rows := (upTo 64).map (fun i =>
    let m := if first then .inf true else ofFp32 (laneOf (k.getV va) 32 i)
    let l := if first then Val.zero else ofFp32 (laneOf (k.getV (va + 1)) 32 i)
    softmaxRow (key + 2 ^ 64 * i) m l ((upTo W).map (fun j =>
      if maskedAt causal o.sa o.sb i j then .inf true else k.lane t i j)))
  let row := fun i => nthD rows i ⟨Val.zero, Val.zero, Val.one, []⟩
  modCore n (fun c =>
    let c1 := (maskTiles x).foldl (fun c u => c.putTile u W (fun i j =>
      toFp32 (Val.mul (row i).alpha (if first then Val.zero else k.lane u i j)))) c
    let c2 := c1.maskTile true t W causal o.sa o.sb
    (c2.setV va (ofLanes 32 ((upTo 64).map (fun i => toFp32 (row i).m)))).setV (va + 1)
      (ofLanes 32 ((upTo 64).map (fun i => toFp32 (row i).l))))
  writeProbabilities (k.who n) o.dx (rows.map (·.p))

/-- at.pv: O[i][c] ← O[i][c] + Σ P[i][j] × V[j][c]. -/
def finishPv (n : CoreId) (k : Core) (o : MxOp) : M Unit := do
  let t := Wd.acc o.w.toNat
  let W := (← get).widthOf n
  let p ← readMatrix (k.who n) o.dx Val.one 64 W atRC
  let v ← readMatrix (k.who n) o.dy Val.one W W atRC
  countStream n W 1
  modCore n (fun c => c.putTile t W (fun i j =>
    dotFrom (laneOf (c.row t i) 32 j) W (fun q => Val.mul (entry p i q) (entry v q j))))

/-- at.mrg: merge a partial (R97, R226). -/
def finishMrg (n : CoreId) (k : Core) (o : MxOp) : M Unit := do
  let x := o.w.toNat
  let va := Wd.vaT x
  let W := (← get).widthOf n
  let D := o.dx.size 0 - 2
  let part ← readMatrix (k.who n) o.dx Val.one 64 (D + 2) atRC
  let key ← fresh
  let m := fun i => ofFp32 (laneOf (k.getV va) 32 i)
  let l := fun i => ofFp32 (laneOf (k.getV (va + 1)) 32 i)
  let mnew := fun i => Val.max (m i) (entry part i D)
  let skip := fun i => decide (mnew i = .inf true)
  let a := fun i => expsub32 (m i) (mnew i)
  let b := fun i => expsub32 (entry part i D) (mnew i)
  let mix := fun i (p q : Val) => toFp32 (Val.add (fp32 (Val.mul (a i) p)) (fp32 (Val.mul (b i) q)))
  modCore n (fun c =>
    let tiles := maskTiles x
    let c1 := (upTo tiles.length).foldl (fun c u =>
      let t := nthD tiles u 0
      c.putTile t W (fun i j =>
        let old := laneOf (k.row t i) 32 j
        let col := u * W + j
        if skip i then old
        else if col < D then mix i (ofFp32 old) (entry part i col)
        else if Config.mergeScales key then toFp32 (Val.mul (a i) (ofFp32 old)) else old)) c
    (c1.setV va (ofLanes 32 ((upTo 64).map (fun i => toFp32 (if skip i then m i else mnew i))))).setV (va + 1)
      (ofLanes 32 ((upTo 64).map (fun i =>
        if skip i then toFp32 (l i) else mix i (l i) (entry part i (D + 1))))))

/-- Raise the step maximum of the tracker behind a descriptor (R125). -/
def raiseTracker (w : Who) (d : DReg) (x : Val) : M Unit := do
  if d.tracker ∧ d.coarsePtr ≠ 0 then do
    let o := d.ptrOffset d.coarsePtr
    if d.isDevice then accAt w (d.addressIn d.cobj o).toNat () (fun c a => raiseStepMax c a x)
    else do
      let old ← dscReadIn w d d.cobj (o + 8 : Nat) 4 false
      if Val.lt (ofFp32 (leNat old)) x then sramWrite w (w.sram d.space) (o + 8) (leBytes 4 (toFp32 x))
      else pure ()
  else pure ()

/-- The largest finite magnitude of a list of values. -/
def finiteMax (xs : List Val) : Val :=
  xs.foldl (fun m x => match x with
    | .fin _ p q => Val.max m (.fin false p q)
    | _ => m) Val.zero

/-- One element of a narrow type with no fine scale: converted under the coarse scale; under one that counts as NaN, a NaN
conversion (R119, R120). -/
def narrowElement (t : Nat) (coarse x : Val) : Conv :=
  if coarseBad coarse then { convert t .nan with nanc := 1 } else convert t (Val.div x coarse)

/-- Write rows of values through a descriptor of a narrow type: the elements of a row that share a fine scale are
quantised together (R121, R160; log 112), or, with no fine scales, each element is converted under the coarse scale. -/
def writeNarrowRows (n : CoreId) (w : Who) (d : DReg) (rows : List (List Val)) : M Unit := do
  let (coarse, cls) ← coarseOf w d
  let cells := (upTo rows.length).flatMap (fun i =>
    (upTo (nthD rows i []).length).filterMap (fun j => (d.coords (atRC i j)).map (fun c => (c, i, entry rows i j))))
  let groups := if d.finePtr = 0 then cells.map (fun c => [c])
    else ((cells.map (fun c => (c.2.1, d.fineIndex c.1))).eraseDups).map (fun g =>
      cells.filter (fun c => c.2.1 == g.1 && d.fineIndex c.1 == g.2))
  raiseTracker w d (finiteMax (cells.map (·.2.2)))
  let _ ← foldM' groups [] fun done g => do
    let xs := g.map (·.2.2)
    let b : QBlock := if d.finePtr = 0 then
        let r := xs.map (narrowElement d.etype coarse)
        ⟨r.map (·.bits), 0, (r.map (·.sat)).sum, (r.map (·.nanc)).sum⟩
      else quantiseBlock xs coarse d.etype
    let done ← writePlaces w d done (g.zipIdx.map (fun c => (d.place c.1.1, nthD b.q c.2 0)))
    match g.head? with
    | some c => do
      if d.finePtr = 0 then pure ()
      else sramWrite w (w.sram d.space) (d.ptrOffset d.finePtr + d.fineIndex c.1) (leBytes 1 b.fine)
      coreCounts n (← rowContext n c.2.1) cls b.sat b.nanc
    | none => pure ()
    pure done

/-- at.fin: O[i] / l[i] in dx's type, and the log-sum-exp (R97, R226). -/
def finishFin (n : CoreId) (k : Core) (o : MxOp) : M Unit := do
  let x := o.w.toNat
  let va := Wd.vaT x
  let W := (← get).widthOf n
  let tiles := maskTiles x
  let l := fun i => ofFp32 (laneOf o.v 32 i)
  let out := (upTo 64).map (fun i => (upTo (min (o.dx.size 0) (tiles.length * W))).map (fun col =>
    if (l i).isZero then Val.zero else Val.div (k.lane (nthD tiles (col / W) 0) i (col % W)) (l i)))
  if isNarrow o.dx.etype then writeNarrowRows n (k.who n) o.dx out
  else do
    let cells := (upTo 64).map (fun i => (nthD out i []).map (fun v => convert o.dx.etype v))
    let _ ← foldM' (upTo 64) [] (fun done i => do
      let done ← writeElems (k.who n) o.dx done ((nthD cells i []).zipIdx.map (fun c => (atRC i c.2, c.1.bits)))
      coreCounts n (← rowContext n i) o.dx.cls ((nthD cells i []).map (·.sat)).sum
        ((nthD cells i []).map (·.nanc)).sum
      pure done)
  modCore n (fun c => c.setV va (ofLanes 32 ((upTo 64).map (fun i =>
    if (l i).isZero then toFp32 (.inf true)
    else toFp32 (Val.add (ofFp32 (laneOf (k.getV va) 32 i)) (ln32 (l i)))))))

/-- at.rp: P[i][j] ← e^(S[i][j] - L[i]), masked as in at.sm. -/
def finishRp (n : CoreId) (k : Core) (o : MxOp) : M Unit := do
  let x := o.w.toNat
  let t := Wd.acc x
  let causal := bitOf (Wd.mod6 x) 0
  let W := (← get).widthOf n
  let a ← fresh
  let p := (upTo 64).map (fun i => (upTo W).map (fun j =>
    if maskedAt causal o.sa o.sb i j then Val.zero
    else expsub32 (k.lane t i j) (ofFp32 (laneOf o.v 32 i))))
  modCore n (fun c => c.maskTile (Config.maskStays a) t W causal o.sa o.sb)
  writeProbabilities (k.who n) o.dx p

/-- The effect of an instruction of the matrix engine when it finishes. -/
def finishOp (n : CoreId) (k : Core) (o : MxOp) : M Unit := do
  let t := Wd.acc o.w.toNat
  if o.op = 0 then do
    let W := (← get).widthOf n
    modCore n (fun c => (c.putTile t W (fun _ _ => 0)).unmark t)
  else if o.op = 1 then finishMma n k o
  else if o.op = 2 then finishLd n k o
  else if o.op = 3 then finishSt n k o
  else if o.op = 5 then finishWr n o
  else if o.op = 8 then finishQk n k o
  else if o.op = 9 then finishSm n k o
  else if o.op = 10 then finishPv n k o
  else if o.op = 11 then finishMrg n k o
  else if o.op = 12 then finishFin n k o
  else finishRp n k o

/-- The finish of the i-th instruction of a core's matrix engine: its result stands and its MX token returns
(R157). A fault that it finds ends the command. -/
def execMxFinish (n : CoreId) (i : Nat) (s : State) : Host.Outcome State Fault Refusal :=
  run (do
    let k ← needSome ((← get).cores.find? n)
    let o ← needSome (k.mxq[i]?)
    guardWait (mxReady k.mxq i)
    match ← attempt (finishOp n k o) with
    | .ok _ => do
      modCore n (fun c => { c with mxq := c.mxq.eraseIdx i })
      returnToken n 0
    | .error e => coreFault n o.pc e) s

end Sys2Proof.Machine
end

