-- ==== Sys2Proof/Machine/Cache.lean ====
section
/-! DEFINITION. The key-value cache: page lists, page records, page layout, and the access of an engine to pages of
its own stack (R190, R212–R222). -/

namespace Sys2Proof.Machine

/-! ### Geometry (R210–R213) -/

/-- KV heads of a page of instance i. -/
def State.kvHeads (s : State) (i : CacheInst) : Nat := 2 ^ s.fld (F.kvGroupLog2 i)
/-- The head dimension of instance i. -/
def State.kvDim (s : State) (i : CacheInst) : Nat := 64 * 2 ^ s.fld (F.kvHeadDim i)
/-- The address of page x of the pool of instance i in stack j. -/
def State.pageVa (s : State) (j : Stack) (i : CacheInst) (x : Nat) : Nat := s.fld (F.poolBase j i) + x * s.pageSize i

/-- The byte, in a page, of the keys (or values) of head h at position p, for elements of `bits` bits (R212). -/
def pageByte (G D bits h p : Nat) (values : Bool) : Nat :=
  (if values then 256 * G * D * bits / 8 else 0) + (h * 256 + p) * D * bits / 8

/-! ### Page lists (R219) -/

/-- The head of a page list: its first 64 bytes. -/
structure PageList where
  raw : List Byte
  deriving DecidableEq, Repr

namespace PageList
def f (l : PageList) (o n : Nat) : Nat := leNat ((l.raw.drop o).take n)
def used (l : PageList) : Nat := l.f 0 4
def count (l : PageList) : Nat := l.f 4 2
def capacity (l : PageList) : Nat := l.f 6 2
def inst (l : PageList) : CacheInst := ⟨l.f 8 1 % 8, by omega⟩
def stack (l : PageList) : Nat := l.f 9 1 % 16
def evict (l : PageList) : Bool := bitOf (l.f 0xA 1) 0
def keepsScores (l : PageList) : Bool := bitOf (l.f 0xA 1) 1
def sinks (l : PageList) : Nat := l.f 0xB 1
def window (l : PageList) : Nat := l.f 0xC 4
def scores (l : PageList) : Nat := l.f 0x10 8
def evicted (l : PageList) : Nat := l.f 0x18 8
/-- No reserved field is set, and capacity lies in its range (R3, R219). -/
def wellFormed (l : PageList) : Bool :=
  l.f 8 1 < 8 && l.f 9 1 < 16 && l.f 0xA 1 < 4 && l.f 0x20 32 == 0 && decide (1 ≤ l.capacity ∧ l.capacity ≤ 65534)
end PageList

/-- The address of entry i of a list. -/
def entryVa (list i : Nat) : Nat := list + 0x40 + 4 * i

/-- The address of the score of a slot (R222). -/
def PageList.scoreVa (l : PageList) (slot : Nat) : Nat := l.scores + 2 * slot

/-! ### Page records (R215) -/

/-- The 64 bytes of a page record. -/
structure PageRec where
  raw : List Byte
  deriving DecidableEq, Repr

namespace PageRec
def f (r : PageRec) (o n : Nat) : Nat := leNat ((r.raw.drop o).take n)
def format (r : PageRec) : Nat := r.f 0 1
def scaled (r : PageRec) : Bool := bitOf (r.f 1 1) 0
def owner (r : PageRec) : Nat := bitsOf (r.f 2 2) 0 11
def granted (r : PageRec) : Bool := bitOf (r.f 2 2) 15
def coarse (r : PageRec) : Val := ofFp32 (r.f 4 4)
def kfine (r : PageRec) (h : Nat) : Val := fineNum (r.f (0x10 + h) 1)
def vfine (r : PageRec) (h : Nat) : Val := fineNum (r.f (0x20 + h) 1)
end PageRec

/-- A page record: format, flags, owner with GRANTED, coarse scale and fine scales. -/
def recordBytes (format flags : Nat) (owner : Option Nat) (coarse : Nat) (kfine vfine : List Nat) : List Byte :=
  let fines := fun (l : List Nat) => (upTo 16).map (fun h => BitVec.ofNat 8 (nthD l h 0))
  leBytes 1 format ++ leBytes 1 flags ++ leBytes 2 ((owner.map (· + 0x8000)).getD 0) ++ leBytes 4 coarse
    ++ leBytes 8 0 ++ fines kfine ++ fines vfine ++ leBytes 16 0

/-! ### An engine of one stack (R190) -/

/-- Translate an access whose pages must have class STACK and lie in stack j. -/
def ownPieces (j : Stack) (c : Ctx) (va n : Nat) (need : Right) : M (List (Nat × Nat × Nat)) := do
  let ps ← translatePieces c va n need
  let parts := (← get).mem.partNow
  if ps.all (fun p => match windowOf parts p.1 with
      | some x => x.cls == 2 && x.unit == j.val
      | none => false) then pure ps else throw .protection

/-- Read from STACK pages of stack j. -/
def ownRead (j : Stack) (c : Ctx) (va n : Nat) : M (List Byte) := do
  let ps ← ownPieces j c va n .r
  eachM ps (fun p => checkDram p.2.1 (p.1 / 256) true)
  let m := (← get).mem.bytes
  pure (ps.flatMap (fun p => m.readList p.1 p.2.2))

/-- Write to STACK pages of stack j; the home pool cache's lines of what is written are invalidated (R262). -/
def ownWrite (j : Stack) (c : Ctx) (va : Nat) (bs : List Byte) (need : Right) : M Unit := do
  let ps ← ownPieces j c va bs.length need
  eachM ps (fun p => checkDram p.2.1 (p.1 / 256) (p.2.2 != 256))
  writePieces ps bs
  modMem (fun m => { m with lines := m.lines.filter (fun l => !ps.any (fun p => p.1 / 256 == l.1)) })

/-- The head of a list of a context, read by an engine of stack j: one that breaks its layout or its alignment is a bad
descriptor (R3, R4, R219). -/
def readList (j : Stack) (c : Ctx) (list : Nat) : M PageList := do
  guardCode (list % 64 == 0) 2 0
  let l : PageList := ⟨← ownRead j c list 64⟩
  guardCode l.wellFormed 2 0
  pure l

/-- The record of the page of stack j that an entry names, if it is granted to the context (R221). -/
def listPage (c : Ctx) (j : Stack) (i : CacheInst) (entry : Nat) : M PageRec := do
  let x := entry % 2 ^ 28
  if (← getFld (F.poolPages j i)) ≤ x then throw .translation
  else
    let r : PageRec := ⟨← readRecord j i x⟩
    if r.granted && r.owner == c.val then pure r else throw .translation

/-! ### Elements -/

/-- The `n` packed elements of `bits` bits at the start of a byte string (R107). -/
def unpackElems (bits n : Nat) (b : List Byte) : List Nat :=
  let x := leNat b
  (upTo n).map (fun i => bitsOf x (bits * i) bits)

/-- A value rounded to BF16 (R115). -/
def bf16 (x : Val) : Val := decodeNum 0 (convert 0 x).bits

/-! ### Page scales (R217) -/

/-- choose_fine: the E5M3 byte for a greatest magnitude a. -/
def chooseFine (a hr : Val) (t : Nat) : Nat :=
  if a.isZero || t == 0 then 0xF0
  else
    let f := roundFine (match a with
      | .inf s => .inf s
      | y => Val.div (Val.mul (Val.mul y (.fin false 17 1)) hr) (Val.mul (.fin false 16 1) (qmaxNum t)))
    min 0xFE (max 1 f)

/-- The greatest |x / c| of a list, NaN aside. -/
def scaledMax (c : Val) (xs : List Val) : Val :=
  xs.foldl (fun m x => if x.isNan then m else Val.max m (Val.div x c).abs) Val.zero

/-- set_page_scales: the record with its scales, from the rows (keys and values by element) that one command writes
to the page under the coarse scale c. -/
def PageRec.setScales (r : PageRec) (G D : Nat) (c hr : Val) (rows : List (List Val)) : PageRec :=
  let t := r.format
  let fines := fun (off : Nat) => (upTo G).map (fun h =>
    if coarseBad c && t != 0 then 0xFF
    else chooseFine (scaledMax c (rows.flatMap (fun x => (x.drop (off + h * D)).take D))) hr t)
  ⟨recordBytes t 1 (some r.owner) (toFp32 c) (fines 0) (fines (G * D))⟩

/-- An element as it enters a page: quantised under the page's scales (R217), a NaN conversion under a coarse scale that
counts as NaN (R120); BF16 pages apply none. -/
def PageRec.quantise (r : PageRec) (fine x : Val) : Conv :=
  if r.format = 0 then convert 0 x
  else if coarseBad r.coarse then { convert r.format .nan with nanc := 1 }
  else convert r.format (Val.div x (Val.mul r.coarse fine))

/-- An element of a page at the score unit: dequantised to BF16 (R228). -/
def PageRec.dequantise (r : PageRec) (fine : Val) (x : Nat) : Val := bf16 (widen r.format x fine r.coarse)

end Sys2Proof.Machine
end

