-- ==== Sys2Proof/Machine/Control.lean ====
section
/-! DEFINITION. Control, CSR and synchronisation instructions, and the stop of a core (R76–R78, R92, R100,
R277, R278). -/

namespace Sys2Proof.Machine

/-! ### Control (R76–R78) -/

/-- The address of a branch: pc + 8 × off36 (R71, R76). -/
def branchTarget (k : Core) (x : Nat) : W64 := k.pc + BitVec.ofInt 64 (8 * Wd.imm36 x)

/-- Take a branch: a target outside the code region raises EXTENT (R76). -/
def takeBranch (n : CoreId) (k : Core) (a : W64) : M Unit := do
  guardCode (k.inCode a.toNat) 2 0x05
  modCore n (fun k => k.jump a)

/-- The command that a core runs has been asked to preempt, and may be (R78, R315). -/
def State.preemptAsked (s : State) (k : Core) : Bool :=
  k.stage.isNone && (s.ctxs.getD k.ctx .absent).preempt &&
    (match s.cmdOf k.ctx k.q k.idx with
     | some c => c.preemptible
     | none => false)

/-- ctl.nop (R76). -/
def execCtlNop (n : CoreId) (w : BitVec 50) (s : State) : Host.Outcome State Fault Refusal :=
  run (let x := wordOf 1 0 w
    issue n x (reservedUnless x []) (fun _ => pure ())) s

/-- ctl.end: the core waits for its pending counts, then stops (R77). -/
def execCtlEnd (n : CoreId) (w : BitVec 50) (s : State) : Host.Outcome State Fault Refusal :=
  run (let x := wordOf 1 1 w
    issue n x (reservedUnless x []) (fun _ => modCore n (fun k => { k with wait := .ending }))) s

/-- ctl.br (R76). -/
def execCtlBr (n : CoreId) (w : BitVec 50) (s : State) : Host.Outcome State Fault Refusal :=
  run (let x := wordOf 1 2 w
    issue n x (reservedUnless x [(4, 36)]) (fun k => takeBranch n k (branchTarget k x))) s

/-- ctl.call (R76). -/
def execCtlCall (n : CoreId) (w : BitVec 50) (s : State) : Host.Outcome State Fault Refusal :=
  run (let x := wordOf 1 3 w
    issue n x (reservedUnless x [(45, 5), (4, 36)]) (fun k => do
      stallS k [Wd.f45 x]
      takeBranch n k (branchTarget k x)
      modCore n (fun c => c.setS (Wd.f45 x) (k.pc + 8)))) s

/-- ctl.jr (R76). -/
def execCtlJr (n : CoreId) (w : BitVec 50) (s : State) : Host.Outcome State Fault Refusal :=
  run (let x := wordOf 1 4 w
    issue n x (reservedUnless x [(45, 5)]) (fun k => do
      stallS k [Wd.f45 x]
      let a := k.getS (Wd.f45 x)
      guardCode (a.toNat % 8 == 0) 2 0x04
      takeBranch n k a)) s

/-- ctl.loop (R76). -/
def execCtlLoop (n : CoreId) (w : BitVec 50) (s : State) : Host.Outcome State Fault Refusal :=
  run (let x := wordOf 1 5 w
    issue n x (reservedUnless x [(45, 5), (4, 36)]) (fun k => do
      stallS k [Wd.f45 x]
      let r := k.getS (Wd.f45 x) - 1
      modCore n (fun c => c.setS (Wd.f45 x) r)
      if r = 0 then pure () else takeBranch n k (branchTarget k x))) s

/-- ctl.yield: a preemption point (R78). -/
def execCtlYield (n : CoreId) (w : BitVec 50) (s : State) : Host.Outcome State Fault Refusal :=
  run (let x := wordOf 1 6 w
    issue n x (reservedUnless x []) (fun k => do
      if (← get).preemptAsked k then modCore n (fun c => { c with wait := .preempting }) else pure ())) s

/-- A reserved major, or a reserved minor of an assigned major (R72). -/
def illegalWord (x : Nat) : Bool :=
  let m := bitsOf x 50 6
  match x / 2 ^ 56 % 256 with
  | 0x01 => 7 ≤ m
  | 0x02 => 0x22 ≤ m
  | 0x03 => 0x0C ≤ m
  | 0x04 => 8 ≤ m
  | 0x05 => 6 ≤ m
  | 0x06 => 0x21 ≤ m
  | 0x07 => 0x0E ≤ m
  | 0x08 => m == 6 || m == 7 || 0x0E ≤ m
  | 0x0A => 3 ≤ m
  | 0x0B => (3 ≤ m && m ≤ 0xF) || 0x1B ≤ m
  | 0x0C => 2 ≤ m
  | 0x0D => 6 ≤ m
  | 0x0E => 1 ≤ m
  | 0x0F => 2 ≤ m
  | 0x10 => 2 ≤ m
  | _ => true

/-- A word with a reserved opcode raises ILLEGAL_OPCODE (R72, R101). -/
def execIllegalOpcode (n : CoreId) (w : W64) (s : State) : Host.Outcome State Fault Refusal :=
  run (do
    guardWait (illegalWord w.toNat)
    issue n w.toNat (some 0x01) (fun _ => pure ())) s

/-- A core that runs past the last word of its code region raises EXTENT (R77). -/
def execCodeRegionExtent (n : CoreId) (s : State) : Host.Outcome State Fault Refusal :=
  run (do
    let k ← needSome ((← get).cores.find? n)
    guardWait (k.wait == .running && k.bar.isNone && !k.inCode k.pc.toNat)
    coreFault n k.pc (.code 2 0x05)) s

/-! ### CSRs (R68, R69, R100) -/

/-- The CSR is assigned; the CSR may be written. -/
def csrAssigned (c : Nat) : Bool :=
  decide (c ≤ 6) || c == 8 || c == 9 || c == 0xA || c == 0x10 || c == 0x11 || decide (0x20 ≤ c ∧ c ≤ 0x23)
def csrWritable (c : Nat) : Bool := c == 0x10 || decide (0x20 ≤ c ∧ c ≤ 0x23)

/-- The die of a core. -/
def dieOf (n : CoreId) : Die := ⟨n.val / 96, by omega⟩

/-- The arithmetic clock of a die runs: the die is not parked and the module is not QUIET (R56, R519). -/
def State.dieClocked (s : State) (d : Die) : Bool := !bitOf (s.fld F.pwParked) d.val && s.fld F.pwMode == 0

/-- A die's cycle counter, looked at now: it only rises, and while its clock is gated it stands (R56). -/
def sampleCycle (d : Die) : M Nat := do
  let a ← fresh
  if (← get).dieClocked d then bumpBy (F.tkCycle d) (Config.cycles a) else pure ()
  getFld (F.tkCycle d)

/-- The value of a CSR (R68, R69). -/
def csrValue (n : CoreId) (k : Core) (c : Nat) : M Nat := do
  let s ← get
  match c with
  | 0x000 => pure n.val
  | 0x001 => pure (s.fld (F.mxWidth n))
  | 0x002 => pure k.ctx.val
  | 0x003 => pure k.q.val
  | 0x004 => pure s.stepNo
  | 0x005 => do pure (timeFor k.ctx (← sampleTime))
  | 0x006 => if k.ctx = 0 then sampleCycle (dieOf n) else pure 0
  | 0x008 => pure k.args.toNat
  | 0x009 => pure k.rank
  | 0x00A => pure k.ranks
  | 0x010 => pure k.cvtClass
  | 0x011 => pure k.satCount
  | _ => pure ((k.user.getD (c - 0x20) 0).toNat)

/-- csr.rd (R100). -/
def execCsrRd (n : CoreId) (w : BitVec 50) (s : State) : Host.Outcome State Fault Refusal :=
  run (let x := wordOf 0x10 0 w
    issue n x (reservedUnless x [(45, 5), (4, 12)]) (fun k => do
      stallS k [Wd.f45 x]
      let c := bitsOf x 4 12
      guardCode (csrAssigned c) 2 0x0A
      let v ← csrValue n k c
      modCore n (fun k => k.setS (Wd.f45 x) (w64 v)))) s

/-- csr.wr (R100). -/
def execCsrWr (n : CoreId) (w : BitVec 50) (s : State) : Host.Outcome State Fault Refusal :=
  run (let x := wordOf 0x10 1 w
    issue n x (reservedUnless x [(40, 5), (4, 12)]) (fun k => do
      stallS k [Wd.f40 x]
      let c := bitsOf x 4 12
      guardCode (csrWritable c) 2 0x0A
      let v := k.getS (Wd.f40 x)
      modCore n (fun k =>
        if c = 0x10 then { k with cvtClass := v.toNat % 16 }
        else { k with user := k.user.insert (c - 0x20) v }))) s

/-! ### Synchronisation (R92, R93, R277, R278) -/

/-- sync.fence: a release of a scope wider than CORE drains the core's earlier global stores and atomics; an acquire completes
after its earlier global loads and atomics, and at CHIP or SYSTEM scope invalidates the read cache (R271, R277, R278). -/
def execSyncFence (n : CoreId) (w : BitVec 50) (s : State) : Host.Outcome State Fault Refusal :=
  run (let x := wordOf 0x0B 0 w
    let scope := bitsOf x 4 2
    let kind := bitsOf x 6 2
    let bad := if onlyUses x [(4, 4)] && scope != 3 && kind != 0 then none else some 0x02
    issue n x bad (fun k => do
      guardWait (!(bitOf kind 0 && k.loadsOut) && !(bitOf kind 1 && scope != 0 && k.storesOut))
      if bitOf kind 0 && scope != 0 then modCore n (fun k => { k with rcache := [] }) else pure ())) s

/-- sync.wt: wait until the pending count of a class is at most n; a wait on DMA, WL or CL invalidates the
read cache when it ends (R74, R92, R175). -/
def execSyncWt (n : CoreId) (w : BitVec 50) (s : State) : Host.Outcome State Fault Refusal :=
  run (let x := wordOf 0x0B 1 w
    let cls := bitsOf x 12 3
    let bad := if onlyUses x [(4, 11)] && decide (cls ≤ 4) then none else some 0x02
    issue n x bad (fun k => do
      guardWait (decide (nthD k.pend cls 0 ≤ bitsOf x 4 8))
      if 2 ≤ cls then modCore n (fun k => { k with rcache := [] }) else pure ())) s

/-- The cores of a command in the same cluster as core n, or on the same die. -/
def State.barGroup (s : State) (n : CoreId) (k : Core) (die : Bool) : List CoreId :=
  (s.coresOf k.work).filter (fun m => if die then m.val / 96 == n.val / 96 else m.val / 8 == n.val / 8)

/-- sync.bar: wait until every core of the command in the cluster, or on the die, has arrived (R92). A number with another extent is another
barrier (log 111). -/
def execSyncBar (n : CoreId) (w : BitVec 50) (s : State) : Host.Outcome State Fault Refusal :=
  run (let x := wordOf 0x0B 2 w
    let b := (bitsOf x 4 4, bitOf x 8)
    issue n x (reservedUnless x [(4, 5)]) (fun k => do
      modCore n (fun c => { c with
        arrived := if c.arrived.contains b then c.arrived else b :: c.arrived, bar := some b })
      let s ← get
      let g := s.barGroup n k b.2
      if g.all (fun m => match s.cores.find? m with
          | some c => c.arrived.contains b
          | none => false) then
        eachM g (fun m => modCore m (fun c => { c with
          arrived := c.arrived.filter (fun a => a != b)
          bar := if c.bar = some b then none else c.bar }))
      else pure ())) s

end Sys2Proof.Machine
end

