-- ==== Sys2Proof/Machine/Dma.lean ====
section
/-! DEFINITION. The DMA engines: request records and their checks, bursts, checksums, chains, completion, and the
DMA instructions (R91, R293–R306). -/

namespace Sys2Proof.Machine

/-! ### Request records (R296, R297, R300) -/

/-- A field of a record: `n` bytes at an offset. -/
def recField (b : List Byte) (o n : Nat) : Nat := leNat ((b.drop o).take n)

/-- The bits that a pointer of a space reserves (R134). -/
def spaceReserved (space p : Nat) : Bool :=
  match space with
  | 0 => decide (2 ^ 57 ≤ p)
  | 1 => false
  | 2 => decide (2 ^ 22 ≤ p)
  | _ => decide (2 ^ 24 ≤ p)

/-- A record with a reserved field or code, or a share above 256 (R300, second row). -/
def recReserved (b : List Byte) : Bool :=
  let c := recField b 0 4
  let op := bitsOf c 0 4
  let ss := bitsOf c 4 3
  let ds := bitsOf c 8 3
  op == 0 || decide (4 ≤ op) || decide (4 ≤ ss) || bitOf c 7 || decide (4 ≤ ds) || bitOf c 11 ||
    bitsOf c 12 2 == 3 || decide (2 ^ 18 ≤ c) || decide (256 < recField b 0x14 2) || recField b 0x16 2 != 0 ||
    recField b 0x68 24 != 0 ||
    (upTo 3).any (fun k => recField b (0x28 + 8 * k + 6) 2 != 0 || recField b (0x40 + 8 * k + 6) 2 != 0) ||
    spaceReserved ss (recField b 0x18 8) || spaceReserved ds (recField b 0x20 8) ||
    spaceReserved (if op = 3 then ss else ds) (recField b 0x60 8)

/-- A record as a request; its pointers are still in the form of their spaces. -/
def parseRec (b : List Byte) (ctx : Ctx) (gen : Nat) (q : QIdx) (idx : W32) (core : Option CoreId) : DmaReq :=
  let c := recField b 0 4
  { order := 0, op := bitsOf c 0 4, checked := false, ctx := ctx, gen := gen, q := q, idx := idx, core := core, pc := 0,
    sum := bitsOf c 12 2, chain := bitOf c 14, first := false, ordered := bitOf c 15, prio := bitsOf c 16 2,
    share := recField b 0x14 2, run := recField b 4 4, count := (upTo 3).map (fun k => recField b (8 + 4 * k) 4),
    srcSpace := bitsOf c 4 3, src := recField b 0x18 8, srcObj := none,
    dstSpace := bitsOf c 8 3, dst := recField b 0x20 8, dstObj := none,
    srcStep := (upTo 3).map (fun k => signOf 48 (recField b (0x28 + 8 * k) 6)),
    dstStep := (upTo 3).map (fun k => signOf 48 (recField b (0x40 + 8 * k) 6)),
    fill := w64 (recField b 0x58 8), sumPtr := recField b 0x60 8, sumObj := none,
    dx := DReg.invalid, dy := DReg.invalid, done := 0, got := [], before := [], waits := [], flushed := false, stored := false }

namespace DmaReq

/-- The space of the checksum: the source's for CHECK, else the destination's (R296). -/
def sumSpace (r : DmaReq) : Nat := if r.op = 3 then r.srcSpace else r.dstSpace

/-- Number of bytes, or of elements of a dma.cp. -/
def total (r : DmaReq) : Nat :=
  if r.op = 4 then (r.dx.dims.map (fun k => (r.dx.windowSize k).toNat)).prod
  else r.run * (r.count.getD 0 0) * (r.count.getD 1 0) * (r.count.getD 2 0)

def reads (r : DmaReq) : Bool := r.op == 1 || r.op == 3 || r.op == 4
def writes (r : DmaReq) : Bool := r.op == 1 || r.op == 2 || r.op == 4

/-- The lowest and highest byte of an endpoint from its base (R300). -/
def bounds (r : DmaReq) (base : Nat) (step : List Int) : Int × Int :=
  (upTo 3).foldl (fun (p : Int × Int) k =>
    let span := ((r.count.getD k 0 : Nat) - 1 : Int) * step.getD k 0
    if span < 0 then (p.1 + span, p.2) else (p.1, p.2 + span)) ((base : Int), (base : Int) + r.run - 1)

end DmaReq

/-- Bytes [lo, hi] lie in a space or object (R300). -/
def roomFor (space : Nat) (obj : Option HandleObj) (lo hi : Int) : Bool :=
  match space, obj with
  | 0, _ => decide (0 ≤ lo ∧ hi < 2 ^ 57)
  | 1, some o => decide (0 ≤ lo ∧ hi < o.size) && (o.kind != 1 || decide (o.address + hi < 2 ^ 57))
  | 1, none => false
  | 2, _ => decide (0 ≤ lo ∧ hi < 2 ^ 22)
  | _, _ => decide (0 ≤ lo ∧ hi < 2 ^ 24)

/-- The fault that a DMA engine reports for an error it finds (R301). -/
def dmErr : Err → Err
  | .translation => .code 3 0x32
  | .protection => .code 4 0x33
  | .integrity => .code 5 0x34
  | e => e

/-- Run an engine's access; its errors are those of R301. -/
def asDma {α : Type} (m : M α) : M α := do
  match ← attempt m with
  | .ok a => pure a
  | .error e => throw (dmErr e)

/-- The error of the front end's own reads at prefetch (R321). -/
def feErr (e : Err) : Err :=
  match e with
  | .translation | .protection | .integrity => .code e.status 0x45
  | e => e

/-- Run a read of the front end; its errors are FE_READ. -/
def feRead {α : Type} (m : M α) : M α := do
  match ← attempt m with
  | .ok a => pure a
  | .error e => throw (feErr e)

/-- The object of a pointer in HANDLE form, for a DMA request (R300). A table entry that cannot be read ends
dma.run with an engine's fault and a DMA command with FE_READ (R317). -/
def dmaHandle (c : Ctx) (space p : Nat) (core : Bool) : M (Option HandleObj) := do
  if space ≠ 1 then pure none
  else
    let look := handleLookup c (p % 2 ^ 32)
    match ← (if core then asDma look else feRead look) with
    | some o => pure (some o)
    | none => throw (.code 2 0x30)

/-- A pointer's offset in its space or object. -/
def spaceOffset (space p : Nat) : Nat := if space = 1 then p / 2 ^ 32 * 32 else p

/-- The object of a pointer carries a right (bit of R318). -/
def carries (o : Option HandleObj) (bit : Nat) : M Unit :=
  match o with
  | some x => guardCode (bitOf x.rights bit) 4 0x33
  | none => pure ()

/-- The checks of R300 after the second row, in order; the answer has its pointers resolved. `core` tells a core's
engine, which alone reaches on-core memory. -/
def checkReq (r : DmaReq) (core : Bool) : M DmaReq := do
  let bad := fun (b : Bool) => guardCode (!b) 2 0x30
  bad (decide (65536 < r.run) || r.count.any (fun c => decide (2 ^ 24 < c)))
  bad (decide (2 ^ 48 < r.total))
  bad (!core && (decide (2 ≤ r.srcSpace) || decide (2 ≤ r.dstSpace)))
  bad (r.op == 2 && (r.src != 0 || r.srcSpace != 0 || r.srcStep.any (fun x => decide (x ≠ 0))))
  bad (r.op == 3 && (r.dst != 0 || r.dstSpace != 0 || r.dstStep.any (fun x => decide (x ≠ 0)) || r.sum == 0))
  bad (spaceOffset r.sumSpace r.sumPtr % 16 != 0 || (r.sum != 0 && r.sumPtr == 0))
  let so ← (if r.reads then dmaHandle r.ctx r.srcSpace r.src core else pure none)
  let dob ← (if r.writes then dmaHandle r.ctx r.dstSpace r.dst core else pure none)
  let uo ← (if r.sum ≠ 0 then dmaHandle r.ctx r.sumSpace r.sumPtr core else pure none)
  bad (match uo with
    | some o => (o.address + spaceOffset 1 r.sumPtr) % 16 != 0
    | none => false)
  let r' := { r with
    src := spaceOffset r.srcSpace r.src, dst := spaceOffset r.dstSpace r.dst,
    sumPtr := spaceOffset r.sumSpace r.sumPtr, srcObj := so, dstObj := dob, sumObj := uo, checked := true }
  let ext := fun (b : Bool) => guardCode b 2 0x31
  if r.total ≠ 0 ∧ r.reads then
    let (lo, hi) := r'.bounds r'.src r'.srcStep
    ext (roomFor r'.srcSpace so lo hi)
  else pure ()
  if r.total ≠ 0 ∧ r.writes then
    let (lo, hi) := r'.bounds r'.dst r'.dstStep
    ext (roomFor r'.dstSpace dob lo hi)
  else pure ()
  if r.sum ≠ 0 then ext (roomFor r'.sumSpace uo r'.sumPtr (r'.sumPtr + 15)) else pure ()
  carries so 0
  carries dob 1
  carries uo 1
  pure r'

/-! ### Checksums (R304, R305) -/

/-- One byte of CRC-32C, reflected: k bits. -/
def crcBits : Nat → Nat → Nat
  | 0, c => c
  | k + 1, c => crcBits k (if c % 2 = 1 then (c / 2) ^^^ 0x82F63B78 else c / 2)

/-- The CRC-32C register after a list of bytes. -/
def crcAdd (c : Nat) (bs : List Byte) : Nat := bs.foldl (fun c b => crcBits 8 (c ^^^ b.toNat)) c

/-- ADD64 after a list of bytes, the stream being `pos` bytes long before it. -/
def add64 (v pos : Nat) : List Byte → Nat
  | [] => v
  | b :: t => add64 ((v + b.toNat * 256 ^ (pos % 8)) % 2 ^ 64) (pos + 1) t

/-- A running sum continued over bytes: kind, running value, length. -/
def sumAdd (x : Nat × Nat × Nat) (bs : List Byte) : Nat × Nat × Nat :=
  (x.1, if x.1 = 1 then crcAdd x.2.1 bs else add64 x.2.1 x.2.2 bs, x.2.2 + bs.length)

/-- The start of a stream of a sum kind. -/
def sumStart (kind : Nat) : Nat × Nat × Nat := (kind, if kind = 1 then 0xFFFFFFFF else 0, 0)

/-- The value stored for a running sum. -/
def sumValue (x : Nat × Nat × Nat) : Nat := if x.1 = 1 then x.2.1 ^^^ 0xFFFFFFFF else x.2.1

/-- The bytes of a stream from its pieces, from offset `o`; `fuel` pieces at most. -/
def gather (m : AMap Nat (List Byte)) : Nat → Nat → List Byte
  | 0, _ => []
  | f + 1, o =>
    match m.find? o with
    | some b => if b.isEmpty then [] else b ++ gather m f (o + b.length)
    | none => []

/-! ### Bursts (R298, R299) -/

/-- The address of the stream's byte `off` at an endpoint. -/
def DmaReq.at' (r : DmaReq) (base : Nat) (step : List Int) (off : Nat) : Nat :=
  let it := off / r.run
  let c0 := r.count.getD 0 1
  let c1 := r.count.getD 1 1
  ((base : Int) + ((it % c0 : Nat) : Int) * step.getD 0 0 + ((it / c0 % c1 : Nat) : Int) * step.getD 1 0
    + ((it / (c0 * c1) : Nat) : Int) * step.getD 2 0).toNat + off % r.run

/-- The address for the 256-byte boundaries: that of the object's place in memory. -/
def placeIn (obj : Option HandleObj) (o : Nat) : Nat := o + (obj.map (·.address)).getD 0

/-- The length of the burst that starts at stream offset `off`. -/
def DmaReq.burstLen (r : DmaReq) (off : Nat) : Nat :=
  let toRun := r.run - off % r.run
  let s := if r.reads then 256 - placeIn r.srcObj (r.at' r.src r.srcStep off) % 256 else 256
  let d := if r.writes then 256 - placeIn r.dstObj (r.at' r.dst r.dstStep off) % 256 else 256
  min toRun (min s d)

/-- The engine of a request as the one that reaches on-core memory. -/
def DmaReq.who (r : DmaReq) (n : CoreId) : Who := ⟨n, r.ctx, r.gen⟩

/-- An endpoint outside the device's memory. -/
def remote (o : Option HandleObj) : Bool := match o with
  | some x => x.kind == 2 || x.kind == 3
  | none => false

/-- Read bytes at an endpoint of this device. -/
def endRead (r : DmaReq) (space : Nat) (obj : Option HandleObj) (o n : Nat) : M (List Byte) :=
  match space, r.core with
  | 0, some c => accRead (r.who c) o n .r
  | 0, none => vaRead r.ctx o n
  | 1, some c => accRead (r.who c) (placeIn obj o) n .r
  | 1, none => vaRead r.ctx (placeIn obj o) n
  | sp, some c => sramRead (r.who c) ((r.who c).sram sp) o n
  | _, none => throw (.code 2 0x30)

/-- Write bytes at an endpoint of this device. -/
def endWrite (r : DmaReq) (space : Nat) (obj : Option HandleObj) (o : Nat) (bs : List Byte) : M Unit :=
  match space, r.core with
  | 0, some c => accWrite (r.who c) o bs .w
  | 0, none => vaWrite r.ctx o bs
  | 1, some c => accWrite (r.who c) (placeIn obj o) bs .w
  | 1, none => vaWrite r.ctx (placeIn obj o) bs
  | sp, some c => sramWrite (r.who c) ((r.who c).sram sp) o bs
  | _, none => throw (.code 2 0x30)

/-- Change the request of a channel that has a number. -/
def modReq (e : DmaEng) (ch order : Nat) (f : DmaReq → DmaReq) : M Unit :=
  modChan e ch (fun x => { x with reqs := x.reqs.map (fun r => if r.order = order then f r else r) })

/-- Send bytes to a host object, posted, or to a peer window (R428, R446). -/
def remoteWrite (e : DmaEng) (ch : Nat) (r : DmaReq) (o : HandleObj) (off : Nat) (bs : List Byte) : M Unit := do
  if o.kind = 2 then emit (.hostWrite r.ctx (o.address + off) bs)
  else
    match ← sendRouted 1 o.peer 0 r.ctx.val (accessBody o.window (o.address + off) bs.length bs)
        (some (e, ch, r.order, 0)) with
    | some id => modReq e ch r.order (fun x => { x with waits := x.waits ++ [2 * id + 1] })
    | none => throw (.code 3 0x83)

/-- Ask a host object or a peer window for bytes of a stream. -/
def remoteRead (e : DmaEng) (ch : Nat) (r : DmaReq) (o : HandleObj) (off n stream : Nat) : M Unit := do
  if o.kind = 2 then do
    let id ← sendHost r.ctx (o.address + off) n [] (.dmaRead e ch r.order stream) false
    modReq e ch r.order (fun x => { x with waits := x.waits ++ [2 * id] })
  else
    match ← sendRouted 2 o.peer 0 r.ctx.val (accessBody o.window (o.address + off) n [])
        (some (e, ch, r.order, stream)) with
    | some id => modReq e ch r.order (fun x => { x with waits := x.waits ++ [2 * id + 1] })
    | none => throw (.code 3 0x83)

/-- Count bytes written or checked (R307, R543). -/
def countMoved (e : DmaEng) (ch n : Nat) : M Unit := do
  match e with
  | .core c => do
    bumpBy (F.dmCoreBytes (dieOf c)) n
    countCore c 6 n
  | .die d => do
    bumpBy (F.dmBytes d) n
    countChan d ch 0 n

/-- The space and address of an endpoint that lies in this device; none in a host or a peer. -/
def endKey (space : Nat) (obj : Option HandleObj) (o : Nat) : Option (Nat × Nat) :=
  if space = 0 then some (0, o)
  else if space = 1 then (if remote obj then none else some (0, placeIn obj o))
  else some (space, o)

/-- Keep the bytes that a burst writes over, for later bursts of the request that read there (R299). -/
def keepBefore (e : DmaEng) (ch order a : Nat) (bs : List Byte) : M Unit :=
  modReq e ch order (fun x => { x with before := bs.zipIdx.foldl (fun m b =>
    m.insert (a + b.2) (b.1 :: m.getD (a + b.2) [])) x.before })

/-- Bytes that a burst reads at an address: each that an earlier burst of the request has written is the new one or one that
stood there before (R299). -/
def oldOrNew (e : DmaEng) (ch order a : Nat) (bs : List Byte) : M (List Byte) := do
  let m := match ((← get).chanOf e ch).reqs.find? (fun r => r.order == order) with
    | some r => r.before
    | none => []
  if m.isEmpty then pure bs
  else mapM' bs.zipIdx (fun b => foldM' (m.getD (a + b.2) []) b.1 (fun v old => do
    if Config.keepsFirst (← fresh) then pure old else pure v))

/-- A COPY whose source and destination lie in one space and may share bytes. -/
def DmaReq.selfCopy (r : DmaReq) : Bool :=
  r.op == 1 && (match endKey r.srcSpace r.srcObj 0, endKey r.dstSpace r.dstObj 0 with
    | some s, some d =>
      let sb := r.bounds s.2 r.srcStep
      let db := r.bounds d.2 r.dstStep
      s.1 == d.1 && decide (sb.1 + r.src ≤ db.2 + r.dst ∧ db.1 + r.dst ≤ sb.2 + r.src)
    | _, _ => false)

/-- Read a burst of a request within this device. -/
def burstRead (e : DmaEng) (ch : Nat) (r : DmaReq) (o n : Nat) : M (List Byte) := do
  let bs ← endRead r r.srcSpace r.srcObj o n
  match endKey r.srcSpace r.srcObj o with
  | some k => oldOrNew e ch r.order k.2 bs
  | none => pure bs

/-- Write a burst of a request within this device. -/
def burstWrite (e : DmaEng) (ch : Nat) (r : DmaReq) (o : Nat) (bs : List Byte) : M Unit := do
  if r.selfCopy then
    match endKey r.dstSpace r.dstObj o, ← attempt (endRead r r.dstSpace r.dstObj o bs.length) with
    | some k, .ok old => keepBefore e ch r.order k.2 old
    | _, _ => pure ()
  else pure ()
  endWrite r r.dstSpace r.dstObj o bs

/-- Deliver bytes of a stream to the destination of a request. -/
def deliver (e : DmaEng) (ch : Nat) (r : DmaReq) (off : Nat) (bs : List Byte) : M Unit := do
  if r.writes then
    let d := r.at' r.dst r.dstStep off
    match r.dstObj with
    | some o => if remote r.dstObj then remoteWrite e ch r o d bs else burstWrite e ch r d bs
    | none => burstWrite e ch r d bs
  else pure ()
  if r.sum ≠ 0 then modReq e ch r.order (fun x => { x with got := x.got.insert off bs }) else pure ()
  countMoved e ch bs.length

/-! ### dma.cp (R91, R299) -/

/-- The local coordinates of element i of the destination's window. -/
def cpCoords (d : DReg) (i : Nat) : List Int :=
  (d.dims.foldl (fun (p : List Int × Nat) k =>
    let n := (d.windowSize k).toNat
    (p.1 ++ [((p.2 % n : Nat) : Int)], p.2 / n)) ([], i)).1

/-- Where element i of the walk lies in source and destination: bits from the start of each space; none where it
is not moved. -/
def cpPlace (r : DmaReq) (i : Nat) : Option (Int × Int) :=
  let l := cpCoords r.dx i
  match r.dy.locate l, r.dx.locate l with
  | some s, some d => some (s.1 * 8 + s.2, d.1 * 8 + d.2)
  | _, _ => none

/-- The first element at or after i that is moved; `fuel` elements are looked at. -/
def cpNext (r : DmaReq) : Nat → Nat → Option Nat
  | 0, _ => none
  | f + 1, i => if (cpPlace r i).isSome then some i else cpNext r f (i + 1)

/-- The element at a bit offset lies in two words of a DIAG row that do not follow each other (R141). -/
def DReg.straddles (d : DReg) (bit : Int) : Bool :=
  decide ((d.runs (bit / 8) (((bit % 8).toNat + d.bits + 7) / 8)).length = 2)

/-- How many elements after the first continue a burst: consecutive in both, within one 256-byte block of both. An element
that lies in two words is a burst of its own. -/
def cpRun (r : DmaReq) (s d : Int) : Nat → Nat → Nat → Nat
  | 0, _, m => m
  | f + 1, i, m =>
    let b : Int := r.dx.bits
    let blk := fun (obj : Option HandleObj) (x : Int) => (placeIn obj (x / 8).toNat) / 256
    let s' := s + (m : Int) * b
    let d' := d + (m : Int) * b
    if cpPlace r i = some (s', d') ∧ !r.dy.straddles s ∧ !r.dy.straddles s' ∧ !r.dx.straddles d ∧ !r.dx.straddles d' ∧ blk r.dy.obj (s' + b - 1) = blk r.dy.obj s ∧
        blk r.dx.obj (d' + b - 1) = blk r.dx.obj d then cpRun r s d f (i + 1) (m + 1)
    else m

/-- Bits of a byte string. -/
def bitsIn (bs : List Byte) (lo n : Nat) : Nat := bitsOf (leNat bs) lo n

/-- The space and address of an element's first byte through a descriptor; none in a host or a peer. -/
def dscKey (d : DReg) (o : Nat) : Option (Nat × Nat) :=
  if remote d.obj then none else if d.isDevice then some (0, (d.address o).toNat) else some (d.space, o)

/-- An element of a dma.cp from `i` on reads a byte in the `n` bytes at an address of a space. -/
def cpReads (r : DmaReq) (i : Nat) (k : Nat × Nat) (n : Nat) : Bool :=
  (upTo (r.total - i)).any (fun j => match cpPlace r (i + j) with
    | some (s, _) => (r.dy.runs (s / 8) (((s % 8).toNat + r.dy.bits + 7) / 8)).any (fun p => match dscKey r.dy p.1.toNat with
      | some x => x.1 == k.1 && decide (x.2 < k.2 + n ∧ k.2 < x.2 + p.2)
      | none => false)
    | none => false)

/-- Write bits at a bit offset of the destination of a dma.cp, merged at bit granularity (R138); `i` is the first element
that the request has not started. -/
def cpPut (e : DmaEng) (ch : Nat) (r : DmaReq) (i : Nat) (d : Int) (n x : Nat) : M Unit := do
  let lo := (d % 8).toNat
  let len := (lo + n + 7) / 8
  let o := (d / 8).toNat
  match r.core with
  | none => pure ()
  | some c =>
    let runs := r.dx.runs (d / 8) len
    let local' := do
      eachM runs (fun p => match dscKey r.dx p.1.toNat with
        | some k =>
          if cpReads r i k p.2 then do
            match ← attempt (mergeBase (r.who c) r.dx p.1 p.2) with
            | .ok old => keepBefore e ch r.order k.2 old
            | .error _ => pure ()
          else pure ()
        | none => pure ())
      let old ← (if lo = 0 ∧ n % 8 = 0 then pure [] else mapM' runs (fun p => mergeBase (r.who c) r.dx p.1 p.2))
      writeRuns (r.who c) r.dx (leBytes len (putBits (leNat old.flatten) lo n x)) runs
    match r.dx.obj with
    | some h =>
      if remote r.dx.obj then do
        if bitOf h.rights 1 then pure () else throw .protection
        let free ← fresh
        remoteWrite e ch r h o (leBytes len (putBits (Config.outsideBits free) lo n x))
      else local'
    | none => local'

/-- An element before the i-th goes to the bit offset `d` too. -/
def cpEarlier (r : DmaReq) (i : Nat) (d : Int) : Bool := (upTo i).any (fun j => (cpPlace r j).map (·.2) == some d)

/-- Write the `m` elements of a burst from element i, at a bit offset of the destination. A place that an earlier element of
the dma.cp has written holds either value (R140). -/
def cpWrite (e : DmaEng) (ch : Nat) (r : DmaReq) (i : Nat) (d : Int) (m x : Nat) : M Unit := do
  let b := r.dx.bits
  let next := i + m
  if (upTo m).any (fun t => cpEarlier r (i + t) (d + (t * b : Nat))) then
    eachM (upTo m) (fun t => do
      let put := cpPut e ch r next (d + (t * b : Nat)) b (bitsOf x (t * b) b)
      if cpEarlier r (i + t) (d + (t * b : Nat)) then
        if Config.keepsFirst (← fresh) then pure () else put
      else put)
  else cpPut e ch r next d (m * b) x
  countMoved e ch ((m * b + 7) / 8)

/-- Bytes read for a dma.cp through its source descriptor, with R299's choice. -/
def cpRead (e : DmaEng) (ch : Nat) (r : DmaReq) (c : CoreId) (o len : Nat) : M (List Byte) := do
  let bs ← mapM' (r.dy.runs o len) (fun p => do
    let bs ← dscRead (r.who c) r.dy p.1 p.2
    match dscKey r.dy p.1.toNat with
    | some k => oldOrNew e ch r.order k.2 bs
    | none => pure bs)
  pure bs.flatten

/-- One burst of a dma.cp from element i: the elements it covers. -/
def cpBurst (e : DmaEng) (ch : Nat) (r : DmaReq) (i : Nat) : M Nat := do
  match r.core, cpPlace r i with
  | some c, some (s, d) =>
    let m := cpRun r s d 512 (i + 1) 1
    let n := m * r.dx.bits
    let lo := (s % 8).toNat
    let o := (s / 8).toNat
    let len := (lo + n + 7) / 8
    match r.dy.obj with
    | some h =>
      if remote r.dy.obj then do
        if bitOf h.rights 0 then pure () else throw .protection
        remoteRead e ch r h o len i
      else do
        let b ← cpRead e ch r c o len
        cpWrite e ch r i d m (bitsIn b lo n)
    | none => do
      let b ← cpRead e ch r c o len
      cpWrite e ch r i d m (bitsIn b lo n)
    pure m
  | _, _ => pure 1

/-! ### The engine (R294, R302, R303) -/

/-- The effective priority of a request on its channel (R302). -/
def DmaCh.priority (x : DmaCh) (r : DmaReq) : Nat := if r.op = 4 then x.prioCap else min r.prio x.prioCap

/-- The effective share (R303). -/
def DmaCh.share (x : DmaCh) (r : DmaReq) : Nat :=
  if r.op = 4 ∨ r.share = 0 then x.shareCap else min r.share x.shareCap

/-- The request of a channel that has a burst ready: the oldest one with bytes to start. An ORDERED request waits
until it is the oldest of all (R295). -/
def DmaCh.ready (x : DmaCh) : Option DmaReq :=
  match x.reqs.find? (fun r => decide (r.done < r.total)) with
  | some r => if r.ordered && (x.reqs.head?.map (·.order)) != some r.order then none else some r
  | none => none

/-- a is served before b under RUN_TO_COMPLETION: priority, then issue order, then channel (R302). -/
def servedBefore (a b : Nat × Nat × Nat) : Bool :=
  decide (b.1 < a.1) || (a.1 == b.1 && (decide (a.2.1 < b.2.1) || (a.2.1 == b.2.1 && decide (a.2.2 < b.2.2))))

/-- The bus of an engine in bytes per cycle (R293). -/
def dmaBus : DmaEng → Nat
  | .core _ => 256
  | .die _ => 2048

/-- The next burst of a request: the byte, or element, where it starts, and its bytes; none where nothing is left to move. -/
def DmaReq.nextBurst (r : DmaReq) : Option (Nat × Nat) :=
  if r.op = 4 then
    (cpNext r (r.total - r.done) r.done).map (fun i => (i, match cpPlace r i with
      | some (s, d) => (cpRun r s d 512 (i + 1) 1 * r.dx.bits + 7) / 8
      | none => 0))
  else some (r.done, r.burstLen r.done)

/-- Bytes of the burst that a channel has ready. A request that the engine has not checked has none to weigh yet. -/
def DmaCh.due (x : DmaCh) : Option Nat :=
  x.ready.map (fun r => if r.checked then ((r.nextBurst.map (·.2)).getD 0) else 0)

/-- The channel has a burst ready and credit for it (R302, R303). -/
def DmaCh.eligible (x : DmaCh) : Bool :=
  match x.due with
  | some n => decide (n * 256 ≤ x.credit)
  | none => false

/-- The credit of a channel after some cycles (R303): an idle one gathers by its cap. -/
def DmaCh.gathers (x : DmaCh) (bus cycles : Nat) : DmaCh :=
  let k := match x.reqs.find? (fun r => decide (r.done < r.total)) with
    | some r => x.share r
    | none => x.shareCap
  { x with credit := min (4096 * 256) (x.credit + cycles * (k * bus)) }

/-- The engine after some cycles: every sluice has gathered credit, a new cycle has begun, and ready channels that were not
served have been passed over that much longer (R302, R303). -/
def DmaEngSt.wait (x : DmaEngSt) (bus cycles : Nat) : DmaEngSt :=
  if cycles = 0 then x
  else { x with
    chans := x.chans.map (fun (p : Nat × DmaCh) => (p.1, p.2.gathers bus cycles))
    turn := [], used := 0
    passed := x.chans.filterMap (fun (p : Nat × DmaCh) =>
      if p.2.eligible && !x.turn.contains p.1 then some (p.1, x.passed.getD p.1 0 + cycles) else none) }

/-- Channel a is served before channel b in INTERLEAVE mode: one passed over for 4,096 cycles first, then by effective
priority, then round-robin from the channel after the one served last (R302). -/
def DmaEngSt.sooner (x : DmaEngSt) (a b : Nat) : Bool :=
  let key := fun (c : Nat) => (b2n (decide (4096 ≤ x.passed.getD c 0)),
    match (x.chan c).ready with
    | some r => (x.chan c).priority r
    | none => 0, (x.last + 32 - c) % 32)
  let p := key a
  let q := key b
  decide (q.1 < p.1) || (p.1 == q.1 && (decide (q.2.1 < p.2.1) || (p.2.1 == q.2.1 && decide (q.2.2 < p.2.2))))

/-- The engine may start a burst of channel ch now (R302): in a cycle it serves each channel at most once, up to its bus. -/
def DmaEngSt.serves (x : DmaEngSt) (bus ch : Nat) : Bool :=
  if x.mode = 0 then
    (x.chan ch).eligible && !x.turn.contains ch &&
      (x.turn.isEmpty || decide (x.used + ((x.chan ch).due.getD 0) ≤ bus)) &&
      x.chans.all (fun p => p.1 == ch || !p.2.eligible || x.turn.contains p.1 || x.sooner ch p.1)
  else
    let begun := match (x.chan x.last).ready with
      | some r => decide (0 < r.done)
      | none => false
    if begun then x.last == ch
    else
      match (x.chan ch).ready with
      | none => false
      | some r =>
        let key := ((x.chan ch).priority r, r.order, ch)
        x.chans.all (fun p => match p.2.ready with
          | some r' => p.1 == ch || servedBefore key (p.2.priority r', r'.order, p.1)
          | none => true)

/-- The engine has served channel ch with a burst of n bytes. -/
def DmaEngSt.serve (x : DmaEngSt) (ch n : Nat) : DmaEngSt :=
  { x with last := ch, turn := ch :: x.turn, used := x.used + n, passed := x.passed.erase ch }

/-- The work that a request belongs to. -/
def DmaReq.work (s : State) (r : DmaReq) : Work :=
  match r.core with
  | some c => match s.cores.find? c with
    | some k => k.work
    | none => .cmd r.ctx r.q r.idx
  | none => .cmd r.ctx r.q r.idx

/-- A fault that an engine finds ends the command (R301, R102). -/
def dmaFault (e : DmaEng) (r : DmaReq) (er : Err) : M Unit := do
  let x := dmErr er
  let d := match e with
    | .core c => dieOf c
    | .die d => d
  if 0x30 ≤ x.coreCode ∧ x.coreCode ≤ 0x34 then bump (F.dmFaults d) else pure ()
  endWork (r.work (← get)) ⟨x.status, x.coreCode, r.core.map (fun n => (n, r.pc))⟩

/-- Once every host write of a request has been sent, a read of length zero follows them (R446). -/
def flushHost (e : DmaEng) (ch order : Nat) : M Unit := do
  match ((← get).chanOf e ch).reqs.find? (fun r => r.order == order) with
  | none => pure ()
  | some r =>
    let obj := if r.op = 4 then hostSide r.dx.obj
      else if r.stored then (hostSide r.sumObj).or (hostSide r.dstObj) else hostSide r.dstObj
    match obj with
    | none => pure ()
    | some o =>
      if r.total ≤ r.done ∧ r.waits.isEmpty ∧ !r.flushed then do
        let id ← sendHost r.ctx (o.address) 0 [] (.dmaWrite e ch order) false
        modReq e ch order (fun x => { x with flushed := true, waits := [2 * id] })
      else pure ()

/-- The engine's own checks of a request, once (R300). -/
def ensureChecked (e : DmaEng) (ch : Nat) (r : DmaReq) : M DmaReq := do
  if r.checked then pure r
  else do
    let r' ← checkReq r (match e with
      | .core _ => true
      | .die _ => false)
    modReq e ch r.order (fun _ => r')
    pure r'

/-- Move the bytes (or elements) of the burst that starts at i. -/
def moveBurst (e : DmaEng) (ch : Nat) (r : DmaReq) (i len : Nat) : M Unit := do
  if r.op = 4 then do
    let m ← cpBurst e ch r i
    modReq e ch r.order (fun y => { y with done := i + m })
  else do
    modReq e ch r.order (fun y => { y with done := i + len })
    if r.op = 2 then
      deliver e ch r i ((upTo len).map (fun b => BitVec.ofNat 8 (bitsOf r.fill.toNat (8 * ((i % r.run + b) % 8)) 8)))
    else
      let o := r.at' r.src r.srcStep i
      match r.srcObj with
      | some h =>
        if remote r.srcObj then remoteRead e ch r h o len i
        else deliver e ch r i (← burstRead e ch r o len)
      | none => deliver e ch r i (← burstRead e ch r o len)

/-- Start one burst of a request, where the credit holds it: it takes its bytes from the credit (R303). -/
def startBurst (e : DmaEng) (ch : Nat) (r : DmaReq) : M Unit := do
  match r.nextBurst with
  | none => modReq e ch r.order (fun y => { y with done := y.total })
  | some (i, len) =>
    if ((← get).chanOf e ch).credit < len * 256 then pure ()
    else do
      modChan e ch (fun y => { y with credit := y.credit - len * 256 })
      modify (fun s => { s with dma := s.dma.insert e ((s.dmaOf e).serve ch len) })
      (match e with
       | .die d => do
         let a ← fresh
         countChan d ch 1 1
         countChan d ch 2 (Config.burstWait a)
       | .core _ => pure ())
      moveBurst e ch r i len
  flushHost e ch r.order

/-- A DMA engine as a unit. -/
def engUnit : DmaEng → HwUnit
  | .core n => .coreDma n
  | .die d => .dieDma d

/-- A channel with a ready burst and enough sluice credit starts the burst, if the engine serves it now: a free number of
cycles has passed since the engine was last looked at. -/
def execDmaBurst (e : DmaEng) (ch : Fin 32) (s : State) : Host.Outcome State Fault Refusal :=
  run (do
    let s ← get
    guardWait (!s.unitHeld (engUnit e) && (s.chanOf e ch.val).ready.isSome)
    let a ← fresh
    let x := (s.dmaOf e).wait (dmaBus e) (Config.sluiceCycles a)
    modify (fun s => { s with dma := s.dma.insert e x })
    if x.serves (dmaBus e) ch.val then do
      let r ← needSome (x.chan ch.val).ready
      match ← attempt (do startBurst e ch.val (← asDma (ensureChecked e ch.val r))) with
      | .ok _ => refreshChan e ch.val
      | .error er => dmaFault e r er
    else pure ()) s

/-- Data for a stream offset have come from the host or a peer. -/
def dataIn (e : DmaEng) (ch order off : Nat) (wait : Nat) (bs : List Byte) : M Unit := do
  match ((← get).chanOf e ch).reqs.find? (fun r => r.order == order && r.waits.contains wait) with
  | none => pure ()
  | some r =>
    modReq e ch order (fun x => { x with waits := x.waits.filter (fun w => w ≠ wait) })
    match ← attempt (if r.op = 4 then
        (match cpPlace r off with
         | some (s, d) =>
           let m := cpRun r s d 512 (off + 1) 1
           cpWrite e ch r off d m (bitsIn bs (s % 8).toNat (m * r.dx.bits))
         | none => pure ())
      else deliver e ch r off bs) with
    | .ok _ => do
      flushHost e ch order
      refreshChan e ch
    | .error er => dmaFault e r er

/-- A write, or the read after host writes, has been acknowledged. -/
def writeDone (e : DmaEng) (ch order wait : Nat) : M Unit := do
  modReq e ch order (fun x => { x with waits := x.waits.filter (fun w => w ≠ wait) })
  flushHost e ch order
  refreshChan e ch

/-- A host or peer request of a DMA request has failed. -/
def requestFailed (e : DmaEng) (ch order wait : Nat) (er : Err) : M Unit := do
  match ((← get).chanOf e ch).reqs.find? (fun r => r.order == order && r.waits.contains wait) with
  | none => pure ()
  | some r => dmaFault e r er

/-! ### Completion (R294, R305) -/

/-- Store the checksum of a request (R305): the chain continues a request of the same kind and of the same command. -/
def storeSum (e : DmaEng) (ch : Nat) (r : DmaReq) : M Unit := do
  let x := (← get).chanOf e ch
  let start := match x.chain with
    | some c => if r.chain ∧ !r.first ∧ c.1 = r.sum then c else sumStart r.sum
    | none => sumStart r.sum
  let v := sumAdd start (gather r.got (r.got.length + 1) 0)
  let bs := leBytes 8 (sumValue v) ++ leBytes 8 v.2.2
  modReq e ch r.order (fun y => { y with stored := true, flushed := false })
  modChan e ch (fun y => { y with chain := some v })
  match r.sumObj with
  | some o =>
    if remote r.sumObj then remoteWrite e ch r o r.sumPtr bs
    else endWrite r r.sumSpace r.sumObj r.sumPtr bs
  | none => endWrite r r.sumSpace r.sumObj r.sumPtr bs

/-- The oldest request of a channel leaves it: its token returns, or its command's next record enters and the
command ends with its last. -/
def leaveChannel (e : DmaEng) (ch : Fin 32) (r : DmaReq) : M Unit := do
  modChan e ch.val (fun x => { x with
    reqs := x.reqs.filter (fun y => y.order ≠ r.order)
    chain := if r.stored then x.chain else none })
  match e with
  | .core n => returnToken n 2
  | .die d => do
    latchChan d ch.val r.ctx r.q r.idx
    modCmd r.ctx r.q r.idx (fun c => { c with recDone := c.recDone + 1 })
    match (← get).cmdOf r.ctx r.q r.idx with
    | some c =>
      if c.count ≤ c.recDone ∧ c.ending.isNone then
        modCmd r.ctx r.q r.idx (fun c => { c with phase := .ended, ending := some ⟨0, 0, none⟩ })
      else pure ()
    | none => pure ()
    enterRecords d ch 4
  refreshChan e ch.val

/-- A DMA request completes: its writes are visible, then its checksum is stored, then it leaves its channel. -/
def execDmaRequestComplete (e : DmaEng) (ch : Fin 32) (s : State) : Host.Outcome State Fault Refusal :=
  run (do
    let x := (← get).chanOf e ch.val
    let r0 ← needSome x.reqs.head?
    guardWait (decide (r0.total ≤ r0.done) && r0.waits.isEmpty)
    match ← attempt (do
        let r ← asDma (ensureChecked e ch.val r0)
        if r.sum ≠ 0 ∧ r.total ≠ 0 ∧ !r.stored then do
          asDma (storeSum e ch.val r)
          flushHost e ch.val r.order
        else pure ()) with
    | .ok _ =>
      match ((← get).chanOf e ch.val).reqs.head? with
      | some r => if r.waits.isEmpty then leaveChannel e ch r else refreshChan e ch.val
      | none => pure ()
    | .error er => dmaFault e r0 er) s

/-! ### The instructions (R91) -/

/-- Enter a request of an instruction at pc on a core's channel: a full channel stalls (R91). -/
def pushReq (n : CoreId) (pc : W64) (ch : Nat) (r : DmaReq) : M Unit := do
  let x := (← get).dmaOf (.core n)
  guardWait (decide ((x.chan ch).reqs.length < 4))
  takeToken n 2 1
  modify (fun s => { s with dma := s.dma.insert (.core n) { x with next := x.next + 1 } })
  modChan (.core n) ch (fun y => { y with reqs := y.reqs ++ [{ r with order := x.next, pc := pc }] })

/-- The rank that instructions see (R143). -/
def DReg.seenRank (d : DReg) : Nat := if d.view = 1 then 2 else d.rank

/-- dma.cp -/
def execDmaCp (n : CoreId) (w : BitVec 50) (s : State) : Host.Outcome State Fault Refusal :=
  run (let x := wordOf 0xA 0 w
    issue n x (reservedUnless x [useDx, useDy, (4, 3)]) (fun k => do
      stallD k [Wd.dx x, Wd.dy x]
      stallAcquire k
      let d := k.getD (Wd.dx x)
      let y := k.getD (Wd.dy x)
      guardCode (decide (d.etype ≠ 0xF ∧ y.etype ≠ 0xF)) 2 0x06
      writableOk d
      guardCode (d.etype == y.etype && d.seenRank == y.seenRank) 2 0x03
      let r := parseRec [] k.ctx k.gen k.q k.idx (some n)
      pushReq n k.pc (bitsOf x 4 3) { r with op := 4, checked := true, dx := d, dy := y })) s

/-- dma.run: the record is copied at issue. -/
def execDmaRun (n : CoreId) (w : BitVec 50) (s : State) : Host.Outcome State Fault Refusal :=
  run (let x := wordOf 0xA 1 w
    issue n x (reservedUnless x [(40, 5), (20, 3)]) (fun k => do
      stallS k [Wd.f40 x]
      stallAcquire k
      let a := (k.getS (Wd.f40 x)).toNat
      onCoreOk (padOf n) a 128 64
      let b ← sramRead (k.who n) (padOf n) a 128
      guardCode (!recReserved b) 2 0x02
      pushReq n k.pc (bitsOf x 20 3) (parseRec b k.ctx k.gen k.q k.idx (some n)))) s

/-- dma.poll -/
def execDmaPoll (n : CoreId) (w : BitVec 50) (s : State) : Host.Outcome State Fault Refusal :=
  run (let x := wordOf 0xA 2 w
    issue n x (reservedUnless x [(45, 3), (20, 3)]) (fun k => do
      stallAcquire k
      let e := ((← get).chanOf (.core n) (bitsOf x 20 3)).reqs.isEmpty
      modCore n (fun k => k.setP (bitsOf x 45 3) (allPred e)))) s

end Sys2Proof.Machine
end

