-- ==== Sys2Proof/Machine/Taps.lean ====
section
/-! DEFINITION. Tensor taps, counter records and CRC-64 (R389, R546–R550). -/

namespace Sys2Proof.Machine

/-! ### CRC-64 (chapter 15) -/

/-- k bits of a CRC-64 with polynomial 0x42F0_E1EB_A9EA_3693, reflected. -/
def crc64Bits : Nat → Nat → Nat
  | 0, c => c
  | k + 1, c => crc64Bits k (if c % 2 = 1 then (c / 2) ^^^ 0xC96C5795D7870F42 else c / 2)

/-- The CRC-64 register after a list of bytes. -/
def crc64Add (c : Nat) (bs : List Byte) : Nat := bs.foldl (fun c b => crc64Bits 8 (c ^^^ b.toNat)) c

/-- All ones of 64 bits: the initial value and the final exclusive-or. -/
def ones64 : Nat := 0xFFFFFFFFFFFFFFFF

/-- The CRC-64 of a byte string. -/
def crc64 (bs : List Byte) : Nat := crc64Add ones64 bs ^^^ ones64

/-! ### Reading a tap's tensor (R548) -/

/-- Run an access of an engine that is no core's: no row aperture applies. -/
def withoutCores {α : Type} (m : M α) : M α := do
  let cs := (← get).cores
  modify (fun s => { s with cores := [] })
  let r ← attempt m
  modify (fun s => { s with cores := cs })
  match r with
  | .ok a => pure a
  | .error e => throw e

/-- The coordinates of element i of a tensor, dimension 0 fastest. -/
def elementCoords (d : DReg) (i : Nat) : List Int :=
  (d.dims.foldl (fun (p : List Int × Nat) k =>
    (p.1 ++ [((p.2 % d.size k : Nat) : Int)], p.2 / d.size k)) ([], i)).1

/-- The elements of a tensor. -/
def elementCount (d : DReg) : Nat := (d.dims.map d.size).prod

/-- The bytes that an element adds to the byte string of the elements read before it: those it occupies, without
one that the previous element ended in. -/
def tapBytes (w : Who) (d : DReg) (last : Int) (i : Nat) : M (Int × List Byte) := do
  let p := d.place (elementCoords d i)
  let n := (p.2 + d.bits + 7) / 8
  let b ← dscRead w d p.1 n
  let fin := p.1 + (n : Int) - 1
  pure (fin, if d.packed ∧ p.1 = last then b.drop 1 else b)

/-- The running CRC-64 over elements i, i + 1, …: `fuel` of them. -/
def tapCrc (w : Who) (d : DReg) : Nat → Nat → Int → Nat → M Nat
  | 0, _, _, c => pure c
  | f + 1, i, last, c => do
    let r ← tapBytes w d last i
    tapCrc w d f (i + 1) r.1 (crc64Add c r.2)

/-- The values of a tensor's elements in order, widened to FP32 (R119). -/
def tapValues (w : Who) (d : DReg) : M (List Val) := do
  let (coarse, _) ← coarseOf w d
  mapM' (upTo (elementCount d)) (fun i => do
    let c := elementCoords d i
    let x ← readAt w d (d.place c)
    pure (fp32 (widen d.etype x (← fineOf w d c) coarse)))

/-- The histogram bin of a finite value (R549). -/
def tapBin (absmax x : Val) : Nat :=
  let wide := match absmax with
    | .fin _ n _ => decide (n ≠ 0)
    | _ => false
  if !wide then 15
  else
    match (upTo 15).find? (fun b => Val.lt (Val.mul absmax (.fin false 1 (2 ^ (b + 1)))) x.abs) with
    | some b => b
    | none => 15

/-- Bytes 0x20–0x7F of a statistics record (R549, R550). -/
def tapStatistics (xs : List Val) : M (List Byte) := do
  let free ← fresh
  let ys := xs.filter (fun x => !x.isNan)
  let stat := fun (k : Nat) (o : Option Val) => match o with
    | some v => toFp32 v
    | none => Config.emptyStat free k
  let fold1 := fun (f : Val → Val → Val) => match ys with
    | [] => none
    | y :: t => some (t.foldl f y)
  let absmax := match ys with
    | [] => none
    | y :: t => some (t.foldl (fun m x => Val.max m x.abs) y.abs)
  let mean := if ys.isEmpty then none
    else some (Val.div (ys.foldl (fun a x => fp32 (Val.add a x)) Val.zero) (fp32 (Val.ofInt ys.length)))
  let fin := ys.filter (fun x => match x with
    | .fin _ _ _ => true
    | _ => false)
  let bins := (upTo 16).map (fun b =>
    min 0xFFFFFFFE ((fin.filter (fun x => tapBin (absmax.getD Val.zero) x == b)).length))
  pure (leBytes 4 (stat 0 (fold1 Val.min)) ++ leBytes 4 (stat 1 (fold1 Val.max)) ++ leBytes 4 (stat 2 mean)
    ++ leBytes 4 (stat 3 absmax) ++ leBytes 8 (xs.length - ys.length) ++ leBytes 8 0
    ++ bins.flatMap (leBytes 4))

/-- Elements and bytes read, and bytes 0x20–0x7F of the record, of one firing. -/
def tapRead (c : Ctx) (raw : BitVec 1024) (digest : Bool) : M (Nat × Nat × List Byte) := do
  let d ← resolveDesc c raw
  guardCode (decide (d.etype ≠ 0xF) && d.isDevice) 2 0x06
  let w : Who := ⟨0, c, (← get).genOf c⟩
  let n := elementCount d
  let bytes := (n * d.bits + 7) / 8
  withoutCores (do
    if digest then do
      let x ← tapCrc w d n 0 (-1) ones64
      pure (n, bytes, leBytes 8 (x ^^^ ones64) ++ List.replicate 88 0)
    else do
      let xs ← tapValues w d
      pure (n, bytes, ← tapStatistics xs))

/-! ### Firing (R547, R550) -/

/-- A tap table entry. -/
structure Tap where
  digest : Bool
  trigger : Nat
  ctx : Ctx
  source : Nat
  every : Nat
  ring : Nat
  ringLog2 : Nat
  raw : BitVec 1024
  deriving DecidableEq, Repr

/-- A tap table entry that defines a tap: valid, with its fields in their ranges and its reserved fields zero. -/
def parseTap (s : State) (b : List Byte) : Option Tap :=
  let f := fun (o n : Nat) => leNat ((b.drop o).take n)
  match finOf 1025 (f 2 2) with
  | none => none
  | some c =>
    if bitOf (f 0 1) 0 ∧ f 0 1 < 4 ∧ (f 1 1 = 1 ∨ f 1 1 = 2) ∧ s.ctxLive c ∧
        f 4 1 < (if f 1 1 = 1 then 64 else 16) ∧ f 5 1 = 0 ∧ 1 ≤ f 6 2 ∧ f 6 2 ≤ 65534 ∧ f 8 8 % 128 = 0 ∧
        4 ≤ f 0x10 1 ∧ f 0x10 1 ≤ 12 ∧ f 0x11 47 = 0 ∧ f 0xC0 64 = 0 then
      some ⟨bitOf (f 0 1) 1, f 1 1, c, f 4 1, f 6 2, f 8 8, f 0x10 1, BitVec.ofNat 1024 (f 0x40 128)⟩
    else none

/-- Bytes that a STEP tap has read delay the next step of its instance (R548). -/
def chargeTap (t : Tap) (bytes : Nat) : M Unit :=
  match t.trigger, finOf 16 t.source with
  | 2, some m => modify (fun s =>
      let x := s.sched.models.getD m .idle
      { s with sched := { s.sched with models := s.sched.models.insert m { x with tapped := x.tapped + bytes } } })
  | _, _ => pure ()

/-- One firing of tap i: its record, and the counts of OB_TAPSTAT. -/
def fireTap (i : Nat) (t : Tap) (seq : Nat) : M Unit := do
  let now ← sampleTime
  let step := (← get).stepNo
  let head := fun (status n : Nat) => leBytes 2 i ++ leBytes 1 (b2n t.digest) ++ leBytes 1 status
    ++ leBytes 4 seq ++ leBytes 8 step ++ leBytes 8 (timeFor t.ctx now) ++ leBytes 8 n
  bump F.tapRuns
  let r ← attempt (tapRead t.ctx t.raw t.digest)
  let rec' := match r with
    | .ok (n, _, b) => head 0 n ++ b
    | .error e => head e.status 0 ++ List.replicate 96 0
  let w ← attempt (vaWrite t.ctx (t.ring + 128 * (seq % 2 ^ t.ringLog2)) rec')
  match r with
  | .ok (_, bytes, _) => chargeTap t bytes
  | .error _ => pure ()
  match r, w with
  | .ok _, .ok _ => pure ()
  | _, _ => bump F.tapFaults

/-- Tap i of the table, if it defines one. -/
def readTap (i : Nat) : M (Option Tap) := do
  let s ← get
  let r ← attempt (vaRead 0 (bitsOf (s.reg .obTapbase) 12 45 * 4096 + 256 * i) 256)
  match r with
  | .ok b => pure (parseTap s b)
  | .error _ => pure none

/-- Fire the taps of a trigger whose source and context are those given; `step` is the step of a STEP trigger. -/
def fireTaps (trigger source : Nat) (ctx : Option Ctx) (step : Nat) : M Unit := do
  let s ← get
  if !s.flag F.tapValid then pure ()
  else
    eachM (upTo (min 256 (s.fld F.tapCount))) (fun i => do
      match ← readTap i with
      | none => pure ()
      | some t =>
        if t.trigger = trigger ∧ t.source = source ∧ (ctx = none ∨ ctx = some t.ctx) then do
          let (n, seq) := (← get).obs.taps.getD i (0, 0)
          let fires := if trigger = 1 then (n + 1) % t.every == 0 else step % t.every == 0
          modify (fun s => { s with obs := { s.obs with
            taps := s.obs.taps.insert i (n + 1, if fires then (seq + 1) % 2 ^ 32 else seq) } })
          if fires then fireTap i t seq else pure ()
        else pure ())

/-! ### Counter records (R546) -/

/-- One entry of a counter record. -/
def counterEntry (c : Ctx) (rank where' : Nat) (x : CntSet) : List Byte :=
  let cnt := (upTo 8).flatMap (fun k => leBytes 8 (countFor c (nthD x.cnt k 0)))
  leBytes 2 rank ++ leBytes 2 where' ++ leBytes 1 x.width ++ leBytes 3 0 ++ leBytes 8 (timeFor c x.startT)
    ++ leBytes 8 x.startS ++ leBytes 8 (timeFor c x.endT) ++ leBytes 8 x.endS ++ leBytes 24 0 ++ cnt

/-- The counter record of a command that ends now; the times and steps of one that never started are zero. -/
def counterRecord (s : State) (c : Ctx) (q : QIdx) (x : Cmd) (now : Nat) : List Byte :=
  let n := if x.kind = 1 then x.ranks else if x.kind = 2 then x.count else 0
  let run := fun v => if x.started then v else 0
  leBytes 4 1 ++ leBytes 2 n ++ leBytes 1 x.kind ++ leBytes 1 0 ++ leBytes 4 x.tag.toNat
    ++ leBytes 4 x.idx.toNat ++ leBytes 8 (run (timeFor c x.startTime)) ++ leBytes 8 (run (timeFor c now))
    ++ leBytes 8 (run x.startStep) ++ leBytes 8 (run s.stepNo) ++ leBytes 16 0
    ++ (upTo n).flatMap (fun r => match s.obs.latched.find? (c, q, x.idx, r) with
        | some (at', y) => counterEntry c r at' y
        | none => counterEntry c r 0 CntSet.zero)

end Sys2Proof.Machine
end

