-- ==== Sys2Proof/Machine/Starting.lean ====
section
/-! DEFINITION. Starting work: when a die, a cluster and a core may take a command, the state of R66 at kernel
start, and what a command start does to a core's bypass map, tests and counters (R66, R163, R164, R544). -/

namespace Sys2Proof.Machine

/-! ### Power states (R520–R524) -/

/-- No KERNEL, DMA or REQUEST step starts: QUIET, or a tick has passed since it was requested (R522, R523). -/
def State.quiet (s : State) : Bool :=
  s.fld F.pwMode != 0 || (s.pow.trans == some .toQuiet && s.pow.transTick) || s.pow.trans == some .toActive

/-- Die d takes no new work: it is parked, or a tick has passed since its park was requested, or it is still being
unparked (R522, R524). -/
def State.dieOff (s : State) (d : Die) : Bool :=
  bitOf (s.fld F.pwParked) d.val || (s.pow.trans == some (.park d) && s.pow.transTick)
    || s.pow.trans == some (.unpark d)

/-! ### Clusters -/

/-- The cluster (die × 12 + logical cluster) of a core. -/
def clusterOf (n : CoreId) : Nat := n.val / 96 * 12 + n.val % 96 / 8

/-- A cluster by its number. -/
def clusterDie (cl : Nat) : Option (Die × Fin 12) :=
  match finOf 4 (cl / 12), finOf 12 (cl % 12) with
  | some d, some k => some (d, k)
  | _, _ => none

/-- The cores of a cluster. -/
def clusterCores (cl : Nat) : List CoreId := (List.finRange 384).filter (fun n => clusterOf n == cl)

/-- The cluster serves (R363). -/
def State.serves (s : State) (cl : Nat) : Bool :=
  match clusterDie cl with
  | some (d, k) => bitOf (s.fld (F.serving d)) k.val
  | none => false

/-- No command may start on the cluster: it is retired or marked for it (R509). -/
def State.clusterHeld (s : State) (cl : Nat) : Bool :=
  s.rep.retiredClusters.contains cl ||
    (match clusterDie cl with
     | some k => s.rep.markedClusters.contains k
     | none => true)

/-! ### Cores -/

/-- A copy job concerns the core. -/
def CopyJob.holds (n : CoreId) : CopyJob → Bool
  | .bank m _ => m == n
  | .core m _ => m == n
  | .cluster d cl _ => clusterOf n == d.val * 12 + cl.val

/-- A command may start on the core now: it is idle and present, no repair of it waits for the command boundary
(R167, R507, R509), and it does not owe a self-test (R491, R493). -/
def State.coreReady (s : State) (n : CoreId) : Bool :=
  (s.cores.find? n).isNone && !s.flag (F.mxRetired n) && !s.rep.hardFailed.contains n && !s.rep.marked.contains n
    && !s.rep.copies.any (CopyJob.holds n) && !s.sram.bankRemap.any (fun p => p.1 == n)
    && !s.clusterHeld (clusterOf n) && !s.rep.needTest.contains (.core n) && !s.rep.needTest.contains (.coreDma n)
    && !s.rep.testing.contains (.core n, true) && !s.dieOff (dieOf n)

/-- The state of R66 at kernel start. -/
def Core.initial (c : Ctx) (gen : Nat) (q : QIdx) (idx : W32) (stage : Option Model) (rank ranks : Nat) (args : W64)
    (base len parity : Nat) : Core :=
  { ctx := c, gen := gen, q := q, idx := idx, stage := stage, rank := rank, ranks := ranks, args := args,
    codeBase := base, codeLen := len, pc := w64 base, s := [], d := [], p := [], v := [], acc := [], marks := [],
    cvtClass := 0, satCount := 0, user := [], pend := [0, 0, 0, 0, 0], wait := .running, bar := none, arrived := [],
    mxq := [], gl := [], rcache := [], ibuf := [], parity := parity }

/-- Columns that tests have found take effect at a command start: bypass, width, and one REPAIR each (R164). -/
def takeColumns (n : CoreId) : M Unit := do
  let cols := (← get).rep.pendCols.getD n []
  if cols.isEmpty then pure ()
  else do
    modify (fun s => { s with rep := { s.rep with
      pendCols := s.rep.pendCols.erase n
      coreCols := s.rep.coreCols.insert n (s.rep.coreCols.getD n [] ++ cols) } })
    let before := ((← get).rep.coreCols.getD n []).length - cols.length
    eachM (cols.zipIdx) (fun p => raiseRepair 1 (decide (2 ≤ before + p.2 + 1)) (dieOf n).val (clusterOf n % 12) (n.val % 8)
      p.1.val)
    putFld (F.mxWidth n) (← getFld (F.mxNextWidth n))

/-- What the start of a command does to its core, a restore included: a rolling self-test yields, and columns that
it found take effect (R163, R164). -/
def enterCore (n : CoreId) : M Unit := do
  let s ← get
  if s.rep.testing.contains (.core n, false) then do
    modify (fun s => { s with rep := { s.rep with testing := s.rep.testing.filter (fun t => t != (.core n, false)) } })
    bump (F.testYielded (dieOf n))
  else pure ()
  takeColumns n

/-- Start a command on a core (R66, R305, R543, R544). -/
def startOnCore (n : CoreId) (k : Core) : M Unit := do
  enterCore n
  let t ← sampleTime
  modify (fun s =>
    let e := s.dmaOf (.core n)
    { s with
      cores := s.cores.insert n k
      dma := s.dma.insert (.core n) { e with chans := e.chans.map (fun (p : Nat × DmaCh) => (p.1, { p.2 with chain := none })) }
      obs := { s.obs with cores := s.obs.cores.insert n { CntSet.zero with startT := t, startS := s.stepNo } } })

end Sys2Proof.Machine
end

