-- ==== Sys2Proof/Machine/Fences.lean ====
section
/-! DEFINITION. Fences, waits and signals; generations and their drains; the end of a command with its records and
signals; the removal of a queue's work (R61, R308–R335, R503). -/

namespace Sys2Proof.Machine

/-! ### Drains (R61, R503) -/

/-- The endpoints that acknowledge a drain marker: the seven kinds of path that R503 lists. -/
def drainEndpoints : List Nat := upTo 7

/-- RP_DRAIN.PENDING. -/
def refreshDrains : M Unit := modify (fun s => s.setFld F.drainPending (min 0xFFFF s.rep.drains.length))

/-- A generation value goes into drain (R503). -/
def startDrain (c : Ctx) (q : Option QIdx) (value : Nat) : M Unit := do
  modify (fun s => { s with rep := { s.rep with drains := s.rep.drains ++ [⟨c, q, value, drainEndpoints⟩] } })
  refreshDrains

/-- The queue waits for a drain. -/
def State.queueDrains (s : State) (c : Ctx) (q : QIdx) : Bool := s.rep.drains.any (fun d => d.ctx == c && d.q == some q)

/-- The context, or one of its queues, waits for a drain. -/
def State.ctxDrains (s : State) (c : Ctx) : Bool := s.rep.drains.any (fun d => d.ctx == c)

/-- Advance a queue's generation (R61). -/
def advanceQueue (c : Ctx) (q : QIdx) : M Unit := do
  let g ← getFld (F.qGen c q)
  putFld (F.qGen c q) ((g + 1) % 256)
  startDrain c (some q) g

/-! ### Fences (R329–R331) -/

/-- The wait is met (R330). -/
def State.waitMet (s : State) (c : Ctx) (w : WaitEnt) : Bool :=
  decide (w.value.toNat ≤ s.fld (F.fence c w.fence)) && !s.flag (F.fencePoison c w.fence)

/-- A fence that the command names is poisoned. -/
def State.waitPoisoned (s : State) (c : Ctx) (x : Cmd) : Bool := x.waits.any (fun w => s.flag (F.fencePoison c w.fence))

/-- End a command that has not started (R321, R330, R333, R334). -/
def endUnstarted (c : Ctx) (q : QIdx) (idx : W32) (status fault : Nat) : M Unit :=
  modCmd c q idx (fun x => { x with phase := .ended, ending := some ⟨status, fault, none⟩ })

/-- Commands of a context whose registered waits name a fence end with CANCELLED (R330). -/
def cancelWaiters (c : Ctx) (f : FenceId) : M Unit := do
  let s ← get
  eachM (List.finRange 64) (fun q =>
    eachM ((s.queueOf c q).cmds.filter (fun x => x.phase == .waiting && x.waits.any (fun w => w.fence == f)))
      (fun x => endUnstarted c q x.idx 1 0))

/-- Poison a fence (R331). -/
def poisonFence (c : Ctx) (f : FenceId) : M Unit := do
  putFlag (F.fencePoison c f) true
  cancelWaiters c f

/-- Apply a signal's op to a fence: a poisoned fence ignores it; SET takes the greater value, ADD stops at all ones
(R316, R329, R331). -/
def signalFence (c : Ctx) (f : FenceId) (op value : Nat) : M Unit := do
  let s ← get
  if s.flag (F.fencePoison c f) then pure ()
  else
    let x := s.fld (F.fence c f)
    putFld (F.fence c f) (if op = 1 then max x value else min (2 ^ 64 - 1) (x + value))

/-- A remote signal that arrives: applied only where the fence accepts it (R332). -/
def remoteSignal (dev srcCtx : Nat) (c : Ctx) (f : FenceId) (op value : Nat) (poison : Bool) : M Unit := do
  let s ← get
  if s.ctxLive c && s.flag (F.fenceRemote c f) && s.fld (F.fenceSrcDev c f) == dev && s.fld (F.fenceSrcCtx c f) == srcCtx
  then (if poison then (if s.flag (F.fencePoison c f) then pure () else poisonFence c f) else signalFence c f op value)
  else bump F.feRemoteReject

/-! ### Sending signals (R332, R454, R455) -/

/-- The window address of a device in the peer table, and its requester ID: entries i, i + 1, … are looked at. A
read that faults finds no entry (R454). -/
def peerEntry (dev : Nat) : Nat → Nat → M (Option (Nat × Nat))
  | 0, _ => pure none
  | f + 1, i => do
    let s ← get
    match ← attempt (vaRead 0 (bitsOf (s.reg .cxPeerbase) 12 45 * 4096 + 16 * i) 16) with
    | .error _ => pure none
    | .ok b =>
      if recField b 0 2 = dev ∧ recField b 4 4 = 1 then pure (some (recField b 8 8, recField b 2 2))
      else peerEntry dev f (i + 1)

/-- The peer table's entry for a device, when the table is valid. -/
def findPeer (dev : Nat) : M (Option (Nat × Nat)) := do
  let s ← get
  if s.flag F.peerValid then peerEntry dev (s.fld F.peerCount) 0 else pure none

/-- Send a signal through the switch where the peer table holds its target; else it is lost (R454, R455): source
context, target device and context, and the first three bytes of the SIGNAL body. -/
def sendSwitch (srcCtx dev ctx fence op flags value : Nat) : M Unit := do
  match ← findPeer dev with
  | none => bump F.feSignalLost
  | some (window, _) => do
    let s ← get
    let tag := s.cxl.nextUio
    set { s with cxl := { s.cxl with uio := s.cxl.uio ++ [UioReq.mk tag], nextUio := tag + 1 } }
    emit (.uio tag window (leBytes 2 (s.fld F.deviceId) ++ leBytes 2 srcCtx ++ leBytes 2 ctx
      ++ leBytes 1 fence ++ leBytes 1 op ++ leBytes 1 flags ++ leBytes 7 0 ++ leBytes 8 value ++ leBytes 8 0))

/-- Send a remote signal: over Jelucy where a route exists, else through the switch, else it is lost (R332, R454). -/
def sendRemote (c : Ctx) (e : SigEnt) (poison : Bool) : M Unit := do
  match ← routeTo e.device with
  | some _ => do
    let _ ← sendRouted 4 e.device e.context c.val
      (leBytes 1 e.fence.val ++ leBytes 1 e.op ++ leBytes 1 (b2n poison) ++ leBytes 5 0 ++ leBytes 8 e.value.toNat) none
  | none => sendSwitch c.val e.device e.context e.fence.val e.op (b2n poison) e.value.toNat

/-- A command's signals in entry order: all of a successful command; of another one those with POISON_ERR, which
poison their fences (R327, R331). -/
def sendSignals (c : Ctx) (x : Cmd) (success : Bool) : M Unit :=
  eachM x.signals (fun e =>
    if success then (if e.remote then sendRemote c e false else signalFence c e.fence e.op e.value.toNat)
    else if e.poisonErr then (if e.remote then sendRemote c e true else poisonFence c e.fence)
    else pure ())

/-! ### Deadlock (R333) -/

/-- The queues that queue q has edges to: the owners of the unmet fences of its waiting command. -/
def State.edges (s : State) (c : Ctx) (q : QIdx) : List QIdx :=
  ((s.queueOf c q).cmds.filter (fun x => x.phase == .waiting)).flatMap (fun x =>
    (x.waits.filter (fun w => !s.waitMet c w && s.flag (F.fenceOwned c w.fence))).filterMap (fun w =>
      finOf 64 (s.fld (F.fenceOwner c w.fence))))

/-- No command of the queue has started and not completed. -/
def State.queueStill (s : State) (c : Ctx) (q : QIdx) : Bool := (s.queueOf c q).cmds.all (fun x => !x.started)

/-- The queues that can be reached from a set over edges of still queues, in `fuel` rounds. -/
def State.reach (s : State) (c : Ctx) : Nat → List QIdx → List QIdx
  | 0, qs => qs
  | f + 1, qs =>
    State.reach s c f ((qs ++ (qs.filter (s.queueStill c)).flatMap (s.edges c)).eraseDups)

/-- Queue q lies on a closed cycle. -/
def State.closed (s : State) (c : Ctx) (q : QIdx) : Bool :=
  s.queueStill c q && (s.reach c 64 (s.edges c q)).contains q

/-- If queue q lies on a closed cycle, its registered command ends with DEADLOCK. -/
def testDeadlock (c : Ctx) (q : QIdx) : M Unit := do
  let s ← get
  match (s.queueOf c q).cmds.find? (fun x => x.phase == .waiting) with
  | none => pure ()
  | some x =>
    if s.closed c q then do
      endUnstarted c q x.idx 8 0
      bump F.feDeadlocks
    else pure ()

/-! ### The end of a command (R323–R327, R362, R546) -/

/-- A completion status of a successful command (R328). -/
def succeeded (status : Nat) : Bool := status == 0 || status == 0x10 || status == 0x11

/-- The completion ring has room for n more records, counted from CHEAD (R325). -/
def State.ringRoom (s : State) (c : Ctx) (q : QIdx) (n : Nat) : Bool :=
  decide ((s.fld (F.qCtail c q) + 2 ^ 32 - s.fld (F.qChead c q)) % 2 ^ 32 + n ≤ 2 ^ s.fld (F.qSizeLog2 c q))

/-- Commands started and not completed. -/
def State.startedCount (s : State) (c : Ctx) (q : QIdx) : Nat := ((s.queueOf c q).cmds.filter (·.started)).length

/-- The 32 bytes of a completion record (R323, R324). -/
def completionRecord (s : State) (c : Ctx) (q : QIdx) (x : Cmd) (e : Ending) (counters : Bool) : List Byte :=
  let k := s.fld (F.qCtail c q)
  let size := 2 ^ s.fld (F.qSizeLog2 c q)
  let flags := (k / size + 1) % 2 + 2 * b2n e.core.isSome + 4 * b2n counters
  let core := match e.core with
    | some (n, _) => n.val
    | none => 0
  let pc := match e.core with
    | some (_, a) => a.toNat
    | none => 0
  leBytes 1 e.status ++ leBytes 1 flags ++ leBytes 1 e.fault ++ leBytes 1 0 ++ leBytes 4 x.tag.toNat
    ++ leBytes 4 x.idx.toNat ++ leBytes 2 core ++ leBytes 2 0 ++ leBytes 8 pc ++ leBytes 8 s.stepNo

/-- Write the counter record; the answer is whether it was written (R546). -/
def writeCounters (c : Ctx) (q : QIdx) (x : Cmd) : M Bool := do
  match x.counters with
  | none => pure false
  | some o => do
    let now ← sampleTime
    let s ← get
    match ← attempt (vaWrite c o.address (counterRecord s c q x now)) with
    | .ok _ => pure true
    | .error _ => pure false

/-- A command ends: COMMAND taps, counter record, completion record and its interrupt, then the signals; and the
accounts of R362. A record that the ring has no room for is not written (R325). -/
def finishCmd (c : Ctx) (q : QIdx) (x : Cmd) (e : Ending) : M Unit := do
  fireTaps 1 q.val (some c) 0
  let counters ← writeCounters c q x
  let s ← get
  if s.ringRoom c q 1 then do
    let k := s.fld (F.qCtail c q)
    let _ ← attempt (vaWrite c ((s.queueOf c q).cring + 32 * (k % 2 ^ s.fld (F.qSizeLog2 c q)))
      (completionRecord s c q x e counters))
    putFld (F.qCtail c q) ((k + 1) % 2 ^ 32)
    fireMsix c 0
  else pure ()
  sendSignals c x (succeeded e.status)
  let a ← fresh
  trace (some 0) 2 (Config.traceDie a % 4) c.val x.idx.toNat (q.val + e.status * 2 ^ 8 + e.fault * 2 ^ 16) x.tag.toNat
  bump (F.ssJobs c)
  if x.kind = 4 then bump (F.ssRequests c) else pure ()
  if x.started then putFld (F.qRunning c q) ((← getFld (F.qRunning c q)) - 1) else pure ()
  modQueue c q (fun y => { y with cmds := y.cmds.filter (fun z => z.idx ≠ x.idx) })
  modify (fun s => { s with obs := { s.obs with
    latched := s.obs.latched.filter (fun (p : (Ctx × QIdx × W32 × Nat) × Nat × CntSet) =>
      !(p.1.1 == c && p.1.2.1 == q && p.1.2.2.1 == x.idx)) } })

/-- An answer that a command's record waits for has not come (R283, R284). -/
def State.owes (s : State) (x : Cmd) : Bool :=
  x.holds.any (fun w => if w % 2 = 0 then s.cxl.reqs.any (fun r => r.id == w / 2) else s.fab.sent.any (fun m => m.id == w / 2))

/-! ### Removing a queue's work (R335, R500) -/

/-- The clusters that a context with saved images left (R359). -/
def CtxSt.imageClusters (x : CtxSt) : List Nat := (x.images.flatMap (·.held)).eraseDups

/-- A reclaim that names the context was posted before the last tick (R361). -/
def State.reclaiming (s : State) (c : Ctx) : Bool :=
  s.sched.reclaims.any (fun r => r.ctxs.contains c && decide (r.posted < s.time.ticks))

/-- The images that `p` keeps; the lines of all of them go with the first that is left. -/
def keepImages (p : Image → Bool) (is : List Image) : List Image :=
  (is.filter p).zipIdx.map (fun x => if x.2 = 0 then { x.1 with
    spad := is.flatMap (·.spad), store := is.flatMap (·.store), lineBase := (is.map (·.lineBase)).foldl max 0 } else x.1)

/-- SS_CLUSTERd.SAVED and SS_PARTc.SAVED from the images that are held (R363). -/
def refreshSaved : M Unit := do
  let s ← get
  let all := (s.ctxs.flatMap (fun p => p.2.imageClusters)).eraseDups
  eachM (List.finRange 4) (fun d =>
    putFld (F.saved d) (((upTo 12).filter (fun k => all.contains (d.val * 12 + k))).map (2 ^ ·)).sum)
  eachM (s.ctxs.filter (fun p => p.1 ≠ 0)) (fun p => putFlag (F.partSaved p.1) (!p.2.images.isEmpty))

/-! ### The weight state of an instance (R369, R370, R377) -/

def State.wtOf (s : State) (m : Model) : WtSt := s.wts.getD m .none

/-- A set is in use: a command of this chapter runs with a package bound to it, or a STREAMED instance streams one
(R473). -/
def State.setBusy (s : State) (setId : Nat) : Bool :=
  s.wts.any (fun p => (p.2.q.isSome || (s.fld (F.wMode p.1) == 1 && decide (3 ≤ s.fld (F.wState p.1) ∧ s.fld (F.wState p.1) ≤ 5)))
    && (p.2.pkg.any (fun k => k.setId == setId) || p.2.next.any (fun k => k.pkg.setId == setId)))

/-- SE_SETS: the slots that hold a key, and those whose set is in use (R487). -/
def refreshSets : M Unit := modify (fun s =>
  let sum := fun (p : Fin 16 × Nat × Nat → Bool) => ((s.sec.sets.filter p).map (fun x => 2 ^ x.1.val)).sum
  (s.setFld F.setsHeld (sum (fun _ => true))).setFld F.setsInUse (sum (fun x => s.setBusy x.2.1)))

def modWt (m : Model) (f : WtSt → WtSt) : M Unit := do
  modify (fun s => { s with wts := s.wts.insert m (f (s.wtOf m)) })
  refreshSets

/-- Set the weight state registers of an instance. -/
def putWtState (m : Model) (st : Nat) : M Unit := do
  putFld (F.wState m) st
  refreshSets
  let w := (← get).wtOf m
  putFld (F.wLayer m) (if st = 1 ∨ st = 4 ∨ st = 5 then w.layer else 0)

/-- Shards of an instance in flight that `p` names are dropped, with what reads them. -/
def dropFlight (m : Model) (p : ShardSt → Bool) : M Unit := do
  eachM ((((← get).wtOf m).flight).filter p) (fun f => do
    endOwn (.shard m f.k f.step) (fun _ => 0)
    modify (fun s => { s with fab := { s.fab with
      sent := s.fab.sent.filter (fun x => !(x.shard.any (fun y => y.1 == m && y.2.1 == f.k && y.2.2.1 == f.step))) } }))
  modWt m (fun w => { w with flight := w.flight.filter (fun f => !p f) })

/-- The content key is kept while a command of this chapter runs or the instance streams the package (R369). -/
def WtSt.keep (w : WtSt) (streamed : Bool) : WtSt :=
  { w with
    next := Option.none
    pkg := if streamed then w.pkg else w.pkg.map (fun p => { p with key := Option.none }) }

/-- A command of this chapter ends. -/
def endWt (m : Model) (st status fault : Nat) : M Unit := do
  let w := (← get).wtOf m
  match w.q with
  | some r => endSys r status fault
  | none => pure ()
  let streamed ← getFlag (F.wMode m)
  if streamed then pure () else dropFlight m (fun _ => true)
  modWt m (fun w => { w.keep streamed with q := none })
  putWtState m st

/-- The weight command of a queue of context 0 that is removed: a load ends FAILED, a replacement pauses, and a STREAMED
instance keeps its package (R335, R377, R385, R386). -/
def cancelWt (c : Ctx) (q : QIdx) : M Unit := do
  let s ← get
  eachM (s.wts.filter (fun p => c == 0 && p.2.q.any (fun r => r.1 == q))) (fun p =>
    endWt p.1 (if s.flag (F.wMode p.1) then 3 else if s.fld (F.wState p.1) = 1 then 6 else 5) 1 0)

/-- Step 2 of R335: every command's work leaves the engines and the scheduler; a command that has not ended on its
own ends with the given status and fault. -/
def cancelQueue (c : Ctx) (q : QIdx) (status fault : Nat) : M Unit := do
  eachM ((← get).queueOf c q).cmds (fun x => endCmd c q x.idx ⟨status, fault, none⟩)
  cancelWt c q
  modify (fun s => { s with
    sched := { s.sched with reqs := s.sched.reqs.map (fun r =>
      if r.ctx = c ∧ r.q = q then { r with cancelled := true } else r) }
    ctxs := s.ctxs.map (fun (p : Ctx × CtxSt) =>
      if p.1 = c then (p.1, { p.2 with images := keepImages (fun i => i.q ≠ q) p.2.images }) else p) })
  refreshSaved

/-- Step 4: the records of every command that had started or been prefetched, in ring order. No peer write of theirs is sent
again after them (R284). -/
def recordQueue (c : Ctx) (q : QIdx) : M Unit := do
  let cs := ((← get).queueOf c q).cmds
  modify (fun s => { s with fab := { s.fab with
    sent := s.fab.sent.filter (fun m => !cs.any (fun x => x.holds.contains (2 * m.id + 1))) } })
  eachM cs (fun x => finishCmd c q x (x.ending.getD ⟨1, 0, none⟩))

/-- Step 5: poison the fences that the queue owns. -/
def poisonOwned (c : Ctx) (q : QIdx) : M Unit := do
  let s ← get
  eachM ((List.finRange 256).filter (fun f => s.flag (F.fenceOwned c f) && s.fld (F.fenceOwner c f) == q.val))
    (poisonFence c)

end Sys2Proof.Machine
end

