-- ==== Sys2Proof/Machine/Partitions.lean ====
section
/-! DEFINITION. Partitions: the choice of the running grants at a tick, clusters that are given up and taken, and the
time slices (R355–R360, R363). -/

namespace Sys2Proof.Machine

/-! ### Sorting -/

/-- Put an element into a list kept in order. -/
def insertBy {α : Type} (lt : α → α → Bool) (x : α) : List α → List α
  | [] => [x]
  | y :: t => if lt y x then y :: insertBy lt x t else x :: y :: t

/-- Order a list; elements that `lt` does not tell apart keep their order. -/
def sortBy {α : Type} (lt : α → α → Bool) : List α → List α
  | [] => []
  | x :: t => insertBy lt x (sortBy lt t)

/-- Compare by keys, each applied after the one before. -/
def lexLess : List Nat → List Nat → Bool
  | a :: s, b :: t => decide (a < b) || (a == b && lexLess s t)
  | _, _ => false

/-! ### Grants (R355, R356) -/

/-- Clusters that the grant of a context names on die d. -/
def State.grantOf (s : State) (c : Ctx) (d : Nat) : Nat := bitsOf (s.fld (F.partClusters c)) (4 * d) 4

def onDie (cls : List Nat) (d : Nat) : Nat := (cls.filter (fun x => x / 12 == d)).length

/-- Existing client contexts, in order. -/
def State.clients (s : State) : List Ctx := (List.finRange 1025).filter (fun c => c ≠ 0 && s.ctxLive c)

/-- The grant runs with a slice of which no tick is left. -/
def State.sliceOver (s : State) (c : Ctx) : Bool :=
  s.flag (F.partRunning c) && s.fld (F.partSlice c) != 0 && s.fld (F.sliceLeft c) == 0

/-- Clusters that a context holds or has been given. -/
def CtxSt.clusters (x : CtxSt) : List Nat := x.holds ++ x.claims

/-- The most clusters that a grant may name on a die (R355). -/
def State.grantLimit (s : State) : Nat := 12 - s.fld F.serveMin

/-- Clusters of die d that may be given away: of those in service, SERVE_MIN stay (R356). -/
def State.grantable (s : State) (d : Nat) : Nat :=
  ((upTo 12).filter (fun k => !s.clusterHeld (12 * d + k))).length - s.fld F.serveMin

/-- A command of another context, or a pooled stage, runs on the cluster. -/
def State.clusterBusy (s : State) (c : Ctx) (cl : Nat) : Bool :=
  s.cores.any (fun p => clusterOf p.1 == cl && (p.2.ctx != c || p.2.stage.isSome))

/-- Another context holds the cluster. -/
def State.clusterTaken (s : State) (c : Ctx) (cl : Nat) : Bool :=
  s.ctxs.any (fun p => p.1 != c && p.2.holds.contains cl)

/-- The scheduler can give the cluster to the context: it is not kept for another grant, it is in service, and no
pooled stage keeps it serving. -/
def State.clusterFree (s : State) (c : Ctx) (kept : List Nat) (cl : Nat) : Bool :=
  !kept.contains cl && !s.clusterHeld cl && (s.clusterTaken c cl || !s.clusterBusy c cl) &&
    (match clusterDie cl with
     | some (d, _) => !s.dieOff d
     | none => false)

/-- Put i into a list kept in the order of the free choice. -/
def placeCluster (seed d i : Nat) : List Nat → List Nat
  | [] => [i]
  | j :: t => if Config.clusterFirst seed (12 * d + i) (12 * d + j) then i :: j :: t else j :: placeCluster seed d i t

/-- The clusters of die d in the order in which they are tried. -/
def clusterOrder (seed d : Nat) : List Nat :=
  ((upTo 12).foldl (fun l i => placeCluster seed d i l) []).map (12 * d + ·)

/-- Clusters for a waiting grant, those of its image among them (R359); none where they are not to be had. -/
def State.pickClusters (s : State) (c : Ctx) (kept : List Nat) (seed : Nat) : Option (List Nat) :=
  let must := (s.ctxs.getD c .absent).imageClusters
  if must.all (s.clusterFree c kept) then
    (((upTo 4).mapM (fun d =>
      let n := s.grantOf c d
      let cand := (clusterOrder seed d).filter (fun x => s.clusterFree c kept x && !must.contains x)
      let cand' := cand.filter (fun x => !s.clusterTaken c x) ++ cand.filter (fun x => s.clusterTaken c x)
      let old := must.filter (fun x => x / 12 == d)
      if old.length ≤ n ∧ n - old.length ≤ cand'.length ∧ onDie kept d + n ≤ s.grantable d then
        some (old ++ cand'.take (n - old.length))
      else none)).map List.flatten)
  else none

/-- A grant gives up its clusters (R357): its preemptible commands are asked to preempt. -/
def leaveGrant (c : Ctx) : M Unit :=
  modCtx c (fun x => { x with claims := [], preempt := !x.holds.isEmpty })

/-- One grant after the other takes or keeps its clusters; `kept` are those of the grants before. -/
def chooseFrom : List Ctx → List Nat → M Unit
  | [], _ => pure ()
  | c :: t, kept => do
    let s ← get
    let x := s.ctxs.getD c .absent
    let cls := x.clusters
    if cls.isEmpty then do
      let a ← fresh
      match s.pickClusters c kept a with
      | none => chooseFrom t kept
      | some new => do
        let slice := s.fld (F.partSlice c)
        if slice ≠ 0 ∧ slice ≤ s.fld (F.sliceDeduct c) then do
          putFld (F.sliceDeduct c) 0
          modCtx c (fun y => { y with lastRan := s.time.ticks })
          chooseFrom t kept
        else do
          modCtx c (fun y => { y with claims := new })
          chooseFrom t (kept ++ new)
    else if (upTo 4).all (fun d => onDie cls d == s.grantOf c d && decide (onDie kept d + onDie cls d ≤ s.grantable d))
        && cls.all (fun k => !kept.contains k && !s.clusterHeld k && (match clusterDie k with
          | some (d, _) => !s.dieOff d
          | none => false)) then do
      if s.sliceOver c then putFld (F.sliceLeft c) (s.fld (F.partSlice c)) else pure ()
      chooseFrom t (kept ++ cls)
    else do
      leaveGrant c
      chooseFrom t kept

/-- SS_CLUSTERd.GRANTED and SS_PARTc.RUNNING. -/
def refreshGranted : M Unit := do
  let s ← get
  let all := s.ctxs.flatMap (fun p => p.2.holds)
  eachM (List.finRange 4) (fun d =>
    putFld (F.granted d) (((upTo 12).filter (fun k => all.contains (d.val * 12 + k))).map (2 ^ ·)).sum)
  eachM (s.ctxs.filter (fun p => p.1 ≠ 0)) (fun p => putFlag (F.partRunning p.1) (!p.2.holds.isEmpty))

/-- SS_CLUSTERd.SERVING, as a tick leaves it: clusters that no grant has. -/
def refreshServing : M Unit := do
  let s ← get
  let all := s.ctxs.flatMap (fun p => p.2.clusters)
  eachM (List.finRange 4) (fun d =>
    putFld (F.serving d) (((upTo 12).filter (fun k =>
      !all.contains (d.val * 12 + k) && !s.rep.retiredClusters.contains (d.val * 12 + k)
        && !bitOf (s.fld F.pwParked) d.val)).map (2 ^ ·)).sum)

/-- A grant that is leaving lets go of its clusters once nothing of its context is left on a core (R357). -/
def releaseGrant (c : Ctx) : M Unit := do
  let s ← get
  let x := s.ctxs.getD c .absent
  if x.preempt && !x.saving && !s.cores.any (fun p => p.2.ctx == c && p.2.stage.isNone) then do
    modCtx c (fun y => { y with holds := [], preempt := false, lastRan := s.time.ticks })
    putFld (F.sliceLeft c) 0
  else pure ()

/-- A grant holds the clusters it has been given as soon as every one of them is free and SERVE_MIN serving clusters
stay (R356, R360). -/
def takeClaims (c : Ctx) : M Unit := do
  let s ← get
  let x := s.ctxs.getD c .absent
  let held := (s.ctxs.filter (fun p => p.1 ≠ c)).flatMap (fun p => p.2.holds)
  if !x.claims.isEmpty && x.claims.all (fun k => !s.clusterBusy c k && !held.contains k)
      && (upTo 4).all (fun d => onDie x.claims d == 0 || decide (onDie held d + onDie x.claims d ≤ s.grantable d)) then do
    modCtx c (fun y => { y with holds := y.claims, claims := [] })
    putFld (F.sliceLeft c) (s.fld (F.partSlice c) - s.fld (F.sliceDeduct c))
    putFld (F.sliceDeduct c) 0
  else pure ()

/-- What follows at once when clusters become free. -/
def settleGrants : M Unit := do
  eachM (← get).clients releaseGrant
  eachM (← get).clients takeClaims
  refreshGranted

/-- The order of R356: priority, then grants that run and keep their slice, then the context that has waited longest. -/
def State.grantOrder (s : State) : List Ctx :=
  sortBy (fun a b =>
    let key := fun (c : Ctx) =>
      let x := s.ctxs.getD c .absent
      [3 - s.fld (F.partPriority c), b2n (x.clusters.isEmpty || s.sliceOver c),
        if s.sliceOver c then s.time.ticks else x.lastRan, c.val]
    lexLess (key a) (key b))
    (s.clients.filter (fun c => s.fld (F.partClusters c) != 0 && !(s.ctxs.getD c .absent).preempt))

/-- Choose the running partitions (R356). In QUIET every grant gives up its clusters (R522); so does a context whose
grant has ended. -/
def chooseGrants : M Unit := do
  let s ← get
  if s.quiet then
    eachM (s.clients.filter (fun c => !(s.ctxs.getD c .absent).clusters.isEmpty)) leaveGrant
  else do
    eachM (s.clients.filter (fun c => s.fld (F.partClusters c) == 0 && !(s.ctxs.getD c .absent).clusters.isEmpty))
      leaveGrant
    let leaving := (s.ctxs.filter (fun p => p.2.preempt)).flatMap (fun p => p.2.holds)
    let saves := s.clients.filter (fun c => (s.ctxs.getD c .absent).restoring)
    let fixed := saves.flatMap (fun c => (s.ctxs.getD c .absent).holds)
    chooseFrom ((s.grantOrder).filter (fun c => !saves.contains c)) (fixed.filter (fun k => !leaving.contains k))
  settleGrants
  refreshServing

/-- What a tick does to the slices (R356, R357): a running slice loses a tick; a context that runs past its slice's end
inside a non-preemptible command is charged one. -/
def tickSlices : M Unit := do
  let s ← get
  eachM s.clients (fun c => do
    if s.flag (F.partRunning c) && s.fld (F.partSlice c) != 0 then
      (if (s.ctxs.getD c .absent).preempt then
        (if s.fld (F.sliceLeft c) = 0 ∧ s.cores.any (fun p => p.2.ctx == c && p.2.stage.isNone &&
            (match s.cmdOf c p.2.q p.2.idx with
             | some x => !x.preemptible
             | none => false)) then
          putFld (F.sliceDeduct c) (min 0xFFFF (s.fld (F.sliceDeduct c) + 1)) else pure ())
      else putFld (F.sliceLeft c) (s.fld (F.sliceLeft c) - 1))
    else pure ())

end Sys2Proof.Machine
end

