-- ==== Sys2Proof/Machine/FrontEnd.lean ====
section
/-! DEFINITION. The command front end: queues, doorbells, prefetch, waits, the start of commands, MARKER, KERNEL
and DMA commands, completion, and the enqueue instructions (chapter 12, R99). -/

namespace Sys2Proof.Machine

/-! ### Queue creation and destruction (R308, R309, R335, R336) -/

/-- A write of FE_QCFGq: the fields beside ENABLE take it only while the queue is FREE. -/
def writeQcfg (c : Ctx) (q : QIdx) (h : Half) (v : W64) : M Unit := do
  let s ← get
  if !s.ctxLive c then pure ()
  else
    let st := s.fld (F.qState c q)
    let enable := bitOf v.toNat 0
    if h = .hi then pure ()
    else if st = 0 then do
      set (s.checkedWrite (.feQcfg c q) h v (fun lo _ => lo ≠ 0))
      if enable then do
        let s ← get
        let size := s.fld (F.qSizeLog2 c q)
        let ring := bitsOf (s.reg (.feQring c q)) 12 45
        let cring := bitsOf (s.reg (.feQcring c q)) 12 45
        if size < 6 ∨ 16 < size ∨ ring = 0 ∨ cring = 0 then putFlag (F.qCfgReject c q) true
        else do
          putFlag (F.qEnable c q) true
          putFld (F.qState c q) 1
          modQueue c q (fun _ => { QueueSt.empty with ring := ring * 4096, cring := cring * 4096 })
          advanceQueue c q
      else pure ()
    else if st = 2 ∧ !enable then do
      putFlag (F.qEnable c q) false
      putFld (F.qState c q) 3
      cancelQueue c q 1 0
      advanceQueue c q
      recordQueue c q
      poisonOwned c q
    else pure ()

/-- A write that sets ENABLE (R309). -/
def execFeQcfgEnableSet (c : Ctx) (q : QIdx) (h : Half) (v : W64) (s : State) : Host.Outcome State Fault Refusal :=
  run (do
    guardWait (bitOf v.toNat 0)
    writeQcfg c q h v) s

/-- The drain has confirmed the new generation: the queue is ACTIVE (R309). -/
def execQueueActive (c : Ctx) (q : QIdx) (s : State) : Host.Outcome State Fault Refusal :=
  run (do
    let s ← get
    guardWait (s.fld (F.qState c q) == 1 && !s.queueDrains c q)
    putFld (F.qHead c q) 0
    putFld (F.qTail c q) 0
    putFld (F.qChead c q) 0
    putFld (F.qCtail c q) 0
    putFld (F.qState c q) 2) s

/-- A write that clears ENABLE (R335). -/
def execFeQcfgEnableClear (c : Ctx) (q : QIdx) (h : Half) (v : W64) (s : State) : Host.Outcome State Fault Refusal :=
  run (do
    guardWait (!bitOf v.toNat 0)
    writeQcfg c q h v) s

/-- The drain has confirmed that nothing carries the old generation: the queue is FREE (R335). -/
def execQueueFree (c : Ctx) (q : QIdx) (s : State) : Host.Outcome State Fault Refusal :=
  run (do
    let s ← get
    guardWait (s.fld (F.qState c q) == 3 && !s.queueDrains c q)
    putFld (F.qState c q) 0) s

/-! ### Doorbells and pointers (R311, R326) -/

/-- A write of FE_QDBq (R311). -/
def writeDoorbell (c : Ctx) (q : QIdx) (h : Half) (v : W64) : M Unit := do
  let s ← get
  if h = .hi ∨ !s.ctxLive c then pure ()
  else
    let t := v.toNat % 2 ^ 32
    let size := 2 ^ s.fld (F.qSizeLog2 c q)
    if s.fld (F.qState c q) = 2 ∧ !s.flag (F.qWriter c q) ∧
        (t + 2 ^ 32 - s.fld (F.qTail c q)) % 2 ^ 32 ≤ size ∧ (t + 2 ^ 32 - s.fld (F.qHead c q)) % 2 ^ 32 ≤ size then
      putFld (F.qTail c q) t
    else putFlag (F.qDbReject c q) true

/-- A write of a consumer count: accepted only between the count in force and the producer's (R326). -/
def writeHead (head tail : Fld) (reject : Option Fld) (h : Half) (v : W64) : M Unit := do
  let s ← get
  if h = .hi then pure ()
  else
    let t := v.toNat % 2 ^ 32
    if (t + 2 ^ 32 - s.fld head) % 2 ^ 32 ≤ (s.fld tail + 2 ^ 32 - s.fld head) % 2 ^ 32 then putFld head t
    else
      match reject with
      | some f => putFlag f true
      | none => pure ()

def execFeQdbWrite (c : Ctx) (q : QIdx) (h : Half) (v : W64) (s : State) : Host.Outcome State Fault Refusal :=
  run (writeDoorbell c q h v) s

/-- A write of FE_QCPTRq (R326). -/
def execFeQcptrWrite (c : Ctx) (q : QIdx) (h : Half) (v : W64) (s : State) : Host.Outcome State Fault Refusal :=
  run (do
    if (← get).ctxLive c then writeHead (F.qChead c q) (F.qCtail c q) (some (F.qPtrReject c q)) h v else pure ()) s

/-- A write of FE_EVPTR (R326). -/
def execFeEvptrWrite (c : Ctx) (h : Half) (v : W64) (s : State) : Host.Outcome State Fault Refusal :=
  run (do
    if (← get).ctxLive c then writeHead (F.evHead c) (F.evTail c) (some (F.evPtrReject c)) h v else pure ()) s

/-- A write of OB_TRPTR (R326). -/
def execObTrptrWrite (h : Half) (v : W64) (s : State) : Host.Outcome State Fault Refusal :=
  run (writeHead F.trHead F.trTail none h v) s

/-! ### Fence registers (R329) -/

/-- A write of FE_FVALf: a SET signal. -/
def writeFval (c : Ctx) (f : FenceId) (h : Half) (v : W64) : M Unit := do
  let s ← get
  if !s.ctxLive c then pure ()
  else signalFence c f 1 (Reg.written (.feFval c f) (s.reg (.feFval c f)) h (halfPlace h v))

def execFeFvalWrite (c : Ctx) (f : FenceId) (h : Half) (v : W64) (s : State) : Host.Outcome State Fault Refusal :=
  run (writeFval c f h v) s

/-- A write of FE_FCFGf; RESET zeroes the value and clears POISON. -/
def writeFcfg (c : Ctx) (f : FenceId) (h : Half) (v : W64) : M Unit := do
  let s ← get
  if !s.ctxLive c then pure ()
  else do
    set (s.plainWrite (.feFcfg c f) h v)
    if bitOf (halfPlace h v) 9 then do
      putFld (F.fence c f) 0
      putFlag (F.fencePoison c f) false
    else pure ()

def execFenceReset (c : Ctx) (f : FenceId) (h : Half) (v : W64) (s : State) : Host.Outcome State Fault Refusal :=
  run (do
    guardWait (bitOf (halfPlace h v) 9)
    writeFcfg c f h v) s

/-! ### Prefetch (R310, R313–R321) -/

/-- A command of which nothing is known but its count. -/
def Cmd.blank (idx : W32) : Cmd :=
  { idx := idx, tag := 0, kind := 0, preemptible := false, overlap := false, waits := [], signals := [], bound := 0,
    waitTicks := 0, counters := none, code := none, args := 0, ranks := 0, records := none, count := 0, die := 0,
    body := [], objs := [], phase := .fetched, started := false, ending := none, startTime := 0, startStep := 0,
    ticks := 0, recLeft := [], chan := none, recDone := 0, holds := [] }

/-- A command that fails prefetch (R321). -/
def Cmd.failed (x : Cmd) (e : Err) : Cmd := { x with phase := .ended, ending := some ⟨e.status, e.coreCode, none⟩ }

/-- The entry is well formed (R313). -/
def entryOk (b : List Byte) : Bool :=
  let buf := recField b 0 8
  let len := recField b 8 4
  decide (buf % 64 = 0 ∧ buf < 2 ^ 57 ∧ len % 64 = 0 ∧ 64 ≤ len ∧ len ≤ 4096) && recField b 0x10 48 == 0

/-- The wait entries of a buffer, or none where a reserved byte is set (R316). -/
def parseWaits (b : List Byte) (n : Nat) : Option (List WaitEnt) :=
  (upTo n).mapM (fun i =>
    let o := 64 + 16 * i
    if recField b (o + 1) 7 = 0 then
      (finOf 256 (recField b o 1)).map (fun f => { fence := f, value := w64 (recField b (o + 8) 8) })
    else none)

/-- The signal entries of a buffer, or none where one holds a reserved field or code (R316). -/
def parseSignals (b : List Byte) (from' n : Nat) : Option (List SigEnt) :=
  (upTo n).mapM (fun i =>
    let o := 64 + 16 * (from' + i)
    let op := recField b o 1
    let flags := recField b (o + 1) 1
    let remote := bitOf flags 0
    if (op = 1 ∨ op = 2) ∧ flags < 4 ∧ recField b (o + 3) 1 = 0 ∧
        (if remote then recField b (o + 6) 2 < 2 ^ 11 else recField b (o + 4) 4 = 0) then
      (finOf 256 (recField b (o + 2) 1)).map (fun f =>
        { op := op, remote := remote, poisonErr := bitOf flags 1, fence := f, device := recField b (o + 4) 2,
          context := recField b (o + 6) 2, value := w64 (recField b (o + 8) 8) })
    else none)

/-- The ops of SYSTEM commands (R339, R370, R390, R468, R510, R536, R540). -/
def systemOp (op : Nat) : Bool :=
  [1, 2, 3, 4, 0x10, 0x11, 0x12, 0x20, 0x21, 0x30, 0x31, 0x32, 0x33, 0x34, 0x40, 0x41, 0x50].contains op

/-- The kind fields are as R315 allows. -/
def kindOk (s : State) (c : Ctx) (kind : Nat) (pre : Bool) (bound : Nat) (b body : List Byte) : Bool :=
  let f := recField b
  match kind with
  | 1 => f 0x1A 38 == 0 && decide (1 ≤ f 0x18 2 ∧ f 0x18 2 ≤ 384) &&
      (if pre then decide (0 < (s.ctxs.getD c .absent).saveClusters) else decide (1 ≤ bound ∧ bound ≤ 4))
  | 2 => !pre && f 0x16 42 == 0 && decide (f 0x14 1 ≤ 16 ∧ f 0x15 1 ≤ 3 ∧ 1 ≤ bound ∧ bound ≤ 4) &&
      (f 0x14 1 != 0 || f 0x10 4 == 0)
  | 3 => !pre && f 0x10 48 == 0 && bound == 0
  | 4 => !pre && f 0x10 48 == 0 && bound == 0
  | 5 => !pre && c == 0 && f 0x10 48 == 0 && bound == 0 && systemOp (recField body 0 2)
  | _ => false

/-- The header, waits and signals of a buffer as a command, or none where FE_BAD_HEADER applies (R321). -/
def parseHeader (s : State) (c : Ctx) (x : Cmd) (b : List Byte) : Option Cmd :=
  let kind := recField b 0 1
  let flags := recField b 1 1
  let nw := recField b 2 1
  let ns := recField b 3 1
  let bound := recField b 4 2
  let body := b.drop ((64 + 16 * (nw + ns) + 63) / 64 * 64)
  if flags < 4 ∧ nw ≤ 4 ∧ ns ≤ 4 ∧ 64 + 16 * (nw + ns) ≤ b.length ∧ recField b 0xC 4 = 0 ∧
      kindOk s c kind (bitOf flags 0) bound b body then
    match parseWaits b nw, parseSignals b nw ns with
    | some ws, some ss =>
      some { x with
        kind := kind, preemptible := bitOf flags 0, overlap := bitOf flags 1, waits := ws, signals := ss,
        bound := bound, waitTicks := recField b 6 2,
        ranks := if kind = 1 then recField b 0x18 2 else 0,
        count := if kind = 2 then recField b 0x14 1 else 0,
        die := if kind = 2 then (finOf 4 (recField b 0x15 1)).getD 0 else 0,
        body := if kind = 4 ∨ kind = 5 then body else [] }
    | _, _ => none
  else none

/-- The offsets of the handles in a SYSTEM body (R339, R371, R372, R468, R536). -/
def bodyHandles (x : Cmd) : List Nat :=
  if x.kind ≠ 5 then []
  else
    match recField x.body 0 2 with
    | 4 => [8]
    | 0x10 | 0x11 => [8, 0xC, 0x18, 0x50, 0x70, 0x90, 0xB0]
    | 0x31 | 0x33 | 0x34 | 0x40 => [4]
    | _ => []

/-- A handle of the command: the look-up's own failure is FE_READ, absence FE_BAD_HANDLE (R317, R321). -/
def feHandle (c : Ctx) (h : Nat) : M HandleObj := do
  match ← feRead (handleLookup c h) with
  | some o => pure o
  | none => throw (.code 2 0x42)

/-- A DEVICE object with a right (bit of R318), and of a size at least `n`. -/
def feRights (o : HandleObj) (right : Nat) : M Unit := guardCode (o.kind == 1 && bitOf o.rights right) 2 0x43

/-- The handles of a command, by the bit of the right that each needs: counters, code, args, records. -/
def headerHandles (x : Cmd) (b : List Byte) : List (Nat × Nat) :=
  (if x.kind = 1 then [(recField b 0x10 4, 2)] ++ (if recField b 0x14 4 = 0 then [] else [(recField b 0x14 4, 0)])
   else if x.kind = 2 ∧ x.count ≠ 0 then [(recField b 0x10 4, 0)] else [])
    ++ (if recField b 8 4 = 0 then [] else [(recField b 8 4, 1)])

/-- Entries of the counter record of a command (R546). -/
def Cmd.counterEntries (x : Cmd) : Nat := if x.kind = 1 then x.ranks else x.count

/-- Relocation: the command's handles are replaced by their objects (R319, R321). Of the handles in a SYSTEM body, the drain
target must not be absent; the other ops have codes of their own for that (R374, R469, R536). -/
def relocate (c : Ctx) (x : Cmd) (b : List Byte) : M Cmd := do
  let hs := headerHandles x b
  -- every table entry is read before any is judged
  let os ← mapM' hs (fun h => feRead (handleLookup c h.1))
  let bs ← mapM' (bodyHandles x) (fun o => do
    pure (o, ← feRead (handleLookup c (recField x.body o 4))))
  guardCode (os.all Option.isSome && (x.kind != 5 || recField x.body 0 2 != 4 || bs.all (·.2.isSome))) 2 0x42
  eachM (os.zip hs) (fun p => match p.1 with
    | some o => feRights o p.2.2
    | none => pure ())
  let obj := fun (i : Nat) => os.getD i none
  let nArgs := if x.kind = 1 ∧ recField b 0x14 4 ≠ 0 then 1 else 0
  let counters := if recField b 8 4 = 0 then none else obj (hs.length - 1)
  match counters with
  | some o => guardCode (decide (64 + 128 * x.counterEntries ≤ o.size)) 2 0x44
  | none => pure ()
  let records := if x.kind = 2 ∧ x.count ≠ 0 then obj 0 else none
  match records with
  | some o => guardCode (decide (128 * x.count ≤ o.size)) 2 0x44
  | none => pure ()
  pure { x with
    objs := bs, counters := counters, records := records
    code := if x.kind = 1 then obj 0 else none
    args := if nArgs = 1 then ((obj 1).map (·.address)).getD 0 else 0 }

/-- The request records of a DMA command, read and checked (R300, R321). -/
def prefetchRecords (c : Ctx) (q : QIdx) (x : Cmd) : M Cmd := do
  match x.records with
  | none => pure x
  | some o => do
    let b ← feRead (vaRead c o.address (128 * x.count))
    let gen := (← get).genOf c
    let rs ← mapM' (upTo x.count) (fun i => do
      let r := (b.drop (128 * i)).take 128
      guardCode (!recReserved r) 2 0x02
      checkReq (parseRec r c gen q x.idx none) false)
    pure { x with recLeft := rs }

/-- The request records of a DMA command are read before its header is judged: their fault, where the handle names a DEVICE
object (R321). -/
def recordsFault (c : Ctx) (b : List Byte) : M (Option Err) := do
  if recField b 0 1 ≠ 2 ∨ recField b 0x14 1 = 0 then pure none
  else
    match ← attempt (handleLookup c (recField b 0x10 4)) with
    | .ok (some o) =>
      if o.kind = 1 then do
        match ← attempt (feRead (vaRead c o.address (min (128 * recField b 0x14 1) o.size))) with
        | .ok _ => pure none
        | .error e => pure (some e)
      else pure none
    | _ => pure none

/-- The counter object of a command that fails prefetch, where its handle is good: it still receives the counter record
(R327, R546). -/
def failedCounters (c : Ctx) (x : Cmd) (b : List Byte) : M (Option HandleObj) := do
  if recField b 8 4 = 0 then pure none
  else
    match ← attempt (handleLookup c (recField b 8 4)) with
    | .ok (some o) =>
      pure (if o.kind = 1 ∧ bitOf o.rights 1 = true ∧ 64 + 128 * x.counterEntries ≤ o.size then some o else none)
    | _ => pure none

/-- Read, check and relocate the command of an entry (R321). -/
def readCommand (c : Ctx) (q : QIdx) (idx : W32) : M Cmd := do
  let s ← get
  let size := 2 ^ s.fld (F.qSizeLog2 c q)
  let blank := Cmd.blank idx
  match ← attempt (feRead (vaRead c ((s.queueOf c q).ring + 64 * (idx.toNat % size)) 64)) with
  | .error e => do
    let a ← fresh
    pure ({ blank with tag := BitVec.ofNat 32 (Config.lostTag a) }.failed e)
  | .ok ent =>
    let x := { blank with tag := BitVec.ofNat 32 (recField ent 0xC 4) }
    if !entryOk ent then pure (x.failed (.code 2 0x40))
    else
      match ← attempt (feRead (vaRead c (recField ent 0 8) (recField ent 8 4))) with
      | .error e => pure (x.failed e)
      | .ok b =>
        let early ← recordsFault c b
        match parseHeader (← get) c x b, early with
        | none, some e => pure (x.failed e)
        | none, none => pure (x.failed (.code 2 0x41))
        | some y, some e => pure ({ y with counters := ← failedCounters c y b }.failed e)
        | some y, none =>
          match ← attempt (relocate c y b) with
          | .error e => pure ({ y with counters := ← failedCounters c y b }.failed e)
          | .ok z =>
            match ← attempt (prefetchRecords c q z) with
            | .error e => pure (z.failed e)
            | .ok w => pure w

/-- Prefetch: the next command by ring order is read while at most started commands are ahead of it (R320, R321). -/
def execPrefetch (c : Ctx) (q : QIdx) (s : State) : Host.Outcome State Fault Refusal :=
  run (do
    let s ← get
    let head := s.fld (F.qHead c q)
    guardWait (s.fld (F.qState c q) == 2 && head != s.fld (F.qTail c q) && (s.queueOf c q).cmds.all (·.started))
    let x ← readCommand c q (BitVec.ofNat 32 head)
    if x.ending.isSome then bump F.fePrefetchFaults else pure ()
    putFld (F.qHead c q) ((head + 1) % 2 ^ 32)
    modQueue c q (fun y => { y with cmds := y.cmds ++ [x] })) s

/-! ### Waits and start (R320, R325, R330, R333, R334) -/

/-- The prefetched command of a queue. -/
def State.nextCmd (s : State) (c : Ctx) (q : QIdx) : Option Cmd := (s.queueOf c q).cmds.find? (fun x => !x.started)

/-- Its turn has come: every earlier command has completed, or it carries OVERLAP (R320). -/
def State.inTurn (s : State) (c : Ctx) (q : QIdx) (x : Cmd) : Bool :=
  x.overlap || ((s.queueOf c q).cmds.head?.map (·.idx)) == some x.idx

/-- Register the waits of the next command to start (R330, R333). -/
def execRegisterWaits (c : Ctx) (q : QIdx) (s : State) : Host.Outcome State Fault Refusal :=
  run (do
    let s ← get
    let x ← needSome (s.nextCmd c q)
    guardWait (s.fld (F.qState c q) == 2 && x.phase == .fetched && s.inTurn c q x)
    if s.waitPoisoned c x then endUnstarted c q x.idx 1 0
    else do
      modCmd c q x.idx (fun y => { y with phase := .waiting, ticks := 0 })
      testDeadlock c q) s

/-- The command's kind may start in the power state in force (R522–R524). -/
def State.kindStarts (s : State) (x : Cmd) : Bool :=
  match x.kind with
  | 1 => !s.quiet
  | 2 => !s.quiet && !s.dieOff x.die
  | 4 => !s.quiet
  | 5 => !(s.quiet && [0x10, 0x11, 0x12, 0x20].contains (recField x.body 0 2))
  | _ => true

/-- A command starts: its times, its RUNNING count and its trace record (R325, R546, R552). -/
def beginCmd (c : Ctx) (q : QIdx) (x : Cmd) (phase : CmdPhase) : M Unit := do
  let t ← sampleTime
  let step := (← get).stepNo
  modCmd c q x.idx (fun y => { y with phase := phase, started := true, startTime := t, startStep := step, ticks := 0 })
  putFld (F.qRunning c q) (min 0xFFFF ((← getFld (F.qRunning c q)) + 1))
  let a ← fresh
  trace (some 0) 1 (Config.traceDie a % 4) c.val x.idx.toNat (q.val + x.kind * 2 ^ 8) x.tag.toNat

/-- A command whose waits are met and whose ring has room goes to its engines. A KERNEL command has started only
once its cores have been found (R320, R325, R330, R355). -/
def execCommandStart (c : Ctx) (q : QIdx) (s : State) : Host.Outcome State Fault Refusal :=
  run (do
    let s ← get
    let x ← needSome (s.nextCmd c q)
    guardWait (s.fld (F.qState c q) == 2 && x.phase == .waiting && x.waits.all (s.waitMet c) && s.kindStarts x
      && s.ringRoom c q (s.startedCount c q + 1))
    if x.kind = 1 then modCmd c q x.idx (fun y => { y with phase := .started })
    else beginCmd c q x .started) s

/-- A wait that is not met by its last tick ends its command (R334). -/
def waitTimeout (c : Ctx) (q : QIdx) : M Unit := do
  let s ← get
  let x ← needSome (s.nextCmd c q)
  let limit := if x.waitTicks = 0 then s.fld F.feWaitTicks else x.waitTicks
  guardWait (x.phase == .waiting && decide (limit ≤ x.ticks) && !x.waits.all (s.waitMet c))
  endUnstarted c q x.idx 7 0

def execWaitTimeout (c : Ctx) (q : QIdx) (s : State) : Host.Outcome State Fault Refusal := run (waitTimeout c q) s

/-! ### KERNEL, DMA and MARKER (R315, R322, R355) -/

/-- The cores on which a context's KERNEL command may start now: those of its running partition, or, in context 0,
of serving clusters. -/
def State.kernelCores (s : State) (c : Ctx) : List CoreId :=
  (List.finRange 384).filter (fun n => s.coreReady n &&
    (if c = 0 then s.serves (clusterOf n) else (s.ctxs.getD c .absent).holds.contains (clusterOf n)))

/-- A context runs kernels: its partition runs and is not being given up, saved or restored (R355, R357). -/
def State.kernelsRun (s : State) (c : Ctx) : Bool :=
  let x := s.ctxs.getD c .absent
  c == 0 || (s.flag (F.partRunning c) && !x.preempt && !x.saving && !x.restoring && x.images.isEmpty)

/-- No other ready KERNEL command of the context comes first: queue priority, then the earlier entry (R356). -/
def State.kernelFirst (s : State) (c : Ctx) (q : QIdx) (x : Cmd) (free : Nat) : Bool :=
  (List.finRange 64).all (fun r => r == q ||
    (match s.nextCmd c r with
     | some y =>
       !(y.phase == .started && y.kind == 1 && decide (y.ranks ≤ free)) ||
         decide (s.fld (F.qPriority c r) < s.fld (F.qPriority c q)) ||
         (s.fld (F.qPriority c r) == s.fld (F.qPriority c q) && decide (x.idx.toNat ≤ y.idx.toNat))
     | none => true))

/-- A KERNEL command starts on its cores; rank i runs on the i-th core of the list. -/
def execKernel (c : Ctx) (q : QIdx) (cores : List CoreId) (s : State) : Host.Outcome State Fault Refusal :=
  run (do
    let s ← get
    let x ← needSome (s.nextCmd c q)
    let o ← needSome x.code
    let free := s.kernelCores c
    guardWait (x.phase == .started && x.kind == 1 && s.kernelsRun c && s.kindStarts x && cores.length == x.ranks
      && cores.eraseDups == cores && cores.all (fun n => free.contains n) && s.kernelFirst c q x free.length)
    beginCmd c q x .running
    let gen := s.genOf c
    eachM cores.zipIdx (fun p =>
      startOnCore p.1 (Core.initial c gen q x.idx none p.2 x.ranks (w64 x.args) o.address o.size (s.stepNo % 2)))) s

/-- The channel on which the front end places a DMA command (R322). -/
def State.dmaChannel (s : State) (c : Ctx) (q : QIdx) (d : Die) : Fin 32 :=
  match (s.queueOf c q).cmds.find? (fun x => x.kind == 2 && x.die == d && x.chan.isSome && x.ending.isNone) with
  | some x => x.chan.getD 0
  | none =>
    let load := fun (ch : Fin 32) => ((s.chanOf (.die d) ch.val).reqs.length) +
      ((s.queues.flatMap (fun p => p.2.cmds)).map (fun x =>
        if x.die = d ∧ x.chan = some ch ∧ x.ending.isNone then x.recLeft.length else 0)).sum
    ((List.finRange 32).filter (fun ch => decide (ch.val < 24))).foldl
      (fun b ch => if load ch < load b then ch else b) 0

/-- A DMA command is placed on a channel, and its records follow in order (R294, R322). -/
def execDma (c : Ctx) (q : QIdx) (s : State) : Host.Outcome State Fault Refusal :=
  run (do
    let s ← get
    let x ← needSome ((s.queueOf c q).cmds.find? (fun y => y.kind == 2 && y.phase == .started))
    if x.count = 0 then modCmd c q x.idx (fun y => { y with phase := .ended, ending := some ⟨0, 0, none⟩ })
    else do
      let ch := s.dmaChannel c q x.die
      let e := s.dmaOf (.die x.die)
      modify (fun s => { s with
        dma := s.dma.insert (.die x.die) { s.dmaOf (.die x.die) with next := e.next + x.count } })
      modCmd c q x.idx (fun y => { y with
        phase := .running, chan := some ch
        recLeft := y.recLeft.zipIdx.map (fun p => { p.1 with order := e.next + p.2 }) })
      enterRecords x.die ch 4
      refreshChan (.die x.die) ch.val) s

/-- A MARKER command does no work (R315). -/
def execMarker (c : Ctx) (q : QIdx) (s : State) : Host.Outcome State Fault Refusal :=
  run (do
    let x ← needSome (((← get).queueOf c q).cmds.find? (fun y => y.kind == 3 && y.phase == .started))
    modCmd c q x.idx (fun y => { y with phase := .ended, ending := some ⟨0, 0, none⟩ })) s

/-- The records and signals of a command that has ended, once its writes have (R283, R284); one that never started waits for its turn and for room
(R321, R325, R327, R333). -/
def execCommandComplete (c : Ctx) (q : QIdx) (index : W32) (s : State) : Host.Outcome State Fault Refusal :=
  run (do
    let s ← get
    let x ← needSome (s.cmdOf c q index)
    let e ← needSome x.ending
    guardWait (x.phase == .ended && !s.owes x && (x.started || (s.inTurn c q x && s.ringRoom c q (s.startedCount c q + 1))))
    finishCmd c q x e
    testDeadlock c q
    settleGrants) s

/-- The interval of a vector has ended: a pending vector that is not masked sends its message (R457). -/
def execMsixIntervalExpiry (c : Ctx) (v : Fin 2) (s : State) : Host.Outcome State Fault Refusal :=
  run (do
    let s ← get
    let x := s.cxl.vecs.getD (c, v) .initial
    guardWait x.hot
    let send := x.pending && !x.masked
    set { s with
      cxl := { s.cxl with vecs := s.cxl.vecs.insert (c, v) { x with hot := send, pending := x.pending && !send } }
      out := if send then s.out ++ [Out.msix c v] else s.out }) s

/-! ### The enqueue instructions (R99, R312) -/

/-- The queue exists and is device-written. -/
def enqueueTarget (c : Ctx) (r : Nat) : M QIdx := do
  let s ← get
  match finOf 64 r with
  | none => throw (.code 2 0x0C)
  | some q =>
    guardCode (s.ctxLive c && s.fld (F.qState c q) == 2) 2 0x0C
    if s.flag (F.qWriter c q) then pure q else throw .protection

/-- Ring the doorbell of a device-written ring. -/
def ringDoorbell (c : Ctx) (q : QIdx) : M Unit := do
  let s ← get
  putFld (F.qTail c q) ((s.queueOf c q).push.toNat)

/-- en.push -/
def execEnPush (n : CoreId) (w : BitVec 50) (s : State) : Host.Outcome State Fault Refusal :=
  run (let x := wordOf 0xF 0 w
    issue n x (reservedUnless x [(45, 3), (40, 5), (35, 5), (20, 1)]) (fun k => do
      stallS k [Wd.f40 x, Wd.f35 x]
      stallAcquire k
      let a := (k.getS (Wd.f35 x)).toNat
      onCoreOk (padOf n) a 64 64
      let q ← enqueueTarget k.ctx (k.getS (Wd.f40 x)).toNat
      if bitOf x 20 then guardWait (!k.storesOut) else pure ()
      let b ← sramRead (k.who n) (padOf n) a 64
      let s ← get
      let size := 2 ^ s.fld (F.qSizeLog2 k.ctx q)
      let push := (s.queueOf k.ctx q).push
      let room := decide ((push.toNat + 2 ^ 32 - s.fld (F.qHead k.ctx q)) % 2 ^ 32 < size)
      if room then do
        vaWrite k.ctx ((s.queueOf k.ctx q).ring + 64 * (push.toNat % size)) b
        modQueue k.ctx q (fun y => { y with push := push + 1 })
        if bitOf x 20 then ringDoorbell k.ctx q else pure ()
      else pure ()
      modCore n (fun k => k.setP (bitsOf x 45 3) (allPred room)))) s

/-- en.db -/
def execEnDb (n : CoreId) (w : BitVec 50) (s : State) : Host.Outcome State Fault Refusal :=
  run (let x := wordOf 0xF 1 w
    issue n x (reservedUnless x [(40, 5)]) (fun k => do
      stallS k [Wd.f40 x]
      stallAcquire k
      let q ← enqueueTarget k.ctx (k.getS (Wd.f40 x)).toNat
      guardWait (!k.storesOut)
      ringDoorbell k.ctx q)) s

end Sys2Proof.Machine
end

