-- ==== Sys2Proof/Machine/Batch.lean ====
section
/-! DEFINITION. The step scheduler: plans, cache pages and eviction, requests, the build of a step, and the deadline
monitor (R229–R235, R341–R354, R379–R384). -/

namespace Sys2Proof.Machine

/-! ### Plans (R342, R348) -/

/-- A step plan, or none where it breaks R342. -/
def parsePlan (b : List Byte) (serveMin : Nat) : Option (List StagePlan) :=
  let n := recField b 0 1
  if 1 ≤ n ∧ n ≤ 32 ∧ recField b 1 63 = 0 then
    (upTo n).mapM (fun i =>
      let o := 64 * (i + 1)
      let r := recField b (o + 0x10) 2
      if 1 ≤ r ∧ r ≤ 32 * serveMin ∧ recField b (o + 0x12) 2 = 0 ∧ recField b (o + 0x24) 28 = 0 then
        some { code := recField b o 8, args := recField b (o + 8) 8, ranks := r, baseNs := recField b (o + 0x14) 4,
               rowNs := recField b (o + 0x18) 4, tokenNs := recField b (o + 0x1C) 4, kposNs := recField b (o + 0x20) 4 }
      else none)
  else none

/-- What a set of rows asks of a stage: rows, prefill and verify tokens, positions attended. A shadow row and an
inactive one ask nothing. -/
def loadOf (rows : List RowSt) : Nat × Nat × Nat :=
  let rs := rows.filter (fun r => r.active && !r.shadow)
  (rs.length, (rs.map (fun r => if r.kind = 2 ∨ r.kind = 3 then r.count else 0)).sum, (rs.map (·.kpos)).sum)

/-- The planned time of a stage for a load, in 1/1,024 ns. -/
def StagePlan.time (st : StagePlan) (l : Nat × Nat × Nat) : Nat :=
  1024 * (st.baseNs + st.rowNs * l.1 + st.tokenNs * l.2.1) + st.kposNs * l.2.2

/-- Plan times are whole numbers of 1/(1,024 × unit) ns. The unit is a multiple of 3 × 13,930 × E, so bytes ÷ 3.072 TB/s,
bytes ÷ 13.93 TB/s and bytes ÷ E are exact (R348, R379, R382). -/
def planUnit (rate : Nat) : Nat := 3 * 13930 * max 1 rate

/-- The planned time of stage i of an instance, with what streaming and a layer copy add (R379, R382). -/
def ModelSt.stageTime (x : ModelSt) (i : Nat) (l : Nat × Nat × Nat) : Nat :=
  match x.plan[i]? with
  | some st => max (st.time l * planUnit x.rate) (nthD x.floors i 0) + nthD x.adds i 0
  | none => 0

/-- The planned time of the step for a load. -/
def ModelSt.planFor (x : ModelSt) (l : Nat × Nat × Nat) : Nat :=
  ((upTo x.plan.length).map (fun i => x.stageTime i l)).sum + x.evictedBytes * (planUnit x.rate / 3)

/-- The corrected plan time × 64 ÷ P stays within the limit, with P as it stands at the build (R348, R527). -/
def State.planFits (s : State) (m : Model) (x : ModelSt) (l : Nat × Nat × Nat) : Bool :=
  decide (x.planFor l * s.fld (F.mCorr m) * 64 ≤
    s.fld (F.mFill m) * s.fld F.tkPeriod * 1000 * 1024 * planUnit x.rate * s.fld F.pace)

/-! ### Weights and the plan (R373, R379, R382, R383) -/

/-- Layer L's entry in the layer map of an instance; a read that faults finds zeros. -/
def layerEntry (m : Model) (L : Nat) : M (List Byte) := do
  let r ← attempt (vaRead 0 (((← get).wtOf m).map + 32 * L) 32)
  match r with
  | .ok b => pure b
  | .error _ => pure (List.replicate 32 0)

/-- Bytes of the layers of an instance. -/
def WtSt.layerBytes (w : WtSt) : List Nat := ((w.pkg.map (·.layers)).getD []).map (·.1)

/-- The layers that a step built now finds new (R383). -/
def WtSt.newNow (w : WtSt) : List Nat :=
  if w.copyDue && !w.reverting && !w.newLayers.contains w.layer then w.layer :: w.newLayers else w.newLayers

/-- A step built now is mixed. -/
def WtSt.mixed (w : WtSt) : Bool :=
  !w.newNow.isEmpty && (upTo w.layerBytes.length).any (fun L => !w.newNow.contains L)

/-- What streaming, a copy and the taps of the last step give each stage of an instance's plan (R379, R382, R548). -/
def planWeights (m : Model) : M Unit := do
  let s ← get
  let w := s.wtOf m
  let n := (s.modelOf m).plan.length
  let bs := w.layerBytes
  let firsts ← mapM' (upTo bs.length) (fun L => do pure (recField (← layerEntry m L) 0x10 1))
  let streamed := s.fld (F.wMode m) = 1
  let E := s.fld (F.wRate m)
  modModel m (fun x => { x with
    rate := E
    floors := (upTo n).map (fun i => if streamed then
        (((bs.zip firsts).filter (fun p => p.2 == i)).map (fun p => p.1 * 1024 * (3 * 13930))).sum else 0)
    adds := (upTo n).map (fun i =>
        (if w.copyDue && nthD firsts w.layer 0 == i then nthD bs w.layer 0 * 1024 * (3 * max 1 E) else 0)
        + (if i = 0 then x.tapped * 1024 * (3 * max 1 E) else 0)) })

/-! ### Free pages and reservations (R232, R234) -/

/-- The records of a pool's pages that can be read. -/
def poolRecords (j : Stack) (i : CacheInst) : M (List (Nat × PageRec)) := do
  let n ← getFld (F.poolPages j i)
  let rs ← mapM' (upTo n) (fun x => do
    match ← attempt (readRecord j i x) with
    | .ok b => pure [(x, PageRec.mk b)]
    | .error _ => pure [])
  pure rs.flatten

/-- The granule ranges of a page. -/
def pageRanges (j : Stack) (i : CacheInst) (x : Nat) : M (List (Nat × Nat)) := do
  let s ← get
  let rs ← mapM' (upTo (s.pageSize i / 65536)) (fun k => do
    match ← attempt (walk 0 (s.pageVa j i x + 65536 * k)) with
    | .ok (_, a) => pure [(a / 256, a / 256 + 256)]
    | .error _ => pure [])
  pure rs.flatten

/-- The zero-fill of a page is still to be done. -/
def State.pageZeroing (s : State) (j : Stack) (i : CacheInst) (rs : List (Nat × Nat)) : Bool :=
  s.mem.fills.any (fun f => f.why == .page j i && f.ranges.any (fun r => rs.any (fun q => decide (r.1 < q.2 ∧ q.1 < r.2))))

/-- Free pages of a pool: not granted, zero-filled. -/
def freePages (j : Stack) (i : CacheInst) : M (List Nat) := do
  let rs ← poolRecords j i
  let free ← mapM' (rs.filter (fun p => !p.2.granted)) (fun p => do
    let q ← pageRanges j i p.1
    pure (if (← get).pageZeroing j i q then [] else [p.1]))
  pure free.flatten

/-- Pages of a pool that a context holds. -/
def pagesHeld (c : Ctx) (j : Stack) (i : CacheInst) : M Nat := do
  pure ((← poolRecords j i).filter (fun p => p.2.granted && p.2.owner == c.val)).length

/-- A context's unused reservation in a stack. -/
def unusedReserve (c : Ctx) (j : Stack) (i : CacheInst) : M Nat := do
  pure ((← getFld (F.kvReserve c i)) - (← pagesHeld c j i))

/-- All existing contexts, in order. -/
def State.allCtxs (s : State) : List Ctx := (List.finRange 1025).filter s.ctxLive

/-- The unreserved free pages of a pool. -/
def unreservedFree (j : Stack) (i : CacheInst) (free : Nat) : M Nat := do
  let us ← mapM' (← get).allCtxs (fun c => unusedReserve c j i)
  pure (free - us.sum)

/-- Grant a page to a context: its record, cleared of scales (R213, R215). -/
def grantPage (c : Ctx) (j : Stack) (i : CacheInst) (x : Nat) : M Unit := do
  let f ← getFld (F.kvFormat i)
  writeRecord j i x (recordBytes f 0 (some c.val) 0 [] [])

/-- Free a page: no owner, and its zero-fill is queued (R213, R234). -/
def freePage (j : Stack) (i : CacheInst) (x : Nat) : M Unit := do
  let r ← attempt (do
    let r : PageRec := ⟨← readRecord j i x⟩
    writeRecord j i x (recordBytes r.format 0 none 0 [] []))
  match r with
  | .ok _ => do
    let rs ← pageRanges j i x
    modMem (fun m => { m with fills := m.fills ++ [⟨.page j i, rs⟩] })
    putFld (F.poolZeroing j i) ((← getFld (F.poolZeroing j i)) + 1)
  | .error _ => pure ()

/-! ### Eviction (R229–R231) -/

/-- A queued or running well command names the list in a row (R230). -/
def State.listNamed (s : State) (c : Ctx) (list : Nat) : Bool :=
  let names := fun (w : WellCmd) => (upTo (leNat ((w.bytes.drop 1).take 1))).any (fun i =>
    leNat ((w.bytes.drop (64 + 16 * i)).take 2) == c.val && leNat ((w.bytes.drop (64 + 16 * i + 8)).take 8) == list)
  s.wells.queue.any names || s.wells.run.any (fun p => names p.2.cmd)

/-- The order of eviction: NaN lowest, then by score, then the lower slot. -/
def scoreBefore (a b : Nat × Val) : Bool :=
  if a.2.isNan then !b.2.isNan || decide (a.1 < b.1)
  else if b.2.isNan then false
  else Val.lt a.2 b.2 || (Val.eqv a.2 b.2 && decide (a.1 < b.1))

/-- Move one slot of a list, keys, values and score, to a lower slot. Elements keep their encodings where both pages
have one format. -/
def moveSlot (j : Stack) (c : Ctx) (list : Nat) (l : PageList) (a b : Nat) : M Unit := do
  let s ← get
  let G := s.kvHeads l.inst
  let D := s.kvDim l.inst
  let page := fun (n : Nat) => do
    let e := leNat (← ownRead j c (entryVa list (n / 256)) 4)
    let r ← listPage c j l.inst e
    pure (s.pageVa j l.inst (e % 2 ^ 28), r)
  let (va, ra) ← page a
  let (vb, rb) ← page b
  eachM (upTo G) (fun h =>
    eachM [false, true] (fun v => do
      let x := ebits ra.format
      let y := ebits rb.format
      let bs ← ownRead j c (va + pageByte G D x h (a % 256) v) (D * x / 8)
      let fa := if v then ra.vfine h else ra.kfine h
      let fb := if v then rb.vfine h else rb.kfine h
      ownWrite j c (vb + pageByte G D y h (b % 256) v)
        (if ra.format = rb.format then bs
         else packBytes y ((unpackElems x D bs).map (fun e => (rb.quantise fb (widen ra.format e fa ra.coarse)).bits))) .w))
  let sc ← ownRead j c (l.scoreVa a) 2
  ownWrite j c (l.scoreVa b) sc .w

/-- One eviction, if the list allows it; the answer is the bytes moved, of each slot in the format of its page (R230). -/
def evictList (c : Ctx) (list : Nat) : M (Option Nat) := do
  let l : PageList := ⟨← vaRead c list 64⟩
  let s ← get
  match finOf 16 l.stack with
  | none => pure none
  | some j => do
    let top := l.used - l.window
    if !(l.evict && l.keepsScores) || s.listNamed c list || top < l.sinks + 256 then pure none
    else do
      let scores ← mapM' (upTo l.used) (fun n => do
        let b ← ownRead j c (l.scoreVa n) 2
        pure (n, decodeNum 0 (leNat b)))
      let sizes ← mapM' (upTo (ceilDiv l.used 256)) (fun k => do
        let r ← listPage c j l.inst (leNat (← ownRead j c (entryVa list k) 4))
        pure (2 * s.kvHeads l.inst * s.kvDim l.inst * ebits r.format / 8 + 2))
      let out := ((sortBy scoreBefore (scores.filter (fun p => decide (l.sinks ≤ p.1 ∧ p.1 < top)))).take 256).map (·.1)
      let first := out.foldl min l.used
      let stay := (upTo l.used).filter (fun n => decide (first ≤ n) && !out.contains n)
      eachM (stay.zipIdx) (fun p => moveSlot j c list l p.1 (first + p.2))
      ownWrite j c list (leBytes 4 (l.used - 256)) .w
      ownWrite j c (list + 0x18) (leBytes 8 (l.evicted + 256)) .w
      pure (some ((((upTo l.used).filter (fun n => decide (first ≤ n))).map (fun n => nthD sizes (n / 256) 0)).sum))

/-! ### Pages for a sequence (R232) -/

/-- One page for a list: the entry is written. `some 0` a page was granted, `some b` an eviction moved b bytes, `none`
nothing could be had. -/
def onePage (c : Ctx) (list : Nat) : M (Option Nat) := do
  let l : PageList := ⟨← vaRead c list 64⟩
  match finOf 16 l.stack with
  | none => pure none
  | some j => do
    let i := l.inst
    let s ← get
    let free ← (if s.flag (F.kvEnable i) && decide (l.count < l.capacity) then freePages j i else pure [])
    let open' ← unreservedFree j i free.length
    let mine ← unusedReserve c j i
    let a ← fresh
    match free[Config.pickPage a % max 1 free.length]? with
    | some x =>
      if 0 < open' ∨ 0 < mine then do
        grantPage c j i x
        vaWrite c (entryVa list l.count) (leBytes 4 (j.val * 2 ^ 28 + x))
        vaWrite c (list + 4) (leBytes 2 (l.count + 1))
        pure (some 0)
      else evictList c list
    | none => evictList c list

/-- Bytes that an eviction moved count in the plan of the instance's step (R230, R348). -/
def countEvicted (m : Model) (b : Nat) : M Unit := modModel m (fun x => { x with evictedBytes := x.evictedBytes + b })

/-- Pages for the slots that a row appends to one list: `fuel` pages at most. The answer says that it has them all;
otherwise the sequence is deferred. -/
def listPages (m : Model) (c : Ctx) (list target : Nat) : Nat → M Bool
  | 0 => pure false
  | fuel + 1 => do
    let l : PageList := ⟨← vaRead c list 64⟩
    let need := l.used + ((target - l.evicted) - l.used)
    if ceilDiv need 256 ≤ l.count then pure true
    else
      match ← onePage c list with
      | none => pure false
      | some b => do
        countEvicted m b
        listPages m c list target fuel

/-- The page list addresses of a directory. -/
def directory (c : Ctx) (dir : Nat) (i : CacheInst) : M (List Nat) :=
  mapM' (upTo (Config.listCount i.val)) (fun k => do
    let a := leNat (← vaRead c (dir + 8 * k) 8)
    guardCode (decide (a < 2 ^ 37)) 2 0x50
    pure a)

/-- Pages for every list of a sequence, in order. -/
def allPages (m : Model) (c : Ctx) (target : Nat) : List Nat → M Bool
  | [] => pure true
  | x :: t => do
    if ← listPages m c x target 65536 then allPages m c target t else pure false

/-- The cache instance of a model instance, and its fallback. -/
def State.cacheOf (s : State) (m : Model) : CacheInst := ⟨s.fld (F.mCache m) % 8, by omega⟩
def State.fallbackOf (s : State) (m : Model) : Option Model :=
  if s.flag (F.mFbValid m) then finOf 16 (s.fld (F.mFallback m)) else none

/-- The lists of a request: of its primary, unless it has moved, and of its fallback (R353). -/
def requestLists (r : ReqSt) : M (List Nat) := do
  let s ← get
  let a ← (if r.moved then pure [] else directory r.ctx r.lists (s.cacheOf r.model))
  let b ← (match s.fallbackOf r.model with
    | some f => if r.fbLists = 0 then pure [] else directory r.ctx r.fbLists (s.cacheOf f)
    | none => pure [])
  pure (a ++ b)

/-- Free every page of a list: its entries become all ones, count and used zero (R220, R234). -/
def freeList (c : Ctx) (list : Nat) : M Unit := do
  let r ← attempt (do
    let l : PageList := ⟨← vaRead c list 64⟩
    match finOf 16 l.stack with
    | none => pure ()
    | some j =>
      eachM (upTo l.count) (fun k => do
        let e := leNat (← vaRead c (entryVa list k) 4)
        vaWrite c (entryVa list k) (leBytes 4 0xFFFFFFFF)
        if e / 2 ^ 28 = j.val then
          (match ← attempt (listPage c j l.inst e) with
           | .ok _ => freePage j l.inst (e % 2 ^ 28)
           | .error _ => pure ())
        else pure ())
    vaWrite c (list + 4) (leBytes 2 0)
    vaWrite c list (leBytes 4 0))
  match r with
  | .ok _ => pure ()
  | .error _ => pure ()

/-! ### Requests (R344–R346) -/

/-- Change a joined request. -/
def modRequest (order : Nat) (f : ReqSt → ReqSt) : M Unit :=
  modify (fun s => { s with sched := { s.sched with reqs := s.sched.reqs.map (fun r => if r.order = order then f r else r) } })

/-- The lists of both instances of a request whose pages have not been freed; none that cannot be read. -/
def heldLists (r : ReqSt) : M (List Nat) := do
  match ← attempt (requestLists { r with moved := r.freed }) with
  | .ok l => pure l
  | .error _ => pure []

/-- The primary lists of a request that has moved are freed at the next build (R353). -/
def freePrimary (r : ReqSt) : M Unit := do
  if r.moved && !r.freed then do
    let ls ← attempt (do directory r.ctx r.lists ((← get).cacheOf r.model))
    match ls with
    | .ok l => eachM l (freeList r.ctx)
    | .error _ => pure ()
    modRequest r.order (fun y => { y with freed := true })
  else pure ()

/-- A request leaves: its pages are freed, and its command, if it still stands, completes. -/
def endRequest (r : ReqSt) (status fault : Nat) : M Unit := do
  let ls ← (if r.joined then heldLists r else pure [])
  eachM ls (freeList r.ctx)
  modify (fun s => { s with sched := { s.sched with reqs := s.sched.reqs.filter (fun x => x.order ≠ r.order) } })
  match (← get).cmdOf r.ctx r.q r.idx with
  | some x =>
    if x.ending.isNone then
      modCmd r.ctx r.q r.idx (fun y => { y with phase := .ended, ending := some ⟨status, fault, none⟩ })
    else pure ()
  | none => pure ()

/-- The status of a request that completes (R346). -/
def ReqSt.doneStatus (r : ReqSt) : Nat := if r.moved then 0x10 else if r.mixed then 0x11 else 0

/-- A REQUEST body as a request (R344); its fields are checked at the join. -/
def parseRequest (s : State) (c : Ctx) (q : QIdx) (x : Cmd) : ReqSt :=
  let f := recField x.body
  { ctx := c, gen := s.genOf c, q := q, idx := x.idx, model := (finOf 16 (f 0 1)).getD 0,
    fallbackOk := bitOf (f 1 1) 0, bestEffort := bitOf (f 1 1) 1, strict := bitOf (f 1 1) 2, priority := f 2 1,
    draft := f 3 1, prompt := f 4 4, maxNew := f 8 4, firstTicks := f 0xC 2, tokenTicks := f 0xE 2, lists := f 0x10 8,
    fbLists := f 0x18 8, tokens := f 0x20 8, order := s.sched.order, joined := false, done := 0, produced := 0,
    due := if f 0xC 2 = 0 then 0 else s.stepNo + f 0xC 2, deferrals := 0, deferredLast := false, moved := false, freed := false,
    mixed := false, held := false, cancelled := false }

/-- The checks of a join (R345). -/
def State.joinOk (s : State) (r : ReqSt) (body : List Byte) : Bool :=
  let f := recField body
  decide (f 0 1 < 16 ∧ f 1 1 < 8 ∧ r.priority ≤ 3 ∧ r.draft ≤ 7 ∧ 1 ≤ r.prompt ∧ r.prompt ≤ 2 ^ 24 ∧ 1 ≤ r.maxNew
    ∧ r.maxNew ≤ 2 ^ 24 ∧ f 0x28 24 = 0 ∧ r.lists < 2 ^ 37 ∧ r.fbLists < 2 ^ 37 ∧ r.tokens < 2 ^ 37)
    && s.flag (F.mEnable r.model) && (r.ctx == 0 || bitOf (s.ctxs.getD r.ctx .absent).models r.model.val)
    && !(r.fbLists == 0 && (r.fallbackOk || r.draft != 0)) && (r.fbLists == 0 || s.flag (F.mFbValid r.model))

/-- A REQUEST command waits for the next build of its instance (R345). -/
def execRequest (c : Ctx) (q : QIdx) (s : State) : Host.Outcome State Fault Refusal :=
  run (do
    let s ← get
    let x ← needSome ((s.queueOf c q).cmds.find? (fun y => y.kind == 4 && y.phase == .started))
    modCmd c q x.idx (fun y => { y with phase := .running })
    modify (fun s => { s with sched := { s.sched with
      reqs := s.sched.reqs ++ [parseRequest s c q x], order := s.sched.order + 1 } })) s

/-- The instance in whose table a request's own row stands. -/
def State.runsOn (s : State) (r : ReqSt) : Model :=
  if r.moved then (s.fallbackOf r.model).getD r.model else r.model

/-- An instance builds a step at this tick (R347, R354, R522). -/
def State.buildsNow (s : State) (m : Model) : Bool :=
  let x := s.modelOf m
  s.flag (F.mEnable m) && !x.stepOpen && !x.skipBuild && !s.quiet

/-- Requests that have not joined: the checks of R345, at the build of their instance or where it is not enabled. -/
def joinRequests : M Unit := do
  eachM ((← get).sched.reqs.filter (fun r => !r.joined)) (fun r => do
    let s ← get
    if r.cancelled then endRequest r 1 0
    else if s.buildsNow r.model || !s.flag (F.mEnable r.model) then
      (match s.cmdOf r.ctx r.q r.idx with
       | some x =>
         if s.joinOk r x.body then modRequest r.order (fun y => { y with joined := true })
         else endRequest r 2 0x50
       | none => endRequest r 1 0)
    else pure ())

/-- The row of a request in the batch of the step that has ended. -/
def ModelSt.rowOf (x : ModelSt) (order : Nat) : Option (Nat × RowSt) :=
  (x.rows.zipIdx.find? (fun p => p.1.order == order && !p.1.shadow && p.1.kind != 4)).map (fun p => (p.2, p.1))

/-- Lower `used` of a list to a length (R351). -/
def lowerUsed (c : Ctx) (list len : Nat) : M Unit := do
  let r ← attempt (do
    let l : PageList := ⟨← vaRead c list 64⟩
    if len - l.evicted < l.used then vaWrite c list (leBytes 4 (len - l.evicted)) else pure ())
  match r with
  | .ok _ => pure ()
  | .error _ => pure ()

/-- The status that the device has recorded in row k of the table of the step that has ended (R350). -/
def rowStatus (m : Model) (k : Nat) : M Nat := do
  let s ← get
  match ← attempt (vaRead 0 (s.fld (F.mBatch m) + (s.modelOf m).step % 2 * 65536 + 64 + 32 * k + 6) 1) with
  | .ok b => pure (leNat b)
  | .error _ => pure 0

/-- What the step that has ended did for the request of a row that is not its own: a shadow or draft row's status
completes the request, and a mixed step marks it (R346, R350, R383). -/
def settleShadow (m : Model) (w : RowSt) (k : Nat) : M Unit := do
  let s ← get
  match s.sched.reqs.find? (fun r => r.order == w.order) with
  | none => pure ()
  | some r => do
    let mixed := (s.modelOf m).mixed && w.active
    let st ← rowStatus m k
    if st ≠ 0 then endRequest r st 0
    else modRequest r.order (fun y => { y with mixed := y.mixed || mixed })

/-- What the step that has ended did for a request, and whether it is finished (R346, R350, R351). -/
def settleRequest (m : Model) (r : ReqSt) : M Unit := do
  let s ← get
  let x := s.modelOf m
  if r.cancelled ∨ s.genOf r.ctx ≠ r.gen then endRequest r 1 0
  else
    let row := x.rowOf r.order
    freePrimary r
    let r := { r with freed := r.freed || r.moved }
    let st ← (match row with
      | some (k, _) => rowStatus m k
      | none => pure 0)
    if st ≠ 0 then endRequest r st 0
    else
      match ← attempt (do let _ ← rollTouched r.ctx r.tokens 64; vaRead r.ctx r.tokens 64) with
      | .error e => endRequest r e.status 0
      | .ok h => do
        let produced := leNat (h.take 4)
        let accepted := leNat ((h.drop 4).take 1)
        let stop := bitOf (leNat ((h.drop 5).take 1)) 0
        let ran : Bool := match row with
          | some (_, w) => w.active
          | none => false
        let grown := match row with
          | some (_, w) => if !w.active then 0 else if w.kind = 3 then accepted + 1 else w.count
          | none => 0
        let due := if ran = true ∧ r.produced < produced then (if r.tokenTicks = 0 then 0 else x.step + r.tokenTicks) else r.due
        let r' := { r with
          done := r.done + grown, produced := produced, due := due, mixed := r.mixed || (ran && x.mixed)
          deferrals := if ran then 0 else r.deferrals, deferredLast := if ran then false else r.deferredLast }
        modRequest r.order (fun _ => r')
        if r.maxNew ≤ produced ∨ stop then endRequest r' r'.doneStatus 0
        else if ran = true ∧ r.draft ≠ 0 then do
          let ls ← heldLists r'
          eachM ls (fun a => lowerUsed r.ctx a r'.done)
        else pure ()

/-- In a mixed step a strict request with FALLBACK_OK whose due step has come moves to the fallback instance (R384). -/
def moveStrict (m : Model) : M Unit := do
  let s ← get
  let mixed := (s.wtOf m).mixed
  eachM (s.sched.reqs.filter (fun r => r.joined && r.model == m && !r.moved)) (fun r =>
    let move := r.strict && mixed && r.fallbackOk && r.due != 0 && decide (r.due ≤ s.stepNo) && (s.fallbackOf m).isSome
    modRequest r.order (fun y => { y with moved := move }))

/-- Rows of strict requests in a mixed step of the instance that they run on are held (R384). -/
def holdStrict (m : Model) : M Unit := do
  let s ← get
  let mixed := (s.wtOf m).mixed
  eachM (s.sched.reqs.filter (fun r => r.joined && s.runsOn r == m)) (fun r =>
    modRequest r.order (fun y => { y with held := r.strict && mixed }))

/-! ### Candidates and admission (R347) -/

/-- The row that a request asks for, with at most the tokens that CHUNK and its prompt leave. -/
def State.candidate (s : State) (m : Model) (r : ReqSt) : RowSt :=
  let row := fun (kind count : Nat) =>
    { order := r.order, kind := kind, active := true, moved := r.moved, shadow := false, status := 0, position := r.done,
      count := count, kpos := r.done + count : RowSt }
  if r.done < r.prompt then row 2 (min (s.fld (F.mChunk m)) (r.prompt - r.done))
  else if r.draft ≠ 0 ∧ !r.moved then row 3 (r.draft + 1)
  else row 1 1

/-- The order of R347. -/
def State.rowKey (s : State) (r : ReqSt) : List Nat :=
  [3 - min r.priority (s.fld (F.qPriority r.ctx r.q)), b2n (!r.deferredLast), if r.due = 0 then 2 ^ 64 else r.due,
    b2n (decide (r.done < r.prompt)), r.order, r.ctx.val]

/-- The row with the tokens that fit the plan, or none (R348). -/
def State.fitRow (s : State) (m : Model) (x : ModelSt) (row : RowSt) : Option RowSt :=
  let fits := fun (w : RowSt) => s.planFits m x (loadOf (x.rows ++ [w]))
  let cut := fun (n : Nat) => { row with count := n, kpos := row.position + n }
  if row.kind = 2 then
    (((upTo row.count).map (fun k => cut (row.count - k))).find? fits)
  else if fits row then some row else none

/-- Admit one request's row: pages first, for the tokens that fit, one at least; then the plan, with the evictions that
the pages took (R232, R233, R347, R348). -/
def admitRow (m : Model) (r : ReqSt) : M Unit := do
  let s ← get
  let x := s.modelOf m
  let want := s.candidate m r
  if s.fld (F.mMaxRows m) ≤ x.rows.length then pure ()
  else
    let ask := (s.fitRow m x want).getD (if want.kind = 2 then { want with count := 1, kpos := want.position + 1 } else want)
    match ← attempt (do
        let ls ← requestLists r
        allPages m r.ctx (ask.position + ask.count) ls) with
    | .error e => endRequest r e.status (match e with
        | .code _ f => f
        | _ => 0)
    | .ok false => do
      let n := r.deferrals + 1
      if (← getFld (F.kvDeferLimit (s.cacheOf m))) ≤ n then endRequest r 9 0
      else modRequest r.order (fun y => { y with deferrals := n, deferredLast := true })
    | .ok true =>
      match (← get).fitRow m ((← get).modelOf m) ask with
      | none => pure ()
      | some row => modModel m (fun x => { x with rows := x.rows ++ [row] })

/-- The shadow and draft rows of the fallback instance for the rows of a primary (R351). -/
def State.shadowRows (s : State) (f : Model) : List RowSt :=
  ((List.finRange 16).filter (fun m => m != f && s.fallbackOf m == some f && (s.modelOf m).step == s.stepNo)).flatMap (fun m =>
    (s.modelOf m).rows.filterMap (fun w =>
      match s.sched.reqs.find? (fun r => r.order == w.order) with
      | some r =>
        if r.fbLists = 0 ∨ r.moved ∨ r.model ≠ m then none
        else if w.kind = 3 then some { w with kind := 4, count := r.draft }
        else some { w with shadow := true }
      | none => none))

/-- The 32 bytes of a row entry (R349). -/
def rowBytes (s : State) (m : Model) (w : RowSt) : List Byte :=
  match s.sched.reqs.find? (fun r => r.order == w.order) with
  | some r =>
    leBytes 2 r.ctx.val ++ leBytes 2 r.gen ++ leBytes 1 w.kind
      ++ leBytes 1 (b2n w.active + 2 * b2n w.moved + 4 * b2n w.shadow) ++ leBytes 1 0 ++ leBytes 1 0
      ++ leBytes 4 w.position ++ leBytes 4 w.count ++ leBytes 8 (if r.model = m then r.lists else r.fbLists)
      ++ leBytes 8 r.tokens
  | none => leBytes 32 0

/-- Write the batch table of the step (R349). -/
def writeTable (m : Model) : M Unit := do
  let s ← get
  let x := s.modelOf m
  let tokens := (x.rows.map (fun w => if w.kind = 2 ∨ w.kind = 3 then w.count else 0)).sum
  vaWrite 0 (s.fld (F.mBatch m) + s.stepNo % 2 * 65536)
    (leBytes 8 s.stepNo ++ leBytes 2 x.rows.length ++ leBytes 6 0 ++ leBytes 4 tokens ++ leBytes 44 0
      ++ x.rows.flatMap (rowBytes s m))

/-- An instance that is STREAMED holds its batch where its plan without rows does not fit (R380). -/
def State.streamHeld (s : State) (m : Model) : Bool :=
  s.fld (F.wMode m) == 1 && !s.planFits m { s.modelOf m with evictedBytes := 0 } (0, 0, 0)

/-- The rows of an instance's step. A deferral counts in the order of the next batch only (R233, R347). -/
def fillBatch (m : Model) : M Unit := do
  let s0 ← get
  modModel m (fun x => { x with rows := [], step := s0.stepNo, evictedBytes := 0, mixed := (s0.wtOf m).mixed })
  putFld (F.wHeldRun m) 0
  let s ← get
  let mine := s.sched.reqs.filter (fun r => r.joined && s.runsOn r == m)
  eachM mine (fun r => modRequest r.order (fun y => { y with deferredLast := false }))
  eachM (sortBy (fun a b => lexLess (s.rowKey a) (s.rowKey b)) (mine.filter (fun r => !r.cancelled && !r.held)))
    (admitRow m)

/-- The batch is written and the step stands open; a step without rows runs no stage (R4). -/
def openStep (m : Model) : M Unit := do
  let s0 ← get
  let sh := s0.shadowRows m
  modModel m (fun x => { x with rows := (x.rows ++ sh).take 2046 })
  let ok ← attempt (writeTable m)
  let s ← get
  let x := s.modelOf m
  let good := match ok with
    | .ok _ => true
    | .error _ => false
  modModel m (fun y => { y with
    stepOpen := good && !y.rows.isEmpty, nextStage := 0, stageRuns := false, planTime := y.planFor (loadOf y.rows),
    startTime := s.time.tickTime, paceSum := s.fld F.pace, paces := 1, runRows := [], donePlan := 0, tapped := 0, declared := false,
    overrun := false })
  putFld (F.mRows m) x.rows.length
  putFld (F.mMoved m) 0
  let a ← fresh
  trace (some 1) 3 (Config.traceDie a % 4) 0 x.rows.length s.stepNo m.val

/-! ### Cache pressure (R235, R236) -/

/-- The stacks that hold lists of a context's requests in a cache instance. -/
def listStacks (c : Ctx) (i : CacheInst) : M (List Stack) := do
  let s ← get
  let rs := s.sched.reqs.filter (fun r => r.joined && r.ctx == c)
  let ls ← mapM' rs heldLists
  let ss ← mapM' ls.flatten (fun a => do
    match ← attempt (vaRead c a 64) with
    | .ok b =>
      let l : PageList := ⟨b⟩
      pure (if l.inst = i then (finOf 16 l.stack).toList else [])
    | .error _ => pure [])
  pure ss.flatten.eraseDups

/-- The availability of a context in an instance and the stack where it is least. -/
def availability (c : Ctx) (i : CacheInst) (held : List Stack) : M (Nat × Nat) := do
  let vs ← mapM' held (fun j => do
    let f ← freePages j i
    pure ((← unreservedFree j i f.length) + (← unusedReserve c j i), j.val))
  match vs with
  | [] => pure (0, 0)
  | v :: t => pure (t.foldl (fun a b => if b.1 < a.1 then b else a) v)

/-- The availability that a context reads: over the stacks of its lists; where it has none there, no page and no
reservation, the least unreserved free count over the instance's pools (R235, R236). -/
def contextAvail (c : Ctx) (i : CacheInst) (mine : List Stack) (heldPages : Nat) : M (Nat × Nat) := do
  let reserve ← getFld (F.kvReserve c i)
  availability c i (if mine.isEmpty || (heldPages == 0 && reserve == 0) then List.finRange 16 else mine)

/-- The cache registers of a context in an instance, and KV_PRESSURE (R235, R236). -/
def refreshPressure (i : CacheInst) (c : Ctx) : M Unit := do
  let held ← mapM' (List.finRange 16) (fun j => pagesHeld c j i)
  putFld (F.kvHeld c i) (min 0xFFFFFFF held.sum)
  let mine ← listStacks c i
  putFld (F.kvAvail c i) (← contextAvail c i mine held.sum).1
  let (n, j) ← availability c i (if mine.isEmpty then List.finRange 16 else mine)
  let low := decide (n < (← getFld (F.kvThreshold c i)))
  let raised := ((← get).ctxs.getD c .absent).pressured.contains i.val
  if (!mine.isEmpty || held.sum != 0) && low && !raised then do
    modCtx c (fun x => { x with pressured := i.val :: x.pressured })
    eventBoth c 0x0A (i.val + j * 16 + n * 256)
  else if !low then modCtx c (fun x => { x with pressured := x.pressured.filter (· ≠ i.val) })
  else pure ()

/-- The cache registers after a build. -/
def refreshCache : M Unit := do
  eachM (List.finRange 8) (fun i => do
    eachM (List.finRange 16) (fun j => do
      putFld (F.poolFree j i) (← freePages j i).length)
    eachM (← get).allCtxs (refreshPressure i))

/-! ### The build at a tick (R347, R354) -/

/-- A step still running at a tick that did not declare itself overruns (R354). -/
def tickOverrun (m : Model) : M Unit := do
  let x := (← get).modelOf m
  if x.stepOpen then do
    if !x.overrun then bump (F.mOverruns m) else pure ()
    if x.declared || x.overrun then pure () else raiseOverrun m (overrunDetail m false false 0)
    modModel m (fun y => { y with overrun := true, skipBuild := false })
  else pure ()

/-- Step building at a tick, for every instance. -/
def buildSteps : M Unit := do
  let models := List.finRange 16
  eachM models tickOverrun
  joinRequests
  let now := models.filter (← get).buildsNow
  eachM now (fun m => do
    let s ← get
    eachM (s.sched.reqs.filter (fun r => r.joined && s.runsOn r == m)) (settleRequest m)
    eachM (s.modelOf m).rows.zipIdx (fun p => if p.1.shadow || p.1.kind == 4 then settleShadow m p.1 p.2 else pure ())
    modModel m (fun x => { x with rows := [] })
    if (s.wtOf m).ready then modWt m (fun w => { w with copyDue := true }) else pure ()
    planWeights m)
  eachM now moveStrict
  eachM now holdStrict
  let s1 ← get
  let held := now.filter s1.streamHeld
  eachM held (fun m => do putFld (F.wHeldRun m) (min 255 ((← getFld (F.wHeldRun m)) + 1)))
  let building := now.filter (fun m => !held.contains m)
  eachM building fillBatch
  eachM building openStep
  eachM (models.filter (fun m => !now.contains m)) (fun m => modModel m (fun x => { x with skipBuild := false }))
  refreshCache

/-! ### The deadline monitor (R352, R353) -/

/-- Planned time of the stages not completed: a running stage with the rows it holds, later ones with the active rows. -/
def ModelSt.remaining (x : ModelSt) : Nat :=
  ((upTo x.plan.length).map (fun i =>
    if i < x.nextStage then 0
    else if i = x.nextStage ∧ x.stageRuns then x.stageTime i (loadOf x.runRows)
    else x.stageTime i (loadOf x.rows))).sum

/-- The projected end after the tick, as a fraction of ns (R352). -/
def ModelSt.projected (x : ModelSt) (elapsed corr : Nat) : Nat × Nat :=
  if x.donePlan = 0 then (elapsed * 256 * 1024 * planUnit x.rate + corr * x.remaining, 256 * 1024 * planUnit x.rate)
  else (elapsed * x.donePlan + elapsed * x.remaining, x.donePlan)

/-- The projection fits. -/
def State.fits (s : State) (m : Model) (elapsed : Nat) (x : ModelSt) : Bool :=
  let p := x.projected elapsed (s.fld (F.mCorr m))
  decide (p.1 + s.fld F.guardUs * 1000 * p.2 ≤ s.fld F.tkPeriod * 1000 * p.2)

/-- Write the flags of row k of an instance's table. -/
def writeFlags (m : Model) (k : Nat) (w : RowSt) : M Unit := do
  let s ← get
  let _ ← attempt (vaWrite 0 (s.fld (F.mBatch m) + (s.modelOf m).step % 2 * 65536 + 64 + 32 * k + 5)
    (leBytes 1 (b2n w.active + 2 * b2n w.moved + 4 * b2n w.shadow)))
  pure ()

/-- Replace row k of an instance's batch, in the state and in the table. -/
def putRow (m : Model) (k : Nat) (w : RowSt) : M Unit := do
  modModel m (fun x => { x with rows := setNth x.rows k w })
  writeFlags m k w

/-- Move one row to the fallback instance, if that instance's projection still fits with it (R353). -/
def moveRow (m : Model) (elapsed k : Nat) (w : RowSt) : M Bool := do
  let s ← get
  match s.fallbackOf m with
  | none => pure false
  | some f =>
    let y := s.modelOf f
    match y.rows.zipIdx.find? (fun p => p.1.order == w.order && p.1.shadow) with
    | none => pure false
    | some (v, j) =>
      let v' := { v with shadow := false, moved := true }
      let y' := { y with rows := setNth y.rows j v' }
      if y.stepOpen && s.fits f elapsed y' then do
        putRow m k { w with active := false }
        putRow f j v'
        modRequest w.order (fun r => { r with moved := true })
        bump (F.mMoved m)
        pure true
      else pure false

/-- Take rows one by one until the projection fits; the answer is how many were acted on. -/
def actRows (m : Model) (elapsed : Nat) (act : Nat → RowSt → M Bool) : List (RowSt × Nat) → M Nat
  | [] => pure 0
  | (w, k) :: t => do
    let s ← get
    if s.fits m elapsed (s.modelOf m) then pure 0
    else do
      let done ← act k w
      let n ← actRows m elapsed act t
      pure (n + b2n done)

/-- A mark at a device time, for one instance (R352–R354). -/
def monitor (m : Model) (m80 : Bool) (now : Nat) : M Unit := do
  let s ← get
  let x := s.modelOf m
  let elapsed := now - x.startTime
  let on := fun (k : Nat) => bitOf (s.fld (F.mPolicy m)) (2 * k + b2n m80)
  let note := fun (action n : Nat) => do
    let a ← fresh
    trace (some 1) 6 (Config.traceDie a % 4) 0 n s.stepNo (m.val + b2n m80 * 2 ^ 8 + action * 2 ^ 9)
  if !x.stepOpen || s.fits m elapsed x then pure ()
  else do
    let req := fun (w : RowSt) => s.sched.reqs.find? (fun r => r.order == w.order)
    let prio := fun (w : RowSt) => ((req w).map (·.priority)).getD 0
    let rows := x.rows.zipIdx.filter (fun p => p.1.active && !p.1.shadow)
    if on 0 then do
      let cand := rows.filter (fun p => p.1.kind == 1 && ((req p.1).map (fun r => r.fallbackOk && !r.moved)).getD false)
      let key := fun (p : RowSt × Nat) =>
        let due := ((req p.1).map (·.due)).getD 0
        [b2n (!(due != 0 && decide (due ≤ s.stepNo))), prio p.1, 2 ^ 32 - min (2 ^ 32) p.1.position, p.2]
      let n ← actRows m elapsed (moveRow m elapsed) (sortBy (fun a b => lexLess (key a) (key b)) cand)
      note 1 n
    else pure ()
    let s1 ← get
    if on 1 && !s1.fits m elapsed (s1.modelOf m) then do
      let cand := (s1.modelOf m).rows.zipIdx.filter (fun p => p.1.active && !p.1.shadow &&
        ((req p.1).map (·.bestEffort)).getD false)
      let key := fun (p : RowSt × Nat) => [b2n (p.1.kind != 2), prio p.1, 2 ^ 64 - p.1.order]
      let n ← actRows m elapsed (fun k w => do
        putRow m k { w with active := false }
        modRequest w.order (fun r => { r with deferredLast := true })
        pure true) (sortBy (fun a b => lexLess (key a) (key b)) cand)
      note 2 n
    else pure ()
    let s2 ← get
    let y := s2.modelOf m
    if on 2 && !s2.fits m elapsed y && !y.declared then do
      modModel m (fun z => { z with declared := true, skipBuild := true })
      bump (F.mDeclared m)
      let p := y.projected elapsed (s2.fld (F.mCorr m))
      raiseOverrun m (overrunDetail m true false (p.1 / (p.2 * 1000)))
      note 3 0
    else pure ()

end Sys2Proof.Machine
end

