-- ==== Sys2Proof/Machine/Weights.lean ====
section
/-! DEFINITION. Weight delivery, binding and replacement (chapter 14). -/

namespace Sys2Proof.Machine

/-! ### Small operations -/

/-- n ÷ d, ties away from zero (R110). -/
def roundAway (n d : Nat) : Nat := (2 * n + d) / (2 * d)

/-- A SYSTEM command of a queue of context 0 that has started, with the given op (R315, R339). -/
def sysStarted (q : QIdx) (op : Nat) : M Cmd := do
  needSome (((← get).queueOf 0 q).cmds.find? (fun x => x.kind == 5 && x.phase == .started && x.ending.isNone &&
    recField x.body 0 2 == op))

/-- Bytes of a body from an offset on are zero. -/
def zeroFrom (b : List Byte) (o : Nat) : Bool := (b.drop o).all (· == 0)

/-- A SYSTEM command runs its checks and its work: a failure ends it with the code of the failure (R339). -/
def sysRun (q : QIdx) (x : Cmd) (m : M Unit) : M Unit := do
  let r := (← get).sysRef q x.idx
  match ← attempt m with
  | .ok _ => pure ()
  | .error e => endSys r e.status e.coreCode

/-- The command goes on after this event. -/
def sysRunning (q : QIdx) (x : Cmd) : M Unit := modCmd 0 q x.idx (fun y => { y with phase := .running })

/-- The errors of a read that a check makes carry the chapter's code. -/
def readAs {α : Type} (fault : Nat) (m : M α) : M α := do
  match ← attempt m with
  | .ok a => pure a
  | .error e => throw (match e with
    | .code s f => .code s f
    | e => .code e.status fault)

/-- The object of a body handle at an offset (R319). -/
def Cmd.handleAt (x : Cmd) (o : Nat) : Option HandleObj := (x.objs.find? (fun p => p.1 == o)).bind (·.2)

/-- The digest is that of a registered key of a kind, or of the ACTIVE owner root (R467). -/
def State.registered (s : State) (kind digest : Nat) : Bool :=
  s.sec.registry.any (fun p => p.2.1 == kind && p.2.2 == digest)
    || s.sec.owners.any (fun o => o.state == 1 && o.digest == digest)

/-! ### Manifests (R365, R366, R368) -/

/-- Layers and shards of a manifest header. -/
def manifestCounts (b : List Byte) : Nat × Nat := (recField b 4 2, recField b 8 4)

/-- The layers' entries: bytes, first, count. -/
def layerTable (b : List Byte) (n : Nat) : List (Nat × Nat × Nat) :=
  (upTo n).map (fun i =>
    let o := 0x100 + 32 * i
    (recField b o 8, recField b (o + 8) 4, recField b (o + 0xC) 4))

/-- The shards' entries: layer, length, offset, source, digest. -/
def shardTable (b : List Byte) (n s : Nat) : List (Nat × Nat × Nat × Nat × Nat) :=
  (upTo s).map (fun k =>
    let o := 0x100 + 32 * n + 64 * k
    (recField b o 2, recField b (o + 4) 4, recField b (o + 8) 8, recField b (o + 0x10) 8, recField b (o + 0x18) 32))

/-- The shards of a layer cover its bytes in order (R366). -/
def shardsCover (bytes : Nat) : List (Nat × Nat × Nat × Nat × Nat) → Nat → Bool
  | [], at' => at' == bytes
  | s :: t, at' => s.2.2.1 == at' && shardsCover bytes t (at' + (s.2.1 - 16))

/-- Layers follow one another in the shard table (R366). -/
def layersChain : List (Nat × Nat × Nat) → Nat → Option Nat
  | [], n => some n
  | l :: t, n => if l.2.1 = n then layersChain t (n + l.2.2) else none

/-- A well-formed manifest (R365, R366). -/
def manifestOk (b : List Byte) : Bool :=
  let (n, s) := manifestCounts b
  let ls := layerTable b n
  let ss := shardTable b n s
  recField b 0 4 == 1 && decide (1 ≤ n ∧ n ≤ 4096 ∧ 1 ≤ s ∧ s ≤ 2 ^ 20) && recField b 6 2 == 0 && recField b 0xC 4 == 0
    && recField b 0x10 8 != 0 && recField b 0x58 8 == 0 && recField b 0x80 128 == 0
    && recField b (256 + 32 * n + 64 * s + 3309) 19 == 0
    && ls.all (fun l => l.1 % 32 == 0 && l.1 != 0 && l.1 != 2 ^ 64 - 1 && decide (1 ≤ l.2.2))
    && (upTo n).all (fun i => recField b (0x100 + 32 * i + 0x10) 16 == 0)
    && (upTo s).all (fun k => recField b (0x100 + 32 * n + 64 * k + 2) 2 == 0
        && recField b (0x100 + 32 * n + 64 * k + 0x38) 8 == 0)
    && ss.all (fun x => decide (48 ≤ x.2.1 ∧ x.2.1 ≤ 2 ^ 26 + 16) && (x.2.1 - 16) % 32 == 0 && x.2.2.1 % 256 == 0)
    && layersChain ls 0 == some s
    && ls.zipIdx.all (fun p =>
        let mine := (ss.drop p.1.2.1).take p.1.2.2
        mine.all (fun x => x.1 == p.2) && shardsCover p.1.1 mine 0)

/-- The manifest's parts, once its checks have passed. -/
def parseManifest (b : List Byte) : Package :=
  let (n, s) := manifestCounts b
  { version := recField b 0x10 8, setId := recField b 0x20 16, wrapped := (b.drop 0x30).take 40, key := none,
    layers := layerTable b n, shards := shardTable b n s }

/-- The largest layer (R371). -/
def Package.largest (p : Package) : Nat := (p.layers.map (·.1)).foldl max 0

/-! ### Queue pairs (R435, R437) -/

/-- The address of a queue pair's entry. -/
def State.qpAddr (s : State) (qp : Nat) : Nat := bitsOf (s.reg .jlQpbase) 12 45 * 4096 + 128 * qp

/-- A queue pair's entry that is not rejected: READY, its reserved fields zero, its fields in their ranges (R3, R437). -/
def qpOk (b : List Byte) : Bool :=
  recField b 0 1 == 1 && decide (recField b 1 1 < 32 ∧ recField b 2 1 < 2 ∧ recField b 3 1 < 8)
    && decide (1 ≤ recField b 0x3A 1 ∧ recField b 0x3A 1 ≤ 20 ∧ recField b 0x3B 1 ≤ 7)
    && recField b 0x3C 4 == 0 && recField b 0x40 8 % 4096 == 0 && decide (recField b 0x48 1 ≤ 10)
    && recField b 0x49 3 == 0 && (b.drop 0x54).all (· == 0)

/-- The port of a queue pair's entry. -/
def qpPort (b : List Byte) : Port := (finOf 16 (recField b 1 1 % 16)).getD 0

/-- What a queue pair's entry holds now, as a check sees it. -/
def State.qpEntry (s : State) (qp : Nat) : Option (List Byte) :=
  if s.flag F.qpValid then
    match vaRead 0 (s.qpAddr qp) 128 s with
    | .ok b _ => some b
    | .error _ _ => none
  else none

/-- The queue pair is one of an Ethernet-mode port. -/
def State.qpEthernet (s : State) (qp : Nat) : Bool := (s.qpEntry qp).any (fun b => s.fld (F.portMode (qpPort b)) != 0)

/-- The queue pair is READY, on a port in Ethernet mode. -/
def State.qpReady (s : State) (qp : Nat) : Bool :=
  (s.qpEntry qp).any (fun b => qpOk b && s.fld (F.portMode (qpPort b)) != 0)

/-- PSNs that a request takes: one for each path MTU of its data (R436). -/
def Roce.packets : Roce → Nat
  | .read _ _ n => ceilDiv n 4096
  | .write _ _ d => ceilDiv d.length 4096
  | _ => 0

/-- The port and the priority of a queue pair. -/
def State.qpPrio (s : State) (qp : Nat) : Option (Port × Nat) :=
  (s.qpEntry qp).map (fun b => (qpPort b, recField b 3 1 % 8))

/-- The port of a queue pair honours a pause of its priority (R435). -/
def State.qpPaused (s : State) (qp : Nat) : Bool :=
  (s.qpPrio qp).any (fun x => (s.portOf x.1).paused.any (fun i => i.val == x.2))

/-- Write the next send PSN of a queue pair that sends a request (R437). -/
def advancePsn (qp : Nat) (f : Roce) : M Unit := do
  let s ← get
  match s.qpEntry qp with
  | some b =>
    if f.packets = 0 then pure ()
    else (attempt (vaWrite 0 (s.qpAddr qp + 8) (leBytes 4 ((recField b 8 4 + f.packets) % 2 ^ 24)))).bind (fun _ => pure ())
  | none => pure ()

/-- Send a RoCEv2 frame, or hold it while its priority is paused. -/
def sendRoce (qp : Nat) (f : Roce) : M Unit := do
  advancePsn qp f
  let s ← get
  match s.qpPaused qp, s.qpPrio qp with
  | true, some x => set { s with fab := { s.fab with held := s.fab.held ++ [(x.1, x.2, qp, f)] } }
  | _, _ => emit (.roce qp f)

/-! ### The checks of R374 -/

/-- A source entry, or none where it breaks R372. -/
def parseSource (x : Cmd) (i : Nat) : Option WtSource :=
  let o := 0x40 + 32 * i
  let f := recField x.body
  let obj := x.handleAt (o + 0x10)
  if f (o + 1) 1 ≠ 0 ∨ f (o + 0x14) 12 ≠ 0 then none
  else if f o 1 = 1 then
    (if f (o + 2) 2 < 4096 ∧ f (o + 0x10) 4 = 0 then some ⟨1, f (o + 2) 2, f (o + 4) 4, f (o + 8) 8, none⟩ else none)
  else if f o 1 = 2 then
    (match obj with
     | some h => if h.kind = 3 ∧ bitOf h.rights 0 ∧ f (o + 2) 14 = 0 then some ⟨2, 0, 0, 0, some h⟩ else none
     | none => none)
  else none

/-- The instance's weight state allows the op (R370). -/
def State.wtAllows (s : State) (m : Model) (op : Nat) : Bool :=
  let st := s.fld (F.wState m)
  match op with
  | 0x10 => !s.flag (F.mEnable m)
  | 0x11 => st == 2 || st == 3 || st == 5
  | _ => st == 5

/-- The body of WT_LOAD or WT_REPLACE as the instance's new weight state; none where a field breaks R371, R372. -/
def parseWt (s : State) (x : Cmd) (m : Model) (load : Bool) : Option WtSt :=
  let f := recField x.body
  let streamed := if load then f 3 1 == 1 else s.fld (F.wMode m) == 1
  let n := f 4 1
  let D := f 5 1
  let B := f 6 1
  let staging := x.handleAt 0x18
  let stagingOk : Bool := if !load && !streamed then
      (match staging with
       | some h => h.kind == 1 && bitOf h.rights 1
       | none => false)
    else f 0x18 4 == 0
  let streamOk : Bool := if streamed then
      decide (2 ≤ D ∧ D ≤ 15 ∧ D + 1 ≤ B ∧ B ≤ 16 ∧ 1 ≤ f 0x1C 4 ∧ f 0x1C 4 ≤ 65534 ∧ f 0x20 8 % 65536 = 0
        ∧ f 0x20 8 < 2 ^ 57)
    else D == 0 && B == 0 && f 0x1C 4 == 0 && f 0x20 8 == 0
  if (if load then f 3 1 ≤ 1 else f 3 1 = 0) ∧ 1 ≤ n ∧ n ≤ 4 ∧ f 7 1 = 0 ∧ f 0x28 24 = 0 ∧ f 0x10 8 % 64 = 0
      ∧ f 0x10 8 < 2 ^ 57 ∧ zeroFrom x.body (0x40 + 32 * n) = true ∧ stagingOk = true ∧ streamOk = true then
    ((upTo n).mapM (parseSource x)).map (fun ss =>
      { WtSt.none with
        sources := ss, map := f 0x10 8, staging := if load then none else staging, ring := f 0x20 8, buffers := B
        distance := D })
  else none

/-- Entry L of a layer map follows R373. -/
def layerMapOk (streamed : Bool) (bytes : Nat) (e : List Byte) : Bool :=
  let f := recField e
  (if streamed then f 0 8 == 0 else f 0 8 % 32 == 0 && decide (f 0 8 < 2 ^ 57)) && f 8 8 == bytes
    && decide (f 0x10 1 ≤ f 0x11 1 ∧ f 0x12 1 < 2) && f 0x13 5 == 0

/-- An object of the body, DEVICE kind with R right (R371). -/
def wtObject (x : Cmd) (o : Nat) : M HandleObj := do
  match x.handleAt o with
  | some h => do
    guardCode (h.kind == 1 && bitOf h.rights 0) 2 0x60
    pure h
  | none => throw (.code 2 0x60)

/-- The content key of a package: the key of its set unwraps it (R369). -/
def State.contentKey (s : State) (setId : Nat) (wrapped : List Byte) : Option Nat :=
  match List.find? (fun (p : Fin 16 × Nat × Nat) => p.2.1 == setId) s.sec.sets with
  | some p => Config.keyUnwrap p.2.2 (natBytes wrapped)
  | none => none

/-- An ML-DSA-65 signature over the 512-bit SHAKE256 digest of a message verifies (R368, R474, R481, R533). -/
def signatureOk (key msg sig : List Byte) : Bool :=
  Config.mldsaVerify (natBytes key) (Config.shake512 (natBytes msg)) (natBytes sig)

/-- A signature or an unwrap of the security block: a failure is counted, and ends the check (R469, R487). -/
def checkSecurity {α : Type} (o : Option α) (fault : Nat) : M α := do
  match o with
  | some a => pure a
  | none => do
    bump F.sigFail
    throw (.code 0xC fault)

/-- The checks of R374 in their order; the answer is the weight state that the command sets. -/
def wtChecks (m : Model) (x : Cmd) (load : Bool) : M (WtSt × Bool) := do
  let s ← get
  let w ← orErr (parseWt s x m load) (.code 2 0x60)
  guardCode (s.wtAllows m (if load then 0x10 else 0x11)) 2 0x60
  guardCode (w.sources.all (fun x => x.obj.isSome || s.qpEthernet x.qp)) 2 0x60
  let streamed := if load then recField x.body 3 1 == 1 else s.fld (F.wMode m) == 1
  let man ← wtObject x 8
  let pub ← wtObject x 0xC
  guardCode (decide (1952 ≤ pub.size)) 2 0x60
  let head ← readAs 0x60 (vaRead 0 man.address 12)
  let (n, k) := manifestCounts head
  let signed := 256 + 32 * n + 64 * k
  guardCode (decide (signed + 3328 ≤ man.size)) 2 0x60
  guardCode ((s.wtOf m).q.isNone) 2 0x66
  let key ← readAs 0x60 (vaRead 0 pub.address 1952)
  let b ← readAs 0x60 (vaRead 0 man.address (signed + 3328))
  let digest := Config.shake256 (natBytes key)
  guardCode (s.registered 2 digest && digest == recField b 0x60 32) 0xC 0x62
  checkSecurity (if signatureOk key (b.take signed) ((b.drop signed).take 3309) then some () else none) 0x62
  guardCode (manifestOk b) 2 0x61
  let p := parseManifest b
  guardCode (load || ((((s.wtOf m).pkg.map (·.layers)).getD []).map (·.1) == p.layers.map (·.1))) 2 0x61
  eachM (p.layers.zipIdx) (fun l => do
    let e ← readAs 0x61 (vaRead 0 (w.map + 32 * l.2) 32)
    guardCode (layerMapOk streamed l.1.1 e) 2 0x61)
  let paused := s.fld (F.wState m) == 5
  let same := p.version == s.fld (F.wVer m)
  guardCode (load || (same == paused)) 2 0x60
  match w.staging with
  | some h => guardCode (decide (p.largest ≤ h.size)) 2 0x60
  | none => pure ()
  guardCode (s.sec.sets.any (fun k => k.2.1 == p.setId)) 0xC 0x63
  let ck ← checkSecurity (s.contentKey p.setId p.wrapped) 0x63
  let bytes := (p.layers.map (·.1)).sum
  guardCode (!streamed || decide (bytes * 256 ≤ s.fld (F.mFill m) * s.fld F.tkPeriod * 1000 * recField x.body 0x1C 4))
    2 0x65
  pure ({ w with pkg := some { p with key := some ck } }, streamed)

/-! ### Fetching (R375, R376) -/

/-- Tie a READ to the shard that it is for. -/
def readFor (m : Model) (f : ShardSt) (off : Nat) (id : Option Nat) : M Unit :=
  modify (fun s => { s with fab := { s.fab with
    sent := s.fab.sent.map (fun x => if some x.id = id then { x with shard := some (m, f.k, f.step, off) } else x) } })

/-- Ask a source for a shard: an RDMA READ over a queue pair that is READY, or READs of at most 4,096 bytes of the peer window
(R372, R428). A source that cannot be asked answers with an error of its own. -/
def sourceAsk (m : Model) (w : WtSt) (p : Package) (f : ShardSt) : M Unit := do
  match w.sources[f.source]?, p.shards[f.k]? with
  | some src, some sh =>
    match src.obj with
    | none => if (← get).qpReady src.qp then sendRoce src.qp (.read src.rkey (src.base + sh.2.2.2.1) sh.2.1) else pure ()
    | some h =>
      if sh.2.2.2.1 + sh.2.1 ≤ h.size then
        eachM (upTo (ceilDiv sh.2.1 4096)) (fun i => do
          let n := min 4096 (sh.2.1 - 4096 * i)
          let id ← sendRouted 2 h.peer 0 0 (accessBody h.window (h.address + sh.2.2.2.1 + 4096 * i) n []) none
          readFor m f (4096 * i) id)
      else pure ()
  | _, _ => pure ()

/-- Shards of a layer of a package, by index. -/
def Package.shardsOf (p : Package) (L : Nat) : List Nat :=
  match p.layers[L]? with
  | some l => (upTo l.2.2).map (l.2.1 + ·)
  | none => []

/-- Begin to fetch shards, in order, while fewer than INFLIGHT are in flight. -/
def fetchSome (m : Model) (ks : List Nat) (step : Nat) : M Unit := do
  let s ← get
  let w := s.wtOf m
  match w.pkg with
  | none => pure ()
  | some p => do
    let new := (ks.map (fun k => { k := k, source := 0, step := step, got := [] : ShardSt })).take
      (s.fld F.inflight - w.flight.length)
    modWt m (fun w => { w with flight := w.flight ++ new })
    eachM new (fun f => do
      let a ← fresh
      beginOwn ((finOf 4 (Config.shardDie a % 4)).getD 0) (.shard m f.k f.step)
      sourceAsk m w p f)

/-- The shards of a WT_LOAD or a replaced layer that are still to be begun. -/
def State.shardsLeft (s : State) (m : Model) : List Nat :=
  let w := s.wtOf m
  let begun := w.verified ++ w.flight.map (·.k)
  match w.pkg with
  | none => []
  | some p =>
    (if s.fld (F.wState m) = 1 then (upTo p.shards.length) else p.shardsOf w.layer).filter (fun k => !begun.contains k)

/-- Start or go on with the fetch of a resident layer. -/
def fetchResident (m : Model) : M Unit := do
  fetchSome m ((← get).shardsLeft m) 0

/-- WT_LOAD (R377, R378). -/
def execWtLoad (q : QIdx) (s : State) : Host.Outcome State Fault Refusal :=
  run (do
    let x ← sysStarted q 0x10
    sysRun q x (do
      let m ← orErr (finOf 16 (recField x.body 2 1)) (.code 2 0x60)
      putFld (F.wRefetch m) 0
      let (w, streamed) ← wtChecks m x true
      let r := (← get).sysRef q x.idx
      dropFlight m (fun _ => true)
      modWt m (fun _ => { w with q := some r })
      putFlag (F.wMode m) streamed
      if streamed then do
        putFld (F.wRate m) (recField x.body 0x1C 4)
        putFld (F.wVer m) ((w.pkg.map (·.version)).getD 0)
        endWt m 3 0 0
      else do
        putFld (F.wRate m) 0
        sysRunning q x
        putWtState m 1
        fetchResident m)) s

/-! ### Layer maps -/

/-- Write the flags and current of a layer's map entry; a fault leaves it. -/
def writeLayerMap (map L flags : Nat) (current : Option Nat) : M Unit := do
  let r ← attempt (do
    vaWrite 0 (map + 32 * L + 0x12) (leBytes 1 flags)
    match current with
    | some a => vaWrite 0 (map + 32 * L + 0x18) (leBytes 8 a)
    | none => pure ())
  match r with
  | .ok _ => pure ()
  | .error _ => pure ()

/-- The next layer that a replacement takes after layer L: the next one, or, in a revert, the next NEW one. -/
def WtSt.nextLayer (w : WtSt) (L : Nat) : Option Nat :=
  (upTo w.layerBytes.length).find? (fun k => decide (L ≤ k) && (!w.reverting || w.newLayers.contains k))

/-- The replacement of a RESIDENT instance is done (R381, R385). -/
def finishReplace (m : Model) : M Unit := do
  let w := (← get).wtOf m
  if w.reverting then pure () else putFld (F.wVer m) ((w.pkg.map (·.version)).getD 0)
  eachM w.newLayers (fun L => writeLayerMap w.map L 0 none)
  modWt m (fun w => { w with newLayers := [], reverting := false })
  endWt m 2 0 0

/-- Begin the layer at or after L, or finish. -/
def takeLayer (m : Model) (L : Nat) : M Unit := do
  match ((← get).wtOf m).nextLayer L with
  | none => finishReplace m
  | some k => do
    dropFlight m (fun _ => true)
    modWt m (fun w => { w with layer := k, verified := [], ready := false, copyDue := false, copying := false })
    putWtState m 4
    fetchResident m

/-- WT_REPLACE (R381, R385, R386). -/
def execWtReplace (q : QIdx) (s : State) : Host.Outcome State Fault Refusal :=
  run (do
    let x ← sysStarted q 0x11
    sysRun q x (do
      let m ← orErr (finOf 16 (recField x.body 2 1)) (.code 2 0x60)
      putFld (F.wRefetch m) 0
      let (w, streamed) ← wtChecks m x false
      let s ← get
      let r := s.sysRef q x.idx
      sysRunning q x
      if streamed then do
        let now := (s.modelOf m).step
        dropFlight m (fun f => decide (now < f.step))
        modWt m (fun y => { y with
          q := some r, swapAfter := s.stepNo
          next := w.pkg.map (fun p => { pkg := p, sources := w.sources, map := w.map, ring := w.ring, buffers := w.buffers,
                                        distance := w.distance, rate := recField x.body 0x1C 4 })
          stream := y.stream.filter (fun e => decide (e.step ≤ now))
          lastFetch := y.lastFetch.map (fun l => if now < l.1 then (now, y.layerBytes.length - 1) else l) })
        putWtState m 4
      else do
        modWt m (fun y => { w with
          q := some r, newLayers := y.newLayers, reverting := s.fld (F.wState m) == 5 })
        takeLayer m 0)) s

/-- WT_RESUME (R385). -/
def execWtResume (q : QIdx) (s : State) : Host.Outcome State Fault Refusal :=
  run (do
    let x ← sysStarted q 0x12
    sysRun q x (do
      let m ← orErr (finOf 16 (recField x.body 2 1)) (.code 2 0x60)
      putFld (F.wRefetch m) 0
      let s ← get
      guardCode (zeroFrom x.body 3 && s.wtAllows m 0x12) 2 0x60
      guardCode ((s.wtOf m).q.isNone) 2 0x66
      let p ← orErr (s.wtOf m).pkg (.code 2 0x60)
      guardCode (s.sec.sets.any (fun k => k.2.1 == p.setId)) 0xC 0x63
      let ck ← checkSecurity (s.contentKey p.setId p.wrapped) 0x63
      let r := s.sysRef q x.idx
      sysRunning q x
      dropFlight m (fun _ => true)
      modWt m (fun w => { w with
        q := some r, pkg := some { p with key := some ck }, verified := [], ready := false, copying := false })
      putWtState m 4
      fetchResident m)) s

/-! ### Shards that arrive, and those that do not (R376, R377, R380, R385) -/

/-- Bytes of a ring buffer (R371). -/
def Package.bufferBytes (p : Package) : Nat := ceilDiv p.largest 65536 * 65536

/-- The ring buffer of a layer in a step (R378). -/
def WtSt.bufferOf (w : WtSt) (step L : Nat) : Nat := (step * w.layerBytes.length + L) % max 1 w.buffers

/-- The address at which a shard's plain text lands: its layer's place, the staging buffer, or a ring buffer. -/
def shardTarget (m : Model) (p : Package) (step k : Nat) : M (Option Nat) := do
  let s ← get
  let w := s.wtOf m
  match p.shards[k]? with
  | none => pure none
  | some sh =>
    if s.fld (F.wMode m) = 1 then
      pure (some (w.ring + w.bufferOf step sh.1 * p.bufferBytes + sh.2.2.1))
    else
      match w.staging with
      | some h => pure (some (h.address + sh.2.2.1))
      | none => do pure (some (recField (← layerEntry m sh.1) 0 8 + sh.2.2.1))

/-- A shard is missing, or ends its command for another reason (R376, R377, R380, R385). -/
def shardFails (m : Model) (status fault : Nat) : M Unit := do
  let s ← get
  let st := s.fld (F.wState m)
  if s.fld (F.wMode m) = 1 then do
    dropFlight m (fun _ => true)
    modWt m (fun w => { w with stream := [], lastFetch := none })
    faultStage m fault
  else if st = 1 then endWt m 6 status fault
  else endWt m 5 status fault

/-- Every shard of what is being fetched has verified (R377, R381). -/
def settleFetch (m : Model) : M Unit := do
  let s ← get
  let w := s.wtOf m
  match w.pkg with
  | none => pure ()
  | some p =>
    let all := if s.fld (F.wState m) = 1 then upTo p.shards.length else p.shardsOf w.layer
    if all.all (fun k => w.verified.contains k) then
      (if s.fld (F.wState m) = 1 then do
        eachM (upTo p.layers.length) (fun L => do
          writeLayerMap w.map L 0 (some (recField (← layerEntry m L) 0 8)))
        putFld (F.wVer m) p.version
        endWt m 2 0 0
       else modWt m (fun w => { w with ready := true }))
    else do
      if s.fld (F.wState m) = 1 then
        modWt m (fun w => { w with
          layer := ((upTo p.layers.length).find? (fun L => !(p.shardsOf L).all (fun k => w.verified.contains k))).getD 0 })
      else pure ()
      putWtState m (s.fld (F.wState m))
      fetchResident m

/-- A shard of a streamed layer has verified: the layer may be complete, and more shards are begun. -/
def settleStream (m : Model) (p : Package) (f : ShardSt) (bytes : Nat) : M Unit := do
  let L := ((p.shards[f.k]?).map (·.1)).getD 0
  modWt m (fun w => { w with
    fetched := w.fetched + bytes
    stream := w.stream.map (fun e =>
      if e.step = f.step ∧ e.layer = L then
        let v := f.k :: e.verified
        { e with verified := v, complete := (p.shardsOf L).all (fun k => v.contains k) }
      else e) })
  let w := (← get).wtOf m
  eachM w.stream (fun e =>
    fetchSome m ((p.shardsOf e.layer).filter (fun k => !e.verified.contains k &&
      !w.flight.any (fun g => g.k == k && g.step == e.step))) e.step)

/-- A shard with its next source. -/
def ShardSt.next (f : ShardSt) : ShardSt := { f with source := f.source + 1, got := [] }

/-- A shard in flight turns to its next source: what the last one was asked is forgotten, and the retry is counted. -/
def turnShard (m : Model) (f : ShardSt) : M Unit := do
  modify (fun s => { s with fab := { s.fab with
    sent := s.fab.sent.filter (fun x => !(x.shard.any (fun y => y.1 == m && y.2.1 == f.k && y.2.2.1 == f.step))) } })
  modWt m (fun w => { w with flight := w.flight.map (fun y => if y = f then f.next else y) })
  bump (F.wRefetch m)

/-- The next source for a shard, or none is left. -/
def retryShard (m : Model) (p : Package) (f : ShardSt) : M Unit := do
  let w := (← get).wtOf m
  if f.source + 1 < w.sources.length then do
    turnShard m f
    sourceAsk m w p f.next
  else shardFails m 0xD 0x64

/-- The bytes of a shard are here: digest, tag, and its plain text at the target (R367, R375, R376). -/
def landShard (m : Model) (p : Package) (f : ShardSt) (bs : List Byte) : M Unit := do
  let sh ← needSome p.shards[f.k]?
  if bs.length ≠ sh.2.1 ∨ Config.shake256 (natBytes bs) ≠ sh.2.2.2.2 then retryShard m p f
  else
    match p.key.bind (fun key => Config.gcmOpen key (f.k + p.version * 2 ^ 32) (natBytes bs)) with
    | none => shardFails m 0xC 0x63
    | some plain => do
      let target ← needSome (← shardTarget m p f.step f.k)
      match ← attempt (vaWrite 0 target ((plain.map (BitVec.ofNat 8)).take (sh.2.1 - 16))) with
      | .error e => shardFails m e.status 0
      | .ok _ => do
        endOwn (.shard m f.k f.step) (fun _ => sh.2.1 - 16)
        dropFlight m (· == f)
        if (← getFlag (F.wMode m)) then settleStream m p f (sh.2.1 - 16)
        else do
          modWt m (fun w => { w with verified := f.k :: w.verified })
          settleFetch m

/-- A shard arrives with its bytes, or its source answers with an error (R375, R376). -/
def execShardArrival (m : Model) (k : Nat) (data : Option (List Byte)) (s : State) : Host.Outcome State Fault Refusal :=
  run (do
    let w := (← get).wtOf m
    let p ← needSome w.pkg
    let f ← needSome (w.flight.find? (fun f => f.k == k))
    match data with
    | none => retryShard m p f
    | some bs => landShard m p f bs) s

/-- The shard in flight that a READ was for. -/
def shardOfRead (x : Model × Nat × Nat × Nat) : M (Option (Package × ShardSt)) := do
  let w := (← get).wtOf x.1
  pure (match w.pkg, w.flight.find? (fun f => f.k == x.2.1 && f.step == x.2.2.1) with
    | some p, some f => some (p, f)
    | _, _ => none)

/-- A READ of a shard is answered: its bytes, or an error of the source. The shard is whole with its last bytes. -/
def shardBytes (x : Model × Nat × Nat × Nat) (data : Option (List Byte)) : M Unit := do
  match ← shardOfRead x, data with
  | some (p, f), some bs => do
    let g := { f with got := (x.2.2.2, bs) :: f.got }
    modWt x.1 (fun w => { w with flight := w.flight.map (fun y => if y = f then g else y) })
    let sh ← needSome p.shards[f.k]?
    let all := (upTo (ceilDiv sh.2.1 4096)).map (fun i => (g.got.find? (fun y => y.1 == 4096 * i)).map (·.2))
    if all.all Option.isSome then landShard x.1 p g (all.filterMap id).flatten else pure ()
  | some (p, f), none => retryShard x.1 p f
  | none, _ => pure ()

/-- SHARD_MS has passed since the shard's first read began (R376). -/
def execShardTimeout (m : Model) (k : Nat) (s : State) : Host.Outcome State Fault Refusal :=
  run (do
    let w := (← get).wtOf m
    guardWait (w.flight.any (fun f => f.k == k))
    shardFails m 0xD 0x64) s

/-! ### Copies of layers (R381, R382) -/

/-- A ready layer's copy begins, on the engines of all four dies: at a build of the instance, or at once while ENABLE is
clear. -/
def execLayerCopy (m : Model) (s : State) : Host.Outcome State Fault Refusal :=
  run (do
    let s ← get
    let w := s.wtOf m
    guardWait (w.ready && !w.copying && (w.copyDue || !s.flag (F.mEnable m)))
    eachM (List.finRange 4) (fun d => beginOwn d (.copy m))
    modWt m (fun w => { w with copying := true })) s

/-- A layer's copy is complete. -/
def execLayerCopyComplete (m : Model) (s : State) : Host.Outcome State Fault Refusal :=
  run (do
    let s ← get
    let w := s.wtOf m
    guardWait w.copying
    let st ← needSome w.staging
    let bytes := nthD w.layerBytes w.layer 0
    let dest := recField (← layerEntry m w.layer) 0 8
    match ← attempt (do vaWrite 0 dest (← vaRead 0 st.address bytes)) with
    | .error e => do
      endOwn (.copy m) (fun _ => 0)
      modWt m (fun w => { w with ready := false, copyDue := false, copying := false })
      shardFails m e.status 0
    | .ok _ => do
      endOwn (.copy m) (fun d => (bytes + d.val) / 4)
      let new := if w.reverting || w.newLayers.contains w.layer then w.newLayers else w.newLayers ++ [w.layer]
      modWt m (fun w => { w with newLayers := new, copying := false, ready := false, copyDue := false })
      writeLayerMap w.map w.layer (if new.contains w.layer then 1 else 0) (some dest)
      takeLayer m (w.layer + 1)) s

/-! ### Streaming (R378–R380, R386) -/

/-- The layer to be fetched next: step and layer. -/
def WtSt.nextFetch (w : WtSt) (step : Nat) : Nat × Nat :=
  match w.lastFetch with
  | some (s, L) => if L + 1 < w.layerBytes.length then (s, L + 1) else (s + 1, 0)
  | .none => (step, 0)

/-- Layers after the one consumed last that are in flight or complete. -/
def WtSt.ahead (w : WtSt) : Nat :=
  (w.stream.filter (fun e => match w.consumed with
    | some c => decide (c.1 < e.step ∨ (c.1 = e.step ∧ c.2 < e.layer))
    | .none => true)).length

/-- A STREAMED replacement takes effect (R386). -/
def swapStream (m : Model) (n : WtNext) : M Unit := do
  modWt m (fun w => { w with
    pkg := some n.pkg, next := none, sources := n.sources, map := n.map, ring := n.ring, buffers := n.buffers
    distance := n.distance, stream := [], consumed := none })
  putFld (F.wRate m) n.rate
  putFld (F.wVer m) n.pkg.version
  endWt m 3 0 0

/-- The fetch of a streamed layer begins: its buffer is free and the prefetch distance allows it. The ring goes on between
steps. A replacement that waits takes effect at layer 0 of the first step built after it. -/
def execStreamFetchStart (m : Model) (s : State) : Host.Outcome State Fault Refusal :=
  run (do
    let s ← get
    let w := s.wtOf m
    let x := s.modelOf m
    let st := s.fld (F.wState m)
    let (step, L) := w.nextFetch x.step
    let step := if L = 0 ∧ w.stream.isEmpty then max step x.step else step
    guardWait (s.fld (F.wMode m) == 1 && (st == 3 || st == 4) && s.flag (F.mEnable m) && (x.stepOpen || w.lastFetch.isSome)
      && decide (w.ahead < w.distance) && w.stream.all (fun e => w.bufferOf e.step e.layer != w.bufferOf step L)
      && w.pkg.isSome)
    match w.next with
    | some n =>
      if L = 0 then (do
        guardWait (decide (w.swapAfter < x.step ∧ step ≤ x.step))
        swapStream m n)
      else pure ()
    | none => pure ()
    modWt m (fun w => { w with stream := w.stream ++ [⟨step, L, [], false⟩], lastFetch := some (step, L) })
    match ((← get).wtOf m).pkg with
    | some p => fetchSome m (p.shardsOf L) step
    | none => pure ()) s

/-- The stages first to last of a layer. -/
def layerStages (m : Model) (L : Nat) : M (Nat × Nat) := do
  let e ← layerEntry m L
  pure (recField e 0x10 1, recField e 0x11 1)

/-- The weights let a stage start: the barrier of a copy, and the streamed layers that it reads (R378, R382). -/
def weightsReady (m : Model) (stage : Nat) : M Bool := do
  let s ← get
  let w := s.wtOf m
  let copyOk ← (if w.copyDue || w.copying then do
      let r ← layerStages m w.layer
      pure (!decide (r.1 ≤ stage ∧ stage ≤ r.2))
    else pure true)
  if s.fld (F.wMode m) = 1 ∧ (s.fld (F.wState m) = 3 ∨ s.fld (F.wState m) = 4) then do
    let oks ← mapM' (upTo w.layerBytes.length) (fun L => do
      let r ← layerStages m L
      pure (!decide (r.1 ≤ stage ∧ stage ≤ r.2) ||
        ((w.stream.find? (fun e => e.layer == L)).map (·.complete)).getD false))
    pure (copyOk && oks.all (fun b => b))
  else pure copyOk

/-- Before a stage starts, the device writes current of the streamed layers that it reads. -/
def placeStreamed (m : Model) (stage : Nat) : M Unit := do
  let s ← get
  let w := s.wtOf m
  match w.pkg with
  | none => pure ()
  | some p =>
    if s.fld (F.wMode m) = 1 then
      eachM (upTo p.layers.length) (fun L => do
        let r ← layerStages m L
        match w.stream.find? (fun e => e.layer == L) with
        | some e =>
          if r.1 ≤ stage ∧ stage ≤ r.2 then
            writeLayerMap w.map L 0 (some (w.ring + w.bufferOf e.step L * p.bufferBytes))
          else pure ()
        | none => pure ())
    else pure ()

/-- A stage has completed: the layers whose last stage it is are consumed. -/
def consumeLayers (m : Model) (stage : Nat) : M Unit := do
  let w := (← get).wtOf m
  let done ← mapM' w.stream (fun e => do
    let r ← layerStages m e.layer
    pure (e, decide (r.2 = stage)))
  let now := (w.stream.head?.map (·.step)).getD 0
  let gone := done.filter (fun p => p.2 && p.1.step == now)
  modWt m (fun y => { y with
    stream := (done.filter (fun p => !(p.2 && p.1.step == now))).map (·.1)
    consumed := if gone.isEmpty then y.consumed else some (now, (gone.map (·.1.layer)).foldl max 0) })

/-- After a step of a STREAMED instance E moves towards the measured rate (R380). -/
def settleRate (m : Model) : M Unit := do
  let s ← get
  let w := s.wtOf m
  if s.fld (F.wMode m) = 1 ∧ w.fetched ≠ 0 then do
    let a ← fresh
    let ns := max 1 (Config.fetchNs a)
    putFld (F.wRate m) (max 1 (min 65535 (roundAway (7 * s.fld (F.wRate m) * ns + w.fetched) (8 * ns))))
    modWt m (fun w => { w with fetched := 0 })
  else pure ()

end Sys2Proof.Machine
end

