-- ==== Sys2Proof/Machine/Contexts.lean ====
section
/-! DEFINITION. Contexts: creation, reset and teardown, partitions and reclaim as SYSTEM commands, the stages of a step,
stops of cores, images, bounds and budgets (R338–R343, R355–R361, R492, R499–R502). -/

namespace Sys2Proof.Machine

/-! ### Reset (R499–R502) -/

/-- The cause in the CONTEXT_RESET event (R499). -/
def resetCode : ResetCause → Nat
  | .destroy => 1 | .flr => 2 | .overrun => 3 | .reclaim => 4 | .lifeCycle => 5 | .hardFault => 6

/-- Every command of a context ends: the one that caused the reset with its own ending, the others cancelled; its
job aborts, and its requests leave the scheduler (R500 step 2). -/
def cancelContext (c : Ctx) (cmd : Option (QIdx × W32 × Ending)) : M Unit := do
  match cmd with
  | some (q, idx, e) => stopWork (.cmd c q idx) e
  | none => pure ()
  eachM (List.finRange 64) (fun q => do
    eachM ((← get).queueOf c q).cmds (fun x => stopWork (.cmd c q x.idx) ⟨1, 0xB5, none⟩))
  abortJob c 0xB5 true
  modify (fun s => { s with sched := { s.sched with reqs := s.sched.reqs.filter (fun r => r.ctx ≠ c) } })

/-- The grant and the images of a context end. -/
def endGrant (c : Ctx) : M Unit := do
  modCtx c (fun x => { x with holds := [], claims := [], preempt := false, saving := false, restoring := false, images := [] })
  eachM [.save c, .restore c, .drain c] (fun u => endOwn u (fun _ => 0))
  modify (fun s => s.setReg (.ssPart c) 0)
  refreshSaved

/-- The generations of a context and of its queues advance (R500 step 3). -/
def advanceContext (c : Ctx) : M Unit := do
  let old := (← get).genOf c
  modCtx c (fun x => { x with gen := (old + 1) % 4096 })
  startDrain c none old
  eachM (List.finRange 64) (advanceQueue c)

/-- A context reset, steps 1–5 (R500). A second one joins the first (R502). -/
def resetContext (c : Ctx) (cause : ResetCause) (cmd : Option (QIdx × W32 × Ending)) : M Unit := do
  let s ← get
  if c = 0 ∨ !s.ctxLive c then pure ()
  else do
    cancelContext c cmd
    let x := (← get).ctxs.getD c .absent
    let lost := !x.images.isEmpty || x.saving || x.restoring
    let part := s.fld (F.drainState c) == 1 || s.fld (F.drainState c) == 2
    endGrant c
    modJob c (fun j => { j with drain := none })
    advanceContext c
    eachM (List.finRange 64) (recordQueue c)
    eventBoth c 0x08 (resetCode cause + b2n part * 2 ^ 8 + b2n lost * 2 ^ 9)
    bump F.resetsContexts
    modCtx c (fun y => { CtxSt.absent with
      phase := .teardown, gen := y.gen, destroyer := y.destroyer, cause := resetCode cause })
    modify (fun s => { s.resetPage c with queues := s.queues.filter (fun (p : (Ctx × QIdx) × QueueSt) => p.1.1 ≠ c) })
    settleGrants

/-! ### Teardown (R171, R252, R259, R263, R392, R448, R476) -/

/-- The entries of a table that can be read, in order. -/
def tableEntries (base n : Nat) : M (List Nat) := do
  let slot ← getFld F.tableSlot
  let bs ← mapM' (pieces base (8 * n)) (fun p => do
    match ← attempt (readDpa slot p.1 p.2) with
    | .ok b => pure b
    | .error _ => pure (List.replicate p.2 0))
  let b := bs.flatten
  pure ((upTo n).map (fun k => leNat ((b.drop (8 * k)).take 8)))

/-- The granule ranges of the leaf pages with SLOT c below a table. -/
def leafRanges (c : Ctx) : List (Nat × Nat × Nat) → Nat → M (List (Nat × Nat))
  | [], _ => pure []
  | (lv, sh, n) :: rest, base => do
    let es ← tableEntries base (2 ^ n)
    let rs ← mapM' (es.filter (fun e => bitOf e 0)) (fun e => do
      let w := (← get).mem.partNow
      let a := bitsOf e 24 31 * 256
      if bitOf e 1 then
        pure (if decide (2 ≤ lv) && leafOk w e sh && bitsOf e 8 11 == c.val then [(a / 256, (a + 2 ^ sh) / 256)] else [])
      else if decide (lv < 4) && tableOk e ((rest.headD (0, 0, 0)).2.1) then leafRanges c rest a
      else pure [])
    pure rs.flatten

/-- Owner tags of a context lose their valid bits (R171). -/
def SramSt.dropCtx (x : SramSt) (c : Ctx) : SramSt :=
  let clear := fun (m : AMap Nat OwnerTag) =>
    m.map (fun (p : Nat × OwnerTag) => if p.2.ctx = c.val then (p.1, { p.2 with valid := 0 }) else p)
  { x with spadTags := clear x.spadTags, storeTags := clear x.storeTags }

/-- Both phases of a slot are discarded; a rekey of it ends (R476, R477). -/
def discardKey (slot : Nat) : M Unit := do
  modMem (fun m => m.dropKey slot)
  let s ← get
  if (s.mem.rekey.map (·.slot)) = some slot ∨ s.sec.rekeyWait.contains slot then do
    modify (fun s => { s with mem := { s.mem with rekey := none }, sec := { s.sec with rekeyWait := [] } })
    putFlag F.rekeyBusy false
    bump F.rekeyDone
  else pure ()

/-- The dirty lines of a function are written back and its lines leave the coherence cache (R448). -/
def flushCoherence (c : Ctx) : M Unit := do
  let s ← get
  eachM (s.cxl.coh.filter (fun p => p.1.1 == c && p.2.1)) (fun p => emit (.hostWrite c (64 * p.1.2) p.2.2))
  modify (fun s => { s with cxl := { s.cxl with
    coh := s.cxl.coh.filter (fun (p : (Ctx × Nat) × Bool × List Byte) => p.1.1 ≠ c) } })

/-- The cache pages of a context are freed. -/
def freeCachePages (c : Ctx) : M Unit :=
  eachM (List.finRange 8) (fun i =>
    eachM (List.finRange 16) (fun j => do
      if (← getFld (F.poolPages j i)) = 0 then pure ()
      else
        eachM (← poolRecords j i) (fun p =>
          if p.2.granted && p.2.owner == c.val then freePage j i p.1 else pure ())))

/-- The job of a context is destroyed: its cistern is queued for zero-fill (R392, R393). A JOB_CREATE that still waits
has no context left to form the job with. -/
def destroyJob (c : Ctx) : M Unit := do
  match (← get).jobs.find? c with
  | none => pure ()
  | some j => do
    match j.creator with
    | some r => endSys r 2 0x78
    | none => pure ()
    modJob c (fun j => { j with creator := none, aborted := true, dying := true, ops := [], drain := none })
    modMem (fun m => { m with fills := m.fills ++ [⟨.job c, [(j.cistern / 256, (j.cistern + j.cisternBytes) / 256)]⟩] })

/-- Steps 6 and 7 of R500, once the drain is confirmed. -/
def finishTeardown (c : Ctx) : M Unit := do
  let s ← get
  let phase := (s.ctxs.getD c .absent).phase
  if phase = .teardown ∧ !s.ctxDrains c ∧ !s.mem.fills.any (fun f => f.why == .teardown c) then do
    modify (fun s => { s with sram := s.sram.dropCtx c })
    let rs ← (if s.flag (F.rootValid c) then leafRanges c walkLevels (s.fld (F.root c) * 4096) else pure [])
    modMem (fun m => { m with tlb := m.tlb.filter (fun (p : TlbKey × Nat) => p.1.ctx ≠ c.val) })
    discardSlot c.val
    flushCoherence c
    freeCachePages c
    destroyJob c
    discardKey c.val
    modMem (fun m => { m with fills := m.fills ++ [⟨.teardown c, rs⟩] })
  else pure ()

/-- A teardown's zero-fill is complete: the number may be used again, and what waited for it completes (R260, R339). -/
def contextGone (c : Ctx) : M Unit := do
  let x := (← get).ctxs.getD c .absent
  modCtx c (fun y => { CtxSt.absent with gen := y.gen })
  eachM x.destroyer (fun r => endSys r 0 0)
  modify (fun s => { s with sched := { s.sched with
    reclaims := s.sched.reclaims.map (fun r => { r with ctxs := r.ctxs.filter (· ≠ c) }) } })
  let s ← get
  eachM (s.sched.reclaims.filter (fun r => r.ctxs.isEmpty)) (fun r => endSys r.q 0 0)
  modify (fun s => { s with sched := { s.sched with reclaims := s.sched.reclaims.filter (fun r => !r.ctxs.isEmpty) } })

/-- CONTEXT_RESET: a reset for a cause of R499. -/
def execContextReset (c : Ctx) (cause : ResetCause) (s : State) : Host.Outcome State Fault Refusal :=
  run (do
    let s ← get
    guardWait (c != 0 && s.ctxLive c)
    resetContext c cause none) s

/-! ### CTX_CREATE and CTX_DESTROY (R339, R340) -/

/-- A client context number of a body. -/
def bodyCtx (b : List Byte) (o : Nat) : M Ctx := do
  let n := recField b o 2
  match finOf 1025 n with
  | some c => do
    guardCode (c != 0) 2 0x51
    pure c
  | none => throw (.code 2 0x51)

/-- The bytes of one full cluster's image (R340, R358). -/
def imageBytes : Nat := 50987008

/-- Every byte of a save area translates with R and W under the client's slot (R340). -/
def saveAreaOk (c : Ctx) (area clusters : Nat) : M Unit := do
  let bytes := clusters * imageBytes
  eachM (upTo (ceilDiv bytes 65536)) (fun k => do
    match ← attempt (translate c (area + 65536 * k) .rw) with
    | .ok _ => pure ()
    | .error _ => throw (.code 2 0x51))

/-- The context exists: its page at reset values, and new keys (R7, R475). -/
def openContext (c : Ctx) : M Unit := do
  modify (fun s => s.resetPage c)
  modMem (fun m => m.loadKey c.val)
  modCtx c (fun x => { x with phase := .live })

/-- The life-cycle state lets work for an owner begin: CTX_CREATE, JOB_CREATE and SE_SET_JOIN fail in PROVISIONED and
RETURNED (R480). -/
def State.ownerState (s : State) : Bool := s.fld F.lcState != 1 && s.fld F.lcState != 3

/-- CTX_CREATE. It waits for the drain, the teardown and a rekey of its slot; without entropy it waits for a key. -/
def execCtxCreate (q : QIdx) (s : State) : Host.Outcome State Fault Refusal :=
  run (do
    let x ← sysStarted q 1
    sysRun q x (do
      let b := x.body
      let c ← bodyCtx b 2
      let clusters := recField b 6 1
      let area := recField b 8 8
      let s ← get
      let phase := (s.ctxs.getD c .absent).phase
      guardCode (recField b 7 1 == 0 && zeroFrom b 0x10 && decide (clusters ≤ 48 ∧ area % 65536 = 0 ∧ area < 2 ^ 57)) 2 0x51
      guardCode (phase == .absent || phase == .teardown) 2 0x51
      guardCode (s.flag (F.rootValid c)) 2 0x51
      guardCode s.ownerState 2 0xA2
      guardWait (phase == .absent && !s.ctxDrains c && !(match s.mem.rekey with
        | some r => r.slot == c.val
        | none => false) && !s.sec.rekeyWait.contains c.val)
      saveAreaOk c area clusters
      modCtx c (fun y => { CtxSt.absent with
        gen := y.gen, models := recField b 4 2, saveClusters := clusters, saveArea := area })
      if s.flag F.entropyFail then do
        sysRunning q x
        modCtx c (fun y => { y with phase := .creating (s.sysRef q x.idx) 0 })
      else do
        openContext c
        endSys (s.sysRef q x.idx) 0 0)) s

/-- CTX_DESTROY: it resets the context, or joins a reset under way, and completes with the teardown. -/
def execCtxDestroy (q : QIdx) (s : State) : Host.Outcome State Fault Refusal :=
  run (do
    let x ← sysStarted q 2
    sysRun q x (do
      let c ← bodyCtx x.body 2
      let s ← get
      let phase := (s.ctxs.getD c .absent).phase
      guardCode (zeroFrom x.body 4 && (phase == .live || phase == .teardown)) 2 0x51
      sysRunning q x
      modCtx c (fun y => { y with destroyer := y.destroyer ++ [s.sysRef q x.idx] })
      resetContext c .destroy none)) s

/-! ### PARTITION (R355, R361) -/

/-- PARTITION: the grant is recorded; it acts from the next tick. From the tick after a reclaim's post it is refused. -/
def execPartition (q : QIdx) (s : State) : Host.Outcome State Fault Refusal :=
  run (do
    let x ← sysStarted q 3
    sysRun q x (do
      let b := x.body
      let c ← bodyCtx b 2
      let s ← get
      let n := (upTo 4).map (fun d => recField b (4 + d) 1)
      let y := s.ctxs.getD c .absent
      guardCode (s.ctxLive c && recField b 9 1 == 0 && zeroFrom b 0xC && decide (recField b 8 1 ≤ 3)) 2 0x51
      guardCode (!s.reclaiming c) 2 0x53
      guardCode (n.all (fun k => decide (k ≤ s.grantLimit)) && (y.saveClusters == 0 || decide (n.sum ≤ y.saveClusters))) 2 0x51
      putFld (F.partClusters c) ((n.zipIdx.map (fun p => p.1 * 16 ^ p.2)).sum)
      putFld (F.partPriority c) (recField b 8 1)
      putFld (F.partSlice c) (recField b 0xA 2)
      endSys (s.sysRef q x.idx) 0 0)) s

/-! ### RECLAIM (R23, R361, R407–R409) -/

/-- The drain region of a target: queue pair, rkey, base, slot bytes (R408). -/
def drainRegion (b : List Byte) : Option (Nat × Nat × Nat × Nat) :=
  let f := recField b
  if f 0 1 = 1 ∧ f 1 1 = 0 ∧ f 2 2 < 4096 ∧ 65536 ≤ f 0x10 8 ∧ f 0x10 8 % 65536 = 0 ∧ f 0x18 40 = 0 then
    some (f 2 2, f 4 4, f 8 8, f 0x10 8)
  else none

/-- RECLAIM. -/
def execReclaim (q : QIdx) (s : State) : Host.Outcome State Fault Refusal :=
  run (do
    let x ← sysStarted q 4
    sysRun q x (do
      let b := x.body
      let n := recField b 2 2
      let s ← get
      guardCode (decide (1 ≤ n ∧ n ≤ 32) && recField b 0xC 4 == 0 && zeroFrom b (0x10 + 2 * n)) 2 0x51
      let cs ← mapM' (upTo n) (fun k => bodyCtx b (0x10 + 2 * k))
      guardCode (cs.all s.ctxLive) 2 0x51
      let o ← orErr (x.handleAt 8) (.code 2 0x51)
      guardCode (o.kind == 1 && bitOf o.rights 0 && decide (64 ≤ o.size)) 2 0x51
      let rb ← readAs 0x51 (vaRead 0 o.address 64)
      let (qp, rkey, base, slot) ← orErr (drainRegion rb) (.code 2 0x51)
      guardCode ((← get).qpEthernet qp) 2 0x51
      let ms := if recField b 4 4 = 0 then s.fld F.reclaimMs else recField b 4 4
      let step := (s.stepNo + ceilDiv (ms * 1000) (max 1 (s.fld F.tkPeriod))) % 2 ^ 48
      sysRunning q x
      modify (fun s => { s with sched := { s.sched with reclaims := s.sched.reclaims ++
        [{ q := s.sysRef q x.idx, posted := s.time.ticks, deadline := step, qp := qp, rkey := rkey, base := base
           slotBytes := slot, ctxs := cs }] } })
      eachM cs.eraseDups (fun c => do
        putFlag (F.partReclaim c) true
        modCtx c (fun y => { y with reclaimAt := some (match y.reclaimAt with
          | some d => min d step
          | none => step) })
        raiseEvent c 0x07 c.val step))) s

/-- From the tick after the post: PARTITION is refused, no optimizer step starts, and drains are in line (R361, R407,
R409). -/
def tickReclaims : M Unit := do
  let s ← get
  eachM (s.sched.reclaims.filter (fun r => decide (r.posted < s.time.ticks))) (fun r =>
    eachM r.ctxs.zipIdx (fun p => do
      let s ← get
      let c := p.1
      if !s.ctxLive c then pure ()
      else do
        match s.jobs.find? c with
        | none => if s.fld (F.drainState c) = 0 then putFld (F.drainState c) 3 else pure ()
        | some j =>
          if s.fld (F.drainState c) = 0 ∧ j.drain.isNone then do
            modJob c (fun j => { j with noOpt := true, drain := some (p.2, r.qp, r.rkey, r.base, r.slotBytes) })
            putFld (F.drainState c) 1
          else pure ()))

/-- The deadline step of a reclaim: every named context that still exists is reset (R23). -/
def reclaimDeadline : M Unit := do
  let s ← get
  let due := s.sched.reclaims.filter (fun r => decide (r.deadline ≤ s.stepNo) && r.ctxs.any s.ctxLive)
  guardWait (!due.isEmpty)
  eachM (due.flatMap (·.ctxs)) (fun c => resetContext c .reclaim none)

def execReclaimDeadline (s : State) : Host.Outcome State Fault Refusal := run reclaimDeadline s

/-! ### Stages (R343) -/

/-- The next stage of an instance's step starts as a pooled command of context 0; rank i runs on the i-th core of the
list. Stages that are ready to start do so in instance order. Its code region has no end that the spec states. -/
def execStageStart (m : Model) (cores : List CoreId) (s : State) : Host.Outcome State Fault Refusal :=
  run (do
    let s ← get
    let x := s.modelOf m
    let st ← needSome x.plan[x.nextStage]?
    let before ← mapM' ((List.finRange 16).filter (fun k => decide (k.val < m.val))) (fun k => do
      let y := s.modelOf k
      if y.stepOpen && !y.stageRuns then weightsReady k y.nextStage else pure false)
    guardWait (!before.any (fun b => b))
    guardWait (x.stepOpen && !x.stageRuns && !s.quiet && cores.length == st.ranks && cores.eraseDups == cores
      && cores.all (fun n => s.coreReady n && s.serves (clusterOf n)))
    guardWait (← weightsReady m x.nextStage)
    placeStreamed m x.nextStage
    modModel m (fun y => { y with stageRuns := true, runRows := y.rows })
    let gen := s.genOf 0
    eachM cores.zipIdx (fun p =>
      startOnCore p.1 (Core.initial 0 gen 0 0 (some m) p.2 st.ranks (w64 st.args) st.code (2 ^ 57 - st.code) (x.step % 2)))
    let a ← fresh
    trace (some 1) 4 (Config.traceDie a % 4) 0 x.nextStage x.step m.val) s

/-- C after a step of `time` ns: one eighth of the way toward 256 × measured time × mean pace ÷ 64 ÷ plan time (R348,
R527). -/
def ModelSt.corrected (x : ModelSt) (c time : Nat) : Nat :=
  let n := 64 * max 1 x.paces
  min 0xFFFF (roundAway (7 * c * x.planTime * n + 256 * 1024 * planUnit x.rate * time * x.paceSum) (8 * x.planTime * n))

/-- A stage has completed; after the last one the step has ended (R343, R348, R354). -/
def stageEnd (m : Model) : M Unit := do
  dropCores ((← get).coresOf (.stage m))
  let x := (← get).modelOf m
  let i := x.nextStage
  let a ← fresh
  trace (some 1) 5 (Config.traceDie a % 4) 0 i x.step m.val
  consumeLayers m i
  modModel m (fun y => { y with
    nextStage := i + 1, stageRuns := false, donePlan := y.donePlan + y.stageTime i (loadOf y.runRows)
    stepOpen := decide (i + 1 < y.plan.length) })
  if i + 1 < x.plan.length then pure ()
  else do
    let now ← sampleTime
    let c ← getFld (F.mCorr m)
    if x.planTime = 0 then pure ()
    else putFld (F.mCorr m) (x.corrected c (now - x.startTime))
    settleRate m
    fireTaps 2 m.val none x.step

/-! ### CORE_STOP (R77, R78) -/

/-- What a core that waits becomes once its pending counts are zero. -/
def State.stopOf (s : State) (k : Core) : Option CoreWait :=
  if k.wait = .ending then some .stopped
  else if k.wait = .preempting ∨ (k.wait = .running ∧ k.bar.isSome ∧ s.preemptAsked k) then some .preempted
  else none

/-- A core that waited for its pending counts stops. The last one ends its command or its stage. -/
def execCoreStop (n : CoreId) (s : State) : Host.Outcome State Fault Refusal :=
  run (do
    let s ← get
    let k ← needSome (s.cores.find? n)
    let w ← needSome (s.stopOf k)
    guardWait (k.pend.all (· == 0))
    modCore n (fun k => { k with wait := w, bar := none })
    let s ← get
    let ns := s.coresOf k.work
    if ns.all (fun i => match s.cores.find? i with
        | some c => c.wait == .stopped
        | none => true) then
      match k.stage with
      | some m => stageEnd m
      | none => do
        dropCores ns
        modCmd k.ctx k.q k.idx (fun y => { y with phase := .ended, ending := some ⟨0, 0, none⟩ })
    else pure ()
    settleGrants) s

/-- SLICE_END: a slice of which no tick is left has returned to the end of its priority (R356). -/
def execSliceEnd (c : Ctx) (s : State) : Host.Outcome State Fault Refusal :=
  run (do
    let s ← get
    guardWait (s.sliceOver c && decide ((s.ctxs.getD c .absent).lastRan < s.time.ticks))
    modCtx c (fun x => { x with lastRan := s.time.ticks })
    chooseGrants) s

/-! ### Images (R357–R360) -/

/-- The lines of a list of on-core memories that hold a valid word under a tag: key, valid bits and bytes. -/
def SramSt.liveLines (x : SramSt) (ms : List Sram) (c : Ctx) (gen : Nat) : List (Nat × Nat × List Byte) :=
  ms.flatMap (fun m =>
    let lines := m.size / m.lineBytes
    ((x.tagsOf m).filter (fun p => p.1 / lines == m.unit && p.2.ctx == c.val && p.2.gen == gen && p.2.valid != 0)).map
      (fun p => (p.1, p.2.valid, (x.bytesOf m).readList (p.1 * m.lineBytes) m.lineBytes)))

/-- The registers and counters of a core block's last 8 KiB: pc, s0–s31, p0–p7, the CSRs, d0–d15 with extensions and
origins, and the counter set (R358). -/
def Core.tail (k : Core) (cnt : List Nat × Nat × Nat) : List Nat :=
  [k.pc.toNat] ++ (upTo 32).map (fun i => (k.s.getD i 0).toNat) ++ (upTo 8).map (fun i => (k.p.getD i 0).toNat)
    ++ [k.cvtClass, k.satCount] ++ (upTo 16).map (fun i => (k.user.getD i 0).toNat)
    ++ (upTo 16).flatMap (fun i => match k.d.find? i with
        | some d => [d.raw.toNat, (d.ext.map (fun x => x.toNat + 1)).getD 0] ++ (upTo 6).map (fun j =>
            (nthD d.origin j 0 % 2 ^ 32).toNat)
        | none => List.replicate 8 0)
    ++ (upTo 8).map (fun i => nthD cnt.1 i 0) ++ [cnt.2.1, cnt.2.2]

/-- The 80 KiB block of a core: the accumulator tiles, v0–v31, and the rest (R358). -/
def Core.block (k : Core) (cnt : List Nat × Nat × Nat) : List Byte :=
  (upTo 256).flatMap (fun r => leBytes 256 (k.acc.getD r 0).toNat)
    ++ (upTo 32).flatMap (fun r => leBytes 256 (k.v.getD r 0).toNat)
    ++ (upTo 8192).map (Config.imageTail (k.tail cnt))

/-- A core and its counters with the registers that the last 8 KiB of a block hold, where they are not those saved. -/
def Core.withTail (k : Core) (b : List Byte) : Core × List Nat × Nat × Nat :=
  let f := Config.imageField b
  ({ k with
      pc := w64 (f 0)
      s := (upTo 32).foldl (fun m i => if i = 0 then m else m.insert i (w64 (f (1 + i)))) k.s
      p := (upTo 8).foldl (fun m i => if i = 0 then m else m.insert i (BitVec.ofNat 128 (f (33 + i)))) k.p
      cvtClass := f 41 % 2, satCount := f 42 % 2 ^ 64
      user := (upTo 16).foldl (fun m i => m.insert i (w64 (f (43 + i)))) k.user
      d := k.d.map (fun (x : Nat × DReg) => (x.1, { x.2 with
        raw := BitVec.ofNat 1024 (f (59 + 8 * x.1))
        ext := x.2.ext.map (fun _ => BitVec.ofNat 512 (f (60 + 8 * x.1)))
        origin := (upTo 6).map (fun j => signOf 32 (f (61 + 8 * x.1 + j))) })) },
    (upTo 8).map (fun i => f (187 + i)), f 195, f 196)

/-- A core and its counters from the block that the save area holds (R358): as they were saved, where nothing has changed
it. -/
def Core.ofBlock (k : Core) (cnt : List Nat × Nat × Nat) (b : List Byte) : Core × List Nat × Nat × Nat :=
  if b = k.block cnt then (k, cnt)
  else
    let row := fun (o r : Nat) => BitVec.ofNat 2048 (leNat ((b.drop (o + 256 * r)).take 256))
    let k1 := { k with
      acc := (upTo 256).foldl (fun m r => m.insert r (row 0 r)) k.acc
      v := (upTo 32).foldl (fun m r => m.insert r (row 65536 r)) k.v }
    if b.drop 73728 = (upTo 8192).map (Config.imageTail (k.tail cnt)) then (k1, cnt) else k1.withTail (b.drop 73728)

/-- The counters of a core in an image. -/
def Image.cntOf (i : Image) (n : CoreId) : List Nat × Nat × Nat :=
  ((i.cnts.find? (fun p => p.1 == n)).map (·.2)).getD ([], 0, 0)

/-- Bytes of a list of images (R358). -/
def imageSize (is : List Image) : Nat :=
  (is.map (fun i => 81920 * i.cores.length + 1024 * i.spad.length + 2048 * i.store.length)).sum

/-- Bytes of a list of images that lie on a die. -/
def imageOnDie (is : List Image) (d : Die) : Nat :=
  (is.map (fun i => 81920 * (i.cores.filter (fun p => p.1.val / 96 == d.val)).length
    + 1024 * (i.spad.filter (fun l => l.1 / 4096 / 96 == d.val)).length
    + 2048 * (i.store.filter (fun l => l.1 / 8192 / 12 == d.val)).length)).sum

/-- The places of images in the save area: all core blocks, then the lines of the first (R358 states no order). -/
def placeImages : Nat → List Image → List Image
  | _, [] => []
  | o, i :: t => { i with base := o } :: placeImages (o + 81920 * i.cores.length) t

/-- The bytes of the images in the save area. -/
def imageBytesOf (is : List Image) : List Byte :=
  is.flatMap (fun i => i.cores.flatMap (fun p => p.2.1.block (i.cntOf p.1)))
    ++ is.flatMap (fun i => i.spad.flatMap (·.2.2)) ++ is.flatMap (fun i => i.store.flatMap (·.2.2))

/-- A part of the save area; where it cannot be read, what was saved there. -/
def readSaved (c : Ctx) (a : Nat) (saved : List Byte) : M (List Byte) := do
  match ← attempt (vaRead c a saved.length) with
  | .ok b => pure b
  | .error _ => pure saved

/-- The lines of an image as the save area holds them, from an address on. -/
def readLines (c : Ctx) (a : Nat) (ls : List (Nat × Nat × List Byte)) : M (List (Nat × Nat × List Byte)) :=
  mapM' ls.zipIdx (fun p => do
    pure (p.1.1, p.1.2.1, ← readSaved c (a + p.2 * p.1.2.2.length) p.1.2.2))

/-- An image as the save area at `a` holds it (R358). -/
def readImage (c : Ctx) (a : Nat) (i : Image) : M Image := do
  let cs ← mapM' i.cores.zipIdx (fun p => do
    let cnt := i.cntOf p.1.1
    let b ← readSaved c (a + i.base + 81920 * p.2) (p.1.2.1.block cnt)
    pure (p.1.1, p.1.2.2, p.1.2.1.ofBlock cnt b))
  let sp ← readLines c (a + i.lineBase) i.spad
  let st ← readLines c (a + i.lineBase + 1024 * i.spad.length) i.store
  pure { i with
    cores := cs.map (fun x => (x.1, x.2.2.1, x.2.1))
    cnts := cs.map (fun x => (x.1, x.2.2.2))
    spad := sp, store := st }

/-- The image of one command; the first one takes the on-core memories of the clusters held. -/
def makeImage (c : Ctx) (q : QIdx) (idx : W32) (first : Bool) : M Image := do
  let s ← get
  let held := (s.ctxs.getD c .absent).holds
  let ns := s.coresOf (.cmd c q idx)
  let gen := s.genOf c
  let pads := (held.flatMap clusterCores).map (fun n => { store := false, unit := n.val : Sram })
  let stores := held.map (fun k => { store := true, unit := k : Sram })
  pure {
    q := q, idx := idx, held := held, base := 0, lineBase := 0
    cores := ns.filterMap (fun n => (s.cores.find? n).map (fun k => (n, k, s.fld (F.mxWidth n))))
    spad := if first then s.sram.liveLines pads c gen else []
    store := if first then s.sram.liveLines stores c gen else []
    cnts := ns.map (fun n => let x := s.cntOf n; (n, x.cnt, x.startT, x.startS)) }

/-- Commands of a context that have cores. -/
def State.ctxWorks (s : State) (c : Ctx) : List (QIdx × W32) :=
  ((s.cores.filter (fun p => p.2.ctx == c && p.2.stage.isNone)).map (fun p => (p.2.q, p.2.idx))).eraseDups

/-- IMAGE_SAVE: every core of the context has stopped; the image is taken and the cores are free of it. -/
def execImageSave (c : Ctx) (s : State) : Host.Outcome State Fault Refusal :=
  run (do
    let s ← get
    let x := s.ctxs.getD c .absent
    let ks := s.cores.filter (fun p => p.2.ctx == c && p.2.stage.isNone)
    guardWait (x.preempt && !x.saving && !ks.isEmpty && ks.all (fun p => p.2.wait == .preempted || p.2.wait == .stopped))
    let works := s.ctxWorks c
    let made ← mapM' works.zipIdx (fun p => makeImage c p.1.1 p.1.2 (p.2 == 0))
    let lines := (made.map (fun i => 81920 * i.cores.length)).sum
    let imgs := (placeImages 0 made).map (fun i => { i with lineBase := if i.base = 0 then lines else 0 })
    eachM ((List.finRange 4).filter (fun d => 0 < imageOnDie imgs d)) (fun d => beginOwn d (.save c))
    modCtx c (fun y => { y with saving := true, images := imgs })
    modify (fun s => { s with cores := s.cores.filter (fun (p : CoreId × Core) => !(p.2.ctx == c && p.2.stage.isNone)) })) s

/-- IMAGE_SAVE_COMPLETE: the image lies in the save area, and the clusters are free. -/
def execImageSaveComplete (c : Ctx) (s : State) : Host.Outcome State Fault Refusal :=
  run (do
    let s ← get
    let x := s.ctxs.getD c .absent
    guardWait x.saving
    let _ ← attempt (vaWriteAs c x.saveArea (imageBytesOf x.images) .rw)
    modCtx c (fun y => { y with saving := false })
    endOwn (.save c) (imageOnDie x.images)
    trace (some 4) 0x0B 0 c.val 0 1 (imageSize x.images)
    refreshSaved
    settleGrants) s

/-- An image's lines go back under the context's current tag (R169, R358). -/
def SramSt.putLine (x : SramSt) (store : Bool) (c : Ctx) (gen : Nat) (l : Nat × Nat × List Byte) : SramSt :=
  let m : Sram := ⟨store, 0⟩
  let base := l.1 * m.lineBytes
  let words := (upTo (m.lineBytes / 64)).filter (fun w => bitOf l.2.1 w)
  let y := x.setTags m ((x.tagsOf m).insert l.1 ⟨c.val, gen, l.2.1⟩)
  y.setBytes m (words.foldl (fun b w => b.writeList (base + 64 * w) ((l.2.2.drop (64 * w)).take 64)) (y.bytesOf m))

/-- A logical core presents the width that it had at the save (R359). -/
def State.widthsAsSaved (s : State) (i : Image) : Bool := i.cores.all (fun p => s.fld (F.mxWidth p.1) == p.2.2)

/-- IMAGE_RESTORE: the grant runs and the cores are free. A command whose width has changed is cancelled; the lines of
its image go with the images that are left. -/
def execImageRestore (c : Ctx) (s : State) : Host.Outcome State Fault Refusal :=
  run (do
    let s ← get
    let x := s.ctxs.getD c .absent
    let ns := x.images.flatMap (fun i => i.cores.map (·.1))
    guardWait (s.flag (F.partRunning c) && !x.preempt && !x.saving && !x.restoring && !x.images.isEmpty && ns.all s.coreReady)
    eachM ns enterCore
    let s ← get
    let kept := keepImages s.widthsAsSaved x.images
    eachM ((List.finRange 4).filter (fun d => 0 < imageOnDie kept d)) (fun d => beginOwn d (.restore c))
    modCtx c (fun y => { y with images := kept, restoring := !kept.isEmpty })
    eachM (x.images.filter (fun i => !s.widthsAsSaved i)) (fun i =>
      modCmd c i.q i.idx (fun y => if y.ending.isSome then y
        else { y with phase := .ended, ending := some ⟨1, 0x52, none⟩ }))
    refreshSaved) s

/-- IMAGE_RESTORE_COMPLETE: the save area has been read back, and the commands go on where they stopped (R358). -/
def execImageRestoreComplete (c : Ctx) (s : State) : Host.Outcome State Fault Refusal :=
  run (do
    let s ← get
    let x := s.ctxs.getD c .absent
    guardWait x.restoring
    let gen := s.genOf c
    let imgs ← mapM' x.images (readImage c x.saveArea)
    eachM imgs (fun i => do
      modify (fun s =>
        let y := i.spad.foldl (fun z l => SramSt.putLine z false c gen l) s.sram
        let y' := i.store.foldl (fun z l => SramSt.putLine z true c gen l) y
        { s with sram := y' })
      eachM i.cores (fun p => modify (fun s => { s with cores := s.cores.insert p.1 { p.2.1 with
        wait := if p.2.1.wait = .preempted then .running else p.2.1.wait, rcache := [], ibuf := [], gen := gen } }))
      eachM i.cnts (fun p => modify (fun s => { s with obs := { s.obs with
        cores := s.obs.cores.insert p.1 { CntSet.zero with cnt := p.2.1, startT := p.2.2.1, startS := p.2.2.2 } } })))
    modCtx c (fun y => { y with restoring := false, images := [] })
    endOwn (.restore c) (imageOnDie x.images)
    trace (some 4) 0x0B 0 c.val 0 2 (imageSize x.images)
    refreshSaved) s

/-! ### Bounds and budgets (R357, R492) -/

/-- A non-preemptible KERNEL command or a DMA command that passes its bound resets its context; in context 0, which is
not reset, only the command ends. -/
def nonpreemptOverrun (c : Ctx) (q : QIdx) (index : W32) : M Unit := do
  let s ← get
  let x ← needSome (s.cmdOf c q index)
  guardWait (x.started && x.ending.isNone && ((x.kind == 1 && !x.preemptible) || x.kind == 2)
    && decide (x.bound ≤ x.ticks))
  let e : Ending := ⟨0x0B, 0xB6, none⟩
  if c = 0 then endCmd c q index e else resetContext c .overrun (some (q, index, e))

def execNonpreemptOverrun (c : Ctx) (q : QIdx) (index : W32) (s : State) : Host.Outcome State Fault Refusal := run (nonpreemptOverrun c q index) s

/-- A preemptible KERNEL command whose count of ticks passes its budget ends (R492). -/
def budgetExpiry (c : Ctx) (q : QIdx) (index : W32) : M Unit := do
  let s ← get
  let x ← needSome (s.cmdOf c q index)
  let budget := if x.bound = 0 then s.fld F.feBudgetTicks else x.bound
  guardWait (x.started && x.ending.isNone && x.kind == 1 && x.preemptible && decide (budget < x.ticks))
  endCmd c q index ⟨0x0E, 0xB1, none⟩
  bump F.resetsBudget
  settleGrants

def execBudgetExpiry (c : Ctx) (q : QIdx) (index : W32) (s : State) : Host.Outcome State Fault Refusal := run (budgetExpiry c q index) s

end Sys2Proof.Machine
end

