-- ==== Sys2Proof/Machine/Collectives.lean ====
section
/-! DEFINITION. Collectives: jobs, cl.post, the reduction round the ring, the optimizer, digests, aborts and drains
(chapter 15, R98). -/

namespace Sys2Proof.Machine

/-! ### Powers (R401, R402) -/

/-- n-th power of a rational. -/
def powRat (v : Val) (n : Nat) : Val :=
  match v with
  | .nan => .nan
  | .inf s => if n = 0 then Val.one else .inf (s && n % 2 == 1)
  | .fin s a d => .fin (s && n % 2 == 1) (a ^ n) (d ^ n)

/-- a^b for a magnitude a. -/
def powMag (a b : Val) : Val := expNum (Val.mul b (lnNum a))

/-- A value is a whole number; it is odd. -/
def isWhole : Val → Bool
  | .fin _ n d => n % d == 0
  | _ => false
def isOdd : Val → Bool
  | .fin _ n d => n % d == 0 && n / d % 2 == 1
  | _ => false

/-- a^b, up to a relative error far below an ULP (log 6). -/
def powNum (a b : Val) : Val :=
  if a.isNan || b.isNan then .nan
  else if b.isZero then Val.one
  else if a.isZero then
    (if b.isNeg then .inf (a.isNeg && isOdd b) else if a.isNeg && isOdd b then .fin true 0 1 else Val.zero)
  else if a.isNeg then
    (if isWhole b then (if isOdd b then (powMag a.abs b).neg else powMag a.abs b) else .nan)
  else powMag a b

/-- b^t with one rounding, t a count of steps: exact where a tie can be met (R401). -/
def powStep (b : Val) (t : Nat) : Val :=
  fp32 (if t ≤ 64 then powRat b t else powNum b (.fin false t 1))

/-- The FP32 result of a^b in a program, moved by the free offset as far as 2 ULP (R402). -/
def powLane (a b : Nat) : Nat :=
  match ffmt 1, powNum (ofFp32 a) (ofFp32 b) with
  | some fm, .fin s n d =>
    let r := fm.roundMag n d
    let c := (r : Int) + Config.powOffset a b
    let m := if n ≠ 0 ∧ 0 ≤ c ∧ c ≤ fm.top ∧ fm.within 2 c.toNat n d then c.toNat else r
    toFp32 (if fm.top < m then .inf s else
      let v := fm.magnitude m; .fin s v.1 v.2)
  | _, y => toFp32 y

/-! ### Records (R394–R396) -/

namespace ClOp
def field (o : ClOp) (off n : Nat) : Nat := recField o.bytes off n
def op (o : ClOp) : Nat := o.field 0 1
def master (o : ClOp) : Bool := bitOf (o.field 1 1) 0
def init (o : ClOp) : Bool := bitOf (o.field 1 1) 1
def srcType (o : ClOp) : Nat := o.field 2 1 % 16
def dstType (o : ClOp) : Nat := o.field 3 1 % 16
def count (o : ClOp) : Nat := o.field 4 4
def src (o : ClOp) : Nat := o.field 8 8
def dst (o : ClOp) : Nat := o.field 0x10 8
def state (o : ClOp) : Nat := o.field 0x18 8
def opt (o : ClOp) : Nat := o.field 0x20 1
def words (o : ClOp) : Nat := match o.opt with
  | 1 => 1
  | 2 => 2
  | _ => o.field 0x21 1
def root (o : ClOp) : Nat := o.field 0x22 2
def step (o : ClOp) : Nat := o.field 0x24 4
/-- Constant ci as an FP32 encoding. -/
def const (o : ClOp) (i : Nat) : Nat := o.field (0x28 + 4 * i) 4
/-- State words per element, with the master word. -/
def w (o : ClOp) : Nat := o.words + b2n o.master
def srcBytes (o : ClOp) : Nat := ebits o.srcType / 8
def dstBytes (o : ClOp) : Nat := ebits o.dstType / 8
/-- The CRC that the header carries (R398). -/
def crc (o : ClOp) : Nat :=
  crc64 (o.bytes.take 8 ++ (o.bytes.drop 0x20).take 0x28 ++ (if o.op = 1 ∧ o.opt = 3 then o.prog else []))
end ClOp

/-- Members of a job. -/
def JobSt.members (j : JobSt) : Nat := j.table.length

/-- The shard length of R395. -/
def unitOf (E M : Nat) : Nat := ceilDiv E M

/-- First element and length of the shard of rank k. -/
def shardOf (E M k : Nat) : Nat × Nat :=
  let u := unitOf E M
  (k * u, min E ((k + 1) * u) - k * u)

/-- The rank before r in the ring. -/
def JobSt.before (j : JobSt) : Nat := (j.rank + j.members - 1) % j.members
def JobSt.after (j : JobSt) : Nat := (j.rank + 1) % j.members

/-- A program word decodes (R402). -/
def progWordOk (x : Nat) : Bool := decide (x % 256 ≤ 0x0C ∧ x / 2 ^ 24 = 0)

/-- The words of a program up to the one that ends it. -/
def progWords (p : List Byte) : List Nat :=
  ((upTo 32).map (fun i => recField p (4 * i) 4)).takeWhile (fun x => x % 256 != 0)

/-- Every word of a program decodes, the one that ends it included. -/
def progOk (p : List Byte) : Bool :=
  let ws := progWords p
  ws.all progWordOk && (32 ≤ ws.length || progWordOk (recField p (4 * ws.length) 4))

/-- The record's fields and codes are as R394 allows. -/
def clFieldsOk (j : JobSt) (o : ClOp) : Bool :=
  let upd := o.op == 1
  let flags := o.field 1 1
  let zero := fun (off n : Nat) => o.field off n == 0
  decide (1 ≤ o.op ∧ o.op ≤ 4) && !(o.op == 4 && j.kind == 1)
    && (if upd then decide (flags < 4) else flags == 0)
    && decide (o.srcType ≤ 1 ∧ o.field 3 1 ≤ 1 ∧ o.count ≠ 0xFFFFFFFF)
    && (if upd then o.state % 256 == 0 else zero 0x18 8)
    && (if upd then decide (1 ≤ o.opt ∧ o.opt ≤ 3 ∧ 1 ≤ o.step) else zero 0x20 1 && zero 0x24 4 && zero 0x28 32)
    && (if upd && o.opt == 3 then decide (o.field 0x21 1 ≤ 4) else zero 0x21 1 && zero 0x48 8)
    && (if o.op = 3 then decide (o.root < j.members) && (o.root == j.rank || zero 8 8) else zero 0x22 2)
    && zero 0x50 48

/-- A range of the address space of n bytes from a; a range without bytes is none (R4). -/
def clRangeOk (a n : Nat) : Bool := n == 0 || decide (a + n ≤ 2 ^ 57)

/-- The extents of a record (R396). -/
def clExtentOk (j : JobSt) (o : ClOp) : Bool :=
  let E := o.count
  let mine := (shardOf E j.members j.rank).2
  let n := if o.op = 2 then mine else if o.op = 3 ∧ o.root ≠ j.rank then 0 else E
  clRangeOk o.src (n * o.srcBytes) && clRangeOk o.dst (E * o.dstBytes)
    && (!(o.op == 1 && o.opt == 3) || clRangeOk (o.field 0x48 8) 128)
    && (o.op != 1 || mine * 4 * o.w == 0 || decide (o.state + mine * 4 * o.w ≤ j.cisternBytes))

/-- The fault that a collective engine reports (R396). -/
def clErr : Err → Err
  | .translation => .code 3 0x72
  | .protection => .code 4 0x73
  | .integrity => .code 5 0x74
  | e => e

/-- Run an engine's access. -/
def asCl {α : Type} (m : M α) : M α := do
  match ← attempt m with
  | .ok a => pure a
  | .error e => throw (clErr e)

/-- The checks of R396, with the program read; the answer is the operation with its program. -/
def checkCl (c : Ctx) (j : JobSt) (o : ClOp) : M ClOp := do
  guardCode (clFieldsOk j o) 2 0x70
  guardCode (clExtentOk j o) 2 0x71
  if o.op = 1 ∧ o.opt = 3 then do
    let p ← asCl (vaRead c (o.field 0x48 8) 128)
    guardCode (progOk p) 2 0x70
    pure { o with prog := p }
  else pure o

/-! ### Sending (R404, R428) -/

/-- Update a CRC-64 register with bytes. -/
def crcOn (v : Nat) (bs : List Byte) : Nat := crc64Add (v ^^^ ones64) bs ^^^ ones64

/-- Payload bytes sent to the successor, and received from the predecessor. -/
def countSent (c : Ctx) (ch : Fin 64) (bs : List Byte) : M Unit := do
  putFld (F.digScrc c ch) (crcOn (← getFld (F.digScrc c ch)) bs)
  putFld (F.digSbytes c ch) ((← getFld (F.digSbytes c ch)) + bs.length)
def countRecv (c : Ctx) (ch : Fin 64) (bs : List Byte) : M Unit := do
  putFld (F.digRcrc c ch) (crcOn (← getFld (F.digRcrc c ch)) bs)
  putFld (F.digRbytes c ch) ((← getFld (F.digRbytes c ch)) + bs.length)

/-- Send a COLLECTIVE message to the successor: kind, operation number, element offset and data (R428). -/
def sendNext (c : Ctx) (ch kind opNum elem : Nat) (data : List Byte) : M Unit := do
  match (← get).jobs.find? c with
  | none => pure ()
  | some j => do
    let m := nthD j.table j.after (0, 0)
    let _ ← sendRouted 6 m.1 m.2 c.val (leBytes 4 j.job.toNat ++ leBytes 1 ch ++ leBytes 1 kind ++ leBytes 2 0
      ++ leBytes 4 opNum ++ leBytes 4 elem ++ data) none

/-- Send elements to the successor in messages of at most 4,096 bytes; `fuel` messages. -/
def sendElems (c : Ctx) (ch : Fin 64) (kind opNum size : Nat) : Nat → Nat → List Byte → M Unit
  | 0, _, _ => pure ()
  | f + 1, elem, bs =>
    if bs.isEmpty then pure ()
    else do
      let now := bs.take 4096
      sendNext c ch.val kind opNum elem now
      countSent c ch now
      sendElems c ch kind opNum size f (elem + now.length / size) (bs.drop 4096)

/-- Send a run of elements. -/
def sendRun (c : Ctx) (ch : Fin 64) (kind opNum size elem : Nat) (bs : List Byte) : M Unit :=
  sendElems c ch kind opNum size (bs.length / 4096 + 1) elem bs

/-- Bytes in place of n elements that a shard of u elements lacks: the messages carry u elements for every shard (R400), and the
spec states no value for those past the tensor's end. -/
def padBytes (n : Nat) : M (List Byte) := do
  if n = 0 then pure []
  else do
    let a ← fresh
    pure ((upTo n).map (Config.clPad a))

/-! ### Elements -/

/-- Values of n elements of a type at an address. -/
def elemsAt (c : Ctx) (t va n : Nat) : M (List Val) := do
  let b := ebits t / 8
  let bs ← asCl (vaRead c va (n * b))
  pure ((upTo n).map (fun i => decodeNum t (recField bs (b * i) b)))

/-- Bytes of values in a type (R110). -/
def elemBytes (t : Nat) (xs : List Val) : List Byte := xs.flatMap (fun x => leBytes (ebits t / 8) (convert t x).bits)

/-- Values as FP32 bytes. -/
def fp32Bytes (xs : List Val) : List Byte := elemBytes 1 xs

/-- FP32 values of message data. -/
def dataVals (bs : List Byte) : List Val := (upTo (bs.length / 4)).map (fun i => ofFp32 (recField bs (4 * i) 4))

/-- Write delivered values to this member's dst. -/
def writeDst (c : Ctx) (o : ClOp) (elem : Nat) (bs : List Byte) : M Unit :=
  asCl (vaWriteAs c (o.dst + elem * o.dstBytes) bs .w)

/-! ### The optimizer (R401, R402) -/

/-- The slot under which a member's cistern is kept (R393). -/
def cisternSlot (c : Ctx) : Nat := if c = 0 then 1025 else c.val

def cisternRead (c : Ctx) (dpa n : Nat) : M (List Byte) := asCl (readDpa (cisternSlot c) dpa n)

def cisternWrite (c : Ctx) (dpa : Nat) (bs : List Byte) : M Unit := asCl (do
  eachM (pieces dpa bs.length) (fun p => checkWrite (cisternSlot c) (p.1 / 256) (p.2 == 256))
  writePieces ((pieces dpa bs.length).map (fun p => (p.1, cisternSlot c, p.2))) bs)

/-- One word of a program on the registers x0–x15 (FP32 encodings). -/
def progStep (x : List Nat) (w : Nat) : List Nat :=
  let r := fun (lo : Nat) => nthD x (bitsOf w lo 4) 0
  let a := ofFp32 (r 12)
  let b := ofFp32 (r 16)
  let c := ofFp32 (r 20)
  let v : Nat := match w % 256 with
    | 0x01 => toFp32 (Val.add a b)
    | 0x02 => toFp32 (Val.sub a b)
    | 0x03 => toFp32 (Val.mul a b)
    | 0x04 => toFp32 (Val.add (Val.mul a b) c)
    | 0x05 => toFp32 (Val.div a b)
    | 0x06 => Fn.lane .sqrt 1 (r 12) a
    | 0x07 => Fn.lane .rsqrt 1 (r 12) a
    | 0x08 => toFp32 (Val.max a b)
    | 0x09 => toFp32 (Val.min a b)
    | 0x0A => toFp32 a.abs
    | 0x0B => toFp32 a.neg
    | _ => powLane (r 12) (r 16)
  setNth x (bitsOf w 8 4) v

/-- The optimizer step of one element: g, p and the state words before it; p and the state words after it. -/
def optStep (o : ClOp) (g p : Val) (st : List Val) : Val × List Val :=
  let k := fun (i : Nat) => ofFp32 (o.const i)
  let mul := fun (a b : Val) => fp32 (Val.mul a b)
  let add := fun (a b : Val) => fp32 (Val.add a b)
  let sub := fun (a b : Val) => fp32 (Val.sub a b)
  let div := fun (a b : Val) => fp32 (Val.div a b)
  let root := fun (a : Val) => ofFp32 (Fn.lane .sqrt 1 0 a)
  let lr := k 0
  let wd := k 1
  let b1 := k 2
  let b2 := k 3
  let eps := k 4
  match o.opt with
  | 1 =>
    let v := add (mul b1 (nthD st 0 Val.zero)) g
    (sub p (mul lr (add v (mul wd p))), [v])
  | 2 =>
    let m := add (mul b1 (nthD st 0 Val.zero)) (mul (sub Val.one b1) g)
    let v := add (mul b2 (nthD st 1 Val.zero)) (mul (sub Val.one b2) (mul g g))
    let mh := div m (sub Val.one (powStep b1 o.step))
    let vh := div v (sub Val.one (powStep b2 o.step))
    (sub p (mul lr (add (div mh (add (root vh) eps)) (mul wd p))), [m, v])
  | _ =>
    let x0 := [toFp32 g, toFp32 p] ++ (upTo 4).map (fun i => toFp32 (nthD st i Val.zero)) ++ (upTo 8).map o.const
      ++ [toFp32 (.fin false o.step 1), 0]
    let x := (progWords o.prog).foldl progStep x0
    (ofFp32 (nthD x 1 0), (upTo o.words).map (fun i => ofFp32 (nthD x (2 + i) 0)))

/-- The owner's step on element x of its shard, whose sum is complete; the answer is the value delivered. -/
def optElement (c : Ctx) (j : JobSt) (o : ClOp) (x : Nat) (sum : Val) : M Val := do
  let first := (shardOf o.count j.members j.rank).1
  let at' := j.cistern + o.state + (x - first) * 4 * o.w
  let cells := dataVals (← cisternRead c at' (4 * o.w))
  let own ← (if !o.master || o.init then elemsAt c o.dstType (o.dst + x * o.dstBytes) 1 else pure [])
  let st := if o.init then List.replicate o.words Val.zero else cells.take o.words
  let p := if o.master && !o.init then nthD cells o.words Val.zero else nthD own 0 Val.zero
  let g := fp32 (Val.mul (ofFp32 (o.const 5)) sum)
  let (p', st') := optStep o g p st
  cisternWrite c at' (fp32Bytes (st' ++ (if o.master then [p'] else [])))
  pure p'

/-! ### Operations in progress (R395, R397, R399) -/

/-- The operation at the head of a channel. -/
def JobSt.headOp (j : JobSt) (ch : Nat) : Option ClOp := (j.ops.getD ch []).head?

/-- Change the head operation of a channel. -/
def modOp (c : Ctx) (ch : Nat) (f : ClOp → ClOp) : M Unit :=
  modJob c (fun j => { j with ops := j.ops.insert ch (match j.ops.getD ch [] with
    | [] => []
    | o :: t => f o :: t) })

/-- A fault of an operation ends the command that posted it, and the job aborts (R396, R405, R406). -/
def clFault (c : Ctx) (o : ClOp) (e : Err) : M Unit := do
  endCore o.core ⟨e.status, e.coreCode, some (o.core, o.pc)⟩
  abortJob c e.coreCode true

/-- Deliver the owner's values: to its dst and to its successor, with `lack` elements past the tensor's end behind them. -/
def deliverVals (c : Ctx) (ch : Fin 64) (j : JobSt) (o : ClOp) (elem : Nat) (bs : List Byte) (lack : Nat) : M Unit := do
  writeDst c o elem bs
  if 2 ≤ j.members then do
    let pad ← padBytes (lack * o.dstBytes)
    sendRun c ch 4 o.opNum o.dstBytes elem (bs ++ pad)
  else pure ()

/-- Sums of elements of this member's shard are complete (R399, R401). -/
def finishSums (c : Ctx) (ch : Fin 64) (j : JobSt) (o : ClOp) (elem : Nat) (sums : List Val) (lack : Nat) : M Unit := do
  let vs ← (if o.op = 1 then mapM' sums.zipIdx (fun p => optElement c j o (elem + p.2) p.1) else pure sums)
  deliverVals c ch j o elem (elemBytes o.dstType vs) lack
  modOp c ch.val (fun o => { o with ownDone := o.ownDone + sums.length })

/-- The owner may take sums: no reclaim forbids a new optimizer step (R407). -/
def mayOptimize (j : JobSt) (o : ClOp) : Bool := o.op != 1 || !j.noOpt || decide (0 < o.ownDone)

/-- The head operation of a channel starts: its header, and what this member sends first. -/
def startOp (c : Ctx) (ch : Fin 64) : M Unit := do
  match (← get).jobs.find? c with
  | none => pure ()
  | some j =>
    match j.headOp ch.val with
    | none => pure ()
    | some o =>
      if o.headerSent || j.aborted || (← getFld (F.clState c)) != 2 || (← get).unitHeld (.coll j.die) then pure ()
      else if j.members = 1 ∧ !mayOptimize j o then pure ()
      else do
        let r ← attempt (do
          modOp c ch.val (fun o => { o with headerSent := true })
          if 2 ≤ j.members then sendNext c ch.val 2 o.opNum 0 (leBytes 8 o.crc) else pure ()
          let own := shardOf o.count j.members j.rank
          let u := unitOf o.count j.members
          match o.op with
          | 2 => do
            let vs ← elemsAt c o.srcType o.src own.2
            deliverVals c ch j o own.1 (elemBytes o.dstType vs) (u - own.2)
            modOp c ch.val (fun o => { o with ownDone := own.2 })
          | 3 =>
            if o.root = j.rank then do
              let vs ← elemsAt c o.srcType o.src o.count
              deliverVals c ch j o 0 (elemBytes o.dstType vs) 0
            else pure ()
          | _ => do
            let first := shardOf o.count j.members j.before
            let vs ← elemsAt c o.srcType (o.src + first.1 * o.srcBytes) first.2
            if j.members = 1 then finishSums c ch j o first.1 vs 0
            else do
              let pad ← padBytes ((u - first.2) * 4)
              sendRun c ch 3 o.opNum 4 first.1 (fp32Bytes vs ++ pad))
        match r with
        | .ok _ => pure ()
        | .error e => clFault c o e

/-- Elements of partials and of values that a member receives in an operation (R400). -/
def expected (j : JobSt) (o : ClOp) : Nat × Nat :=
  let n := (j.members - 1) * unitOf o.count j.members
  match o.op with
  | 2 => (0, n)
  | 3 => (0, if o.root = j.rank then 0 else o.count)
  | _ => (n, n)

/-- All that an operation does at this member has been done. -/
def opDone (j : JobSt) (o : ClOp) : Bool :=
  let e := expected j o
  o.headerSent && o.partialsIn == e.1 && o.valuesIn == e.2 &&
    (o.op == 3 || o.ownDone == (shardOf o.count j.members j.rank).2)

/-! ### cl.post (R98, R394–R397) -/

/-- Start the operation if it stands at the head of its channel. -/
def queueOp (c : Ctx) (ch : Fin 64) (o : ClOp) : M Unit := do
  modJob c (fun j => { j with
    ops := j.ops.insert ch.val (j.ops.getD ch.val [] ++ [o]), nextOp := j.nextOp.insert ch.val (o.opNum + 1) })
  match (← get).jobs.find? c with
  | some j => refreshEng j.die
  | none => pure ()
  startOp c ch

/-- cl.post. A record that fails its checks ends the command and aborts the job. -/
def execClPost (n : CoreId) (w : BitVec 50) (s : State) : Host.Outcome State Fault Refusal :=
  run (let x := wordOf 0xE 0 w
    issue n x (reservedUnless x [(40, 5), (35, 5)]) (fun k => do
      stallS k [Wd.f40 x, Wd.f35 x]
      stallAcquire k
      let off := (k.getS (Wd.f35 x)).toNat
      onCoreOk (padOf n) off 128 64
      let s ← get
      let j ← orErr (s.jobs.find? k.ctx) (.code 2 0x0C)
      let ch ← orErr (finOf 64 (k.getS (Wd.f40 x)).toNat) (.code 2 0x0C)
      guardCode (decide (ch.val < j.channels)) 2 0x0C
      guardCode (!j.aborted) 0xA 0x77
      guardWait (decide ((j.ops.getD ch.val []).length < 8))
      let b ← sramRead (k.who n) (padOf n) off 128
      let o : ClOp :=
        { core := n, pc := k.pc, q := k.q, idx := k.idx, opNum := j.nextOp.getD ch.val 0, bytes := b, prog := [], headerOk := false
          headerSent := false, partialsIn := 0, valuesIn := 0, silent := 0, ownDone := 0 }
      match ← attempt (checkCl k.ctx j o) with
      | .error e => clFault k.ctx o e
      | .ok o =>
        if o.count = 0 then pure ()
        else do
          takeToken n 4 1
          queueOp k.ctx ch o)) s

/-! ### Jobs (R388–R392) -/

/-- Return a job's registers to their reset values, and start its digests at zero (R411). -/
def clearJobRegs (c : Ctx) : M Unit := modify (fun s => { s with
  regs := s.regs.filter (fun (p : Reg × W64) => match p.1 with
    | .clJob x => x ≠ c
    | .clDigScrc x _ => x ≠ c
    | .clDigSbytes x _ => x ≠ c
    | .clDigRcrc x _ => x ≠ c
    | .clDigRbytes x _ => x ≠ c
    | _ => true) })

/-- The job is gone. -/
def dropJob (c : Ctx) : M Unit := do
  match (← get).jobs.find? c with
  | none => pure ()
  | some j => do
    eachM j.destroyer (fun r => endSys r 0 0)
    modify (fun s => { s with jobs := s.jobs.erase c })
    modify (fun s => s.setReg (.clJob c) 0)
    refreshEng j.die

/-- A FORMING job is not created: its command completes (R391). -/
def failJob (c : Ctx) (status fault : Nat) : M Unit := do
  match (← get).jobs.find? c with
  | none => pure ()
  | some j => do
    match j.creator with
    | some r => endSys r status fault
    | none => pure ()
    dropJob c

/-- A FORMING job whose members have all joined, and whose cistern is zero, is READY. -/
def settleJob (c : Ctx) : M Unit := do
  match (← get).jobs.find? c with
  | none => pure ()
  | some j =>
    if (← getFld (F.clState c)) = 1 ∧ j.filled ∧ j.members ≤ j.joins.length + 1 then do
      putFld (F.clState c) 2
      match j.creator with
      | some r => endSys r 0 0
      | none => pure ()
      modJob c (fun j => { j with creator := none })
      eachM (List.finRange 64) (startOp c)
    else pure ()

/-- The cistern of a job has been zero-filled. -/
def cisternFilled (c : Ctx) : M Unit := do
  match (← get).jobs.find? c with
  | none => pure ()
  | some j =>
    if (← get).mem.fills.any (fun f => f.why == .job c) then pure ()
    else if j.dying then dropJob c
    else do
      modJob c (fun j => { j with filled := true })
      settleJob c

/-- The CRC-64 of a member table. -/
def tableCrc (t : List (Nat × Nat)) : Nat := crc64 (t.flatMap (fun p => leBytes 2 p.1 ++ leBytes 2 p.2))

/-- Two ranges of bytes share one. -/
def overlaps (a n b m : Nat) : Bool := decide (a < b + m ∧ b < a + n)

/-- A join arrives. -/
def joinArrives (c : Ctx) (j : JobSt) (src members channels kind : Nat) (crc : Nat) : M Unit := do
  match (upTo j.members).find? (fun k => (nthD j.table k (0, 0)).1 == src && k != j.rank) with
  | none => pure ()
  | some k =>
    if (← getFld (F.clState c)) ≠ 1 then pure ()
    else if members = j.members ∧ channels = j.channels ∧ kind = j.kind ∧ crc = tableCrc j.table then do
      modJob c (fun j => { j with joins := if j.joins.contains k then j.joins else k :: j.joins })
      settleJob c
    else failJob c 2 0x78

/-- Joins that came before their JOB_CREATE count for it (R391). -/
def earlyJoins (c : Ctx) (job : W32) : M Unit := do
  let s ← get
  set { s with fab := { s.fab with joins := s.fab.joins.filter (fun x => x.job != job) } }
  eachM (s.fab.joins.filter (fun x => x.job == job)) (fun x => do
    match (← get).jobs.find? c with
    | some j => joinArrives c j x.src x.members x.channels x.kind x.crc
    | none => pure ())

/-- JOB_CREATE (R390, R391). Cache pools lie in STACK windows (R213), so no cistern overlaps one. -/
def execJobCreate (q : QIdx) (s : State) : Host.Outcome State Fault Refusal :=
  run (do
    let x ← sysStarted q 0x20
    sysRun q x (do
      let f := recField x.body
      let s ← get
      let c ← orErr (finOf 1025 (f 2 2)) (.code 2 0x78)
      let d ← orErr (finOf 4 (f 8 1)) (.code 2 0x78)
      let M := f 0xC 2
      let r := f 0xE 2
      let base := f 0x18 8
      let bytes := f 0x20 8
      let bad := fun (b : Bool) => guardCode b 2 0x78
      bad (decide (1 ≤ f 9 1 ∧ f 9 1 ≤ 64 ∧ 1 ≤ M ∧ M ≤ 4096 ∧ r < M) && f 0xB 1 == 0 && zeroFrom x.body 0x28
        && f 0x10 8 % 64 == 0 && decide (f 0x10 8 < 2 ^ 57) && base % 65536 == 0 && bytes % 65536 == 0)
      bad (s.ctxLive c && (s.jobs.find? c).isNone)
      bad ((f 0xA 1 == 1 && c != 0) || (f 0xA 1 == 2 && c == 0))
      let tb ← readAs 0x78 (vaRead 0 (f 0x10 8) (4 * M))
      let t := (upTo M).map (fun i => (recField tb (4 * i) 2, recField tb (4 * i + 2) 2))
      bad (t.all (fun p => decide (p.2 < 2 ^ 11 ∧ p.1 ≠ 0xFFFF)) && nthD t r (0, 0) == (s.fld F.deviceId, c.val)
        && (t.map (·.1)).eraseDups.length == M)
      bad (!s.jobs.any (fun p => p.2.job.toNat == f 4 4))
      bad (match windowOf s.mem.partNow base with
        | some w => w.cls == 1 && w.unit == d.val && decide (base + bytes ≤ w.base + w.size)
        | none => false)
      bad (!s.jobs.any (fun p => overlaps base bytes p.2.cistern p.2.cisternBytes))
      guardCode s.ownerState 2 0xA2
      sysRunning q x
      clearJobRegs c
      modify (fun s => { s with
        jobs := s.jobs.insert c
          { job := BitVec.ofNat 32 (f 4 4), die := d, channels := f 9 1, kind := f 0xA 1, rank := r, table := t
            cistern := base, cisternBytes := bytes, creator := some (s.sysRef q x.idx), destroyer := [], waited := 0
            filled := false, joins := [], aborted := false, dying := false, ops := [], nextOp := [], drain := none
            noOpt := s.reclaiming c }
        mem := { s.mem with fills := s.mem.fills ++ [⟨.job c, [(base / 256, (base + bytes) / 256)]⟩] } })
      putFld (F.clJobId c) (f 4 4)
      putFld (F.clRank c) r
      putFld (F.clState c) 1
      putFld (F.clChannels c) (f 9 1)
      putFld (F.clDie c) d.val
      refreshEng d
      eachM (t.zipIdx.filter (fun p => p.2 ≠ r)) (fun p => do
        let _ ← sendRouted 6 p.1.1 p.1.2 c.val (leBytes 4 (f 4 4) ++ leBytes 1 0 ++ leBytes 1 1 ++ leBytes 2 0 ++ leBytes 4 0
          ++ leBytes 4 0 ++ leBytes 2 M ++ leBytes 1 (f 9 1) ++ leBytes 1 (f 0xA 1) ++ leBytes 8 (tableCrc t)) none
        pure ())
      earlyJoins c (BitVec.ofNat 32 (f 4 4)))) s

/-- JOB_DESTROY (R392). -/
def execJobDestroy (q : QIdx) (s : State) : Host.Outcome State Fault Refusal :=
  run (do
    let x ← sysStarted q 0x21
    sysRun q x (do
      let s ← get
      let c ← orErr (finOf 1025 (recField x.body 2 2)) (.code 2 0x78)
      let j ← orErr (s.jobs.find? c) (.code 2 0x78)
      guardCode (zeroFrom x.body 4) 2 0x78
      sysRunning q x
      if j.ops.any (fun p => !p.2.isEmpty) then abortJob c 0x77 true else pure ()
      modJob c (fun j => { j with destroyer := j.destroyer ++ [s.sysRef q x.idx] })
      if j.dying then pure () else destroyJob c)) s

/-- A job without every join after JOIN_TICKS is not created (R391). -/
def joinTimeout (c : Ctx) : M Unit := do
  let s ← get
  let j ← needSome (s.jobs.find? c)
  guardWait (s.fld (F.clState c) == 1 && !j.dying && decide (s.fld F.joinTicks ≤ j.waited ∧ j.joins.length + 1 < j.members))
  failJob c 7 0

def execJoinTimeout (c : Ctx) (s : State) : Host.Outcome State Fault Refusal := run (joinTimeout c) s

/-! ### Messages (R391, R398, R399, R403) -/

/-- The context of this module's member of a job. -/
def State.jobCtx (s : State) (job : W32) : Option Ctx := (List.find? (fun (p : Ctx × JobSt) => p.2.job == job) s.jobs).map (·.1)

/-- Partial sums arrive: this member adds its contribution, and forwards or owns the sum. Elements past the tensor's end pass
as they are. -/
def partialArrives (c : Ctx) (ch : Fin 64) (j : JobSt) (o : ClOp) (elem : Nat) (bs : List Byte) : M Unit := do
  let n := bs.length / 4
  let real := min n (o.count - elem)
  let k := elem / max 1 (unitOf o.count j.members)
  let mine ← elemsAt c o.srcType (o.src + elem * o.srcBytes) real
  let sums := ((dataVals (bs.take (4 * real))).zip mine).map (fun p => fp32 (Val.add p.1 p.2))
  countRecv c ch bs
  modOp c ch.val (fun o => { o with partialsIn := o.partialsIn + n })
  if k = j.rank then finishSums c ch j o elem sums (n - real)
  else sendRun c ch 3 o.opNum 4 elem (fp32Bytes sums ++ bs.drop (4 * real))

/-- Values arrive: they are written, and forwarded unless the successor owns them. -/
def valueArrives (c : Ctx) (ch : Fin 64) (j : JobSt) (o : ClOp) (elem : Nat) (bs : List Byte) : M Unit := do
  let k := if o.op = 3 then o.root else elem / max 1 (unitOf o.count j.members)
  writeDst c o elem (bs.take ((o.count - elem) * o.dstBytes))
  countRecv c ch bs
  modOp c ch.val (fun o => { o with valuesIn := o.valuesIn + bs.length / o.dstBytes })
  if j.after = k then pure () else sendRun c ch 4 o.opNum o.dstBytes elem bs

/-- A received COLLECTIVE message. A join of a job that this module has not created yet is kept. One that belongs to a later operation waits; one from a device that is not the
predecessor does nothing. -/
def execCollective (src : BitVec 16) (job : W32) (ch : Fin 64) (body : CollBody) (opNum elem : W32) (data : List Byte)
    (s : State) : Host.Outcome State Fault Refusal :=
  run (do
    let s ← get
    match body, s.jobCtx job with
    | .join members channels kind crc, none =>
      set { s with fab := { s.fab with joins := s.fab.joins ++ [(⟨job, src.toNat, members, channels, kind, crc.toNat⟩ : EarlyJoin)] } }
    | .join members channels kind crc, some c => do
      let j ← needSome (s.jobs.find? c)
      joinArrives c j src.toNat members channels kind crc.toNat
    | _, none => throw .wait
    | _, some c => do
      let j ← needSome (s.jobs.find? c)
      guardWait (decide (2 ≤ j.members) && (nthD j.table j.before (0, 0)).1 == src.toNat && !j.aborted
        && !s.unitHeld (.coll j.die))
      let o ← needSome (j.headOp ch.val)
      guardWait (o.headerSent && o.opNum == opNum.toNat)
      modOp c ch.val (fun o => { o with silent := 0 })
      let r ← attempt (match body with
        | .header crc =>
          if crc.toNat = o.crc then modOp c ch.val (fun o => { o with headerOk := true }) else throw (.code 0xA 0x75)
        | .partialSum => do
          guardWait (o.headerOk && (elem.toNat / max 1 (unitOf o.count j.members) != j.rank || mayOptimize j o))
          partialArrives c ch j o elem.toNat data
        | _ => do
          guardWait o.headerOk
          valueArrives c ch j o elem.toNat data)
      match r with
      | .ok _ => pure ()
      | .error e => clFault c o e) s

/-- An operation is complete at this member: its CL token returns, and the next one on the channel starts. -/
def execCollectiveComplete (c : Ctx) (ch : Fin 64) (s : State) : Host.Outcome State Fault Refusal :=
  run (do
    let s ← get
    let j ← needSome (s.jobs.find? c)
    let o ← needSome (j.headOp ch.val)
    guardWait (opDone j o)
    modJob c (fun j => { j with ops := j.ops.insert ch.val ((j.ops.getD ch.val []).drop 1) })
    refreshEng j.die
    returnToken o.core 4
    startOp c ch) s

/-- The member still waits for a message of the operation. -/
def opWaits (j : JobSt) (o : ClOp) : Bool := o.headerSent && !opDone j o

/-- A neighbour has been silent for more than STALL_TICKS (R403). -/
def clStall (c : Ctx) (ch : Fin 64) : M Unit := do
  let s ← get
  let j ← needSome (s.jobs.find? c)
  let o ← needSome (j.headOp ch.val)
  guardWait (opWaits j o && decide (s.fld F.stallTicks < o.silent))
  clFault c o (.code 0xA 0x76)

def execClStall (c : Ctx) (ch : Fin 64) (s : State) : Host.Outcome State Fault Refusal := run (clStall c ch) s

/-- An abort from another member (R406). -/
def execAbort (job : W32) (origin : BitVec 16) (code : Byte) (s : State) : Host.Outcome State Fault Refusal :=
  run (do
    let s ← get
    let c ← needSome (s.jobCtx job)
    let j ← needSome (s.jobs.find? c)
    guardWait (decide (origin.toNat < j.members) && s.fld (F.clState c) == 2)
    abortJob c code.toNat false) s

/-- What a tick adds to the waits of jobs (R391, R403). -/
def tickJobs : M Unit := modify (fun s => { s with
  jobs := s.jobs.map (fun (p : Ctx × JobSt) =>
    let j := p.2
    (p.1, { j with
      waited := if s.fld (F.clState p.1) = 1 then j.waited + 1 else j.waited
      ops := j.ops.map (fun (q : Nat × List ClOp) => (q.1, match q.2 with
        | [] => []
        | o :: t => { o with silent := if opWaits j o then o.silent + 1 else o.silent } :: t)) })) })

/-! ### Drains (R24, R407–R409) -/

/-- An optimizer step of the context runs: some of its shard is done and some is not. -/
def JobSt.optRuns (j : JobSt) : Bool :=
  j.ops.any (fun p => (p.2.take 1).any (fun o =>
    o.op == 1 && decide (0 < o.ownDone ∧ o.ownDone < (shardOf o.count j.members j.rank).2)))

/-- Bytes of the cistern that a drain writes. -/
def drainLength (j : JobSt) (slotBytes : Nat) : Nat := min j.cisternBytes (slotBytes - 64)

/-- A drain starts: RDMA WRITE of the cistern from slot offset 64, over a die DMA channel (R409). A queue pair that is not READY
fails it (R411). -/
def execDrainStart (c : Ctx) (s : State) : Host.Outcome State Fault Refusal :=
  run (do
    let s ← get
    let j ← needSome (s.jobs.find? c)
    let (i, qp, rkey, base, slot) ← needSome j.drain
    guardWait (s.fld (F.drainState c) == 1 && !j.optRuns)
    if !s.qpReady qp then putFld (F.drainState c) 5
    else
      match ← attempt (readDpa (cisternSlot c) j.cistern (drainLength j slot)) with
      | .ok b => do
        beginOwn j.die (.drain c)
        putFld (F.drainState c) 2
        sendRoce qp (.write rkey (base + i * slot + 64) b)
      | .error _ => putFld (F.drainState c) 5) s

/-- The header of a finished drain (R409). -/
def drainHeader (j : JobSt) (dev : Nat) (c : Ctx) (n : Nat) : List Byte :=
  leBytes 4 j.job.toNat ++ leBytes 2 j.rank ++ leBytes 2 j.members ++ leBytes 2 dev ++ leBytes 2 c.val ++ leBytes 4 0
    ++ leBytes 8 n ++ leBytes 40 0

/-- Every byte of a drain is acknowledged, and the header is written; or a RoCEv2 error ends it. -/
def execDrainComplete (c : Ctx) (ok : Bool) (s : State) : Host.Outcome State Fault Refusal :=
  run (do
    let s ← get
    let j ← needSome (s.jobs.find? c)
    let (i, qp, rkey, base, slot) ← needSome j.drain
    guardWait (s.fld (F.drainState c) == 2)
    let n := drainLength j slot
    endOwn (.drain c) (fun _ => if ok then n else 0)
    if ok then do
      putFld (F.drainBytes c) n
      sendRoce qp (.write rkey (base + i * slot) (drainHeader j (s.fld F.deviceId) c n))
      putFld (F.drainState c) (if slot - 64 < j.cisternBytes then 4 else 3)
    else do
      let a ← fresh
      putFld (F.drainBytes c) (Config.ackedBytes a % (n + 1))
      putFld (F.drainState c) 5) s

end Sys2Proof.Machine
end

