-- ==== Sys2Proof/Machine/Descriptor.lean ====
section
/-! DEFINITION. Descriptor instructions (R81, R145–R151). -/

namespace Sys2Proof.Machine

/-- The fields of a sharding extension (R145): `n` bytes at an offset. -/
def extField (e : BitVec 512) (o n : Nat) : Nat := bitsOf e.toNat (8 * o) (8 * n)

/-- The check of an extension against a descriptor (R146, R147): the fault code of the first that fails. -/
def extFault (d : DReg) (e : BitVec 512) : Option Nat :=
  let g := fun k => extField e (4 * k) 4
  let fac := fun k => extField e (0x18 + 2 * k) 2
  let idx := fun k => extField e (0x24 + 2 * k) 2
  let split := fun k => bitOf (extField e 0x30 1) k
  let above := (upTo 6).filter (fun k => decide (d.rank ≤ k))
  if d.etype = 0xF then some 0x06
  else if 64 ≤ extField e 0x30 1 ∨ extField e 0x31 15 ≠ 0 ∨
      above.any (fun k => g k != 0 || fac k != 0 || idx k != 0 || split k) then some 0x02
  else if d.dims.all (fun k =>
      if split k then
        let u := ceilDiv (g k) (fac k)
        decide (2 ≤ fac k ∧ idx k < fac k ∧ 1 ≤ d.size k ∧ idx k * u ≤ g k ∧
          d.size k = min u (g k - idx k * u))
      else fac k == 1 && idx k == 0 && d.size k == g k)
      && decide ((d.dims.map fac).prod ≤ 4096) then none
  else some 0x06

/-- A descriptor register with an extension loaded from its bytes (R146). On a failure the register keeps no
extension. -/
def loadExt (n : CoreId) (r : Nat) (d : DReg) (b : List Byte) : M DReg := do
  let e := BitVec.ofNat 512 (leNat b)
  match extFault d e with
  | none => pure { d with ext := some e }
  | some f => do
    modCore n (fun k => k.setD r { d with ext := none })
    throw (.code 2 f)

/-- What the bytes of dsc.ld or dsc.ldx make of a register. -/
def loadedDesc (n : CoreId) (k : Core) (r : Nat) (ext : Bool) (b : List Byte) : M DReg :=
  if ext then loadExt n r (k.getD r) b else resolveDesc k.ctx (BitVec.ofNat 1024 (leNat b))

/-- The address of dsc.ld, dsc.ldx and dsc.st: s(sa) + 8 × imm11 (R81). -/
def dscAddress (k : Core) (x : Nat) : Nat := (k.getS (Wd.sa x) + w64 (8 * Wd.imm11 x)).toNat

/-- dsc.ld and dsc.ldx (R81): from the scratchpad with mod6[0], else from device memory. -/
def dscLoad (n : CoreId) (x : Nat) (ext : Bool) (k : Core) : M Unit := do
  let len := if ext then 64 else 128
  let r := Wd.dx x
  let a := dscAddress k x
  stallS k [Wd.sa x]
  stallD k [r]
  stallAcquire k
  if bitOf (Wd.mod6 x) 0 then do
    onCoreOk (padOf n) a len 64
    let b ← sramRead (k.who n) (padOf n) a len
    let d ← loadedDesc n k r ext b
    modCore n (fun k => k.setD r d)
  else do
    guardCode (a % 32 == 0) 2 0x04
    if inHostAperture a then
      globalLoad n k a len 0 0 (.dRaw r ext)
      match (((← get).cores.find? n).bind (fun c => c.gl.getLast?)) with
      | some ⟨_, _, none, _, _⟩ => do
        match (← get).cxl.cohRead k.ctx (← hostAddress k.ctx a len 1) len false with
        | some b => do
          let d ← loadedDesc n k r ext b
          modCore n (fun k => { k with gl := k.gl.dropLast ++ [⟨.d r d, false, none, k.pc, 0⟩] })
        | none => pure ()
      | _ => pure ()
    else do
      takeToken n 1 1
      countCore n 5 len
      let b ← plainRead n k a len
      let d ← loadedDesc n k r ext b
      pushGl n ⟨.d r d, false, none, k.pc, 0⟩

/-- dsc.ld (R81, R147). -/
def execDscLd (n : CoreId) (w : BitVec 50) (s : State) : Host.Outcome State Fault Refusal :=
  run (let x := wordOf 4 0 w
    issue n x (reservedUnless x [(46, 4), (31, 5), (15, 1), (4, 11)]) (dscLoad n x false)) s

/-- dsc.ldx (R81, R146). -/
def execDscLdx (n : CoreId) (w : BitVec 50) (s : State) : Host.Outcome State Fault Refusal :=
  run (let x := wordOf 4 1 w
    issue n x (reservedUnless x [(46, 4), (31, 5), (15, 1), (4, 11)]) (dscLoad n x true)) s

/-- dsc.st: the 128 bytes, without origin or extension (R81). -/
def execDscSt (n : CoreId) (w : BitVec 50) (s : State) : Host.Outcome State Fault Refusal :=
  run (let x := wordOf 4 2 w
    issue n x (reservedUnless x [(46, 4), (31, 5), (15, 1), (4, 11)]) (fun k => do
      let a := dscAddress k x
      let b := leBytes 128 (k.getD (Wd.dx x)).raw.toNat
      stallS k [Wd.sa x]
      stallD k [Wd.dx x]
      if bitOf (Wd.mod6 x) 0 then do
        onCoreOk (padOf n) a 128 64
        sramWrite (k.who n) (padOf n) a b
      else do
        guardCode (a % 32 == 0) 2 0x04
        if inHostAperture a then throw .translation else pure ()
        globalStore n k a b false 0)) s

/-- dsc.mov (R81). -/
def execDscMov (n : CoreId) (w : BitVec 50) (s : State) : Host.Outcome State Fault Refusal :=
  run (let x := wordOf 4 3 w
    issue n x (reservedUnless x [(46, 4), (42, 4)]) (fun k => do
      stallD k [Wd.dx x, Wd.dy x]
      modCore n (fun c => c.setD (Wd.dx x) (k.getD (Wd.dy x))))) s

/-- A dimension number above 5 is a reserved value (R81). -/
def dimBad (x : Nat) (used : List (Nat × Nat)) : Option Nat :=
  if 5 < bitsOf x 4 3 then some 0x02 else reservedUnless x (used ++ [(4, 3)])

/-- dsc.org (R81). -/
def execDscOrg (n : CoreId) (w : BitVec 50) (s : State) : Host.Outcome State Fault Refusal :=
  run (let x := wordOf 4 4 w
    issue n x (dimBad x [(46, 4), (31, 5)]) (fun k => do
      stallS k [Wd.sa x]
      stallD k [Wd.dx x]
      let d := k.getD (Wd.dx x)
      let v := signOf 32 (k.getS (Wd.sa x)).toNat
      modCore n (fun c => c.setD (Wd.dx x) { d with origin := setNth d.origin (bitsOf x 4 3) v }))) s

/-- dsc.orgadd: modulo 2^32 (R81). -/
def execDscOrgadd (n : CoreId) (w : BitVec 50) (s : State) : Host.Outcome State Fault Refusal :=
  run (let x := wordOf 4 5 w
    issue n x (dimBad x [(46, 4), (31, 5)]) (fun k => do
      stallS k [Wd.sa x]
      stallD k [Wd.dx x]
      let d := k.getD (Wd.dx x)
      let i := bitsOf x 4 3
      let v := signOf 32 (toUnsigned 32 (nthD d.origin i 0 + (k.getS (Wd.sa x)).toNat))
      modCore n (fun c => c.setD (Wd.dx x) { d with origin := setNth d.origin i v }))) s

/-- dsc.size (R81). -/
def execDscSize (n : CoreId) (w : BitVec 50) (s : State) : Host.Outcome State Fault Refusal :=
  run (let x := wordOf 4 6 w
    issue n x (dimBad x [(46, 4), (26, 5)]) (fun k => do
      stallS k [Wd.sb x]
      stallD k [Wd.dx x]
      modCore n (fun c => c.setS (Wd.sb x) (w64 ((k.getD (Wd.dx x)).size (bitsOf x 4 3)))))) s

/-- The register with size[dim] replaced. -/
def DReg.withSize (d : DReg) (dim v : Nat) : DReg :=
  { d with raw := BitVec.ofNat 1024 (putBits d.raw.toNat (8 * (0x10 + 4 * dim)) 32 v) }

/-- dsc.resize: recheck under R147 with the objects that the register holds; a failure keeps the old size
(R151). -/
def execDscResize (n : CoreId) (w : BitVec 50) (s : State) : Host.Outcome State Fault Refusal :=
  run (let x := wordOf 4 7 w
    issue n x (dimBad x [(46, 4), (31, 5)]) (fun k => do
      stallS k [Wd.sa x]
      stallD k [Wd.dx x]
      let d := (k.getD (Wd.dx x)).withSize (bitsOf x 4 3) (k.getS (Wd.sa x)).toNat
      if d.etype = 0xF then pure ()
      else
        match d.staticFault with
        | some f => throw (.code 2 f)
        | none => guardCode d.extentOk 2 0x06
      modCore n (fun c => c.setD (Wd.dx x) d))) s

end Sys2Proof.Machine
end

