-- ==== Sys2Proof/Machine/MemorySystem.lean ====
section
/-! DEFINITION. The memory system's commands: invalidation, rekey, zero-fill, the window sizes, retraining and
self-refresh (R245, R252, R258–R267). -/

namespace Sys2Proof.Machine

/-! ### Invalidation (R252, R269) -/

/-- A cached entry falls under an invalidation: the leaf that covers VA and the entries above it, a context, or all. -/
def invHits (inv : Nat × Nat × Nat) (k : TlbKey) : Bool :=
  match inv.1 with
  | 0 => k.ctx == inv.2.1 &&
      (match walkLevels.find? (fun l => l.1 == k.level) with
       | some l => k.vpn == inv.2.2 / 2 ^ l.2.1
       | none => false)
  | 1 => k.ctx == inv.2.1
  | _ => true

/-- A write of TR_INV_CMD. -/
def writeInvCmd (h : Half) (v : W64) : M Unit := do
  let s ← get
  let x := halfPlace h v
  let kind := bitsOf x 12 2
  let ctx := bitsOf x 0 11
  if h = .hi then pure ()
  else if kind = 3 ∨ 1024 < ctx ∨ s.flag F.invBusy then putFlag F.invReject true
  else do
    modMem (fun m => { m with inv := some (kind, ctx, s.fld F.invVa * 65536) })
    putFlag F.invBusy true

/-- The write names a kind. -/
def invKind (h : Half) (v : W64) (k : Nat) : Bool := bitsOf (halfPlace h v) 12 2 == k

def execTrInvLeaf (h : Half) (v : W64) (s : State) : Host.Outcome State Fault Refusal :=
  run (do
    guardWait (invKind h v 0)
    writeInvCmd h v) s

def execTrInvContext (h : Half) (v : W64) (s : State) : Host.Outcome State Fault Refusal :=
  run (do
    guardWait (invKind h v 1)
    writeInvCmd h v) s

def execTrInvAll (h : Half) (v : W64) (s : State) : Host.Outcome State Fault Refusal :=
  run (do
    guardWait (invKind h v 2)
    writeInvCmd h v) s

/-- No cached copy of the named entries remains. -/
def execInvalidationComplete (s : State) : Host.Outcome State Fault Refusal :=
  run (do
    let inv ← needSome (← get).mem.inv
    modMem (fun m => { m with inv := none, tlb := m.tlb.filter (fun (p : TlbKey × Nat) => !invHits inv p.1) })
    putFlag F.invBusy false) s

/-! ### Rekey (R258, R477, R494) -/

/-- A new key in the slot's other phase, which becomes current. -/
def MemSt.rekeySlot (m : MemSt) (slot : Nat) : MemSt :=
  let k := m.slotKeys slot
  let old := if k.phase then k.key1 else k.key0
  { m with
    keys := m.keys.insert slot
      (if k.phase then ⟨false, some m.nextKey, k.key1⟩ else ⟨true, k.key0, some m.nextKey⟩)
    nextKey := m.nextKey + 1, rekey := some ⟨slot, old⟩ }

/-- A write of TR_REKEY. Without entropy the key waits. -/
def writeRekey (h : Half) (v : W64) : M Unit := do
  let s ← get
  let slot := bitsOf (halfPlace h v) 0 11
  if h = .hi then pure ()
  else if slot = 0 ∨ 1040 < slot ∨ s.flag F.rekeyBusy then putFlag F.rekeyReject true
  else do
    putFlag F.rekeyBusy true
    putFld F.rekeySlot slot
    if s.flag F.entropyFail then modify (fun s => { s with sec := { s.sec with rekeyWait := [slot] } })
    else modMem (fun m => m.rekeySlot slot)

def execTrRekeyWrite (h : Half) (v : W64) (s : State) : Host.Outcome State Fault Refusal :=
  run (writeRekey h v) s

/-- A tag after the sweep of a rekey: one of the slot's old phase is rewritten under the new one. -/
def Tag.swept (t : Tag) (slot : Nat) (old : Option Nat) (phase : Bool) (new : Nat) : Tag :=
  if t.slot = slot ∧ some t.key = old ∧ t.ok then { t with phase := phase, key := new } else t

/-- Every stack has finished its sweep: granules of the old phase are under the new one, and the old key is gone.
Zero-fill comes first. -/
def execRekeyComplete (s : State) : Host.Outcome State Fault Refusal :=
  run (do
    let s ← get
    let r ← needSome s.mem.rekey
    guardWait s.mem.fills.isEmpty
    modMem (fun m =>
      let k := m.slotKeys r.slot
      let new := m.currentKey r.slot
      { m with
        rekey := none
        keys := m.keys.insert r.slot (if k.phase then ⟨true, none, k.key1⟩ else ⟨false, k.key0, none⟩)
        tags := m.tags.map (fun (p : Nat × Tag) => (p.1, p.2.swept r.slot r.oldKey k.phase new))
        dirty := m.dirty.map (fun (p : Nat × Under) =>
          (p.1, { p.2 with tag := p.2.tag.map (fun t => t.swept r.slot r.oldKey k.phase new) })) })
    putFlag F.rekeyBusy false
    bump F.rekeyDone) s

/-! ### Zero-fill (R259, R260, R268) -/

/-- A write of MS_ZERO. -/
def writeMsZero (h : Half) (v : W64) : M Unit := do
  let s ← get
  let x := halfPlace h v
  if h = .lo then modMem (fun m => { m with zeroBase := bitsOf x 0 23 })
  else do
    let base := if h = .full then bitsOf x 0 23 else s.mem.zeroBase
    let count := bitsOf x 32 23
    modMem (fun m => { m with zeroBase := 0 })
    if count = 0 then pure ()
    else if count = 2 ^ 23 - 1 ∨ allocTop < (base + count) * 65536 ∨ s.flag F.zeroBusy then putFlag F.zeroReject true
    else do
      putFlag F.zeroBusy true
      modMem (fun m => { m with fills := m.fills ++ [⟨.msZero, [(base * 256, (base + count) * 256)]⟩] })

def execMsZeroWrite (h : Half) (v : W64) (s : State) : Host.Outcome State Fault Refusal :=
  run (writeMsZero h v) s

/-- A stack of the window of a range is in self-refresh (R267). -/
def State.rangeAsleep (s : State) (r : Nat × Nat) : Bool :=
  match windowOf s.mem.partNow (r.1 * 256) with
  | some w => s.mem.selfRefresh.any (fun j =>
      if w.cls = 0 then true else if w.cls = 1 then j.val / 4 == w.unit else j.val == w.unit)
  | none => false

/-- The oldest queued zero-fill is complete. -/
def execZeroFillComplete (s : State) : Host.Outcome State Fault Refusal :=
  run (do
    let s ← get
    let f ← needSome s.mem.fills.head?
    guardWait (!f.ranges.any s.rangeAsleep)
    modMem (fun m => f.ranges.foldl (fun m r => m.zeroGranules r.1 r.2) { m with fills := m.fills.drop 1 })
    match f.why with
    | .page j i => putFld (F.poolZeroing j i) ((← getFld (F.poolZeroing j i)) - 1)
    | .teardown c => contextGone c
    | .msZero => do
      putFlag F.zeroBusy false
      bump F.zeroDone
    | .msPart => putFlag F.msChanging false
    | .job c => cisternFilled c) s

/-! ### Window sizes (R245, R268) -/

/-- A write of MS_PART: accepted only where the three sizes sum to 31 and no change is pending. -/
def writeMsPart (h : Half) (v : W64) : M Unit := do
  let s ← get
  let x := Reg.written .msPart (s.reg .msPart) h (halfPlace h v)
  let new := (bitsOf x 0 5, bitsOf x 8 5, bitsOf x 16 5)
  if new.1 + new.2.1 + new.2.2 = 31 ∧ !s.flag F.msChanging then do
    set (s.plainWrite .msPart h v)
    if new = s.mem.partNow then pure ()
    else do
      putFlag F.msChanging true
      modMem (fun m => { m with pendPart := some new })
  else pure ()

def execMsPartWrite (h : Half) (v : W64) (s : State) : Host.Outcome State Fault Refusal :=
  run (writeMsPart h v) s

/-- A granule keeps its window and its place under two settings of the window sizes. -/
def samePlace (a b : Nat × Nat × Nat) (g : Nat) : Bool :=
  place a (g * 256) == place b (g * 256) &&
    ((windowOf a (g * 256)).map (fun w => (w.cls, w.unit)) == (windowOf b (g * 256)).map (fun w => (w.cls, w.unit)))

/-- At a tick a pending change of the window sizes takes effect: every granule of a changing range is zero from then
on, and CHANGING stays set until the zero-fill is complete. -/
def tickPart : M Unit := do
  match (← get).mem.pendPart with
  | none => pure ()
  | some new =>
    modMem (fun m =>
      let keep := samePlace m.partNow new
      { m with
        pendPart := none, partNow := new
        bytes := m.bytes.filter (fun p => keep (p.1 / 256))
        tags := m.tags.filter (fun (p : Nat × Tag) => keep p.1)
        dirty := m.dirty.filter (fun (p : Nat × Under) => keep p.1)
        lines := m.lines.filter (fun (p : Nat × Nat) => keep p.1)
        eccBad := m.eccBad.filter keep
        fills := m.fills ++ [⟨.msPart, []⟩] })

/-! ### Training and self-refresh (R264–R267) -/

/-- The spare lane of a lane of a channel (R264). -/
def spareLane (lane : Nat) : Nat := if lane < 32 then 80 else if lane < 64 then 81 else 82

/-- A channel's retraining begins; at most one channel of a stack retrains at a time. -/
def execChannelRetrain (j : Stack) (ch : Fin 32) (lane : Option (Fin 83)) (s : State) : Host.Outcome State Fault Refusal :=
  run (do
    let s ← get
    guardWait (!s.mem.retrain.any (fun r => r.stack == j) && !s.mem.selfRefresh.contains j)
    modMem (fun m => { m with retrain := m.retrain ++ [⟨j, ch, lane, none⟩] })) s

/-- MS_CHANj.SPARED of a channel. -/
def refreshSpared (j : Stack) (ch : Fin 32) : M Unit := do
  let s ← get
  let used := s.mem.lanes.any (fun l => l.1 == j && l.2.1 == ch)
  let x := s.fld (F.chSpared j)
  putFld (F.chSpared j) (putBits x ch.val 1 (b2n used))

/-- A retraining ends: a failing lane takes its spare, or the channel has none left (R266). A RESTORE_FACTORY of the
channel completes (R540). -/
def execChannelRetrainComplete (j : Stack) (ch : Fin 32) (s : State) : Host.Outcome State Fault Refusal :=
  run (do
    let s ← get
    let r ← needSome (s.mem.retrain.find? (fun r => r.stack == j && r.ch == ch))
    modMem (fun m => { m with retrain := m.retrain.filter (· ≠ r) })
    match r.lane with
    | none => pure ()
    | some l =>
      let spare := spareLane l.val
      if l.val < 80 ∧ !s.mem.lanes.contains (j, ch, spare) then do
        modMem (fun m => { m with lanes := m.lanes ++ [(j, ch, spare)] })
        refreshSpared j ch
        raiseRepair 7 true (j.val / 4) j.val ch.val l.val
      else putFld (F.chExhausted j) (putBits (s.fld (F.chExhausted j)) ch.val 1 1)
    match r.factory with
    | some f => do
      toFactory 2 j.val ch.val
      endSys f 0 0
    | none => recalibrate 2 j.val ch.val) s

/-- A stack leaves self-refresh: its die is being unparked, or is not parked. -/
def execSelfRefreshExit (j : Stack) (s : State) : Host.Outcome State Fault Refusal :=
  run (do
    let s ← get
    guardWait (s.mem.selfRefresh.contains j && (!bitOf (s.fld F.pwParked) (j.val / 4)
      || (finOf 4 (j.val / 4)).map PwTrans.unpark == s.pow.trans))
    modMem (fun m => { m with selfRefresh := m.selfRefresh.filter (· ≠ j) })) s

end Sys2Proof.Machine
end

