-- ==== Sys2Proof/Machine/Reports.lean ====
section
/-! DEFINITION. Attestation reports and the configuration digest (R465, R470–R472, R512, R513). -/

namespace Sys2Proof.Machine

/-! ### Digests -/

/-- The repair map as bytes (R512). -/
def repairMap (s : State) : List Byte := leBytes 8 s.rep.map.length ++ s.rep.map.flatMap (leBytes 8)

/-- The configuration record (R513). -/
def configRecord (s : State) : List Byte :=
  leBytes 4 1 ++ leBytes 4 (s.fld F.tkPeriod) ++ leBytes 4 ((s.time.pendPeriod.map (·.1)).getD 0) ++ leBytes 4 0
    ++ leBytes 8 ((s.time.pendPeriod.map (·.2)).getD 0) ++ leBytes 2 (s.fld F.stallTicks) ++ leBytes 6 0
    ++ (upTo 8).flatMap (fun k => leBytes 8 (s.rep.opNow.getD k 0).toNat) ++ leBytes 32 0

/-- The configuration digest in force (R513). -/
def State.configDigest (s : State) : BitVec 128 := BitVec.ofNat 128 (s.reg (.rpCfgDigest 0) + s.reg (.rpCfgDigest 1) * 2 ^ 64)

/-- The digest is computed again: bits [127:0] of SHAKE256 of the record (R513). -/
def State.refreshDigest (s : State) : State :=
  let d := Config.shake256 (natBytes (configRecord s))
  (s.setReg (.rpCfgDigest 0) (bitsOf d 0 64)).setReg (.rpCfgDigest 1) (bitsOf d 64 64)

/-! ### Keys and chains -/

/-- The 1,184 bytes of the transport encapsulation key; zeros once its seed is destroyed (R465). -/
def transportKey (s : State) : List Byte := leBytes 1184 ((s.sec.transportSeed.map Config.kemPublic).getD 0)

/-- The ACTIVE owner record and its index (R464). -/
def State.activeOwner (s : State) : Option (OwnerRec × Nat) := s.sec.owners.zipIdx.find? (fun p => p.1.state == 1)

/-- The chain of the ACTIVE owner. -/
def ownerChain (s : State) : List Byte := (s.activeOwner.map (·.1.chain)).getD []

/-! ### Reports (R470–R472) -/

/-- The digest of the image that runs the platform role, and that of another image that runs another active role. -/
def fwDigests (s : State) : Nat × Nat :=
  let own := (nthD s.pow.roleFw 3 (0, 0)).1
  (own, ((s.pow.roleFw.map (·.1)).find? (fun d => d ≠ own)).getD 0)

/-- Bytes 0x000–0x1FF of a report: purpose 1 DOE, 2 LINK, 3 COMMAND; digest of the bound data. -/
def reportBody (s : State) (purpose now binding : Nat) : List Byte :=
  leBytes 4 1 ++ leBytes 1 (s.fld F.lcState) ++ leBytes 1 purpose ++ leBytes 2 (s.fld F.deviceId)
    ++ leBytes 8 (s.fld F.seSerial) ++ leBytes 8 s.stepNo ++ leBytes 8 now ++ leBytes 4 s.rep.epochNow.toNat
    ++ leBytes 1 ((s.activeOwner.map (·.2)).getD 0xFF) ++ leBytes 11 0 ++ leBytes 16 s.configDigest.toNat
    ++ leBytes 64 (fwDigests s).1 ++ leBytes 64 (fwDigests s).2 ++ leBytes 32 (Config.shake256 (natBytes (repairMap s)))
    ++ leBytes 32 ((s.activeOwner.map (·.1.digest)).getD 0) ++ leBytes 32 (Config.shake256 (natBytes (transportKey s)))
    ++ leBytes 64 binding ++ leBytes 160 0

/-- A signed report of 3,840 bytes over bound data; none where the module signs nothing (R465, R472). -/
def signedReport (purpose : Nat) (bound : List Byte) : M (Option (List Byte)) := do
  let now ← sampleTime
  let r ← fresh
  let s ← get
  match s.sec.identitySeed with
  | none => pure none
  | some key =>
    if s.fld F.lcState = 4 then pure none
    else
      let b := reportBody s purpose now (Config.shake512 (natBytes bound))
      pure (some (b ++ leBytes 3309 (Config.mldsaSign key (Config.shake512 (natBytes b)) r) ++ leBytes 19 0))

/-- What a DOE response and an SE_ATTEST hold: a status of 0, the report, both chains with their lengths, and the
transport key (R471). -/
def reportDelivery (s : State) (report : List Byte) : List Byte :=
  leBytes 4 0 ++ report ++ leBytes 4 s.sec.mfgChain.length ++ s.sec.mfgChain ++ leBytes 4 (ownerChain s).length
    ++ ownerChain s ++ transportKey s

/-! ### CONFIG (R434, R513–R516) -/

/-- Send CONFIG on a port: the digest and epoch in force and the MISMATCH flag. -/
def sendConfig (p : Port) : M Unit := do
  let s ← get
  let x := s.portOf p
  let mis := decide (x.mismatch ≠ 0)
  if s.fld (F.portMode p) = 0 ∧ s.fld (F.portState p) = 4 then do
    modPort p (fun y => { y with flagSent := mis })
    emit (.config p s.configDigest s.rep.epochNow mis)
    transmit p 9 (leBytes 16 s.configDigest.toNat ++ leBytes 4 s.rep.epochNow.toNat ++ leBytes 1 (b2n mis) ++ leBytes 11 0)
  else pure ()

/-- A port has a mismatch for a reason: the event is raised once, and again when the reason changes. -/
def configMismatch (p : Port) (reason : Nat) : M Unit := do
  let s ← get
  let x := s.portOf p
  if x.mismatch = reason then pure ()
  else do
    modPort p (fun y => { y with mismatch := reason })
    putFld F.cfgPorts (putBits (s.fld F.cfgPorts) p.val 1 1)
    bump F.cfgEvents
    systemEvent 0x03 0 (p.val + x.cfgRemote.1 * 16 + reason * 2 ^ 5 + x.cfgRemote.2.1 * 2 ^ 16 + x.cfgRemote.2.2 * 2 ^ 32)
    if x.flagSent then pure () else sendConfig p

/-- A port is consistent: its transition and its mismatch episode end. -/
def configConsistent (p : Port) : M Unit := do
  let s ← get
  modPort p (fun y => { y with transition := none, mismatch := 0 })
  putFld F.cfgPorts (putBits (s.fld F.cfgPorts) p.val 1 0)
  if (s.portOf p).flagSent then sendConfig p else pure ()

/-- Check remote values against the local ones: from a beacon (source 0) or a CONFIG (source 1) with its MISMATCH
flag (R515). -/
def checkConfig (p : Port) (source : Nat) (digest : BitVec 128) (epoch : W32) (mismatch : Bool) : M Unit := do
  let s ← get
  modPort p (fun y => { y with cfgRemote := (source, s.fld (F.peerDevice p), epoch.toNat) })
  let local' := s.rep.epochNow
  if local' = epoch then
    if s.configDigest ≠ digest then configMismatch p 1
    else if mismatch then configMismatch p 4
    else configConsistent p
  else
    match serialNewer 32 local'.toNat epoch.toNat with
    | none => configMismatch p 2
    | some _ => do
      let start := (s.portOf p).transition.getD s.time.ticks
      modPort p (fun y => { y with transition := some start })
      if s.fld F.graceTicks < s.time.ticks - start then configMismatch p 3
      else if mismatch then configMismatch p 4
      else pure ()

/-- A received CONFIG. -/
def execConfig (p : Port) (digest : BitVec 128) (epoch : W32) (mismatch : Bool) (s : State) :
    Host.Outcome State Fault Refusal :=
  runLink (do
    let s ← get
    guardWait (s.fld (F.portMode p) == 0 && s.fld (F.portState p) == 4)
    checkConfig p 1 digest epoch mismatch) s

/-- A transition lasts longer than the grace. -/
def graceExpiry (p : Port) : M Unit := do
  let s ← get
  let t ← needSome (s.portOf p).transition
  guardWait (decide (s.fld F.graceTicks < s.time.ticks - t))
  configMismatch p 3

def execGraceExpiry (p : Port) (s : State) : Host.Outcome State Fault Refusal := runLink (graceExpiry p) s

end Sys2Proof.Machine
end

