-- ==== Sys2Proof/Machine/Firmware.lean ====
section
/-! DEFINITION. The firmware image, its verification, and its arrival from a peer in FETCH (R533, R535). -/

namespace Sys2Proof.Machine

def modPow (f : PowerSt → PowerSt) : M Unit := modify (fun s => { s with pow := f s.pow })

/-! ### The image (R533) -/

/-- The bytes of an image, from its header. -/
def imageLength (b : List Byte) : Nat := 0x800 + recField b 0x10 4 + 3328

/-- The fixed fields of an image's header lie within their ranges. -/
def imageHeaderOk (b : List Byte) : Bool :=
  let code := recField b 0x10 4
  recField b 0 4 == 1 && code % 64 == 0 && decide (65536 ≤ code ∧ code ≤ 8388608) && recField b 0x14 12 == 0

/-- The digest of an image, as R470 names it. -/
def imageDigest (b : List Byte) : Nat := Config.shake512 (natBytes (b.take (imageLength b - 3328)))

/-- The image verifies, its signature apart. -/
def State.imageFields (s : State) (b : List Byte) : Bool :=
  imageHeaderOk b && recField b 0x7C0 64 == 0 && recField b (imageLength b - 19) 19 == 0
    && Config.shake256 (natBytes ((b.drop 0x20).take 1952)) == s.sec.rootDigest

/-- The image verifies; a signature that fails is counted (R487, R533). -/
def imageVerifies (b : List Byte) : M Bool := do
  if !(← get).imageFields b then pure false
  else if signatureOk ((b.drop 0x20).take 1952) (b.take (imageLength b - 3328)) ((b.drop (imageLength b - 3328)).take 3309) then
    pure true
  else do
    bump F.sigFail
    pure false

/-- A verified image ends FETCH (R534, R535). -/
def takeImage (b : List Byte) (peer : Bool) : M Unit := do
  modify (fun s => { s with cxl := { s.cxl with fwHeld := b }, pow := { s.pow with peerFetch := none } })
  putFlag F.bootSource peer
  putFld F.bootStage 3

/-! ### The image from a peer (R535) -/

/-- Mask ROM gives the peer up, and waits for DOE again. -/
def fetchFails : M Unit := do
  modPow (fun x => { x with peerFetch := none })
  modify (fun s => { s with fab := { s.fab with sent := s.fab.sent.filter (fun x => x.eng.isSome || x.shard.isSome || x.type ≠ 2) } })

/-- A READ of the next bytes of the image from window 0 of the peer on a port, as context 0. -/
def fetchRead (p : Port) (held : List Byte) : M Unit := do
  let s ← get
  let id := s.fab.nextId
  let dst := s.fld (F.peerDevice p)
  let len := if held.length < 0x800 then 4096 else min 4096 (imageLength held - held.length)
  let h : MsgHdr :=
    { dst := BitVec.ofNat 16 dst, src := BitVec.ofNat 16 (s.fld F.deviceId), dstCtx := 0, srcCtx := 0, id := id, hops := 1
      step := 0, route := [BitVec.ofNat 32 (p.val + 16 + dst * 65536), 0, 0, 0] }
  let body := accessBody 0 held.length len []
  let m : SentMsg := { id := id.toNat, type := 2, hdr := h, resent := false, eng := none, body := body }
  set { s with fab := { s.fab with nextId := id + 1, sent := s.fab.sent ++ [m] } }
  emit (.msg 2 h body)
  transmit p 2 (hdrBytes h ++ body)

/-- Mask ROM begins to read over a port that is UP, unless it already reads. -/
def fetchStart (p : Port) : M Unit := do
  let s ← get
  if s.pow.peerFetch = some [] ∧ !s.fab.sent.any (fun x => x.eng.isNone && x.shard.isNone && x.type == 2) then fetchRead p [] else pure ()

/-- Bytes of the image arrive: the whole image is verified. -/
def fetchData (p : Port) (data : List Byte) : M Unit := do
  match (← get).pow.peerFetch with
  | none => pure ()
  | some held => do
    let b := held ++ data
    if data.isEmpty ∨ (0x20 ≤ b.length ∧ !imageHeaderOk b) ∨ imageLength b < b.length then fetchFails
    else if b.length = imageLength b then
      (if (← imageVerifies b) then takeImage b true else fetchFails)
    else do
      modPow (fun x => { x with peerFetch := some b })
      fetchRead p b

/-! ### A stopped update (R538) -/

/-- The update stops: its command completes with a status and a fault code. -/
def stopUpdate (status fault : Nat) : M Unit := do
  match (← get).pow.upd with
  | none => pure ()
  | some u => do
    modPow (fun x => { x with upd := none })
    putFld F.updState 3
    putFld F.updFault fault
    endSys u.q status fault

/-- The update has not yet moved role k to its standby: steps 1 and 2 of R537. -/
def State.updating (s : State) (k : Nat) : Bool := s.pow.upd.any (fun u => u.role == k && !u.reload)

end Sys2Proof.Machine
end

