-- ==== Sys2Proof/Machine/Fabric.lean ====
section
/-! DEFINITION. The optical fabric: ports, spillways, link bring-up and keys, flits, routed messages, peer windows, and
the Ethernet mode (R412–R440, R494). -/

namespace Sys2Proof.Machine

/-! ### Ports and spillways (R413–R417) -/

/-- The pair of a port. -/
def pairOf (p : Port) : Fin 8 := ⟨p.val / 2, by omega⟩
/-- The even and the odd port of a pair. -/
def evenPort (k : Fin 8) : Port := ⟨2 * k.val, by omega⟩
def oddPort (k : Fin 8) : Port := ⟨2 * k.val + 1, by omega⟩

/-- A port goes DOWN: its link ends, and its retry buffer is discarded (R417, R424). -/
def portDown (p : Port) : M Unit := do
  modPort p (fun x => { PortSt.down with
    transition := x.transition, mismatch := x.mismatch, cfgRemote := x.cfgRemote })
  putFld (F.portState p) 0
  putFld (F.portWidth p) 0
  putFld (F.portSubUp p) 0
  putFlag (F.portSpareFree p) false
  putFlag (F.keyHold p) false

/-- The port may come up as a Jelucy port. -/
def State.mayTrain (s : State) (p : Port) : Bool :=
  s.flag (F.portEnable p) && s.fld (F.portMode p) == 0 && !s.fab.closed.contains (pairOf p) && !s.pins.perst &&
    (s.fab.moving.all (fun m => m.1 != pairOf p)) && s.fld F.lcState != 4

/-- A DOWN port that may come up begins to train (R418). -/
def beginTraining (p : Port) : M Unit := do
  let s ← get
  if s.mayTrain p && !(s.portOf p).retryAt && decide (s.fld (F.portState p) ≤ 1) then putFld (F.portState p) 2 else pure ()

/-- A spillway is in its new position: the links through it have ended, and where it is open new ones begin. -/
def setSpillway (k : Fin 8) (closed : Bool) : M Unit := do
  portDown (evenPort k)
  portDown (oddPort k)
  modify (fun s => { s with fab := { s.fab with
    closed := if closed then (if s.fab.closed.contains k then s.fab.closed else k :: s.fab.closed)
      else s.fab.closed.filter (· ≠ k)
    moving := s.fab.moving.filter (fun m => m.1 ≠ k) } })
  putFlag (F.portSpill (evenPort k)) closed
  putFlag (F.portSpill (oddPort k)) closed
  beginTraining (evenPort k)
  beginTraining (oddPort k)

/-- Every spillway closes: power loss, PERST#, a thermal trip, a module fault (R416, R518, R530). -/
def closeSpillways : M Unit := eachM (List.finRange 8) (fun k => setSpillway k true)

/-- A cause holds a pair's spillway closed (R416). -/
def State.spillCause (s : State) (k : Fin 8) : Bool :=
  s.pins.perst || !s.pow.powered || s.rep.moduleFault || s.flag F.pwTripped || s.flag (F.portBypass (evenPort k))
    || (!s.flag (F.portEnable (evenPort k)) && !s.flag (F.portEnable (oddPort k)))

/-- Set a pair's spillway in motion where it does not stand as its causes say; engines of a pair that opens calibrate first,
where they have not. -/
def requestSpillway (k : Fin 8) : M Unit := do
  let s ← get
  let want := s.spillCause k
  modify (fun s => { s with fab := { s.fab with moving := s.fab.moving.filter (fun m => m.1 ≠ k) } })
  if want = s.fab.closed.contains k then pure ()
  else do
    modify (fun s => { s with fab := { s.fab with moving := (k, want) :: s.fab.moving } })
    if want then pure ()
    else eachM [evenPort k, oddPort k] (fun p =>
      if s.flag (F.portEnable p) && !s.fab.calibrated.contains p then putFld (F.portState p) 1 else pure ())

/-- An engine calibrates on internal loopback, or fails to (R416, R532). -/
def calibrate (p : Port) (ok : Bool) : M Unit := do
  if ok && !(← get).fab.calibrated.contains p then
    modify (fun s => { s with fab := { s.fab with calibrated := p :: s.fab.calibrated } })
  else pure ()

/-- A pair's spillway stays closed, with its ports DOWN (R532). -/
def stayClosed (k : Fin 8) : M Unit := do
  modify (fun s => { s with fab := { s.fab with moving := s.fab.moving.filter (fun m => m.1 ≠ k) } })
  putFld (F.portState (evenPort k)) 0
  putFld (F.portState (oddPort k)) 0

/-- A spillway closes, or its engines calibrate and it opens. -/
def execSpillwaySwitch (x : SpillSwitch) (s : State) : Host.Outcome State Fault Refusal :=
  runLink (do
    let s ← get
    let k := x.pair
    let m ← needSome (s.fab.moving.find? (fun m => m.1 == k))
    if m.2 ≠ s.spillCause k then requestSpillway k
    else if m.2 then setSpillway k true
    else do
      calibrate (evenPort k) x.evenOk
      calibrate (oddPort k) x.oddOk
      let t ← get
      if t.fab.calibrated.contains (evenPort k) && t.fab.calibrated.contains (oddPort k) then setSpillway k false
      else stayClosed k) s

/-- Which fields of JL_PORTp_CFG keep a new value, ENABLE as it was before the write. -/
def portCfgOk (p : Port) (on : Bool) (lo x : Nat) : Bool :=
  match lo with
  | 1 => !on && bitsOf x 1 2 != 3
  | 3 => p.val % 2 == 0
  | 16 => bitsOf x 16 16 != 0
  | _ => true

/-- A write of JL_PORTn_CFG: MODE only while ENABLE is clear and never 0b11; BYPASS on even ports; no SER_LIMIT of 0. -/
def writePortCfg (p : Port) (h : Half) (v : W64) : M Unit := do
  let s ← get
  let on := s.flag (F.portEnable p)
  set (s.checkedWrite (.jlPortCfg p) h v (portCfgOk p on))
  let t ← get
  if on ∧ !t.flag (F.portEnable p) then portDown p else pure ()
  requestSpillway (pairOf p)
  beginTraining p

def execJlPortCfgWrite (p : Port) (h : Half) (v : W64) (s : State) : Host.Outcome State Fault Refusal :=
  run (writePortCfg p h v) s

/-- Event LINK_DEGRADED (R415). -/
def linkDegraded (p : Port) (width : Nat) (noSpare : Bool) : M Unit :=
  systemEvent 0x05 0 (p.val + width * 16 + b2n noSpare * 2 ^ 8)

/-- A lane has failed (R415): its corrected symbols in the step pass SER_LIMIT, or it has lost signal or lock. -/
def State.laneFails (s : State) (p : Port) : LaneFault → Bool
  | .lost => true
  | .symbols n => decide (s.fld (F.serLimit p) < n)

/-- A lane of a port in use fails. With no spare, one that keeps lock is used further, and reported once. -/
def execLaneFailure (p : Port) (lane : Fin 9) (cause : LaneFault) (s : State) : Host.Outcome State Fault Refusal :=
  runLink (do
    let s ← get
    let x := s.portOf p
    guardWait (s.fld (F.portMode p) == 0 && x.trained && !x.failed.contains lane &&
      (x.lanes.contains lane || x.spare == some lane) && s.laneFails p cause)
    let width := s.fld (F.portWidth p)
    match x.spare with
    | some sp => do
      modPort p (fun y => { y with
        spare := none, failed := lane :: y.failed
        lanes := y.lanes.map (fun l => if l = lane then sp else l) })
      putFlag (F.portSpareFree p) false
      if sp = lane then pure () else raiseRepair 8 true (p.val / 4) p.val (x.lanes.idxOf lane) sp.val
      linkDegraded p width true
    | none =>
      if cause = .lost then do
        let good := x.lanes.filter (· ≠ lane)
        let width := if good.length < 4 then 0 else 4
        if width = 0 then portDown p
        else do
          modPort p (fun y => { y with lanes := good, failed := lane :: y.failed })
          putFld (F.portWidth p) 4
        linkDegraded p width true
      else if x.worn.contains lane then pure ()
      else do
        modPort p (fun y => { y with worn := lane :: y.worn })
        linkDegraded p width true) s

/-! ### Bring-up (R414, R418, R419, R433, R494) -/

/-- Send a LINK message (R418, R427, R433). -/
def sendLink (p : Port) (subtype : Nat) (bs : List Byte) : M Unit := do
  emit (.link p subtype bs)
  transmit p 11 (leBytes 1 subtype ++ bs)

/-- Training of a port begins; or it ends: the good lanes in the order of the logical lanes they serve, the ninth one as
the spare; then HELLO. -/
def execLinkTraining (p : Port) (good : List (Fin 9)) (s : State) : Host.Outcome State Fault Refusal :=
  runLink (do
    let s ← get
    let x := s.portOf p
    guardWait (s.mayTrain p && !x.trained && !x.retryAt && decide (s.fld (F.portState p) ≤ 2))
    let g := good.eraseDups
    let width := if 8 ≤ g.length then 8 else if 4 ≤ g.length then 4 else 0
    if s.fld (F.portState p) ≠ 2 then beginTraining p
    else if width = 0 then portDown p
    else do
      portDown p
      let n ← fresh
      let nonce := leBytes 32 (Config.random n)
      modPort p (fun y => { y with
        lanes := g.take 8, spare := g[8]?, trained := true, helloSent := some nonce })
      putFld (F.portState p) 2
      putFld (F.portWidth p) width
      putFlag (F.portSpareFree p) (g[8]?).isSome
      sendLink p 1 (leBytes 2 (s.fld F.deviceId) ++ leBytes 1 p.val ++ leBytes 1 width ++ nonce)) s

/-- This side's fresh ephemeral key, if the entropy source allows one (R462). -/
def freshKey (p : Port) : M (Option (List Byte)) := do
  if (← getFlag F.entropyFail) then pure none
  else do
    let seed := Config.random (← fresh)
    modPort p (fun x => { x with eseed := some seed })
    pure (some (leBytes 1184 (Config.kemPublic seed)))

/-- Send REPORT: the owner chain, a fresh report over both nonces and the ephemeral key, and that key. -/
def sendReport (p : Port) : M Unit := do
  let x := (← get).portOf p
  match x.helloSent, x.helloPeer with
  | some own, some (_, _, _, peer) =>
    match ← freshKey p with
    | none => pure ()
    | some ek =>
      match ← signedReport 2 (own ++ peer ++ ek) with
      | none => pure ()
      | some r => do
        modPort p (fun x => { x with ownReport := Config.shake512 (natBytes (r.take 512)) })
        sendLink p 2 (ownerChain (← get) ++ r ++ ek)
  | _, _ => pure ()

/-- A HELLO: the peer's identity, and the link's width. -/
def execHello (p : Port) (device : BitVec 16) (peerPort width : BitVec 8) (nonce : List Byte) (s : State) :
    Host.Outcome State Fault Refusal :=
  runLink (do
    let s ← get
    let x := s.portOf p
    guardWait (s.fld (F.portState p) == 2 && x.trained && nonce.length == 32)
    modPort p (fun y => { y with helloPeer := some (device.toNat, peerPort.toNat, width.toNat, nonce) })
    putFld (F.peerDevice p) device.toNat
    putFld (F.peerPort p) peerPort.toNat
    putFld (F.portWidth p) (min (s.fld (F.portWidth p)) width.toNat)
    putFld (F.portState p) 3
    sendReport p) s

/-- Attestation or key agreement fails: DOWN, and no new attempt for 1 s. -/
def attestFails (p : Port) : M Unit := do
  portDown p
  modPort p (fun x => { x with retryAt := true })
  putFlag (F.attestFail p) true

/-- Encapsulate to the peer's key and send ENCAP. -/
def sendEncap (p : Port) : M Unit := do
  let s ← get
  match (s.portOf p).peerKey with
  | none => pure ()
  | some ek =>
    if s.flag F.entropyFail then pure ()
    else do
      let n ← fresh
      let k := leNat ek
      let ct := leBytes 1088 (Config.kemCipher k (Config.random n))
      modPort p (fun x => { x with sealed := some (Config.kemSecret k (Config.random n), ct) })
      sendLink p 3 ct

/-- This side is A: its device × 16 + port is the lower (R419). -/
def State.sideA (s : State) (p : Port) : Bool :=
  decide (s.fld F.deviceId * 16 + p.val < s.fld (F.peerDevice p) * 16 + s.fld (F.peerPort p))

/-- Values of this side and of the peer in the order A, B. -/
def ordered {α : Type} (a : Bool) (own peer : α) : List α := if a then [own, peer] else [peer, own]

/-- The 544 bits of R419, from A's and B's secrets and the transcript. -/
def linkSecret (ssA ssB t : Nat) : Nat :=
  Config.shake544 (natBytes (leBytes 32 ssA ++ leBytes 32 ssB ++ leBytes 64 t))

/-- Once both sides have encapsulated, the keys are derived: the first ones, with the link identifier; or those of the
next generation (R419, R421). -/
def deriveKeys (p : Port) : M Unit := do
  let s ← get
  let x := s.portOf p
  match x.eseed, x.peerKey, x.sealed, x.encapIn with
  | some seed, some pk, some (ss, ct), some ctIn =>
    let a := s.sideA p
    let both := fun (o q : List Byte) => (ordered a o q).flatten
    let up := decide (s.fld (F.portState p) = 4)
    let t := Config.shake512 (natBytes (
      (if up then [] else both (x.helloSent.getD []) ((x.helloPeer.map (·.2.2.2)).getD []))
      ++ both (leBytes 1184 (Config.kemPublic seed)) pk ++ both ct ctIn
      ++ (if up then [] else both (leBytes 64 x.ownReport) (leBytes 64 x.peerReport))))
    let ssIn := Config.kemOpen seed (leNat ctIn)
    let k := match ordered a ss ssIn with
      | [sa, sb] => linkSecret sa sb t
      | _ => 0
    let ab := bitsOf k 0 256
    let ba := bitsOf k 256 256
    let gen := if up then x.keyGen + 1 else 0
    modPort p (fun y => { y with
      keys := AMap.insert (y.keys.filter (fun (q : Nat × Nat × Nat) => decide (gen ≤ q.1 + 1))) gen
        (if a then (ab, ba) else (ba, ab))
      keyGen := gen, rxFrame := if up then y.rxFrame else 0, rekeying := false, eseed := none, peerKey := none, sealed := none, encapIn := none })
    if up then do
      bump (F.linkRekeys p)
      putFlag (F.keyHold p) false
      drainPort p
    else do
      putFld (F.linkId p) (bitsOf k 512 32)
      noteFrame p 0
  | _, _, _, _ => pure ()

/-- A REPORT's parts: the chain, the report of 3,840 bytes, the encapsulation key of 1,184 bytes. -/
def reportParts (bs : List Byte) : List Byte × List Byte × List Byte :=
  let n := bs.length - (3840 + 1184)
  (bs.take n, (bs.drop n).take 3840, bs.drop (n + 3840))

/-- The chain of a REPORT verifies to a root, and its leaf's key verifies the report's signature: the root's digest. -/
def reportRoot (bs : List Byte) : Option Nat :=
  let (chain, r, _) := reportParts bs
  (Config.chainLeaf (natBytes chain)).bind (fun c =>
    if Config.mldsaVerify (natBytes (leBytes 1952 c.2)) (Config.shake512 (natBytes (r.take 512)))
        (natBytes ((r.drop 512).take 3309)) then some c.1 else none)

/-- The peer is accepted: its chain verifies to a fabric root, its report's signature verifies over both nonces and its
key, and its state is DEPLOYED (R418). -/
def State.acceptsReport (s : State) (x : PortSt) (bs : List Byte) : Bool :=
  let (_, r, ek) := reportParts bs
  let own := x.helloSent.getD []
  let peer := (x.helloPeer.map (·.2.2.2)).getD []
  decide (3840 + 1184 ≤ bs.length) &&
    (match reportRoot bs with
     | none => false
     | some root => s.registered 1 root) &&
    recField r 0x120 64 == Config.shake512 (natBytes (peer ++ own ++ ek)) && recField r 5 1 == 2 && recField r 4 1 == 2

/-- A REPORT is judged. Only a DEPLOYED module goes on past ATTESTING (R480). -/
def execReport (p : Port) (bytes : List Byte) (s : State) : Host.Outcome State Fault Refusal :=
  runLink (do
    let s ← get
    let x := s.portOf p
    guardWait (s.fld (F.portState p) == 3 && x.keys.isEmpty && x.peerKey.isNone && s.fld F.lcState == 2)
    if s.acceptsReport x bytes then do
      let (_, r, ek) := reportParts bytes
      modPort p (fun y => { y with peerKey := some ek, peerReport := Config.shake512 (natBytes (r.take 512)) })
      sendEncap p
      deriveKeys p
    else do
      if (reportRoot bytes).isNone then bump F.sigFail else pure ()
      attestFails p) s

/-- An ENCAP arrives, at bring-up or in a rekey. -/
def execEncap (p : Port) (ciphertext : List Byte) (s : State) : Host.Outcome State Fault Refusal :=
  runLink (do
    let s ← get
    let x := s.portOf p
    guardWait (ciphertext.length == 1088 && x.encapIn.isNone &&
      ((s.fld (F.portState p) == 3 && x.keys.isEmpty && s.fld F.lcState == 2)
        || (s.fld (F.portState p) == 4 && x.rekeying)))
    modPort p (fun y => { y with encapIn := some ciphertext })
    deriveKeys p) s

/-- 1 s after a failed attestation the port begins again. -/
def execAttestRetry (p : Port) (s : State) : Host.Outcome State Fault Refusal :=
  runLink (do
    let s ← get
    guardWait ((s.portOf p).retryAt && s.mayTrain p)
    modPort p (fun x => { x with retryAt := false })
    putFld (F.portState p) 2) s

/-- Attestation and key agreement pass their 25 ms. -/
def execKeyAgreementTimeout (p : Port) (s : State) : Host.Outcome State Fault Refusal :=
  runLink (do
    let s ← get
    guardWait (s.fld (F.portState p) == 3 && (s.portOf p).keys.isEmpty && s.fld F.lcState == 2)
    attestFails p) s

/-- The entropy source works again: key agreements that waited for it go on (R462). -/
def resumeKeys : M Unit := eachM (List.finRange 16) (fun p => do
  let s ← get
  let x := s.portOf p
  if s.fld (F.portState p) = 3 ∧ x.keys.isEmpty then do
    if x.eseed.isNone then sendReport p else pure ()
    if x.peerKey.isSome ∧ x.sealed.isNone then do
      sendEncap p
      deriveKeys p
    else pure ()
  else pure ())

/-! ### Link delay (R433) -/

/-- A port enters UP: it advertises 1,024 flits of credit per channel and sends CONFIG. -/
def portUp (p : Port) : M Unit := do
  putFld (F.portState p) 4
  modPort p (fun x => { x with entered := true, stepsToDelay := 1024 })
  eachM (upTo 4) (fun vc => emit (.credit p vc 1024))
  sendConfig p
  fetchStart p

/-- The port measures its delay: after key agreement, and every 1,024 steps (R433). -/
def execLinkDelayMeasure (p : Port) (t1 : BitVec 64) (s : State) : Host.Outcome State Fault Refusal :=
  runLink (do
    let s ← get
    let x := s.portOf p
    guardWait ((s.fld (F.portState p) == 3 && !x.keys.isEmpty) || (s.fld (F.portState p) == 4 && x.stepsToDelay == 0))
    modPort p (fun x => { x with delayReq := some t1.toNat, stepsToDelay := 1024 })
    sendLink p 4 (leBytes 8 t1.toNat)) s

/-- A DELAY_REQ with send time stamp t1 arrives at t2 and is answered at t3. -/
def execDelayReq (p : Port) (t1 t2 t3 : BitVec 64) (s : State) : Host.Outcome State Fault Refusal :=
  runLink (do
    let s ← get
    guardWait (decide (3 ≤ s.fld (F.portState p) ∧ s.fld (F.portState p) ≤ 4) && !(s.portOf p).keys.isEmpty
      && decide (t1.toNat < 2 ^ 64))
    sendLink p 5 (leBytes 8 t2.toNat ++ leBytes 8 t3.toNat)) s

/-- The link delay in ps from the four time stamps in units of 10 ps. -/
def linkDelay (t1 t2 t3 t4 : BitVec 64) : Nat := ((t4 - t1) - (t3 - t2)).toNat * 5

/-- A DELAY_RSP arrives at t4. The first one of a link brings the port UP. -/
def execDelayRsp (p : Port) (t2 t3 t4 : BitVec 64) (s : State) : Host.Outcome State Fault Refusal :=
  runLink (do
    let s ← get
    let t1 ← needSome (s.portOf p).delayReq
    guardWait (decide (3 ≤ s.fld (F.portState p) ∧ s.fld (F.portState p) ≤ 4))
    modPort p (fun x => { x with delayReq := none })
    putFld (F.delayPs p) (linkDelay (BitVec.ofNat 64 t1) t2 t3 t4)
    if s.fld (F.portState p) = 3 then portUp p else pure ()) s

/-! ### Rekeys (R421) -/

/-- The link is UP. -/
def linkUp (p : Port) : M PortSt := do
  let s ← get
  guardWait (s.fld (F.portMode p) == 0 && s.fld (F.portState p) == 4)
  pure (s.portOf p)

/-- Send REKEY with a fresh key. -/
def startRekey (p : Port) : M Unit := do
  match ← freshKey p with
  | none => throw .wait
  | some ek => do
    modPort p (fun x => { x with rekeying := true })
    sendLink p 6 ek

/-- A direction's counter has passed the middle of its generation. -/
def execRekeyThreshold (p : Port) (s : State) : Host.Outcome State Fault Refusal :=
  runLink (do
    let x ← linkUp p
    guardWait (!x.rekeying && decide (x.keyGen * 2 ^ 32 + 2 ^ 31 < max x.txFrame x.rxFrame))
    startRekey p) s

/-- A REKEY arrives: this side sends its own, if it has not, and ENCAP to the peer's new key. -/
def execRekey (p : Port) (key : List Byte) (s : State) : Host.Outcome State Fault Refusal :=
  runLink (do
    let x ← linkUp p
    guardWait (key.length == 1184 && x.peerKey.isNone && !(← getFlag F.entropyFail))
    if x.rekeying then pure () else startRekey p
    modPort p (fun y => { y with peerKey := some key })
    sendEncap p
    deriveKeys p) s

/-- A direction has held for 100 ms. -/
def execKeyHoldTimeout (p : Port) (s : State) : Host.Outcome State Fault Refusal :=
  runLink (do
    guardWait (← getFlag (F.keyHold p))
    portDown p
    beginTraining p) s

/-! ### Flits (R420–R424) -/

/-- Send every flit again from the first one without an acknowledgement. -/
def resend (p : Port) : M Unit := do
  modPort p (fun x => { x with wait := x.retry ++ x.wait, retry := [] })
  bump (F.linkRetry p)
  drainPort p

/-- A flit with sequence number `a` or an older one is acknowledged. -/
def ackedBy (a : Nat) (f : SentFlit) : Bool :=
  match f.seq with
  | some n => decide ((a + 4096 - n) % 4096 < 2048)
  | none => true

/-- The peer has received everything up to a sequence number. -/
def acknowledge (p : Port) (a : Nat) : M Unit := modPort p (fun x => { x with
  retry := x.retry.filter (fun f => !ackedBy a f)
  wait := x.wait.filter (fun f => f.seq.isNone || !ackedBy a f) })

/-- Ask for a resend. -/
def sendNak (p : Port) : M Unit := do
  let x := (← get).portOf p
  if x.nakked then pure ()
  else do
    modPort p (fun x => { x with nakked := true })
    emit (.nak p ((x.rxSeq + 4095) % 4096))

/-- The frame counter of a received flit from its low 32 bits and the receiver's own count (R420). -/
def fullFrame (count lo : Nat) : Nat :=
  let n := count / 2 ^ 32 * 2 ^ 32 + lo
  if n + 2 ^ 31 < count then n + 2 ^ 32 else n

/-- The header of a received flit as it came (R422). -/
def headerOf (f : Flit) : List Byte :=
  flitHeader (flitCtl f.vc f.som f.eom f.epoch f.idle) f.type.toNat f.seq.toNat (f.ack.toNat + b2n f.nak * 2 ^ 15)
    (f.credit.toNat + f.creditVc.val * 2 ^ 12) f.frame.toNat f.length

/-- The tag of a received flit checks (R420, R421): an all-zero one before the keys; else that of its bytes under the key
of its generation, which EPOCH names too. -/
def State.tagOk (s : State) (p : Port) (f : Flit) : Bool :=
  let x := s.portOf p
  let frame := fullFrame x.rxFrame f.frame.toNat
  match AMap.find? x.keys (frameGen frame) with
  | none => x.keys.isEmpty && f.tag == 0
  | some k => f.epoch == frameEpoch frame &&
      f.tag == BitVec.ofNat 128 (Config.gcmTag k.2 (s.flitNonce p frame) (natBytes (headerOf f)) (natBytes f.payload))

/-- The link of a port carries flits: its lanes are trained (R418). -/
def linkCarries (p : Port) : M PortSt := do
  let s ← get
  guardWait (s.fld (F.portMode p) == 0 && decide (2 ≤ s.fld (F.portState p) ∧ s.fld (F.portState p) ≤ 4)
    && ((s.portOf p).trained || s.fld (F.portState p) == 4))
  pure (s.portOf p)

/-- A flit whose tag checks has arrived: frame counter, credit and acknowledgement. -/
def takeHeader (p : Port) (f : Flit) : M Unit := do
  modPort p (fun y => { y with
    rxFrame := if y.keys.isEmpty then y.rxFrame else fullFrame y.rxFrame f.frame.toNat + 1
    credits := setNth y.credits f.creditVc.val (nthD y.credits f.creditVc.val 0 + f.credit.toNat) })
  let x := (← get).portOf p
  if x.rxFrame = x.frameEnd then putFlag (F.keyHold p) true else pure ()
  acknowledge p f.ack.toNat
  if f.nak then resend p else drainPort p

/-- A received flit: FEC, tag, sequence number, acknowledgement and credit. Before the keys only LINK is accepted (R418). -/
def execFlit (p : Port) (f : Flit) (s : State) : Host.Outcome State Fault Refusal :=
  runLink (do
    let s ← get
    let x ← linkCarries p
    bumpBy (F.fecCorrected p) f.corrected
    if !f.good then do
      bump (F.fecUncorr p)
      sendNak p
    else if !s.tagOk p f then do
      bump (F.linkTagFail p)
      modPort p (fun y => { y with tagFails := y.tagFails + 1 })
      if 16 < x.tagFails + 1 then portDown p else sendNak p
    else if x.keys.isEmpty ∧ f.idle = false ∧ f.type ≠ 11 then pure ()
    else do
      takeHeader p f
      if f.idle then pure ()
      else if f.vc = 0 ∧ f.type.toNat = 7 then emit (.credit p 0 1)
      else
        let d := (f.seq.toNat + 4096 - x.rxSeq) % 4096
        if d = 0 then do
          modPort p (fun y => { y with rxSeq := (x.rxSeq + 1) % 4096, nakked := false })
          emit (.credit p f.vc.val 1)
        else if d < 2048 then sendNak p
        else pure ()) s

/-- A NAK arrives, with the last sequence number that the peer has received in order. -/
def execNak (p : Port) (seq : BitVec 12) (s : State) : Host.Outcome State Fault Refusal :=
  runLink (do
    let _ ← linkCarries p
    acknowledge p seq.toNat
    resend p) s

/-- 2 µs without an acknowledgement. -/
def execRetryTimeout (p : Port) (s : State) : Host.Outcome State Fault Refusal :=
  runLink (do
    let x ← linkCarries p
    guardWait (!x.retry.isEmpty)
    resend p) s

/-! ### Routed messages at their destination (R428–R432) -/

/-- A routed message for this module arrives: over a port that is UP, or from this module itself. -/
def arrives (p : Port) (m : MsgHdr) : M Unit := do
  let s ← get
  guardWait (m.dst.toNat == s.fld F.deviceId &&
    (m.src.toNat == s.fld F.deviceId || (s.fld (F.portMode p) == 0 && s.fld (F.portState p) == 4)))

/-- Write the JL_RECV record of a message. -/
def traceArrival (type : Nat) (p : Port) (m : MsgHdr) (again : Bool) : M Unit := do
  if m.src.toNat = (← getFld F.deviceId) then pure ()
  else traceMsg 8 type p m.id.toNat m.src.toNat m.dstCtx.toNat m.srcCtx.toNat again

/-- The body of a READ_RSP or ACK (R428). -/
def replyBody (id status : Nat) (data : List Byte) : List Byte :=
  leBytes 4 id ++ leBytes 1 status ++ leBytes 3 0 ++ data

/-- Answer a message. -/
def sendReply (m : MsgHdr) (type status : Nat) (data : List Byte) : M Unit := do
  let _ ← sendRouted type m.src.toNat m.srcCtx.toNat m.dstCtx.toNat (replyBody m.id.toNat status data) none
  pure ()

/-- A VC 1 message is applied at most once: a duplicate gets the first reply again. `apply` answers the reply's status
and data; type 0 needs no reply (R429). -/
def onceOnly (p : Port) (m : MsgHdr) (type reply : Nat) (apply : M (Nat × List Byte)) : M Unit := do
  arrives p m
  let s ← get
  let x := s.fab.peers.getD m.src.toNat ⟨[]⟩
  let old := x.seen.find? (fun e => e.1 == m.id.toNat)
  traceArrival type p m old.isSome
  match old with
  | some e => if e.2.1 = 0 then pure () else sendReply m e.2.1 e.2.2.1 e.2.2.2
  | none => do
    let (status, data) ← apply
    let t ← get
    let kept := (t.fab.peers.getD m.src.toNat ⟨[]⟩).seen
    let now : PeerIn := { seen := ((m.id.toNat, reply, status, data) :: kept).take 4096 }
    set { t with fab := { t.fab with peers := t.fab.peers.insert m.src.toNat now } }
    if reply = 0 then pure () else sendReply m reply status data

/-- A window table entry that is not rejected: VALID, its reserved fields zero, its base and size as the table states
them (R3, R4, R431). -/
def windowOk (b : List Byte) : Bool :=
  bitOf (recField b 0 1) 0 && decide (recField b 0 1 < 8) && recField b 1 1 == 0 && decide (recField b 4 2 < 2 ^ 11)
    && recField b 0x18 8 == 0 && recField b 8 8 % 32 == 0 && recField b 0x10 8 % 32 == 0
    && decide (32 ≤ recField b 0x10 8 ∧ recField b 0x10 8 ≤ 2 ^ 57)

/-- The entry of a window: owner and base; or the status of the reply (R431). An entry that is rejected answers as no
window (log 97). -/
def findWindow (m : MsgHdr) (window offset len : Nat) (write : Bool) : M (Except Nat (Ctx × Nat)) := do
  let s ← get
  if s.fld F.wtCount ≤ window then pure (.error 1)
  else
    match ← attempt (vaRead 0 (bitsOf (s.reg .jlWtbase) 12 45 * 4096 + 32 * window) 32) with
    | .error _ => do
      let n ← fresh
      pure (.error (Config.tableReply n % 5 + 1))
    | .ok b =>
      let flags := recField b 0 1
      match finOf 1025 (recField b 6 2) with
      | none => pure (.error 1)
      | some owner =>
        if !windowOk b || !s.ctxLive owner then pure (.error 1)
        else if m.src.toNat ≠ recField b 2 2 ∨ m.srcCtx.toNat ≠ recField b 4 2 ∨ !bitOf flags (if write then 2 else 1) then
          pure (.error 2)
        else if recField b 0x10 8 < offset + len then pure (.error 3)
        else pure (.ok (owner, recField b 8 8))

/-- The reply status of an access that faults under the owner's translation (R430, R431). -/
def replyStatus : Err → Nat
  | .protection => 2
  | .integrity => 5
  | _ => 4

/-- A WRITE arrives. -/
def execWrite (p : Port) (m : MsgHdr) (window : W32) (offset : W64) (data : List Byte) (s : State) :
    Host.Outcome State Fault Refusal :=
  runLink (do
    guardWait (decide (1 ≤ data.length ∧ data.length ≤ 4096))
    onceOnly p m 1 5 (do
      match ← findWindow m window.toNat offset.toNat data.length true with
      | .error st => pure (st, [])
      | .ok (owner, base) =>
        match ← attempt (vaWrite owner (base + offset.toNat) data) with
        | .ok _ => pure (0, [])
        | .error e => pure (replyStatus e, []))) s

/-- A READ arrives. -/
def execRead (p : Port) (m : MsgHdr) (window : W32) (offset : W64) (length : Nat) (s : State) :
    Host.Outcome State Fault Refusal :=
  runLink (do
    guardWait (decide (1 ≤ length ∧ length ≤ 4096))
    onceOnly p m 2 3 (do
      match ← findWindow m window.toNat offset.toNat length false with
      | .error st => pure (st, [])
      | .ok (owner, base) =>
        match ← attempt (vaRead owner (base + offset.toNat) length) with
        | .ok b => pure (0, b)
        | .error e => pure (replyStatus e, []))) s

/-- A SIGNAL arrives: applied, or dropped, and acknowledged OK (R332, R429). -/
def execSignal (p : Port) (m : MsgHdr) (fence op flags : Byte) (value : W64) (s : State) :
    Host.Outcome State Fault Refusal :=
  runLink (onceOnly p m 4 5 (do
    match finOf 1025 m.dstCtx.toNat with
    | none => bump F.feRemoteReject
    | some c =>
      if (op.toNat ≠ 1 ∧ op.toNat ≠ 2) ∨ 2 ≤ flags.toNat then bump F.feRemoteReject
      else remoteSignal m.src.toNat m.srcCtx.toNat c (fence.toFin) op.toNat value.toNat (flags.toNat == 1)
    pure (0, []))) s

/-- A TRACE arrives: a MARKER record with REMOTE set (R554). -/
def execTrace (p : Port) (m : MsgHdr) (marker : W64) (s : State) : Host.Outcome State Fault Refusal :=
  runLink (onceOnly p m 10 0 (do
    trace (some 3) 9 (p.val / 4) 0 0 marker.toNat (m.src.toNat + 2 ^ 16)
    pure (0, []))) s

/-- The fault of a reply status; 6 stands for an undelivered message (R430). -/
def replyFault (status : Nat) : Err :=
  if status ≤ 3 then .code 4 0x80 else if status = 4 then .code 3 0x81 else if status = 5 then .code 5 0x82
  else .code 3 0x83

/-- A message that waits for its reply. -/
def State.sentMsg (s : State) (id : Nat) : Option SentMsg := s.fab.sent.find? (fun x => x.id == id)

/-- A message no longer waits for its reply. -/
def dropSent (id : Nat) : M Unit := modify (fun s => { s with fab := { s.fab with
  sent := s.fab.sent.filter (fun x => x.id ≠ id) } })

/-- A reply arrives for a message of the given types. -/
def takeReply (p : Port) (m : MsgHdr) (type : Nat) (req : W32) (types : List Nat) : M (Option SentMsg) := do
  arrives p m
  traceArrival type p m false
  match (← get).sentMsg req.toNat with
  | some x =>
    if x.hdr.dst = m.src ∧ types.contains x.type then do
      dropSent x.id
      pure (some x)
    else pure none
  | none => pure none

/-- A READ_RSP arrives: its data, or the fault of its status, for the DMA request that asked, or for mask ROM. -/
def execReadRsp (p : Port) (m : MsgHdr) (req : W32) (status : Byte) (data : List Byte) (s : State) :
    Host.Outcome State Fault Refusal :=
  runLink (do
    guardWait (decide (status.toNat ≤ 5))
    match ← takeReply p m 3 req [2] with
    | none => pure ()
    | some x =>
      match x.eng with
      | none => match x.shard with
        | some k => shardBytes k (if status.toNat = 0 then some data else none)
        | none => if status.toNat = 0 then fetchData p data else fetchFails
      | some (e, ch, order, off) =>
        if status.toNat = 0 then dataIn e ch order off (2 * x.id + 1) data
        else requestFailed e ch order (2 * x.id + 1) (replyFault status.toNat)) s

/-- An ACK arrives for a WRITE or a SIGNAL. -/
def execAck (p : Port) (m : MsgHdr) (req : W32) (status : Byte) (s : State) : Host.Outcome State Fault Refusal :=
  runLink (do
    guardWait (decide (status.toNat ≤ 5))
    match ← takeReply p m 5 req [1, 4] with
    | none => pure ()
    | some x =>
      match x.eng with
      | none => pure ()
      | some (e, ch, order, _) =>
        if status.toNat = 0 then writeDone e ch order (2 * x.id + 1)
        else requestFailed e ch order (2 * x.id + 1) (replyFault status.toNat)) s

/-- A message is undelivered (R429, R430, R332). -/
def undelivered (x : SentMsg) : M Unit := do
  bump F.e2eFail
  dropSent x.id
  if x.type = 4 then bump F.feSignalLost else pure ()
  match x.eng with
  | some (e, ch, order, _) => requestFailed e ch order (2 * x.id + 1) (replyFault 6)
  | none => match x.shard with
    | some k => shardBytes k none
    | none => if x.type = 2 then fetchFails else pure ()

/-- No reply within E2E_US: the route is read again and the message sent once more; the second time, or without a route,
it is undelivered. A signal without a route takes the next path of R454. -/
def execE2eTimeout (id : W32) (s : State) : Host.Outcome State Fault Refusal :=
  runLink (do
    let x ← needSome ((← get).sentMsg id.toNat)
    if x.resent then undelivered x
    else
      match ← routeTo x.hdr.dst.toNat with
      | some r => do
        let h := { x.hdr with route := r }
        bump F.e2eResend
        modify (fun s => { s with fab := { s.fab with
          sent := s.fab.sent.map (fun y => if y.id = x.id then { y with resent := true, hdr := h } else y) } })
        launch x.type h x.body true
      | none =>
        if x.type = 4 then do
          dropSent x.id
          sendSwitch x.hdr.srcCtx.toNat x.hdr.dst.toNat x.hdr.dstCtx.toNat (recField x.body 0 1) (recField x.body 1 1)
            (recField x.body 2 1) (recField x.body 8 8)
        else undelivered x) s

/-! ### Forwarding (R425, R426) -/

/-- A type of R427 that is routed. -/
def routedType (t : Nat) : Bool := decide (1 ≤ t ∧ t ≤ 6) || t == 8 || t == 10

/-- The message that leaves and the trunk it leaves through, by the forwarding part of R425; none drops it. -/
def forwardStep (s : State) (ingress : Port) (m : MsgHdr) : Option (MsgHdr × Nat) :=
  let own := s.fld F.deviceId
  let h := { m with hops := m.hops + 1 }
  if m.src.toNat = own then none
  else if s.fld F.maxHops < m.hops.toNat + 1 then none
  else
    let i := m.step.toNat
    if own = stepEnd (nthD m.route i 0) then
      if i + 1 > 3 ∨ !stepValid (nthD m.route (i + 1) 0) then none
      else some ({ h with step := m.step + 1 }, stepPort (nthD m.route (i + 1) 0))
    else some (h, ingress.val ^^^ 1)

/-- A routed message for another module: forwarded by its route, or dropped. -/
def execRoutedForward (p : Port) (type : Byte) (m : MsgHdr) (body : List Byte) (s : State) :
    Host.Outcome State Fault Refusal :=
  runLink (do
    let _ ← linkUp p
    let s ← get
    guardWait (m.dst.toNat != s.fld F.deviceId || !routedType type.toNat)
    if !routedType type.toNat then bump F.misroute
    else
      match forwardStep s p m with
      | none => bump F.misroute
      | some (h, trunk) =>
        match s.trunkUp trunk with
        | none => bump F.misroute
        | some q => do
          emit (.forward q type h)
          transmit q type.toNat (hdrBytes h ++ body)) s

/-! ### Ethernet mode (R435–R439) -/

/-- The Ethernet lanes that are up as a width. -/
def ethWidth (mode sub : Nat) : Nat := if mode = 1 then (if sub = 0 then 0 else 8) else 4 * (sub % 2 + sub / 2)

/-- A sub-port's link comes up. A 1.6T port has sub-port 0 only. -/
def execEthLinkUp (p : Port) (sub : Fin 2) (s : State) : Host.Outcome State Fault Refusal :=
  runLink (do
    let s ← get
    let mode := s.fld (F.portMode p)
    guardWait (s.flag (F.portEnable p) && (mode == 2 || (mode == 1 && sub == 0)) && !s.fab.closed.contains (pairOf p)
      && s.fab.moving.all (fun m => m.1 != pairOf p) && s.fld F.lcState != 4)
    let up := putBits (s.fld (F.portSubUp p)) sub.val 1 1
    putFld (F.portSubUp p) up
    putFld (F.portState p) 5
    putFld (F.portWidth p) (ethWidth mode up)) s

/-- A sub-port loses its link. -/
def execEthLinkDown (p : Port) (sub : Fin 2) (s : State) : Host.Outcome State Fault Refusal :=
  runLink (do
    let s ← get
    guardWait (s.fld (F.portState p) == 5 && bitOf (s.fld (F.portSubUp p)) sub.val)
    let up := putBits (s.fld (F.portSubUp p)) sub.val 1 0
    putFld (F.portSubUp p) up
    putFld (F.portState p) (if up = 0 then 0 else 5)
    putFld (F.portWidth p) (ethWidth (s.fld (F.portMode p)) up)
    if up = 0 then do
      modPort p (fun x => { x with paused := [] })
      modify (fun s => { s with fab := { s.fab with held := s.fab.held.filter (fun h => h.1 ≠ p) } })
    else pure ()) s

/-- A priority is paused no longer: the frames that it held leave (R435). -/
def releaseFrames (p : Port) (prio : Fin 8) : M Unit := do
  let s ← get
  let (go, stay) := s.fab.held.partition (fun h => h.1 == p && h.2.1 == prio.val)
  set { s with fab := { s.fab with held := stay } }
  eachM go (fun h => emit (.roce h.2.2.1 h.2.2.2))

/-- A priority pause frame arrives. -/
def execPfcPause (p : Port) (prio : Fin 8) (on : Bool) (s : State) : Host.Outcome State Fault Refusal :=
  runLink (do
    guardWait ((← getFld (F.portState p)) == 5)
    modPort p (fun x => { x with
      paused := if on then (if x.paused.contains prio then x.paused else prio :: x.paused)
        else x.paused.filter (· ≠ prio) })
    if on then pure () else releaseFrames p prio) s

/-- The entry of a queue pair that is READY, on a port in Ethernet mode (R435, R437). -/
def readyQp (qp : Nat) : M (List Byte) := do
  let s ← get
  guardWait (s.flag F.qpValid)
  match ← attempt (vaRead 0 (s.qpAddr qp) 128) with
  | .error _ => throw .wait
  | .ok b => do
    guardWait (qpOk b && s.fld (F.portMode (qpPort b)) != 0)
    pure b

/-- The device writes ERROR to a queue pair. -/
def qpError (qp : Nat) : M Unit := do
  let _ ← attempt (vaWrite 0 ((← get).qpAddr qp) (leBytes 1 2))
  pure ()

/-- The receive head in force: a value outside its range is ignored (R438, R326). -/
def rheadInForce (qp head tail : Nat) : M Nat := do
  let s ← get
  let old := s.fab.rheads.getD qp head
  let h := if (head + 2 ^ 32 - old) % 2 ^ 32 ≤ (tail + 2 ^ 32 - old) % 2 ^ 32 then head else old
  set { s with fab := { s.fab with rheads := s.fab.rheads.insert qp h } }
  pure h

/-- A SEND arrives: written into the receive ring, or answered with a NAK. -/
def execSend (qp : Fin 4096) (psn : BitVec 24) (data : List Byte) (s : State) : Host.Outcome State Fault Refusal :=
  runLink (do
    let b ← readyQp qp.val
    let ring := recField b 0x40 8
    let slots := 2 ^ (recField b 0x48 1 % 32)
    let tail := recField b 0x50 4
    if ring = 0 then sendRoce qp.val (.ack 1)
    else do
      let head ← rheadInForce qp.val (recField b 0x4C 4) tail
      if (tail + 2 ^ 32 - head) % 2 ^ 32 = slots then sendRoce qp.val (.ack 1)
      else if 4064 < data.length then do
        sendRoce qp.val (.ack 2)
        qpError qp.val
      else do
        let slot := ring + 4096 * (tail % slots)
        let a := (← get).qpAddr qp.val
        match ← attempt (do
            vaWrite 0 (slot + 32) data
            vaWrite 0 slot (leBytes 4 data.length ++ leBytes 4 psn.toNat ++ leBytes 4 tail ++ leBytes 20 0)
            vaWrite 0 (a + 0x50) (leBytes 4 (tail + 1))
            vaWrite 0 (a + 0x0C) (leBytes 4 ((psn.toNat + 1) % 2 ^ 24))) with
        | .ok _ => sendRoce qp.val (.ack 0)
        | .error _ => pure ()) s

/-- The send rate of a queue pair: the port rate until a congestion notification (R439). -/
def State.rateOf (s : State) (qp : Nat) : Nat := s.fab.rates.getD qp (2 ^ 64)

def setRate (qp rate : Nat) : M Unit :=
  modify (fun s => { s with fab := { s.fab with rates := s.fab.rates.insert qp rate } })

/-- A congestion notification halves the rate. -/
def execCongestionNotification (qp : Fin 4096) (s : State) : Host.Outcome State Fault Refusal :=
  runLink (do setRate qp.val ((← get).rateOf qp.val / 2)) s

/-- 50 µs without one raises it by 1/16 of the port rate. -/
def execRateRecovery (qp : Fin 4096) (s : State) : Host.Outcome State Fault Refusal :=
  runLink (do setRate qp.val (min (2 ^ 64) ((← get).rateOf qp.val + 2 ^ 60))) s

/-- The drains that write over a queue pair. -/
def State.drainsOn (s : State) (qp : Nat) : List (Ctx × JobSt) :=
  s.jobs.filter (fun p => s.fld (F.drainState p.1) == 2 && (p.2.drain.map (·.2.1)) == some qp)

/-- The shards in flight that are read over a queue pair. -/
def State.shardsOn (s : State) (qp : Nat) : List (Model × Package × ShardSt) :=
  s.wts.flatMap (fun p => match p.2.pkg with
    | none => []
    | some k => (p.2.flight.filter (fun f => match p.2.sources[f.source]? with
        | some src => src.obj.isNone && src.qp == qp
        | none => false)).map (fun f => (p.1, k, f)))

/-- Some operation of the device uses the queue pair. -/
def State.qpBusy (s : State) (qp : Nat) : Bool := !(s.drainsOn qp).isEmpty || !(s.shardsOn qp).isEmpty

/-- A queue pair's retries are exhausted, or a fatal NAK came: it enters ERROR, and its operations fail (R376, R411). -/
def qpFails (qp : Nat) : M Unit := do
  let s ← get
  qpError qp
  modify (fun s => { s with fab := { s.fab with qpRetry := s.fab.qpRetry.erase qp } })
  eachM (s.drainsOn qp) (fun d => do
    match d.2.drain with
    | some (_, _, _, _, slot) => do
      let a ← fresh
      putFld (F.drainBytes d.1) (Config.ackedBytes a % (drainLength d.2 slot + 1))
      endOwn (.drain d.1) (fun _ => 0)
      putFld (F.drainState d.1) 5
    | none => pure ())
  eachM (s.shardsOn qp) (fun x => retryShard x.1 x.2.1 x.2.2)

/-- An RDMA operation ends. -/
def execRdmaCompletion (qp : Fin 4096) (r : RdmaResult) (s : State) : Host.Outcome State Fault Refusal :=
  runLink (do
    guardWait ((← get).qpBusy qp.val)
    match r with
    | .ok => modify (fun s => { s with fab := { s.fab with qpRetry := s.fab.qpRetry.erase qp.val } })
    | .failed => qpFails qp.val) s

/-- No acknowledgement in time: a retry, or ERROR when none is left. -/
def execQpAckTimeout (qp : Fin 4096) (s : State) : Host.Outcome State Fault Refusal :=
  runLink (do
    guardWait ((← get).qpBusy qp.val)
    let b ← readyQp qp.val
    let used := (← get).fab.qpRetry.getD qp.val 0
    if used < recField b 0x3B 1 % 8 then do
      modify (fun s => { s with fab := { s.fab with qpRetry := s.fab.qpRetry.insert qp.val (used + 1) } })
      sendRoce qp.val .retry
    else qpFails qp.val) s

end Sys2Proof.Machine
end

