-- ==== Sys2Proof/Machine/Wells.lean ====
section
/-! DEFINITION. The well engines: posting commands, set-up checks, the passes of each operation, and the results
(R95, R177–R208, R224, R225). -/

namespace Sys2Proof.Machine

/-! ### The command (R184–R186) -/

namespace WellCmd
def f (w : WellCmd) (o n : Nat) : Nat := leNat ((w.bytes.drop o).take n)
def op (w : WellCmd) : Nat := w.f 0 1
def rows (w : WellCmd) : Nat := w.f 1 1
def outBf16 (w : WellCmd) : Bool := bitOf (w.f 2 1) 0
def score (w : WellCmd) : Bool := bitOf (w.f 2 1) 1
def sblk (w : WellCmd) : Nat := if bitOf (w.f 2 1) 2 then 32 else 16
def etype (w : WellCmd) : Nat := bitsOf (w.f 3 1) 0 4
def cls (w : WellCmd) : Nat := bitsOf (w.f 3 1) 4 4
def inOff (w : WellCmd) : Nat := w.f 4 4
def inPitch (w : WellCmd) : Nat := w.f 8 4
def outPitch (w : WellCmd) : Nat := w.f 0x10 4
/-- the result region of the command's slot (R185) -/
def region (w : WellCmd) : Nat := w.f 0xC 4 + w.slot * w.f 0x14 4
def src (w : WellCmd) : Nat := w.f 0x18 8
def step (w : WellCmd) : Int := signOf 48 (w.f 0x20 8)
def parts (w : WellCmd) : Nat := w.f 0x20 1
def k (w : WellCmd) : Nat := w.f 0x28 4
def n (w : WellCmd) : Nat := w.f 0x2C 4
def srcPitch (w : WellCmd) : Nat := w.f 0x30 4
def coarse (w : WellCmd) : Val := ofFp32 (w.f 0x34 4)
def fine (w : WellCmd) : Int := signOf 64 (w.f 0x38 8)
/-- `n` bytes at an offset of row entry i -/
def row (w : WellCmd) (i o n : Nat) : Nat := w.f (64 + 16 * i + o) n
def rowCtx (w : WellCmd) (i : Nat) : Nat := w.row i 0 2
def rowGen (w : WellCmd) (i : Nat) : Nat := w.row i 2 2
def arg (w : WellCmd) (i : Nat) : Nat := w.row i 4 4
def ptr (w : WellCmd) (i : Nat) : Nat := w.row i 8 8
def expert (w : WellCmd) (i : Nat) : Nat := bitsOf (w.arg i) 0 16
def inRow (w : WellCmd) (i : Nat) : Nat := if w.op = 2 then bitsOf (w.arg i) 16 6 else i
def outRow (w : WellCmd) (i : Nat) : Nat := if w.op = 2 then bitsOf (w.arg i) 22 6 else i
def gate (w : WellCmd) (i : Nat) : Val := ofFp32 (w.row i 8 4)

/-- The operations that read a weight or a table: GEMV, EXPERT, GATHER. -/
def weighs (w : WellCmd) : Bool := w.op == 1 || w.op == 2 || w.op == 5

/-- Nothing to do (R4). -/
def idle (w : WellCmd) : Bool :=
  w.rows == 0 || ((w.op == 1 || w.op == 2) && (w.n == 0 || w.k == 0)) || (w.op == 5 && w.k == 0)

/-- Bytes of one input row (R181). -/
def inBytes (w : WellCmd) : Nat :=
  if w.op = 4 ∨ w.op = 6 then 4 * w.k else if w.op = 5 then 0 else 2 * w.k

/-- Bytes of one output row; none for the operations that return no rows. -/
def outBytes (w : WellCmd) : Nat :=
  let e := if w.outBf16 then 2 else 4
  match w.op with
  | 1 | 2 => e * w.n
  | 3 => 4 * w.k + 8
  | 5 => e * w.k
  | _ => 0

/-- Input rows that the command reads, and output rows that it writes. -/
def inRows (w : WellCmd) : Nat :=
  if w.op = 2 then ((upTo w.rows).map (fun i => w.inRow i + 1)).foldl max 0 else w.rows
def outRows (w : WellCmd) : Nat :=
  if w.op = 2 then ((upTo w.rows).map (fun i => w.outRow i + 1)).foldl max 0 else w.rows

/-- Rows i and j belong to one group (R202). -/
def sameGroup (w : WellCmd) (i j : Nat) : Bool :=
  w.rowCtx i == w.rowCtx j && w.ptr i == w.ptr j && w.arg i == w.arg j

/-- Cut consecutive rows into groups. -/
def groupsOf (w : WellCmd) : List Nat → List (List Nat)
  | [] => []
  | i :: t =>
    match w.groupsOf t with
    | (j :: g) :: rest => if w.sameGroup i j then (i :: j :: g) :: rest else [i] :: (j :: g) :: rest
    | _ => [[i]]
def groups (w : WellCmd) : List (List Nat) := w.groupsOf (upTo w.rows)

/-- The experts named, each once, with the entries that name each (R200). -/
def experts (w : WellCmd) : List (List Nat) :=
  (((upTo w.rows).map w.expert).eraseDups).map (fun e => (upTo w.rows).filter (fun i => w.expert i == e))

/-! ### Checks at set-up (R193, R194) -/

/-- A row entry sets a bit that its operation does not use (R186). -/
def rowBad (w : WellCmd) (i : Nat) : Bool :=
  decide (2 ^ 11 ≤ w.rowCtx i ∨ 2 ^ 12 ≤ w.rowGen i)
    || (w.op == 1 && w.arg i != 0) || (w.op == 2 && decide (2 ^ 28 ≤ w.arg i))
    || ((w.op == 1 || w.op == 5) && w.ptr i != 0) || (w.op == 2 && decide (2 ^ 32 ≤ w.ptr i))

/-- A reserved field, a misaligned offset or pitch, or a value outside its range: WL_BAD_COMMAND. -/
def bad (w : WellCmd) : Bool :=
  let op := w.op
  let g := w.weighs
  let raw := w.f 0x20 8
  op == 0 || decide (7 ≤ op) || decide (64 < w.rows) || decide (8 ≤ w.f 2 1)
    || (w.outBf16 && !g) || (w.score && op != 3) || (bitOf (w.f 2 1) 2 && !g)
    || (w.etype != 0 && !g) || (w.cls != 0 && op == 6)
    || (op == 5 && (w.inOff != 0 || w.inPitch != 0)) || w.inOff % 64 != 0 || w.inPitch % 64 != 0
    || w.region % 64 != 0 || w.f 0xC 4 % 64 != 0 || w.outPitch % 64 != 0 || ((op == 4 || op == 6) && w.outPitch != 0)
    || (op == 3 && decide (w.outPitch < 4 * w.k + 8))
    || (if op = 3 ∨ op = 6 then w.src != 0 else decide (2 ^ 57 ≤ w.src))
    || (if op = 1 then decide (2 ^ 48 ≤ raw)
        else if op = 2 then decide (2 ^ 48 ≤ raw) || raw % 256 != 0
        else if op = 3 then decide (raw < 1 ∨ 64 < raw)
        else raw != 0)
    || w.k == 0xFFFFFFFF || (op == 3 && !(w.k == 64 || w.k == 128 || w.k == 256))
    || (if g then w.n == 0xFFFFFFFF else if op = 3 then decide (2 ^ 16 ≤ w.n) else w.n != 0)
    || (if g then w.srcPitch % 32 != 0 else w.srcPitch != 0)
    || (op == 6 && w.f 0x34 4 != 0) || (!g && w.f 0x38 8 != 0)
    || (upTo w.rows).any w.rowBad
    || (op == 3 && w.groups.any (fun x => !([1, 2, 4, 8, 16].contains x.length)))

/-- The input half or a scratchpad region is passed (R181): WL_EXTENT. A command with no work addresses nothing. -/
def overflows (w : WellCmd) : Bool :=
  !w.idle && (decide (2 ^ 20 < w.rows * w.inBytes)
    || (w.inBytes != 0 && decide (2 ^ 22 < w.inOff + (w.inRows - 1) * w.inPitch + w.inBytes))
    || decide (2 ^ 22 < w.region + 128)
    || (w.outBytes != 0 && decide (2 ^ 22 < w.region + 128 + (w.outRows - 1) * w.outPitch + w.outBytes)))

/-- A type that the operation does not accept (R180, R203): WL_TYPE. -/
def typeBad (w : WellCmd) : Bool :=
  (w.weighs && !([0, 3, 4, 5, 6, 7, 8].contains w.etype))
    || (w.op == 3 && (upTo 16).any (fun c => bitOf w.n c && !([0, 3, 4, 7].contains c)))

/-- A command of a client names another context or an old generation (R188). -/
def foreign (w : WellCmd) : Bool :=
  w.ctx != 0 && (upTo w.rows).any (fun i => w.rowCtx i != w.ctx.val || w.rowGen i != w.gen)

/-- The first check that fails: completion status and fault code. -/
def fault (w : WellCmd) : Option (Nat × Nat) :=
  if w.bad then some (2, 0x20)
  else if w.overflows then some (2, 0x21)
  else if w.typeBad then some (2, 0x25)
  else if w.foreign then some (4, 0x23)
  else none

/-- Passes of the stream (R199, R200): a block of 64 columns of a GEMV, a group of ATTN_DECODE, else one. -/
def passCount (w : WellCmd) : Nat :=
  if w.idle then 0
  else match w.op with
    | 1 => ceilDiv w.n 64
    | 2 => w.experts.length * ceilDiv w.n 64
    | 3 => w.groups.length
    | _ => 1

def who (w : WellCmd) : Who := ⟨w.core, w.ctx, w.gen⟩
end WellCmd

/-- The stack of a well (R25). -/
def wellStack (x : WellId) : Stack := ⟨x.val / 4, by omega⟩
/-- Well n of the stack of x. -/
def wellMate (x : WellId) (n : Fin 4) : WellId := ⟨x.val / 4 * 4 + n.val, by omega⟩

/-! ### Service (R182, R183) -/

/-- The well is in service. -/
def State.wellServes (s : State) (x : WellId) : Bool := !s.flag (F.wlOffline x)

/-- The well that runs the commands of well x: x, or the next in service (R183). -/
def State.servedBy (s : State) (x : WellId) : Option WellId :=
  ((upTo 4).filterMap (fun i => finOf 4 ((x.val + i) % 4))).findSome? (fun n =>
    if s.wellServes (wellMate x n) then some (wellMate x n) else none)

/-- WL_STATUS.SERVED_BY of the wells of a stack. -/
def refreshServed (x : WellId) : M Unit :=
  eachM (List.finRange 4) (fun n => do
    let y := wellMate x n
    match (← get).servedBy y with
    | some z => putFld (F.wlServedBy y) (z.val % 4)
    | none => pure ())

/-- At a command boundary, a well with a third faulty column, or one marked for retirement, leaves service and REPAIR
says so (R182, R510). -/
def settleWell (x : WellId) : M Unit := do
  let s ← get
  if s.wellServes x && (decide (3 ≤ (s.rep.wellCols.getD x []).length) || s.rep.markedWells.contains x)
      && (s.wells.run.find? x).isNone then do
    putFlag (F.wlOffline x) true
    refreshServed x
    raiseRepair 6 true (x.val / 16) (x.val / 4) (x.val % 4) 0xFF
    modify (fun s => { s with rep := { s.rep with markedWells := s.rep.markedWells.filter (· ≠ x) } })
    finishRetire 6 x.val
  else pure ()

/-! ### Posting (R95) -/

/-- The well exists for a post: a well of its stack is in service, and its stack is not parked (R183, R524). -/
def State.wellThere (s : State) (x : WellId) : Bool :=
  (s.servedBy x).isSome && !bitOf (s.fld F.pwParked) (x.val / 16)

/-- The commands of a core that wait at a well (R95). -/
def State.postsOf (s : State) (n : CoreId) (x : WellId) : Nat :=
  (s.wells.queue.filter (fun w => w.core == n && w.named == x)).length

/-- Copy the command from the scratchpad and post it to the wells, slot by slot. -/
def postWells (n : CoreId) (k : Core) (off : Nat) (xs : List WellId) : M Unit := do
  onCoreOk (padOf n) off 64 64
  let h ← sramRead (k.who n) (padOf n) off 64
  let rows := leNat ((h.drop 1).take 1)
  let len := if 64 < rows then 64 else 64 + 16 * rows
  onCoreOk (padOf n) off len 64
  let b ← sramRead (k.who n) (padOf n) off len
  let s ← get
  if xs.all s.wellThere then pure () else throw (.code 2 0x0C)
  guardWait (xs.all (fun x => decide (s.postsOf n x < 16)))
  takeToken n 3 xs.length
  modify (fun s => { s with wells := { s.wells with
    queue := s.wells.queue ++ xs.zipIdx.map (fun p =>
      { core := n, ctx := k.ctx, gen := k.gen, q := k.q, idx := k.idx, pc := k.pc, named := p.1, slot := p.2, bytes := b,
        order := s.wells.order + p.2 })
    order := s.wells.order + xs.length } })
  eachM xs refreshWell

/-- wl.post -/
def execWlPost (n : CoreId) (w : BitVec 50) (s : State) : Host.Outcome State Fault Refusal :=
  run (let x := wordOf 0xC 0 w
    issue n x (reservedUnless x [(40, 5), (35, 5)]) (fun k => do
      stallS k [Wd.f40 x, Wd.f35 x]
      stallAcquire k
      match finOf 64 (k.getS (Wd.f40 x)).toNat with
      | some y => postWells n k (k.getS (Wd.f35 x)).toNat [y]
      | none => do
        onCoreOk (padOf n) (k.getS (Wd.f35 x)).toNat 64 64
        throw (.code 2 0x0C))) s

/-- wl.postm: the slot of a well is the rank of its bit (R185); a mask of zero is a no-op. -/
def execWlPostm (n : CoreId) (w : BitVec 50) (s : State) : Host.Outcome State Fault Refusal :=
  run (let x := wordOf 0xC 1 w
    issue n x (reservedUnless x [(40, 5), (35, 5)]) (fun k => do
      stallS k [Wd.f40 x, Wd.f35 x]
      stallAcquire k
      let m := (k.getS (Wd.f40 x)).toNat
      let off := (k.getS (Wd.f35 x)).toNat
      if m = 0 then guardCode (off % 64 == 0) 2 0x04
      else postWells n k off ((List.finRange 64).filter (fun y => bitOf m y.val)))) s

/-! ### Set-up (R194–R196) -/

/-- A fault of a well command ends the command that posted it (R193). -/
def wellFault (w : WellCmd) (e : Err) : M Unit :=
  match e with
  | .code st f => endCore w.core ⟨st, f, some (w.core, w.pc)⟩
  | e => endCore w.core ⟨e.status, 0, some (w.core, w.pc)⟩

/-- An error of a shared operand (R193). -/
def sharedErr : Err → Err
  | .translation => .code 3 0x22
  | .protection => .code 4 0x23
  | .integrity => .code 5 0x24
  | e => e

/-- Access a shared operand. -/
def shared {α : Type} (m : M α) : M α := do
  match ← attempt m with
  | .ok a => pure a
  | .error e => throw (sharedErr e)

/-- The context of a row, if its generation is current (R189). -/
def State.rowLive (s : State) (w : WellCmd) (i : Nat) : Option Ctx :=
  (finOf 1025 (w.rowCtx i)).bind (fun c => if s.genOf c = w.rowGen i ∧ s.ctxLive c then some c else none)

/-- Those of the rows named whose generation is no longer current become CANCELLED (R189). -/
def WellRun.recheck (r : WellRun) (s : State) (rows : List Nat) : WellRun :=
  { r with rowStatus := r.rowStatus.zipIdx.map (fun p =>
      if p.1 = 0 ∧ rows.contains p.2 ∧ (s.rowLive r.cmd p.2).isNone then 1 else p.1) }

/-- The rows whose row operands pass p accesses: the comparison of R189 is made for them. -/
def WellCmd.accessed (w : WellCmd) (p : Nat) : List Nat :=
  match w.op with
  | 3 => nthD w.groups p []
  | 4 | 6 => upTo w.rows
  | _ => []

def modRun (x : WellId) (f : WellRun → WellRun) : M Unit :=
  modify (fun s => match s.wells.run.find? x with
    | some r => { s with wells := { s.wells with run := s.wells.run.insert x (f r) } }
    | none => s)

/-- The oldest queued command that well x runs (R183, R195). -/
def State.nextWellCmd (s : State) (x : WellId) : Option WellCmd :=
  s.wells.queue.foldl (fun o w =>
    if s.servedBy w.named = some x then
      (match o with
       | some y => if w.order < y.order then some w else some y
       | none => some w)
    else o) none

/-- A well takes its oldest queued command: the checks, and the input rows (R194, R196). -/
def execWellCommandStart (x : WellId) (s : State) : Host.Outcome State Fault Refusal :=
  run (do
    let s ← get
    guardWait ((s.wells.run.find? x).isNone && s.wellServes x && !s.rep.needTest.contains (.well x)
      && !s.rep.testing.contains (.well x, true))
    let w ← needSome (s.nextWellCmd x)
    match finOf 4 (x.val / 16) with
    | some d => if s.rep.testing.contains (.well x, false) then bump (F.testYielded d) else pure ()
    | none => pure ()
    modify (fun s => { s with
      wells := { s.wells with queue := s.wells.queue.filter (fun y => y.order ≠ w.order) }
      rep := { s.rep with testing := s.rep.testing.filter (fun t => t != (.well x, false)) } })
    refreshWell w.named
    match w.fault with
    | some (st, f) => wellFault w (.code st f)
    | none => do
      let named := (upTo w.rows).map w.inRow
      let r ← attempt (mapM' (upTo (if w.idle || w.inBytes == 0 then 0 else w.inRows)) (fun i =>
        if named.contains i then sramRead w.who w.who.spad (w.inOff + i * w.inPitch) w.inBytes else pure []))
      match r with
      | .ok rows => do
        let r : WellRun :=
          { cmd := w, rowStatus := List.replicate w.rows 0, inputs := rows, passes := w.passCount, passesDone := 0,
            out := [], counts := [], bytes := 0 }
        let s ← get
        set { s with wells := { s.wells with run := s.wells.run.insert x (r.recheck s (upTo w.rows)) } }
      | .error e => wellFault w e) s

/-! ### Weights (R180, R198) -/

/-- The row a of the input half, as BF16 values from element `lo`. -/
def WellRun.input (r : WellRun) (a lo n : Nat) : List Val :=
  (unpackElems 16 n ((nthD r.inputs a []).drop (2 * lo))).map (decodeNum 0)

/-- Bytes that a well has moved through the port of its stack (R191, R209). -/
def countPort (x : WellId) (n : Nat) : M Unit := do
  bumpBy (F.wlBytes (wellStack x)) n
  modRun x (fun r => { r with bytes := r.bytes + n })

/-- A well's read and write of its own stack. -/
def portRead (x : WellId) (c : Ctx) (va n : Nat) : M (List Byte) := do
  let b ← ownRead (wellStack x) c va n
  countPort x n
  pure b
def portWrite (x : WellId) (c : Ctx) (va : Nat) (bs : List Byte) (need : Right) : M Unit := do
  ownWrite (wellStack x) c va bs need
  countPort x bs.length

/-- The head of a page list, as a well reads it. -/
def portList (x : WellId) (c : Ctx) (list : Nat) : M PageList := do
  countPort x 64
  readList (wellStack x) c list

/-- `n` elements of a row of a shared operand from element `lo`, by address of the row: their encodings. -/
def sharedElems (x : WellId) (w : WellCmd) (va : Int) (lo n : Nat) : M (List Nat) := do
  let bits := ebits w.etype
  let b ← portRead x w.ctx (toUnsigned 64 (va + (lo * bits / 8 : Nat))) ((n * bits + 7) / 8)
  pure (unpackElems bits n b)

/-- Count saturations and NaN conversions of a command; they reach the context's counters when it completes (R127). -/
def countWell (x : WellId) (c : Ctx) (cls sat nanc : Nat) : M Unit :=
  modRun x (fun r => { r with counts := r.counts ++ [(c, cls, sat, nanc)] })

/-- Count widenings that R120 turns into NaN, made for one context. -/
def countNan (x : WellId) (c : Ctx) (w : WellCmd) (n : Nat) : M Unit := countWell x c w.cls 0 n

/-- Columns [lo, lo + n) of a weight at an address: k rows, each element with every scale that applies to it. The product
with an input element is rounded once (R115, R180). -/
def weightBlock (x : WellId) (w : WellCmd) (base : Int) (lo n : Nat) : M (List (List Val)) := do
  let scaled := isNarrow w.etype && w.fine != 0
  let fines ← (if scaled then
      mapM' (upTo (ceilDiv w.k w.sblk)) (fun j =>
        portRead x w.ctx (toUnsigned 64 (base + w.fine + (j * (ceilDiv w.n 32 * 32) + lo : Nat))) n)
    else pure [])
  let rows ← mapM' (upTo w.k) (fun j => sharedElems x w (base + (j * w.srcPitch : Nat)) lo n)
  if isNarrow w.etype && coarseBad w.coarse then countNan x w.ctx w (w.k * n) else pure ()
  pure (rows.zipIdx.map (fun p => p.1.zipIdx.map (fun e =>
    widen w.etype e.1
      (if scaled then fineNum (nthD (nthD fines (p.2 / w.sblk) []) e.2 0).toNat else Val.one) w.coarse)))

/-- The segment length of a reduction folded by F (R198). -/
def foldLength (w : WellCmd) (F : Nat) : Nat :=
  let b := if isNarrow w.etype then w.sblk else 16
  b * ceilDiv w.k (b * F)

/-- One output element: F segment sums, each in ascending order, added in an order that the device does not
state (R131, R198). -/
def foldSum (key F L k : Nat) (f : Nat → Val) : Nat :=
  toFp32 (sumTerms key ((upTo F).map (fun g => ofFp32 (dotFrom 0 (min L (k - g * L)) (fun p => f (g * L + p))))))

/-- One pass of a GEMV over entries that share a weight: 64 columns of each live entry's row. -/
def gemvPass (x : WellId) (r : WellRun) (entries : List Nat) (base : Int) (block : Nat) : M Unit := do
  let w := r.cmd
  let lo := 64 * block
  let n := min 64 (w.n - lo)
  let m ← shared (weightBlock x w base lo n)
  let F := 64 / entries.length
  let key ← fresh
  eachM (entries.filter (fun i => nthD r.rowStatus i 0 == 0)) (fun i => do
    let a := r.input (w.inRow i) 0 w.k
    let cols := (upTo n).map (fun c =>
      foldSum (key + 2 ^ 64 * (64 * i + c)) F (foldLength w F) w.k (fun p => Val.mul (nthD a p Val.zero) (entry m p c)))
    modRun x (fun r => { r with out := r.out.insert i (r.out.getD i [] ++ cols) }))

/-! ### ATTN_DECODE (R202–R204, R224, R225) -/

/-- Give rows a status. -/
def setRows (x : WellId) (rows : List Nat) (status : Nat) : M Unit :=
  modRun x (fun r => { r with
    rowStatus := r.rowStatus.zipIdx.map (fun p => if rows.contains p.2 ∧ p.1 = 0 then status else p.1)
    out := r.out.filter (fun p => !rows.contains p.1) })

/-- Running statistics of one row of a group, and the scores kept for the masses: (slot, score). -/
structure AttnRow where
  m : Val
  l : Val
  o : List Val
  x : List (Nat × Val)
  deriving DecidableEq, Repr

/-- One page for one row: `ks` and `vs` are the keys and values of the positions taken (R97, R224). -/
def AttnRow.page (a : AttnRow) (key : Nat) (round : Bool) (scale : Val) (q : List Val) (first : Nat)
    (ks vs : List (List Val)) : AttnRow :=
  let xs := ks.map (fun kk => fp32 (Val.mul scale (ofFp32 (dotFrom 0 q.length (fun d =>
    Val.mul (nthD q d Val.zero) (nthD kk d Val.zero))))))
  let t := softmaxRow key a.m a.l xs
  let p := if round then t.p.map bf16 else t.p
  ⟨t.m, t.l,
    a.o.zipIdx.map (fun e => ofFp32 (dotFrom (toFp32 (Val.mul t.alpha e.1)) p.length (fun j =>
      Val.mul (nthD p j Val.zero) (nthD (nthD vs j []) e.2 Val.zero)))),
    a.x ++ xs.zipIdx.map (fun e => (first + e.2, e.1))⟩

/-- The keys or values of the first `n` positions of a page, for one head. -/
def pageHead (x : WellId) (c : Ctx) (va : Nat) (r : PageRec) (G D h n : Nat) (values : Bool) : M (List (List Val)) := do
  let bits := ebits r.format
  let f := if values then r.vfine h else r.kfine h
  let b ← portRead x c (va + pageByte G D bits h 0 values) (n * D * bits / 8)
  let es := unpackElems bits (n * D) b
  pure ((upTo n).map (fun p => ((es.drop (p * D)).take D).map (r.dequantise f)))

/-- The pages of a part, one by one: `i` from the list's entries (R224). -/
def attnPages (x : WellId) (c : Ctx) (r : WellRun) (g : List Nat) (l : PageList) (key : Nat) :
    List Nat → List AttnRow → M (List AttnRow)
  | [], rows => pure rows
  | i :: t, rows => do
    let w := r.cmd
    let s ← get
    let j := wellStack x
    let e := leNat (← portRead x c (entryVa (w.ptr (g.headD 0)) i) 4)
    if e / 2 ^ 28 ≠ j.val then attnPages x c r g l key t rows
    else do
      let rec' ← listPage c j l.inst e
      guardCode (bitOf w.n rec'.format) 6 0
      let G := s.kvHeads l.inst
      let D := w.k
      let n := min 256 (w.arg (g.headD 0) - 256 * i)
      if n = 0 then attnPages x c r g l key t rows
      else do
        let va := s.pageVa j l.inst (e % 2 ^ 28)
        let heads := (upTo g.length).map (fun q => q * G / g.length)
        let kv ← mapM' heads (fun h => do
          let ks ← pageHead x c va rec' G D h n false
          let vs ← pageHead x c va rec' G D h n true
          pure (ks, vs))
        if isNarrow rec'.format && coarseBad rec'.coarse then countNan x c w (2 * G * D * n) else pure ()
        attnPages x c r g l key t (rows.zipIdx.map (fun p =>
          let h := nthD kv p.2 ([], [])
          p.1.page (key + 2 ^ 32 * (256 * i) + 2 ^ 64 * p.2) (Config.wellRoundsP key) w.coarse
            (r.input (nthD g p.2 0) 0 D) (256 * i) h.1 h.2))

/-- Add a mass to the BF16 score of a slot with one rounding (R207, R225). -/
def addScore (x : WellId) (c : Ctx) (l : PageList) (slot : Nat) (mass : Val) : M Unit := do
  let old := leNat (← portRead x c (l.scoreVa slot) 2)
  portWrite x c (l.scoreVa slot) (leBytes 2 (convert 0 (Val.add (decodeNum 0 old) mass)).bits) .w

/-- The attention masses of a part (R225): one per position taken. -/
def massesOf (key : Nat) (rows : List AttnRow) : List (Nat × Val) :=
  let slots := (((rows.head?).map (·.x)).getD []).map (·.1)
  slots.zipIdx.map (fun p =>
    (p.1, sumTerms (key + 2 ^ 64 * p.1) (rows.map (fun a =>
      if a.m = .inf true then Val.zero
      else fp32 (Val.div (expsub32 (nthD a.x p.2 (0, Val.zero)).2 a.m) a.l)))))

/-- The part of one group: every row's o, m and l. -/
def attnGroup (x : WellId) (r : WellRun) (g : List Nat) (c : Ctx) : M Unit := do
  let w := r.cmd
  let s ← get
  let list := w.ptr (g.headD 0)
  let l ← portList x c list
  guardCode (s.kvDim l.inst == w.k && g.length % s.kvHeads l.inst == 0) 2 0
  let key ← fresh
  let mine := (upTo l.count).filter (fun i => i % w.parts == w.slot % w.parts)
  let rows ← attnPages x c r g l key mine (g.map (fun _ => AttnRow.mk (.inf true) Val.zero (List.replicate w.k Val.zero) []))
  if w.score then do
    guardCode (decide ((((rows.head?).map (·.x)).getD []).length ≤ 65536)) 2 0
    let live := (g.zip rows).filter (fun p => nthD r.rowStatus p.1 0 == 0)
    if l.keepsScores then eachM (massesOf key (live.map (·.2))) (fun p => addScore x c l p.1 p.2) else pure ()
  else pure ()
  modRun x (fun r => (g.zip rows).foldl (fun r p =>
    { r with out := r.out.insert p.1 ((p.2.o ++ [p.2.m, p.2.l]).map toFp32) }) r)

/-! ### KV_APPEND (R205, R216–R218) -/

/-- Run the row operation of a row; an error becomes the row's status. -/
def rowTry (x : WellId) (rows : List Nat) (m : M Unit) : M Unit := do
  match ← attempt m with
  | .ok _ => pure ()
  | .error e => setRows x rows e.status

/-- The page that a KV_APPEND row writes: its list, instance, page index and record. -/
def appendPage (x : WellId) (c : Ctx) (w : WellCmd) (i : Nat) : M (PageList × Nat × PageRec) := do
  let j := wellStack x
  let s ← get
  let l ← portList x c (w.ptr i)
  guardCode (s.kvHeads l.inst * s.kvDim l.inst == w.k) 2 0
  let e := w.arg i / 256
  guardCode (decide (e < l.count)) 9 0
  let v := leNat (← portRead x c (entryVa (w.ptr i) e) 4)
  guardCode (v != 0xFFFFFFFF) 9 0
  if v / 2 ^ 28 ≠ j.val then throw .protection
  else do
    let r ← listPage c j l.inst v
    pure (l, v % 2 ^ 28, r)

/-- Write the elements of one half of a row into a page; the answer is what was counted. -/
def appendHalf (x : WellId) (c : Ctx) (va : Nat) (r : PageRec) (G D p : Nat) (values : Bool) (xs : List Val) :
    M (Nat × Nat) := do
  let bits := ebits r.format
  let cs := (upTo G).map (fun h =>
    ((xs.drop (h * D)).take D).map (r.quantise (if values then r.vfine h else r.kfine h)))
  eachM (upTo G) (fun h =>
    portWrite x c (va + pageByte G D bits h p values) (packBytes bits ((nthD cs h []).map (·.bits))) .w)
  pure ((cs.flatten.map (·.sat)).sum, (cs.flatten.map (·.nanc)).sum)

/-- Append one row whose page has its scales. -/
def appendRow (x : WellId) (c : Ctx) (r : WellRun) (i cls : Nat) : M Unit := do
  let w := r.cmd
  let j := wellStack x
  let (l, px, rec') ← appendPage x c w i
  let s ← get
  let G := s.kvHeads l.inst
  let D := s.kvDim l.inst
  let va := s.pageVa j l.inst px
  let n := w.arg i
  let a ← appendHalf x c va rec' G D (n % 256) false (r.input i 0 w.k)
  let b ← appendHalf x c va rec' G D (n % 256) true (r.input i w.k w.k)
  countWell x c cls (a.1 + b.1) (a.2 + b.2)
  if l.keepsScores then portWrite x c (l.scoreVa n) [0, 0] .w else pure ()
  let u := leNat (← portRead x c (w.ptr i) 4)
  if u < n + 1 then portWrite x c (w.ptr i) (leBytes 4 (n + 1)) .rw else pure ()

/-- The row's page, by instance and index, when the row can be appended; its status otherwise. -/
def appendProbe (x : WellId) (w : WellCmd) (i : Nat) (c : Ctx) : M (Option (CacheInst × Nat × PageRec)) := do
  match ← attempt (appendPage x c w i) with
  | .ok (l, px, r) => pure (some (l.inst, px, r))
  | .error e => do
    setRows x [i] e.status
    pure none

/-- Set the scales of a page that has none, from the rows of the command that lie in it (R217). -/
def scalePage (x : WellId) (r : WellRun) (c : Val) (i : CacheInst) (px : Nat) (rec' : PageRec) (rows : List Nat) :
    M Unit := do
  if rec'.scaled then pure ()
  else do
    let s ← get
    let hr : Val := .fin false (s.fld (F.kvHeadroom i)) 16
    let new := rec'.setScales (s.kvHeads i) (s.kvDim i) c hr (rows.map (fun a => r.input a 0 (2 * r.cmd.k)))
    writeRecord (wellStack x) i px new.raw

/-- The tracker or the coarse field supplies the coarse scale and the class (R205). The 128 bytes at src are the tracker, also
where src is not 128-byte aligned (log 113). -/
def appendCoarse (x : WellId) (w : WellCmd) : M (Val × Nat) := do
  if w.src = 0 then pure (w.coarse, w.cls)
  else do
    let t ← shared (do
      let _ ← ownPieces (wellStack x) w.ctx w.src 128 .r
      useTracker w.ctx w.src)
    match t with
    | some t => pure (ofFp32 t.coarse, t.cls)
    | none => throw (.code 2 0x20)

/-- KV_APPEND as a whole. -/
def appendPass (x : WellId) (r : WellRun) : M Unit := do
  let w := r.cmd
  let (c, cls) ← appendCoarse x w
  let s ← get
  let live := (upTo w.rows).filterMap (fun i =>
    if nthD r.rowStatus i 0 = 0 then (s.rowLive w i).map (fun a => (i, a)) else none)
  let found ← mapM' live (fun p => do
    let o ← appendProbe x w p.1 p.2
    pure (p.1, p.2, o))
  let good := found.filterMap (fun p => p.2.2.map (fun o => (p.1, p.2.1, o)))
  eachM ((good.map (fun p => (p.2.2.1, p.2.2.2.1, p.2.2.2.2))).eraseDups) (fun o =>
    let rows := (good.filter (fun p => p.2.2.1 == o.1 && p.2.2.2.1 == o.2.1)).map (·.1)
    rowTry x rows (scalePage x r c o.1 o.2.1 o.2.2 rows))
  eachM good (fun p => do
    if ((((← get).wells.run.find? x).map (fun r => nthD r.rowStatus p.1 0)).getD 1) = 0 then
      rowTry x [p.1] (appendRow x p.2.1 r p.1 cls)
    else pure ())
  if w.src = 0 then pure ()
  else do
    let done := (((← get).wells.run.find? x).map (·.rowStatus)).getD []
    let wrote := good.filter (fun p => nthD done p.1 1 == 0)
    shared (raiseStepMax w.ctx w.src (finiteMax ((wrote.flatMap (fun p => r.input p.1 0 (2 * w.k))).map Val.abs)))

/-! ### GATHER and SCORE_ACCUM (R206, R207) -/

/-- One row of GATHER: the widened elements. The fine scales of table row a lie at src + fine, one byte per block, with a
pitch rounded up to a multiple of 32, as R198 lays out those of a GEMV (log 57). -/
def gatherRow (x : WellId) (r : WellRun) (i : Nat) : M Unit := do
  let w := r.cmd
  if w.n ≤ w.arg i then setRows x [i] 2
  else do
    let es ← shared (sharedElems x w ((w.src : Int) + (w.arg i * w.srcPitch : Nat)) 0 w.k)
    let scaled := isNarrow w.etype && w.fine != 0
    let blocks := ceilDiv w.k w.sblk
    let fines ← (if scaled then
        shared (portRead x w.ctx (toUnsigned 64 ((w.src : Int) + w.fine + (w.arg i * (ceilDiv blocks 32 * 32) : Nat))) blocks)
      else pure [])
    if isNarrow w.etype && coarseBad w.coarse then
      countNan x (((← get).rowLive w i).getD w.ctx) w w.k
    else pure ()
    let vs := es.zipIdx.map (fun e => widen w.etype e.1
      (if scaled then fineNum (nthD fines (e.2 / w.sblk) 0).toNat else Val.one) w.coarse)
    modRun x (fun r => { r with out := r.out.insert i (vs.map (fun v =>
      if w.outBf16 then (convert 0 v).bits else toFp32 v)) })

/-- One row of SCORE_ACCUM. -/
def scoreRow (x : WellId) (c : Ctx) (r : WellRun) (i : Nat) : M Unit := do
  let w := r.cmd
  let j := wellStack x
  guardCode (decide (w.arg i ≤ w.k)) 2 0
  let l ← portList x c (w.ptr i)
  let masses := (unpackElems 32 (w.arg i) (nthD r.inputs i [])).map ofFp32
  if l.keepsScores then
    eachM (upTo l.count) (fun e => do
      let v := leNat (← portRead x c (entryVa (w.ptr i) e) 4)
      if v / 2 ^ 28 ≠ j.val then pure ()
      else do
        let _ ← listPage c j l.inst v
        eachM (upTo (min 256 (w.arg i - 256 * e))) (fun p =>
          addScore x c l (256 * e + p) (nthD masses (256 * e + p) Val.zero)))
  else pure ()

/-! ### Passes -/

/-- For every row still OK, in ascending order, a row operation in the row's context. -/
def eachRow (x : WellId) (r : WellRun) (f : Ctx → Nat → M Unit) : M Unit :=
  eachM (upTo r.cmd.rows) (fun i => do
    if nthD r.rowStatus i 0 = 0 then
      (match (← get).rowLive r.cmd i with
       | some c => rowTry x [i] (f c i)
       | none => setRows x [i] 1)
    else pure ())

/-- The work of pass p. -/
def wellPassWork (x : WellId) (r : WellRun) (p : Nat) : M Unit := do
  let w := r.cmd
  let blocks := ceilDiv w.n 64
  match w.op with
  | 1 => gemvPass x r (upTo w.rows) ((w.src : Int) + w.slot * w.step) p
  | 2 =>
    let es := nthD w.experts (p / blocks) []
    gemvPass x r es ((w.src : Int) + w.expert (es.headD 0) * w.step) (p % blocks)
  | 3 =>
    let g := nthD w.groups p []
    let s ← get
    (match g.findSome? (s.rowLive w) with
     | some c => rowTry x g (attnGroup x r g c)
     | none => pure ())
  | 4 => appendPass x r
  | 5 => eachM (upTo w.rows) (fun i => if nthD r.rowStatus i 0 = 0 then gatherRow x r i else pure ())
  | _ => eachRow x r (fun c i => scoreRow x c r i)

/-- A well streams one pass. -/
def execWellPass (x : WellId) (s : State) : Host.Outcome State Fault Refusal :=
  run (do
    let s ← get
    let r0 ← needSome (s.wells.run.find? x)
    guardWait (decide (r0.passesDone < r0.passes))
    let r := r0.recheck s (r0.cmd.accessed r0.passesDone)
    modRun x (fun _ => { r with passesDone := r.passesDone + 1 })
    match ← attempt (wellPassWork x r r.passesDone) with
    | .ok _ => pure ()
    | .error e => wellFault r.cmd e) s

/-! ### Results (R191, R192) -/

/-- The encodings of output row o, FP32 or BF16 as the flags say; zeros, or the empty partial, for a row whose
status is not OK. -/
def WellRun.outRow (r : WellRun) (key o : Nat) : List Nat :=
  let w := r.cmd
  let ok := fun i => nthD r.rowStatus i 0 == 0
  match w.op with
  | 1 => if ok o then (r.out.getD o []).map (fun v => if w.outBf16 then (convert 0 (ofFp32 v)).bits else v)
         else List.replicate w.n 0
  | 2 =>
    let es := (upTo w.rows).filter (fun i => w.outRow i == o)
    if es.all ok then
      (upTo w.n).map (fun c =>
        let v := sumTerms (key + 2 ^ 64 * (64 * c + o)) (es.map (fun i =>
          fp32 (Val.mul (w.gate i) (ofFp32 (nthD (r.out.getD i []) c 0)))))
        if w.outBf16 then (convert 0 v).bits else toFp32 v)
    else List.replicate w.n 0
  | 3 => if ok o then r.out.getD o [] else List.replicate w.k 0 ++ [toFp32 (.inf true), 0]
  | 5 => if ok o then r.out.getD o [] else List.replicate w.k 0
  | _ => []

/-- The 128-byte result record (R191). -/
def WellRun.record (r : WellRun) (x : WellId) (cycles : Nat) : List Byte :=
  leBytes 1 x.val ++ leBytes 1 r.cmd.rows ++ leBytes 1 (r.rowStatus.filter (· ≠ 0)).length ++ leBytes 1 0
    ++ leBytes 4 (min (2 ^ 32 - 1) (r.counts.map (fun c => c.2.2.1 + c.2.2.2)).sum) ++ leBytes 8 (countFor r.cmd.ctx r.bytes)
    ++ leBytes 4 (countFor r.cmd.ctx cycles) ++ leBytes 44 0
    ++ (upTo 64).map (fun i => BitVec.ofNat 8 (nthD r.rowStatus i 0))

/-- A well drains its command: output rows, the record, the token (R191, R196). -/
def execWellCommandComplete (x : WellId) (s : State) : Host.Outcome State Fault Refusal :=
  run (do
    let s ← get
    let r ← needSome (s.wells.run.find? x)
    guardWait (r.passesDone == r.passes)
    let w := r.cmd
    let key ← fresh
    if w.idle then pure ()
    else do
      let size := if w.outBf16 then 2 else 4
      eachM (upTo (if w.outBytes = 0 then 0 else w.outRows)) (fun o =>
        sramWrite w.who w.who.spad (w.region + 128 + o * w.outPitch) ((r.outRow key o).flatMap (leBytes size)))
      sramWrite w.who w.who.spad w.region (r.record x (Config.wellCycles key % 2 ^ 32))
      countCore w.core 7 (countFor w.ctx r.bytes)
      eachM r.counts (fun c => addCounts c.1 c.2.1 c.2.2.1 c.2.2.2)
    modify (fun s => { s with wells := { s.wells with run := s.wells.run.erase x } })
    settleWell x
    returnToken w.core 3) s

end Sys2Proof.Machine
end

