-- ==== Sys2Proof/Machine/Recovery.lean ====
section
/-! DEFINITION. Faults, repair and recovery: patrols, self-tests, parity and stuck units, drain markers, plinth
takeovers, spares and retirement, and the module fault (R161–R167, R182, R488–R518). -/

namespace Sys2Proof.Machine

def modRep (f : RepairSt → RepairSt) : M Unit := modify (fun s => { s with rep := f s.rep })

/-! ### Marking for retirement (R505–R510) -/

/-- Mark a cluster (R508). -/
def markCluster (d : Die) (k : Fin 12) : M Unit := do
  let s ← get
  if s.rep.retiredClusters.contains (d.val * 12 + k.val) || s.rep.markedClusters.contains (d, k) then pure ()
  else modRep (fun r => { r with markedClusters := r.markedClusters ++ [(d, k)] })

/-- The width at which a core with f faulty columns is presented (R161). -/
def widthOf (f : Nat) : Nat := min 64 (2 * ((66 - f) / 2))

/-- The physical core with a number within a logical cluster: (die × 14 + physical cluster) × 9 + core. -/
def State.physOf (s : State) (cl core : Nat) : Nat :=
  (cl / 12 * 14 + s.rep.physCluster.getD cl (cl % 12)) * 9 + core

/-- The faulty columns of a physical core, as the self-test of start-up found them (R162). -/
def State.arrayOf (s : State) (phys : Nat) : List (Fin 66) := s.rep.arrays.getD phys []

/-- A physical core is fit to take a logical number: it did not fail, and is not presented narrower than 48 (R12). -/
def State.coreFit (s : State) (phys : Nat) : Bool :=
  !s.rep.deadCores.contains phys && decide (48 ≤ Sys2Proof.Machine.widthOf (s.arrayOf phys).length)

/-- The cluster's spare core can take a logical number. -/
def State.spareFree (s : State) (cl : Nat) : Bool := !s.rep.spareCoreUsed.contains cl && s.coreFit (s.physOf cl 8)

/-- Mark a core (R506); where the cluster's spare core cannot take its number, its cluster is marked (R508). A core that
has failed hard is not copied. -/
def markCore (n : CoreId) (hard : Bool) : M Unit := do
  let s ← get
  let cl := clusterOf n
  if hard then modRep (fun r => { r with hardFailed := if r.hardFailed.contains n then r.hardFailed else n :: r.hardFailed })
  else pure ()
  if s.flag (F.mxRetired n) || s.rep.marked.contains n then pure ()
  else if !s.spareFree cl || s.rep.marked.any (fun m => clusterOf m == cl) then
    match clusterDie cl with
    | some (d, k) => markCluster d k
    | none => pure ()
  else modRep (fun r => { r with marked := r.marked ++ [n] })

/-- The core runs no command. -/
def State.coreIdle (s : State) (n : CoreId) : Bool := (s.cores.find? n).isNone

/-- A core's columns are bypassed and its width presented (R12, R161). -/
def presentCore (n : CoreId) (cols : List (Fin 66)) : M Unit := do
  modRep (fun r => { r with coreCols := if cols.isEmpty then r.coreCols.erase n else r.coreCols.insert n cols })
  putFld (F.mxWidth n) (widthOf cols.length)
  putFld (F.mxNextWidth n) (widthOf cols.length)
  putFld (F.mxFaulty n) (min 31 cols.length)

/-- The physical core `phys` stands behind a logical one: its own columns, as the self-test of start-up found them, its own
banks and test history; nothing is owed. -/
def freshCore (n : CoreId) (phys : Nat) : M Unit := do
  let s ← get
  let lost := s.rep.hardFailed.contains n
  set { s.setReg (.mxShape n) (Reg.reset (.mxShape n)) with
    sram := { s.sram with
      spad := if lost then s.sram.spad.clear (n.val * 2 ^ 22) ((n.val + 1) * 2 ^ 22) else s.sram.spad
      spadTags := if lost then s.sram.spadTags.filter (fun (p : Nat × OwnerTag) => p.1 / 4096 ≠ n.val) else s.sram.spadTags
      spadPoison := if lost then s.sram.spadPoison.filter (fun w => w / 65536 ≠ n.val) else s.sram.spadPoison
      bankErrs := s.sram.bankErrs.filter (fun (p : (Bool × Nat) × Nat) => p.1.1 || p.1.2 / 16 != n.val)
      bankRemap := s.sram.bankRemap.filter (fun p => p.1 ≠ n) }
    rep := { s.rep with
      marked := s.rep.marked.filter (· ≠ n), hardFailed := s.rep.hardFailed.filter (· ≠ n)
      pendCols := s.rep.pendCols.erase n
      needTest := s.rep.needTest.filter (fun u => u ≠ HwUnit.core n ∧ u ≠ HwUnit.coreDma n)
      unitResets := s.rep.unitResets.filter (fun (p : HwUnit × Nat) => p.1 ≠ HwUnit.core n ∧ p.1 ≠ HwUnit.coreDma n) } }
  presentCore n (s.arrayOf phys)

/-- The record is of a column or bank of a logical core, or of any core of a cluster. -/
def recordOf (die cl : Nat) (core : Option Nat) (r : Nat) : Bool :=
  bitsOf r 8 4 == die && bitsOf r 12 8 == cl && (match core with
    | some k => (bitsOf r 0 4 == 1 || bitsOf r 0 4 == 2) && bitsOf r 20 8 == k
    | none => decide (1 ≤ bitsOf r 0 4 ∧ bitsOf r 0 4 ≤ 3))

/-- Another core stands behind a logical one: of the repairs of its columns and banks, those of the new core are in force
(R512). -/
def remapCore (n : CoreId) (phys : Nat) : M Unit := do
  let cols := (← get).arrayOf phys
  let die := (dieOf n).val
  let cl := clusterOf n % 12
  setMap (fun m => cols.zipIdx.foldl (fun m p => mapInsert (repairDetail 1 (decide (1 ≤ p.2)) die cl (n.val % 8) p.1.val) m)
    (m.filter (fun r => !recordOf die cl (some (n.val % 8)) r)))

/-- The copy to a spare bank has ended (R167). -/
def bankSwitched (n : CoreId) (bank : Nat) : M Unit := do
  modify (fun s => { s with sram := { s.sram with
    bankRemap := s.sram.bankRemap.filter (fun p => p ≠ (n, bank))
    bankErrs := s.sram.bankErrs.erase (false, n.val * 16 + bank) } })
  putFlag (F.mxBankSpared n) true
  raiseRepair 2 true (dieOf n).val (clusterOf n % 12) (n.val % 8) bank

/-- The copy to a cluster's spare core has ended: physical core 8 takes the logical number (R507). -/
def coreSwitched (n : CoreId) : M Unit := do
  freshCore n ((← get).physOf (clusterOf n) 8)
  remapCore n ((← get).physOf (clusterOf n) 8)
  modRep (fun r => { r with spareCoreUsed := clusterOf n :: r.spareCoreUsed, physCore := r.physCore.insert n.val 8 })
  raiseRepair 3 true (dieOf n).val (clusterOf n % 12) (n.val % 8) 8
  finishRetire 3 n.val

/-- A cluster needs no further repair: its marks go, and what waits for it completes. -/
def clusterSettled (d : Die) (k : Fin 12) : M Unit := do
  let cl := d.val * 12 + k.val
  modRep (fun r => { r with markedClusters := r.markedClusters.filter (· ≠ (d, k)) })
  finishRetire 4 cl
  eachM (clusterCores cl) (fun n => finishRetire 3 n.val)

/-- The copy to a spare cluster has ended (R509). -/
def clusterSwitched (d : Die) (k : Fin 12) (phys : Nat) : M Unit := do
  let cl := d.val * 12 + k.val
  setMap (fun m => m.filter (fun r => !recordOf d.val k.val none r))
  eachM (clusterCores cl) (fun n => do
    freshCore n ((d.val * 14 + phys) * 9 + n.val % 8)
    remapCore n ((d.val * 14 + phys) * 9 + n.val % 8))
  modify (fun s => { s with sram := { s.sram with
    bankErrs := s.sram.bankErrs.filter (fun (p : (Bool × Nat) × Nat) => !p.1.1 || p.1.2 / 32 != cl) } })
  modRep (fun r => { r with
    spareCoreUsed := r.spareCoreUsed.filter (· ≠ cl)
    physCore := r.physCore.filter (fun (p : Nat × Nat) => p.1 / 96 * 12 + p.1 % 96 / 8 ≠ cl)
    physCluster := r.physCluster.insert cl phys
    copies := r.copies.filter (fun j => j ≠ CopyJob.cluster d k phys) })
  raiseRepair 4 (decide (13 ≤ phys)) d.val k.val 0 phys
  clusterSettled d k
  eachM (clusterCores cl) (fun n => do
    if (← get).coreFit ((d.val * 14 + phys) * 9 + n.val % 8) then pure () else markCore n true)

/-- A marked cluster without a spare on its die is retired (R509). -/
def retireCluster (d : Die) (k : Fin 12) : M Unit := do
  let cl := d.val * 12 + k.val
  modRep (fun r => { r with retiredClusters := r.retiredClusters ++ [cl] })
  putFld (F.serving d) (putBits (← getFld (F.serving d)) k.val 1 0)
  putFld (F.granted d) (putBits (← getFld (F.granted d)) k.val 1 0)
  setMap (fun m => m.filter (fun r => !recordOf d.val k.val none r))
  eachM (clusterCores cl) (fun n => do
    freshCore n ((← get).physOf cl (n.val % 8))
    putFlag (F.mxRetired n) true
    putFld (F.mxWidth n) 0)
  raiseRepair 4 true d.val k.val 0 0xFF
  clusterSettled d k

/-- The first tick at which a marked cluster is idle: its copy to a spare cluster begins, or it is retired. -/
def execClusterSpare (d : Die) (k : Fin 12) (s : State) : Host.Outcome State Fault Refusal :=
  run (do
    let s ← get
    let cl := d.val * 12 + k.val
    guardWait (s.rep.markedClusters.contains (d, k) && (clusterCores cl).all s.coreIdle
      && !s.rep.copies.any (fun j => match j with
        | .cluster d' k' _ => d' == d && k' == k
        | _ => false))
    let used := s.rep.spareClustersUsed.getD d.val 0
    if used < 2 then modRep (fun r => { r with
      spareClustersUsed := r.spareClustersUsed.insert d.val (used + 1), copies := r.copies ++ [.cluster d k (12 + used)] })
    else retireCluster d k) s

/-- A copy to a spare ends: that of a cluster, else that of a bank, else that of a core, of an idle resource. -/
def execSpareCopyComplete (s : State) : Host.Outcome State Fault Refusal :=
  run (do
    let s ← get
    let free := fun (n : CoreId) => s.coreIdle n && !s.rep.copies.any (CopyJob.holds n)
    match s.rep.copies.head? with
    | some (.cluster d k phys) => clusterSwitched d k phys
    | some (.core n _) => coreSwitched n
    | some (.bank n b) => bankSwitched n b
    | none =>
      match s.sram.bankRemap.find? (fun p => free p.1) with
      | some (n, b) => bankSwitched n b
      | none =>
        match s.rep.marked.find? free with
        | some n => coreSwitched n
        | none => throw .wait) s

/-- RP_RETIRE (R510). -/
def execRpRetire (q : QIdx) (s : State) : Host.Outcome State Fault Refusal :=
  run (do
    let x ← sysStarted q 0x50
    sysRun q x (do
      let f := recField x.body
      let s ← get
      let bad := Err.code 2 0x51
      guardCode (zeroFrom x.body 6) 2 0x51
      let d ← orErr (finOf 4 (f 3 1)) bad
      let ref := s.sysRef q x.idx
      let hold := fun (kind number : Nat) => modRep (fun r => { r with
        retireWait := r.retireWait ++ [(ref, kind * 65536 + number)] })
      match f 2 1 with
      | 3 => do
        let n ← orErr (finOf 384 (d.val * 96 + f 4 1 * 8 + f 5 1)) bad
        guardCode (decide (f 4 1 < 12 ∧ f 5 1 < 8) && !s.flag (F.mxRetired n)) 2 0x51
        sysRunning q x
        hold 3 n.val
        markCore n false
      | 4 => do
        let k ← orErr (finOf 12 (f 4 1)) bad
        guardCode (f 5 1 == 0 && !s.rep.retiredClusters.contains (d.val * 12 + k.val)) 2 0x51
        sysRunning q x
        hold 4 (d.val * 12 + k.val)
        markCluster d k
      | 6 => do
        let w ← orErr (finOf 64 (f 4 1 * 4 + f 5 1)) bad
        guardCode (decide (f 4 1 / 4 = d.val ∧ f 5 1 < 4) && s.wellServes w) 2 0x51
        sysRunning q x
        hold 6 w.val
        modRep (fun r => { r with markedWells := w :: r.markedWells })
        settleWell w
      | _ => throw bad)) s

/-! ### Patrols (R166, R489–R491) -/

/-- Corrected errors of a scratchpad bank: past BANK_CE the bank is remapped, or its core retired (R167, R506). -/
def bankErrors (n : CoreId) (bank count : Nat) : M Unit := do
  let s ← get
  let key := (false, n.val * 16 + bank)
  let total := s.sram.bankErrs.getD key 0 + count
  modify (fun s => { s with sram := { s.sram with bankErrs := s.sram.bankErrs.insert key total } })
  if total < s.fld F.bankCe ∨ s.sram.bankRemap.contains (n, bank) then pure ()
  else if s.flag (F.mxBankSpared n) || s.sram.bankRemap.any (fun p => p.1 == n) then markCore n false
  else modify (fun s => { s with sram := { s.sram with bankRemap := s.sram.bankRemap ++ [(n, bank)] } })

/-- Corrected errors of a cluster store's bank (R508). -/
def storeErrors (cl bank count : Nat) : M Unit := do
  let s ← get
  let key := (true, cl * 32 + bank)
  let total := s.sram.bankErrs.getD key 0 + count
  modify (fun s => { s with sram := { s.sram with bankErrs := s.sram.bankErrs.insert key total } })
  if total < s.fld F.bankCe then pure ()
  else
    match clusterDie cl with
    | some (d, k) => markCluster d k
    | none => pure ()

/-- A poisoned word joins a list once. -/
def poisonIn (l : List Nat) (w : Nat) : List Nat := if l.contains w then l else w :: l

/-- A dirty pool-cache line with an uncorrectable error goes back with a poisoned tag; a clean one is discarded, to be
filled again (R490). -/
def MemSt.poisonLine (m : MemSt) (g : Nat) : MemSt :=
  let x := { m with lines := m.lines.erase g }
  if (m.dirty.find? g).isSome then
    { x with
      dirty := m.dirty.erase g
      tags := m.tags.insert g { (m.tags.getD g ⟨0, false, 0, false⟩) with ok := false } }
  else x

/-- What a patrol finds. -/
def execPatrolScrub (p : Patrol) (s : State) : Host.Outcome State Fault Refusal :=
  run (match p with
    | .corrected n bank count => bankErrors n bank.val count
    | .scratchWord n w => modify (fun s => { s with sram := { s.sram with
        spadPoison := poisonIn s.sram.spadPoison (n.val * 65536 + w % 65536) } })
    | .scratchTag n line =>
      let k := n.val * 4096 + line % 4096
      modify (fun s => { s with sram := { s.sram with
        spadTags := s.sram.spadTags.erase k, spad := s.sram.spad.clear (k * 1024) ((k + 1) * 1024) } })
    | .storeCorrected cl bank count => storeErrors cl.val bank.val count
    | .storeWord cl w => modify (fun s => { s with sram := { s.sram with
        storePoison := poisonIn s.sram.storePoison (cl.val * 2 ^ 18 + w % 2 ^ 18) } })
    | .poolLine g => modMem (fun m => m.poisonLine g)
    | .onDie j c u => do
      bumpBy (F.msCorrected j) c
      bumpBy (F.msUncorrected j) u
    | .poolCorrected d bank count => modify (fun s => { s with sram := { s.sram with
        poolErrs := s.sram.poolErrs.insert (d.val, bank) (s.sram.poolErrs.getD (d.val, bank) 0 + count) } })
    | .portHard cl => (match clusterDie cl.val with
      | some (d, k) => markCluster d k
      | none => pure ())
    | .onDieRow g => do
      let m := (← get).mem
      match stackOf m.partNow (g * 256) with
      | some j => do
        bump (F.msUncorrected j)
        modMem (fun m => { m with eccBad := if m.eccBad.contains g then m.eccBad else g :: m.eccBad })
      | none => pure ()) s

/-! ### Self-tests (R162–R164, R182) -/

/-- The die of a unit. -/
def unitDie : HwUnit → Nat
  | .core n => n.val / 96
  | .well x => x.val / 16
  | .coreDma n => n.val / 96
  | .dieDma d => d.val
  | .coll d => d.val

/-- A unit is tested with a core's kernel, or as a well. -/
def isWell : HwUnit → Bool
  | .well _ => true
  | _ => false

/-- The unit does nothing now. -/
def State.unitIdle (s : State) : HwUnit → Bool
  | .core n => s.coreIdle n
  | .well x => (s.wells.run.find? x).isNone
  | .coreDma n => (s.dmaOf (.core n)).chans.all (fun c => c.2.reqs.isEmpty)
  | .dieDma d => (s.dmaOf (.die d)).chans.all (fun c => c.2.reqs.isEmpty)
  | .coll d => s.jobs.all (fun j => j.2.die != d || j.2.ops.all (fun o => o.2.isEmpty))

/-- The image of a command is being restored to the core (R358). -/
def State.restoresTo (s : State) (n : CoreId) : Bool :=
  s.ctxs.any (fun p => p.2.restoring && p.2.images.any (fun i => i.cores.any (fun x => x.1 == n)))

/-- A test of an idle unit that owes none may begin: it is enabled, and the unit has no command to run (R163, R182). -/
def State.testAllowed (s : State) (u : HwUnit) : Bool :=
  match u with
  | .core n => s.flag (F.testEnable (dieOf n)) && s.coreReady n && !s.restoresTo n
  | .well x => (match finOf 4 (x.val / 16) with
      | some d => s.flag (F.wlTestEnable d)
      | none => false) && s.wellServes x && (s.nextWellCmd x).isNone
  | _ => false

/-- A test begins: at most one core, and one well, of a die at a time. -/
def execRollingSelfTest (u : HwUnit) (s : State) : Host.Outcome State Fault Refusal :=
  run (do
    let s ← get
    let need := s.rep.needTest.contains u
    guardWait (s.unitIdle u && (need || s.testAllowed u)
      && !s.rep.testing.any (fun t => unitDie t.1 == unitDie u && isWell t.1 == isWell u))
    modRep (fun r => { r with testing := r.testing ++ [(u, need)] })) s

/-- The step of the last completed test of a unit, as its register shows it. -/
def State.lastTest (s : State) : HwUnit → Nat
  | .core n => s.fld (F.mxLastTest n)
  | .well x => s.fld (F.wlLastTest x)
  | _ => 0

/-- The test of a unit is due at step `now`: within 96 steps, one for each core of a die, of the end of its INTERVAL (R163,
R182, log 102). -/
def State.testDue (s : State) (d : Die) (u : HwUnit) : Bool :=
  decide (s.fld (F.testInterval d) ≤ (s.stepNo + 2 ^ 32 - s.lastTest u) % 2 ^ 32 + 96)

/-- Of the units that may be tested and are due, the one whose last test is oldest begins its test, one core and one well
of each die at a time (R163, R182). -/
def beginDueTest (d : Die) (us : List HwUnit) : M Unit := do
  let s ← get
  let age := fun (u : HwUnit) => (s.stepNo + 2 ^ 32 - s.lastTest u) % 2 ^ 32
  let due := us.filter (fun u => s.unitIdle u && s.testAllowed u && s.testDue d u)
  match due.find? (fun u => due.all (fun v => decide (age v ≤ age u))) with
  | some u =>
    if s.rep.testing.any (fun t => unitDie t.1 == d.val && isWell t.1 == isWell u) then pure ()
    else modRep (fun r => { r with testing := r.testing ++ [(u, false)] })
  | none => pure ()

/-- At a tick the rolling self-tests that INTERVAL calls for begin. -/
def tickTests : M Unit :=
  eachM (List.finRange 4) (fun d => do
    beginDueTest d (((List.finRange 384).filter (fun n => n.val / 96 == d.val)).map HwUnit.core)
    beginDueTest d (((List.finRange 64).filter (fun x => x.val / 16 == d.val)).map HwUnit.well))

/-- A test found new faulty columns of a core: they wait for its next command (R164). -/
def coreColumns (n : CoreId) (cols : List (Fin 66)) : M Unit := do
  modRep (fun r => { r with pendCols := r.pendCols.insert n (r.pendCols.getD n [] ++ cols) })
  let r := (← get).rep
  let f := (r.coreCols.getD n []).length + (r.pendCols.getD n []).length
  putFld (F.mxFaulty n) (min 31 f)
  putFld (F.mxNextWidth n) (widthOf f)
  if widthOf f < 48 then markCore n false else pure ()

/-- A test found new faulty columns of a well (R182). -/
def wellColumns (x : WellId) (cols : List (Fin 66)) : M Unit := do
  let old := (← get).rep.wellCols.getD x []
  modRep (fun r => { r with wellCols := r.wellCols.insert x (old ++ cols) })
  putFld (F.wlFaulty x) (min 31 (old.length + cols.length))
  eachM cols.zipIdx (fun p =>
    raiseRepair 5 (decide (2 ≤ old.length + p.2 + 1)) (x.val / 16) (x.val / 4) (x.val % 4) p.1.val)
  settleWell x

/-- A unit is retired for good (R491, R493). -/
def retireUnit (u : HwUnit) : M Unit :=
  match u with
  | .core n | .coreDma n => markCore n true
  | .well x => do
    modRep (fun r => { r with markedWells := x :: r.markedWells })
    settleWell x
  | .dieDma _ | .coll _ => modRep (fun r => { r with retiredUnits := u :: r.retiredUnits })

/-- Columns of a test that were not known before. -/
def State.newColumns (s : State) (u : HwUnit) (cols : List (Fin 66)) : List (Fin 66) :=
  let known := match u with
    | .core n => s.rep.coreCols.getD n [] ++ s.rep.pendCols.getD n []
    | .well x => s.rep.wellCols.getD x []
    | _ => []
  cols.eraseDups.filter (fun c => !known.contains c)

/-- A test completes. -/
def execSelfTestComplete (u : HwUnit) (r : TestResult) (s : State) : Host.Outcome State Fault Refusal :=
  run (do
    let s ← get
    let d ← needSome (finOf 4 (unitDie u))
    guardWait (s.rep.testing.any (fun t => t.1 == u))
    modRep (fun r => { r with
      testing := r.testing.filter (fun t => t.1 ≠ u), needTest := r.needTest.filter (· ≠ u) })
    bump (F.testRun d)
    (match u with
     | .core n => putFld (F.mxLastTest n) s.stepNo
     | .well x => putFld (F.wlLastTest x) s.stepNo
     | _ => pure ())
    (match r with
     | .pass => pure ()
     | .columns cols => do
       let new := s.newColumns u cols
       if new.isEmpty then pure ()
       else do
         bump (F.testFound d)
         match u with
         | .core n => coreColumns n new
         | .well x => wellColumns x new
         | _ => pure ()
     | .fail => retireUnit u)
    (match u with
     | .coll d => do
       eachM ((← get).jobs.filter (fun j => j.2.die == d)) (fun j => eachM (List.finRange 64) (startOp j.1))
     | _ => pure ())) s

/-! ### Parity and stuck units (R491, R493, R504) -/

/-- The commands that use a unit end. -/
def endUnit (u : HwUnit) (e : Ending) : M Unit := do
  let s ← get
  match u with
  | .core n => endCore n e
  | .coreDma n => if s.unitIdle u then pure () else endCore n e
  | .well x =>
    match s.wells.run.find? x with
    | some r => endCore r.cmd.core e
    | none => pure ()
  | .dieDma d =>
    eachM (((s.dmaOf (.die d)).chans.flatMap (fun c => c.2.reqs.map (fun r => r.work s))).eraseDups) (fun w => endWork w e)
  | .coll d =>
    eachM (s.jobs.filter (fun j => j.2.die == d)) (fun j =>
      match (j.2.ops.flatMap (·.2)).head? with
      | some o => do
        endCore o.core e
        abortJob j.1 e.fault true
      | none => pure ())

/-- The unit owes a self-test. -/
def oweTest (u : HwUnit) : M Unit := modRep (fun r => { r with
  needTest := if r.needTest.contains u then r.needTest else r.needTest ++ [u] })

/-- A parity error. -/
def execParityError (u : HwUnit) (s : State) : Host.Outcome State Fault Refusal :=
  run (do
    endUnit u ⟨5, 0xB3, none⟩
    oweTest u) s

/-- No hold of R260, R265 or R267 applies to any work. -/
def State.noHold (s : State) : Bool := s.mem.fills.isEmpty && s.mem.retrain.isEmpty && s.mem.selfRefresh.isEmpty

/-- A DMA engine holds a request that does not wait for credit (R303, R493). -/
def State.dmaStalls (s : State) (e : DmaEng) : Bool :=
  (s.dmaOf e).chans.any (fun c => !c.2.reqs.isEmpty && (c.2.due.isNone || c.2.eligible))

/-- A unit is stuck: it is reset. A second reset within 65,536 steps retires it. Work that has been asked to stop has
stopped at once, so that only a well command or a DMA request is ever found without progress. -/
def execUnitStuck (u : HwUnit) (s : State) : Host.Outcome State Fault Refusal :=
  run (do
    let s ← get
    guardWait (match u with
      | .core _ | .coll _ => s.unitIdle u
      | .well _ => !s.unitIdle u && s.noHold
      | .coreDma n => s.noHold && s.dmaStalls (.core n)
      | .dieDma d => s.noHold && s.dmaStalls (.die d))
    endUnit u ⟨0xE, 0xB2, none⟩
    bump F.hung
    oweTest u
    let last := s.rep.unitResets.find? u
    modRep (fun r => { r with unitResets := r.unitResets.insert u s.stepNo })
    match last with
    | some t => if (s.stepNo + 2 ^ 48 - t) % 2 ^ 48 ≤ 65536 then retireUnit u else pure ()
    | none => pure ()) s

/-! ### Drain markers (R503, R504) -/

/-- An endpoint has acknowledged the marker of the oldest drain that waits for it. -/
def markerDone (endpoint : Nat) : M Unit := do
  let s ← get
  let d ← needSome (s.rep.drains.find? (fun d => d.endpoints.contains endpoint))
  let left := d.endpoints.filter (· ≠ endpoint)
  modRep (fun r => { r with drains :=
    if left.isEmpty then r.drains.erase d else r.drains.map (fun x => if x = d then { x with endpoints := left } else x) })
  refreshDrains
  if left.isEmpty then finishTeardown d.ctx else pure ()

def execDrainMarkerAck (endpoint : Nat) (s : State) : Host.Outcome State Fault Refusal := run (markerDone endpoint) s

/-- A unit has held a marker for one tick: it is reset, and the marker counts as acknowledged. -/
def execDrainMarkerStuck (endpoint : Nat) (s : State) : Host.Outcome State Fault Refusal :=
  run (do
    markerDone endpoint
    bump F.drainStuck
    bump F.hung) s

/-! ### Plinth cores (R496–R498) and the module fault (R518) -/

/-- FIRMWARE_ROLE_CHANGE for a role (R498). -/
def roleChanged (k : Fin 4) (cause former : Nat) : M Unit := do
  let s ← get
  systemEvent 0x09 0 (k.val + cause * 16 + s.fld (F.roleActive k.val) * 2 ^ 8 + former * 2 ^ 12
    + s.fld (F.roleStandby k.val) * 2 ^ 16 + s.fld (F.roleNoStandby k.val) * 2 ^ 19)

/-- A plinth core is retired: its role runs without a standby (R497). -/
def retirePlinth (k : Fin 4) (core : Nat) : M Unit := do
  putFld (F.plinth core) 3
  putFlag (F.roleNoStandby k.val) true
  raiseRepair 9 true (core / 2) core 0 0xFF

/-- A module fault: every engine stops, ALERT# is asserted, the spillways close (R518). -/
def enterModuleFault : M Unit := do
  putFlag F.moduleFault true
  modify (fun s => { s with rep := { s.rep with moduleFault := true }, pins := { s.pins with alert := true } })
  closeSpillways

/-- The role has a standby that can take over now. -/
def State.standbyReady (s : State) (k : Fin 4) : Bool :=
  !s.flag (F.roleNoStandby k.val) && s.fld (F.plinth (s.fld (F.roleStandby k.val))) == 1

/-- The active core of a role, or its standby, has missed its heartbeats. In an update the standby takes the role with the
new image once it has caught up (R538). -/
def execHeartbeatMiss (k : Fin 4) (standby : Bool) (s : State) : Host.Outcome State Fault Refusal :=
  run (do
    let s ← get
    let a := s.fld (F.roleActive k.val)
    let b := s.fld (F.roleStandby k.val)
    if standby then do
      guardWait (s.standbyReady k)
      retirePlinth k b
      if s.updating k.val then stopUpdate 1 0xC3 else pure ()
    else if s.updating k.val then pure ()
    else if s.standbyReady k then do
      putFld (F.roleActive k.val) b
      putFld (F.roleStandby k.val) a
      putFld (F.plinth b) 0
      putFld (F.plinth a) 2
      modRep (fun r => { r with takeover := r.takeover ++ [k.val] })
      roleChanged k 1 a
    else enterModuleFault) s

/-- The failed core has run its self-test, and reloaded the image where it passed. -/
def execTakeoverComplete (k : Fin 4) (pass : Bool) (s : State) : Host.Outcome State Fault Refusal :=
  run (do
    let s ← get
    guardWait (s.rep.takeover.contains k.val)
    modRep (fun r => { r with takeover := r.takeover.filter (· ≠ k.val) })
    let b := s.fld (F.roleStandby k.val)
    if pass then putFld (F.plinth b) 1 else retirePlinth k b) s

/-- A failure finds no spare. -/
def execModuleFault (cause : ModuleFaultCause) (s : State) : Host.Outcome State Fault Refusal :=
  run (do
    let s ← get
    guardWait (match cause with
      | .role k => !s.standbyReady k
      | .security | .cxlPort => true)
    enterModuleFault) s

/-! ### What start-up finds (R12, R16, R162, R182, R264, R507–R509, R531) -/

/-- A find of WIPE_BIST: columns are bypassed, and what needs a spare is marked for it. -/
def applyFind : StartFind → M Unit
  | .array d cl core cols => do
    let phys := (d.val * 14 + cl.val) * 9 + core.val
    let all := cols.eraseDups
    modRep (fun r => { r with arrays := r.arrays.insert phys all })
    match finOf 384 (d.val * 96 + cl.val * 8 + core.val) with
    | some n =>
      if cl.val < 12 ∧ core.val < 8 then do
        presentCore n all
        eachM all.zipIdx (fun p => raiseRepair 1 (decide (1 ≤ p.2)) d.val cl.val core.val p.1.val)
      else pure ()
    | none => pure ()
  | .core d cl core => modRep (fun r => { r with deadCores := ((d.val * 14 + cl.val) * 9 + core.val) :: r.deadCores })
  | .bank n b => do
    if (← get).flag (F.mxBankSpared n) then modRep (fun r => { r with deadCores :=
      (((dieOf n).val * 14 + clusterOf n % 12) * 9 + n.val % 8) :: r.deadCores })
    else bankSwitched n b.val
  | .cluster d k => markCluster d k
  | .well x cols => wellColumns x cols.eraseDups
  | .plinth _ | .lane _ _ _ => pure ()

/-- The spares take up what is marked, cores first; nothing has to be copied. -/
def settleStart : Nat → M Unit
  | 0 => pure ()
  | fuel + 1 => do
    let s ← get
    match s.rep.marked.head? with
    | some n => do
      coreSwitched n
      settleStart fuel
    | none =>
      match s.rep.markedClusters.head? with
      | some (d, k) => do
        let used := s.rep.spareClustersUsed.getD d.val 0
        if used < 2 then do
          modRep (fun r => { r with spareClustersUsed := r.spareClustersUsed.insert d.val (used + 1) })
          clusterSwitched d k (12 + used)
        else retireCluster d k
        settleStart fuel
      | none => pure ()

/-- Every repair that the finds of WIPE_BIST call for is made: all arrays are known before any spare is chosen. -/
def repairAtStart (fs : List StartFind) : M Unit := do
  eachM fs applyFind
  eachM (List.finRange 384) (fun n => do
    let s ← get
    if s.coreFit (s.physOf (clusterOf n) (n.val % 8)) then pure () else markCore n true)
  settleStart 1000

/-- A plinth core that does not start: its role runs on its standby's place, or without a standby (R16, R531). -/
def plinthAtStart (k : Fin 8) : M Unit :=
  eachM (List.finRange 4) (fun r => do
    let s ← get
    let a := s.fld (F.roleActive r.val)
    let b := s.fld (F.roleStandby r.val)
    if (a == k.val || b == k.val) && !s.flag (F.roleNoStandby r.val) then do
      if a = k.val then do
        putFld (F.roleActive r.val) b
        putFld (F.roleStandby r.val) a
        putFld (F.plinth b) 0
      else pure ()
      retirePlinth r k.val
    else pure ())

/-- A failed lane of a channel takes its spare; the answer is whether there was one (R264). -/
def laneAtStart (j : Stack) (ch : Fin 32) (lane : Fin 80) : M Bool := do
  let spare := spareLane lane.val
  if (← get).mem.lanes.contains (j, ch, spare) then pure false
  else do
    modMem (fun m => { m with lanes := m.lanes ++ [(j, ch, spare)] })
    refreshSpared j ch
    raiseRepair 7 true (j.val / 4) j.val ch.val lane.val
    pure true

end Sys2Proof.Machine
end

