-- ==== Sys2Proof/Machine/HostLink.lean ====
section
/-! DEFINITION. The host attachment: the link, functions, the host-managed window, the coherence cache, completions of
host requests, peer signals through the switch, MSI-X (R441–R459). -/

namespace Sys2Proof.Machine

def modCxl (f : CxlSt → CxlSt) : M Unit := modify (fun s => { s with cxl := f s.cxl })

/-! ### The link and the functions (R441–R444, R459) -/

/-- The link has trained: lanes and rate code. -/
def execCxlLinkTrained (width rate : Nat) (s : State) : Host.Outcome State Fault Refusal :=
  run (do
    guardWait ([1, 2, 4, 8].contains width && decide (1 ≤ rate ∧ rate ≤ 6))
    putFld F.cxWidth width
    putFld F.cxRate rate
    putFlag F.cxDegraded (decide (width < 8 ∨ rate < 6))) s

/-- The link goes down. -/
def execCxlLinkDown (s : State) : Host.Outcome State Fault Refusal :=
  run (do
    putFld F.cxWidth 0
    putFld F.cxRate 0
    putFlag F.cxDegraded true) s

/-- The host writes NumVFs: VFs above it are removed, with their MSI-X vectors (R442). -/
def execNumvfsWrite (n : Nat) (s : State) : Host.Outcome State Fault Refusal :=
  run (do
    guardWait (decide (n ≤ 1024))
    modCxl (fun x => { x with
      numVfs := n, vecs := x.vecs.filter (fun (p : (Ctx × Fin 2) × VecSt) => decide (p.1.1.val ≤ n)) })) s

/-- A Function Level Reset of VF c: its context is reset, and its MSI-X vectors are as PCI Express leaves them. -/
def execFunctionLevelReset (c : Ctx) (s : State) : Host.Outcome State Fault Refusal :=
  run (do
    guardWait (decide (1 ≤ c.val ∧ c.val ≤ (← get).cxl.numVfs))
    modCxl (fun x => { x with vecs := x.vecs.filter (fun (p : (Ctx × Fin 2) × VecSt) => p.1.1 ≠ c) })
    resetContext c .flr none) s

/-- The host unmasks a vector: a pending message is sent, unless the vector's interval still runs (R457). -/
def execMsixVectorUnmask (c : Ctx) (v : Fin 2) (s : State) : Host.Outcome State Fault Refusal :=
  run (do
    guardWait (decide (c.val ≤ (← get).cxl.numVfs))
    let x := (← get).cxl.vecs.getD (c, v) .initial
    modCxl (fun y => { y with vecs := y.vecs.insert (c, v) { x with masked := false } })
    if x.pending then fireMsix c v else pure ()) s

/-! ### The host-managed window (R450–R452) -/

/-- Bytes of the window. -/
def State.windowBytes (s : State) : Nat := s.fld F.hdmSize * 2 ^ 28

/-- R450 holds of a window of `size` units of 256 MiB at unit `base`. -/
def State.windowOk (s : State) (base size : Nat) : Bool :=
  decide (1 ≤ size ∧ size ≤ 256 ∧ (base + size) * 2 ^ 28 ≤ allocTop) &&
    (match windowOf s.mem.partNow (base * 2 ^ 28) with
     | some w => decide ((base + size) * 2 ^ 28 ≤ w.base + w.size)
     | none => false)

/-- A write of CX_HDM: SIZE only while VALID is clear; VALID is set only where R450 holds. -/
def writeHdm (h : Half) (v : W64) : M Unit := do
  let s ← get
  let on := s.flag F.hdmValid
  let t := s.checkedWrite .cxHdm h v (fun lo _ => if lo = 8 then !on else true)
  if t.flag F.hdmValid && !on && !s.windowOk (t.fld F.hdmBase) (t.fld F.hdmSize) then set (t.setFlag F.hdmValid false)
  else set t

def execCxHdmValid (h : Half) (v : W64) (s : State) : Host.Outcome State Fault Refusal := run (writeHdm h v) s

/-- A write of CX_HDM_BASE: ignored while VALID is set. -/
def writeHdmBase (h : Half) (v : W64) : M Unit :=
  modify (fun s => if s.flag F.hdmValid then s else s.plainWrite .cxHdmBase h v)

/-- The host commits the HDM decoder. -/
def execHdmDecoderCommit (base size : Nat) (s : State) : Host.Outcome State Fault Refusal :=
  run (do modCxl (fun x => { x with hdm := (base, size, (decide (size = s.windowBytes))) })) s

/-- The slot and DPA of a window address, where the host may access it (R451). -/
def State.windowSlot (s : State) (a n : Nat) : Option (Nat × Nat) :=
  if s.flag F.hdmValid ∧ a + n ≤ s.windowBytes then
    (finOf 256 (a / 2 ^ 28)).bind (fun k =>
      if s.flag (F.segValid k) then some (s.fld (F.segSlot k), s.fld F.hdmBase * 2 ^ 28 + a) else none)
  else none

/-- A host CXL.mem access to a line: window address, bytes to store or length to read. A failed read is answered with
poison, a failed write is discarded. A line that the host reads may stay in its caches. -/
def execHostMemAccess (addr : Nat) (store : Option (List Byte)) (len : Nat) (s : State) :
    Host.Outcome State Fault Refusal :=
  run (do
    let s ← get
    let n := match store with
      | some b => b.length
      | none => len
    guardWait (decide (1 ≤ n ∧ addr % 64 + n ≤ 64))
    let r ← attempt (match s.windowSlot addr n with
      | none => throw .protection
      | some (slot, dpa) => if s.inCistern dpa then throw .protection else ignoringHeld (match store with
        | some b => do
          checkWrite slot (dpa / 256) false
          writeGranule slot dpa b
          pure (dpa, [])
        | none => do
          let b ← readDpa slot dpa n
          pure (dpa, b)))
    match r, store with
    | .ok (dpa, b), none => do
      modCxl (fun x => { x with held := if x.held.contains (dpa / 64) then x.held else x.held ++ [dpa / 64] })
      emit (.hostReply b false)
    | .ok _, some _ => pure ()
    | .error _, some _ => bump F.hdmErr
    | .error _, none => do
      bump F.hdmErr
      let a ← fresh
      emit (.hostReply (leBytes n (Config.poisonData a)) true)) s

/-- A back-invalidation snoop of a held line is answered: the host holds it no longer. -/
def execBackInvalidate (line : Nat) (s : State) : Host.Outcome State Fault Refusal :=
  run (do
    guardWait ((← get).cxl.held.contains line)
    emit (.snoop line)
    modCxl (fun x => { x with held := x.held.filter (· ≠ line) })) s

/-! ### The coherence cache (R448) -/

/-- The host snoops a line of its memory: a dirty one is written back, and the cache gives it up. -/
def execHostSnoop (line : Nat) (s : State) : Host.Outcome State Fault Refusal :=
  run (do
    eachM ((← get).cxl.coh.filter (fun p => p.1.2 == line && p.2.1)) (fun p => emit (.hostWrite p.1.1 (64 * line) p.2.2))
    modCxl (fun x => { x with coh := x.coh.filter (fun (p : (Ctx × Nat) × Bool × List Byte) => p.1.2 ≠ line) })) s

/-- A request was made through the aperture. -/
def HostUse.aperture : HostUse → Bool
  | .load _ | .store _ | .atomic .. => true
  | _ => false

/-- An ATS invalidation of a function completes: no access that used its entries is outstanding. -/
def execAtsInvalidation (c : Ctx) (s : State) : Host.Outcome State Fault Refusal :=
  run (do
    guardWait (!(← get).cxl.reqs.any (fun r => r.fn == c && r.use.aperture))
    modCxl (fun x => { x with ats := x.ats.filter (fun p => p.1 ≠ c) })) s

/-! ### Completions (R446–R449) -/

/-- Give the pending global access that waits for a request its data. -/
def fillGl (n : CoreId) (id : Nat) (bytes : List Byte) : M Unit := do
  match (← get).cores.find? n with
  | none => pure ()
  | some k =>
    match k.gl.find? (fun g => g.host == some id) with
    | none => pure ()
    | some g => do
      let dest ← (match g.dest with
        | .dRaw r ext => do
          let d ← loadedDesc n k r ext bytes
          pure (GlDest.d r d)
        | x => pure (x.fill bytes))
      modCore n (fun k => { k with gl := k.gl.map (fun y =>
        if y.host = some id then { y with dest := dest, host := none } else y) })

/-- A host request of a core's aperture access is answered with the bytes of its lines. -/
def apertureData (r : HostReq) (bytes : List Byte) : M Unit := do
  modCxl (fun x => { x.cohFill r.fn r.addr r.len bytes with
    ats := if x.ats.contains (r.fn, r.addr / 4096) then x.ats else ((r.fn, r.addr / 4096) :: x.ats).take 4096 })
  let held := ((← get).cxl.cohRead r.fn r.addr r.len false).getD []
  match r.use with
  | .load n => fillGl n r.id held
  | .store n => do
    modCxl (fun x => x.cohWrite r.fn r.addr r.data)
    fillGl n r.id []
  | .atomic n op b c w => do
    modCxl (fun x => x.cohWrite r.fn r.addr (leBytes w (atomicNew op (8 * w) (leNat held) b.toNat c.toNat)))
    fillGl n r.id held
  | _ => pure ()
  cohTrim (hostLines r.addr r.len)

/-- The core access that a request serves faults. -/
def apertureFault (n : CoreId) (id : Nat) (e : Err) : M Unit := do
  match (← get).cores.find? n with
  | none => pure ()
  | some k =>
    match k.gl.find? (fun g => g.host == some id) with
    | some g => coreFault n g.pc e
    | none => pure ()

/-- A request to host memory ends with a fault. -/
def hostFails (r : HostReq) (e : Err) : M Unit :=
  match r.use with
  | .dmaRead e' ch order _ => requestFailed e' ch order (2 * r.id) e
  | .dmaWrite e' ch order => requestFailed e' ch order (2 * r.id) e
  | .flush => pure ()
  | .load n | .store n | .atomic n .. => apertureFault n r.id e

/-- The bytes that a completion must carry: whole lines for the aperture, the request's bytes for DMA. -/
def HostReq.answer (r : HostReq) : Nat := if r.use.aperture then 64 * (hostLines r.addr r.len).length else r.len

/-- A completion arrives for a request to host memory. -/
def execHostRequestCompletion (id : Nat) (res : HostResult) (s : State) : Host.Outcome State Fault Refusal :=
  run (do
    let r ← needSome ((← get).cxl.reqs.find? (fun r => r.id == id))
    guardWait (match res with
      | .data b => b.length == r.answer
      | .refused => r.use.aperture
      | _ => true)
    modCxl (fun x => { x with reqs := x.reqs.filter (fun y => y.id ≠ id) })
    match res with
    | .data b =>
      (match r.use with
       | .dmaRead e ch order off => dataIn e ch order off (2 * id) b
       | .dmaWrite e ch order => writeDone e ch order (2 * id)
       | .flush => pure ()
       | .load n | .store n | .atomic n .. => do
         match ← attempt (apertureData r b) with
         | .ok _ => pure ()
         | .error e => apertureFault n id e)
    | .unreachable => do
      bump F.hostFault
      hostFails r (.code 3 0x90)
    | .poison => do
      bump F.hostFault
      hostFails r (.code 5 0x91)
    | .refused => hostFails r .translation) s

/-! ### Peer signals (R455) -/

/-- A write to the signal window: discarded, or applied as a remote signal and completed. -/
def execUioSignal (rid : BitVec 16) (aligned : Bool) (msg : List Byte) (s : State) : Host.Outcome State Fault Refusal :=
  run (do
    let f := recField msg
    let entry ← findPeer (f 0 2)
    if (entry.map (·.2)) ≠ some rid.toNat ∨ !aligned ∨ msg.length ≠ 32 ∨ f 9 7 ≠ 0 ∨ f 24 8 ≠ 0 ∨ 2 ≤ f 8 1 ∨
        (f 7 1 ≠ 1 ∧ f 7 1 ≠ 2) then bump F.uioReject
    else do
      (match finOf 1025 (f 4 2), finOf 256 (f 6 1) with
       | some c, some k => remoteSignal (f 0 2) (f 2 2) c k (f 7 1) (f 16 8) (f 8 1 == 1)
       | _, _ => bump F.feRemoteReject)
      emit (.uioDone rid.toNat)) s

/-- The completion of a UIO signal write, or its absence within E2E_US. -/
def execUioCompletion (tag : Nat) (ok : Bool) (s : State) : Host.Outcome State Fault Refusal :=
  run (do
    guardWait ((← get).cxl.uio.any (fun u => u.tag == tag))
    modCxl (fun x => { x with uio := x.uio.filter (fun u => u.tag ≠ tag) })
    if ok then pure () else bump F.feSignalLost) s

/-! ### DOE Discovery (R456) -/

/-- The protocols of the mailbox: vendor and type. -/
def doeProtocols : List (Nat × Nat) := [(0x0001, 0), (0x1D7A, 1), (0x1D7A, 2)]

/-- A DOE Discovery request: vendor, type, and the next index. -/
def execDoeDiscovery (index : Nat) (s : State) : Host.Outcome State Fault Refusal :=
  runAny (do
    let p := nthD doeProtocols index (0xFFFF, 0)
    emit (.doe (leBytes 2 p.1 ++ leBytes 1 p.2 ++ leBytes 1 (if index + 1 < doeProtocols.length then index + 1 else 0)))) s

end Sys2Proof.Machine
end

