-- ==== Sys2Proof/Machine/Security.lean ====
section
/-! DEFINITION. Identity, keys and life cycle: the commands of the security block, attestation over DOE, entropy, the
life-cycle transitions, and what a start of mask ROM finds (R462–R487, R531). -/

namespace Sys2Proof.Machine

def modSec (f : SecSt → SecSt) : M Unit := modify (fun s => { s with sec := f s.sec })

/-! ### Restart (R483, R531, R562) -/

/-- SE_LC and SE_SERIAL from OTP; the state of the rows is in force (R479, R487). -/
def State.showOtp (s : State) : State :=
  let s1 := (s.setReg .seSerial s.sec.serial).setFld F.lcState s.sec.lcRows
  let s2 := (s1.setFld F.lcPending s.sec.lcRows).setFlag F.lcActive s.activeOwner.isSome
  (s2.setFld F.lcOwner ((s.activeOwner.map (·.2)).getD 0)).setFld F.lcUsed ((s.sec.owners.filter (fun o => o.state ≠ 0)).length)

/-- Mask ROM starts, or waits for PERST#: OTP, the straps, the input and a thermal trip stay; everything else is volatile
and gone; the spillways are closed; no context exists. Key identities are never used again. -/
def State.restart (s : State) : State :=
  let r := State.reset
  let t : State := { r with
    pending := s.pending, out := s.out, seed := s.seed, ctxs := [], mem := { r.mem with nextKey := s.mem.nextKey }
    fab := { r.fab with closed := List.finRange 8, calibrated := [] }
    sec := { r.sec with
      serial := s.sec.serial, rootDigest := s.sec.rootDigest, identitySeed := s.sec.identitySeed
      transportSeed := s.sec.transportSeed, mfgChain := s.sec.mfgChain, factory := s.sec.factory, owners := s.sec.owners, lcRows := s.sec.lcRows }
    pow := { r.pow with booting := true, powered := s.pow.powered, armed := s.pow.armed }
    pins := { r.pins with
      perst := s.pins.perst, thermtrip := s.pins.thermtrip, pwrGood := s.pins.pwrGood, mid := s.pins.mid } }
  let u := (List.finRange 16).foldl (fun (x : State) p => x.setFlag (F.portSpill p) true) t
  let w := (u.setFlag F.pwTripped (s.flag F.pwTripped)).setFld F.pwMode (if s.flag F.pwTripped then s.fld F.pwMode else 0)
  let v := (w.setFlag F.pwReady false).setFld F.bootStage 0
  (v.setFld F.deviceId s.pins.mid.toNat).showOtp

/-- The OTP writes of a transition (R482, R483). -/
def SecSt.transition (x : SecSt) (j : LcJob) : SecSt :=
  let dead := decide (j.target = 4)
  { x with
    owners := if j.target = 2 then setNth x.owners j.owner.val ⟨1, j.digest, j.chain⟩
      else x.owners.map (fun o => if o.state = 1 then { o with state := 2 } else o)
    identitySeed := if dead then none else x.identitySeed
    transportSeed := if dead then none else x.transportSeed
    lcRows := j.target, lcJob := none }

/-- The OTP writes of a transition that power loss cuts short after `n` of its parts: digest and chain, the record's
state, the seeds, the rows (R464, R483). -/
def SecSt.cutShort (x : SecSt) (j : LcJob) (n : Nat) : SecSt :=
  if 4 ≤ n then x.transition j
  else
    let dead := decide (j.target = 4 ∧ n = 3)
    { x with
      owners := if j.target = 2 then (if 1 ≤ n then setNth x.owners j.owner.val ⟨2, j.digest, j.chain⟩ else x.owners)
        else if 2 ≤ n then x.owners.map (fun o => if o.state = 1 then { o with state := 2 } else o) else x.owners
      identitySeed := if dead then none else x.identitySeed
      transportSeed := if dead then none else x.transportSeed
      lcJob := none }

/-- Power is lost, or PERST# asserted: a transition under way ends where it stands. -/
def cutTransition : M Unit := do
  match (← get).sec.lcJob with
  | none => pure ()
  | some j => do
    let n ← fresh
    modSec (fun x => x.cutShort j (Config.otpWrites n % 5))

/-! ### Bodies and checks (R468, R469) -/

/-- An object of a body: DEVICE kind, with a right, and at least `n` bytes. -/
def seObject (x : Cmd) (o right n : Nat) : M HandleObj := do
  let h ← orErr (x.handleAt o) (.code 2 0xA0)
  guardCode (h.kind == 1 && bitOf h.rights right && decide (n ≤ h.size)) 2 0xA0
  pure h

/-- An SE_LC is running. -/
def seFree : M Unit := do guardCode (← get).sec.lcJob.isNone 2 0xA3

/-! ### SE_REGISTER (R467) -/

/-- SE_REGISTRY.USED. -/
def refreshRegistry : M Unit := modify (fun s =>
  s.setFld F.regUsed (((List.finRange 32).filter (fun k => (s.sec.registry.find? k).isSome)).map (fun k => 2 ^ k.val)).sum)

def execSeRegister (q : QIdx) (s : State) : Host.Outcome State Fault Refusal :=
  run (do
    let x ← sysStarted q 0x30
    sysRun q x (do
      let f := recField x.body
      let k ← orErr (finOf 32 (f 2 1)) (.code 2 0xA0)
      guardCode (decide (f 3 1 ≤ 3) && f 4 4 == 0 && zeroFrom x.body 0x28) 2 0xA0
      seFree
      modSec (fun y => { y with
        registry := if f 3 1 = 0 then y.registry.erase k else y.registry.insert k (f 3 1, f 8 32) })
      refreshRegistry
      endSys ((← get).sysRef q x.idx) 0 0)) s

/-! ### Sets (R473, R474) -/

/-- The unwrap key of a join package (R474). -/
def joinKey (ss setId serial : Nat) : Nat :=
  Config.shake256 (natBytes (leBytes 32 ss ++ leBytes 16 setId ++ leBytes 8 serial))

/-- The set key of a join package; none where the unwrap fails, or the module decapsulates nothing (R465, R474). -/
def State.unwrapSet (s : State) (b : List Byte) : Option Nat :=
  s.sec.transportSeed.bind (fun seed =>
    Config.keyUnwrap (joinKey (Config.kemOpen seed (leNat ((b.drop 0x40).take 1088))) (recField b 0x10 16) (recField b 8 8))
      (natBytes ((b.drop 0x480).take 40)))

/-- The fields of a join package lie within their ranges, and it is for this module. -/
def State.joinPackageOk (s : State) (b : List Byte) : Bool :=
  let f := recField b
  f 0 4 == 1 && f 4 4 == 0 && f 0x4A8 24 == 0 && f (0xC60 + 3309) 19 == 0 && f 8 8 == s.fld F.seSerial

/-- The checks of SE_SET_JOIN in the order of R469; the slot, the identifier and the key. -/
def joinChecks (x : Cmd) : M (Fin 16 × Nat × Nat) := do
  let f := recField x.body
  let k ← orErr (finOf 16 (f 2 1)) (.code 2 0xA0)
  guardCode (f 3 1 == 0 && zeroFrom x.body 8) 2 0xA0
  let h ← seObject x 4 0 6496
  let b ← readAs 0xA0 (vaRead 0 h.address 6496)
  let s ← get
  guardCode (s.joinPackageOk b) 2 0xA0
  guardCode s.ownerState 2 0xA2
  let setId := recField b 0x10 16
  guardCode (!s.sec.sets.any (fun p => p.1 == k || p.2.1 == setId)) 2 0xA3
  seFree
  let key := (b.drop 0x4C0).take 1952
  let digest := Config.shake256 (natBytes key)
  guardCode (digest == recField b 0x20 32 && s.registered 3 digest) 0xC 0xA1
  checkSecurity (if signatureOk key (b.take 0xC60) ((b.drop 0xC60).take 3309) then some () else none) 0xA1
  let set ← checkSecurity (s.unwrapSet b) 0xA1
  pure (k, setId, set)

/-- The set key takes its slot. -/
def joinSet (ref : SysRef) (x : Cmd) : M Unit := do
  let (k, setId, key) ← joinChecks x
  modSec (fun y => { y with sets := y.sets.insert k (setId, key) })
  putFld (F.setId0 k) (setId % 2 ^ 64)
  putFld (F.setId1 k) (setId / 2 ^ 64)
  refreshSets
  endSys ref 0 0

/-- SE_SET_JOIN. Without entropy it waits (R462). -/
def execSeSetJoin (q : QIdx) (s : State) : Host.Outcome State Fault Refusal :=
  run (do
    let x ← sysStarted q 0x31
    sysRun q x (do
      let ref := (← get).sysRef q x.idx
      if (← getFlag F.entropyFail) then do
        let _ ← joinChecks x
        sysRunning q x
        modSec (fun y => { y with joinWait := y.joinWait ++ [(ref, 0)] })
      else joinSet ref x)) s

/-- SE_SET_LEAVE. -/
def execSeSetLeave (q : QIdx) (s : State) : Host.Outcome State Fault Refusal :=
  run (do
    let x ← sysStarted q 0x32
    sysRun q x (do
      let k ← orErr (finOf 16 (recField x.body 2 1)) (.code 2 0xA0)
      guardCode (zeroFrom x.body 3) 2 0xA0
      let s ← get
      guardCode (!(s.sec.sets.find? k).any (fun p => s.setBusy p.1)) 2 0xA3
      seFree
      modSec (fun y => { y with sets := y.sets.erase k })
      putFld (F.setId0 k) 0
      putFld (F.setId1 k) 0
      refreshSets
      endSys (s.sysRef q x.idx) 0 0)) s

/-! ### Attestation (R456, R470–R472) -/

/-- SE_ATTEST: the report is written at the destination. -/
def execSeAttest (q : QIdx) (s : State) : Host.Outcome State Fault Refusal :=
  run (do
    let x ← sysStarted q 0x33
    sysRun q x (do
      guardCode (recField x.body 2 2 == 0 && zeroFrom x.body 0x28) 2 0xA0
      let h ← seObject x 4 1 (reportDelivery (← get) (leBytes 3840 0)).length
      seFree
      match ← signedReport 3 ((x.body.drop 8).take 32) with
      | none => throw (.code 2 0xA2)
      | some r => do
        readAs 0xA0 (vaWrite 0 h.address (reportDelivery (← get) r))
        endSys ((← get).sysRef q x.idx) 0 0)) s

/-- ATTEST over the DOE mailbox: the report, or the status of a module that signs none. -/
def execAttest (nonce : List Byte) (s : State) : Host.Outcome State Fault Refusal :=
  runAny (do
    let s ← get
    guardWait (nonce.length == 32 && s.unstopped && s.pow.powered && !s.pins.perst && s.fld F.bootStage != 0
      && s.fld F.bootStage != 15)
    match ← signedReport 1 nonce with
    | none => emit (.doe (leBytes 4 0xFFFFFFFF))
    | some r => emit (.doe (reportDelivery (← get) r))) s

/-! ### SE_LC (R479–R483) -/

/-- The offset of the signature in an SE_LC request with a chain of `n` bytes (R481). -/
def lcSigned (n : Nat) : Nat := ceilDiv (0x7E0 + n) 32 * 32

/-- The lowest UNUSED owner record. -/
def State.unusedOwner (s : State) : Option Nat := (s.sec.owners.zipIdx.find? (fun p => p.1.state == 0)).map (·.2)

/-- The transition and the owner record are allowed (R482). -/
def State.lcAllowed (s : State) (source target owner : Nat) : Bool :=
  let back := source == 1 || source == 3
  source == s.fld F.lcState &&
    ((back && target == 2 && s.unusedOwner == some owner) || (back && target == 4)
      || (source == 2 && (target == 3 || target == 4) && (s.activeOwner.map (·.2)) == some owner))

/-- The fields of a request lie within their ranges, and it is for this module; the key, its digest and the signature of
an unsigned transition are zero (R481, R482). -/
def State.lcRequestOk (s : State) (b : List Byte) (target : Nat) : Bool :=
  let f := recField b
  let n := f 0x30 4
  f 0 4 == 1 && decide (f 4 1 ≤ 4 ∧ f 6 1 ≤ 3) && f 5 1 == target && f 7 1 == 0 && f 0x34 12 == 0
    && f 8 8 == s.fld F.seSerial && f (lcSigned n + 3309) 19 == 0
    && ((f 4 1 != 1 && f 4 1 != 3) || target != 4 || (f 0x10 32 == 0 && f 0x40 1952 == 0 && f (lcSigned n) 3309 == 0))

/-- The signatures of a request: the signer is the root that R482 names, and a new owner's chain runs from a leaf over
the identity key to it. -/
def lcSignatures (b : List Byte) (source target : Nat) : M Unit := do
  let s ← get
  let n := recField b 0x30 4
  let key := (b.drop 0x40).take 1952
  let digest := Config.shake256 (natBytes key)
  if (source = 1 ∨ source = 3) ∧ target = 4 then pure ()
  else do
    guardCode (digest == recField b 0x10 32 && (target == 2 || (s.activeOwner.map (·.1.digest)) == some digest)) 0xC 0xA1
    checkSecurity (if signatureOk key (b.take (lcSigned n)) ((b.drop (lcSigned n)).take 3309) then some () else none) 0xA1
    checkSecurity (if target ≠ 2 ∨ Config.chainLeaf (natBytes ((b.drop 0x7E0).take n)) =
        s.sec.identitySeed.map (fun k => (digest, Config.mldsaPublic k)) then some () else none) 0xA1

/-- The checks of SE_LC in the order of R469; the transition. -/
def lcChecks (q : QIdx) (x : Cmd) : M LcJob := do
  let f := recField x.body
  let target := f 2 1
  guardCode (decide (target ≤ 4) && f 3 1 == 0 && zeroFrom x.body 8) 2 0xA0
  let h ← seObject x 4 0 0x7E0
  let head ← readAs 0xA0 (vaRead 0 h.address 0x34)
  let n := recField head 0x30 4
  guardCode (if target = 2 then decide (1 ≤ n ∧ n ≤ 12032) else n == 0) 2 0xA0
  guardCode (decide (lcSigned n + 3328 ≤ h.size)) 2 0xA0
  let b ← readAs 0xA0 (vaRead 0 h.address (lcSigned n + 3328))
  let s ← get
  guardCode (s.lcRequestOk b target) 2 0xA0
  let owner ← orErr (finOf 4 (recField b 6 1)) (.code 2 0xA0)
  guardCode (s.lcAllowed (recField b 4 1) target owner.val) 2 0xA2
  seFree
  lcSignatures b (recField b 4 1) target
  pure { q := s.sysRef q x.idx, target := target, owner := owner, digest := recField b 0x10 32
         chain := (b.drop 0x7E0).take n }

/-- SE_LC: its checks, then its OTP writes run; when they are done, the completion record is written, every client
context, key and memory is gone, and the module restarts from mask ROM in the new state. -/
def execSeLc (q : QIdx) (s : State) : Host.Outcome State Fault Refusal :=
  run (do
    match (← get).sec.lcJob with
    | some j => do
      guardWait (j.q.1 == q)
      modSec (fun x => x.transition j)
      match (← get).sysCmd j.q with
      | some x => finishCmd 0 q x ⟨0, 0, none⟩
      | none => pure ()
      modify State.restart
    | none => do
      let x ← sysStarted q 0x34
      sysRun q x (do
        let j ← lcChecks q x
        modSec (fun y => { y with lcJob := some j })
        putFlag F.lcBusy true
        sysRunning q x)) s

/-! ### Entropy (R462, R494) -/

/-- The entropy source fails its health tests. -/
def execEntropyFail (s : State) : Host.Outcome State Fault Refusal := runAny (putFlag F.entropyFail true) s

/-- A context whose creation waited for a key exists, and its CTX_CREATE completes. -/
def resumeCreate (c : Ctx) : M Unit := do
  match ((← get).ctxs.getD c .absent).phase with
  | .creating ref _ => do
    openContext c
    endSys ref 0 0
  | _ => pure ()

/-- A set join that waited for entropy makes its checks again and completes. -/
def resumeJoin (ref : SysRef) : M Unit := do
  match (← get).sysCmd ref with
  | none => pure ()
  | some x =>
    match ← attempt (joinSet ref x) with
    | .ok _ => pure ()
    | .error e => endSys ref e.status e.coreCode

/-- The entropy source passes its health tests again: what waited for a key goes on. -/
def execEntropyRecovery (s : State) : Host.Outcome State Fault Refusal :=
  runAny (do
    guardWait (← getFlag F.entropyFail)
    putFlag F.entropyFail false
    eachM (List.finRange 1025) resumeCreate
    let waits := (← get).sec.joinWait
    modSec (fun y => { y with joinWait := [] })
    eachM waits (fun w => resumeJoin w.1)
    let slots := (← get).sec.rekeyWait
    modSec (fun y => { y with rekeyWait := [] })
    eachM slots (fun slot => modMem (fun m => m.rekeySlot slot))
    resumeKeys) s

end Sys2Proof.Machine
end

