-- ==== Sys2Proof/Machine/Power.lean ====
section
/-! DEFINITION. Power states and transitions, the cap and pacing, thermal protection, start-up, the firmware update,
calibration, management messages, and the input power (R520–R542, R559–R563). -/

namespace Sys2Proof.Machine

/-! ### Requests (R521) -/

/-- The dies whose PARK bit changes from `old` to `new`, to set or to clear. -/
def parkChange (old new : Nat) (toSet : Bool) : List Die :=
  (List.finRange 4).filter (fun d => bitOf old d.val != bitOf new d.val && bitOf new d.val == toSet)

/-- The host-managed window lies where a die to be parked would hold part of it. -/
def State.windowOn (s : State) (ds : List Die) : Bool :=
  s.flag F.hdmValid && !ds.isEmpty &&
    (match windowOf s.mem.partNow (s.fld F.hdmBase * 2 ^ 28) with
     | some w => w.cls == 0 || ds.any (fun d => if w.cls = 1 then w.unit == d.val else w.unit / 4 == d.val)
     | none => false)

/-- Some stage of an enabled instance has more ranks than the serving cores that stay. -/
def State.planTooWide (s : State) (park : Nat) : Bool :=
  let left := 8 * s.fld F.serveMin * ((upTo 4).filter (fun d => !bitOf park d)).length
  (List.finRange 16).any (fun m => s.flag (F.mEnable m) && (s.modelOf m).plan.any (fun st => decide (left < st.ranks)))

/-- The reason for which a request is refused, or none. -/
def State.pwRefusal (s : State) (mode park : Nat) : Option Nat :=
  let toPark := parkChange (s.fld F.pwReqPark) park true
  if s.pow.trans.isSome then some 1
  else if mode ≠ s.fld F.pwReqMode ∧ park ≠ s.fld F.pwReqPark then some 2
  else if bitOf park 0 then some 3
  else if toPark.any (fun d => s.fld (F.engJobs d) ≠ 0) then some 4
  else if s.windowOn toPark then some 5
  else if !toPark.isEmpty && s.planTooWide park then some 6
  else if !toPark.isEmpty && s.pow.upd.isSome then some 7
  else if s.flag F.pwTripped then some 8
  else if 2 ≤ mode then some 9
  else none

/-- The transitions that a request asks for, in order. -/
def State.pwSteps (s : State) (mode park : Nat) : List PwTrans :=
  let old := s.fld F.pwReqPark
  if mode ≠ s.fld F.pwReqMode then [if mode = 1 then .toQuiet else .toActive]
  else (parkChange old park true).map .park ++ (parkChange old park false).map .unpark

/-- A write of PW_REQ. -/
def writePwReq (h : Half) (v : W64) : M Unit := do
  let s ← get
  let x := Reg.written .pwReq (s.reg .pwReq) h (halfPlace h v)
  let mode := bitsOf x 0 2
  let park := bitsOf x 4 4
  if mode = s.fld F.pwReqMode ∧ park = s.fld F.pwReqPark then pure ()
  else
    match s.pwRefusal mode park with
    | some r => do
      putFlag F.pwReject true
      putFld F.pwReason r
    | none => do
      let steps := s.pwSteps mode park
      putFld F.pwReqMode mode
      putFld F.pwReqPark park
      putFlag F.pwBusy true
      modPow (fun y => { y with trans := steps.head?, transRest := steps.drop 1, transTick := false })

/-- What a write of PW_REQ asks for. -/
def State.asksPw (s : State) (h : Half) (v : W64) : Nat × Nat :=
  let x := Reg.written .pwReq (s.reg .pwReq) h (halfPlace h v)
  (bitsOf x 0 2, bitsOf x 4 4)

/-- A write that asks for QUIET. -/
def execActiveToQuiet (h : Half) (v : W64) (s : State) : Host.Outcome State Fault Refusal :=
  runPw (do
    guardWait ((s.asksPw h v).1 == 1 && s.fld F.pwReqMode == 0)
    writePwReq h v) s

/-- A write that asks for ACTIVE. -/
def execQuietToActive (h : Half) (v : W64) (s : State) : Host.Outcome State Fault Refusal :=
  runPw (do
    guardWait ((s.asksPw h v).1 == 0 && s.fld F.pwReqMode == 1)
    writePwReq h v) s

/-- A write that sets a PARK bit. -/
def execPark (h : Half) (v : W64) (s : State) : Host.Outcome State Fault Refusal :=
  runPw (do
    guardWait (!(parkChange (s.fld F.pwReqPark) (s.asksPw h v).2 true).isEmpty)
    writePwReq h v) s

/-- A write that clears a PARK bit. -/
def execUnpark (h : Half) (v : W64) (s : State) : Host.Outcome State Fault Refusal :=
  runPw (do
    guardWait (!(parkChange (s.fld F.pwReqPark) (s.asksPw h v).2 false).isEmpty)
    writePwReq h v) s

/-! ### Transitions (R522, R524) -/

/-- Nothing runs that QUIET gates. -/
def State.quietReady (s : State) : Bool :=
  s.pow.transTick && s.cores.isEmpty && s.wells.run.isEmpty && s.wells.queue.isEmpty
    && (List.finRange 16).all (fun m => !(s.modelOf m).stageRuns)
    && s.dma.all (fun e => e.2.chans.all (fun c => c.2.reqs.isEmpty))
    && s.ctxs.all (fun c => !c.2.saving && !c.2.restoring)

/-- The die of a stack, and of a plinth core (R14, R16). -/
def onStackOf (d : Die) (j : Nat) : Bool := j / 4 == d.val

/-- Die d is idle, and no takeover moves a role on it. -/
def State.parkReady (s : State) (d : Die) : Bool :=
  s.pow.transTick && s.cores.all (fun p => dieOf p.1 != d)
    && (s.dmaOf (.die d)).chans.all (fun c => c.2.reqs.isEmpty)
    && s.wells.run.all (fun p => p.1.val / 16 != d.val) && s.wells.queue.all (fun w => w.named.val / 16 != d.val)
    && s.ctxs.all (fun c => (!c.2.saving && !c.2.restoring) || c.2.holds.all (fun k => k / 12 != d.val))
    && s.mem.retrain.all (fun r => !onStackOf d r.stack.val) && s.rep.takeover.isEmpty

/-- A role leaves die d: an active core hands it to its standby; a standby there is gated. A role without a standby that
is ready keeps its core. -/
def parkRole (d : Die) (k : Fin 4) : M Unit := do
  let s ← get
  let a := s.fld (F.roleActive k.val)
  let b := s.fld (F.roleStandby k.val)
  if a / 2 = d.val then
    (if s.standbyReady k then do
      putFld (F.roleActive k.val) b
      putFld (F.roleStandby k.val) a
      putFlag (F.roleNoStandby k.val) true
      putFld (F.plinth b) 0
      putFld (F.plinth a) 2
      roleChanged k 3 a
    else pure ())
  else if b / 2 = d.val ∧ s.standbyReady k then do
    putFlag (F.roleNoStandby k.val) true
    putFld (F.plinth b) 2
  else pure ()

/-- A plinth core of die d has loaded the image again and is the standby of its role (R522). -/
def unparkRole (d : Die) (k : Fin 4) : M Unit := do
  let s ← get
  let b := s.fld (F.roleStandby k.val)
  if s.flag (F.roleNoStandby k.val) ∧ b / 2 = d.val ∧ s.fld (F.plinth b) = 2 then do
    putFlag (F.roleNoStandby k.val) false
    putFld (F.plinth b) 1
  else pure ()

/-- Die d is parked: its pool cache is clean, its stacks are in self-refresh. -/
def parkDie (d : Die) : M Unit := do
  modMem (fun m => { m with
    dirty := m.dirty.filter (fun p => homeDie m.partNow (p.1 * 256) != d.val)
    lines := m.lines.filter (fun p => homeDie m.partNow (p.1 * 256) != d.val)
    selfRefresh := m.selfRefresh ++ (List.finRange 16).filter (fun j => onStackOf d j.val && !m.selfRefresh.contains j) })
  eachM (List.finRange 4) (parkRole d)
  putFld F.pwParked (putBits (← getFld F.pwParked) d.val 1 1)

/-- The running transition is complete; the next one of the same write begins, or BUSY clears. -/
def execPowerTransitionComplete (s : State) : Host.Outcome State Fault Refusal :=
  run (do
    let t ← needSome s.pow.trans
    match t with
    | .toQuiet => do
      guardWait s.quietReady
      putFld F.pwMode 1
    | .toActive => putFld F.pwMode 0
    | .park d => do
      guardWait (s.parkReady d)
      parkDie d
    | .unpark d => do
      guardWait (!s.mem.selfRefresh.any (fun j => onStackOf d j.val))
      eachM (List.finRange 4) (unparkRole d)
      putFld F.pwParked (putBits (s.fld F.pwParked) d.val 1 0)
    modPow (fun y => { y with trans := y.transRest.head?, transRest := y.transRest.drop 1, transTick := false })
    putFlag F.pwBusy (← get).pow.trans.isSome) s

/-! ### The cap, pacing and protection (R525–R530, R563) -/

/-- PW_PACE.PACE: the lower of both paces (R526). -/
def refreshPace : M Unit := modify (fun s => s.setFld F.pace (min (s.fld F.capPace) (s.fld F.throttlePace)))

/-- Pc falls by up to 8, to 1 at the least. -/
def lowerCapPace : M Unit := do
  let n ← fresh
  putFld F.capPace (max 1 ((← getFld F.capPace) - (Config.paceDrop n % 8 + 1)))
  refreshPace

/-- The threshold, in 1/16 °C, of a junction or DRAM sensor (R529). -/
def State.threshold (s : State) (i : Nat) : Int :=
  16 * (if i < 16 then s.fld F.throttleC else s.fld F.dramThrottleC : Nat)

/-- PW_SENSOR_DATA for the sensor that the index names. -/
def refreshSensor : M Unit := modify (fun s =>
  let i := s.fld F.sensorIndex
  let ok := decide (i < 56)
  (s.setFld F.sensorValue (if ok then toUnsigned 16 (nthD s.pow.sensors i 0) else 0)).setFlag F.sensorValid ok)

/-- The interval joins the means of its second; each second ends after 1,000 intervals (R484, R542). -/
def gatherSecond (peak : Nat) (sensors : List Int) : M Unit := do
  let s ← get
  let x := s.pow
  let mj := x.energyMj + peak
  let sum := x.sumW + peak
  let top := max x.peakW peak
  let sums := List.zipWith (· + ·) x.sumSensors sensors
  bumpBy F.energyKj (mj / 1000000)
  if x.intervals + 1 < 1000 then modPow (fun y => { y with
    intervals := y.intervals + 1, sumW := sum, peakW := top, sumSensors := sums, energyMj := mj % 1000000 })
  else do
    putFld F.meanW (sum / 1000)
    putFld F.peakW top
    modPow (fun y => { y with
      intervals := 0, sumW := 0, peakW := 0, sumSensors := List.replicate 56 0, energyMj := mj % 1000000
      sensors := sums.map (· / 1000) })
    refreshSensor

/-- The event THERMAL (R529). -/
def raiseThermal (start : Bool) (sensor : Nat) (temp : Int) : M Unit :=
  systemEvent 0x06 0 (b2n start + sensor * 2 ^ 8 + toUnsigned 8 (temp / 16) * 2 ^ 16)

/-- The cap: Pc falls while the mean exceeds it, and rises below 98 % of it; below the operating range of the input it
falls while the current is above 62.5 A, and does not rise. -/
def controlCap (mean : Nat) (volts amps : Int) : M Unit := do
  putFlag F.pwInputLow (decide (volts < 768))
  let s ← get
  let cap := s.fld F.capW
  let low := s.flag F.pwInputLow
  if cap < mean ∨ (low = true ∧ 1000 < amps) then lowerCapPace
  else if mean * 100 < cap * 98 ∧ !low then do
    putFld F.capPace (min 64 (s.fld F.capPace + 1))
    refreshPace
  else pure ()
  putFlag F.pwCapUnmet (decide ((← getFld F.capPace) = 1 ∧ cap < mean))

/-- The protection throttle: Pt falls by 8 while a sensor is at its threshold, and rises by 1 once every sensor is HYST_C
below. -/
def controlThrottle (sensors : List Int) : M Unit := do
  let s ← get
  let hot := (upTo 32).filter (fun i => decide (s.threshold i ≤ nthD sensors i 0))
  let cool := (upTo 32).all (fun i => decide (nthD sensors i 0 ≤ s.threshold i - 16 * (s.fld F.hystC : Nat)))
  match hot.head?, s.pow.throttleBy with
  | some i, none => do
    modPow (fun y => { y with throttleBy := some i })
    putFlag F.pwThrottle true
    putFld F.throttlePace (max 1 (s.fld F.throttlePace - 8))
    raiseThermal true i (nthD sensors i 0)
  | some _, some _ => putFld F.throttlePace (max 1 (s.fld F.throttlePace - 8))
  | none, some i =>
    if cool then do
      let p := min 64 (s.fld F.throttlePace + 1)
      putFld F.throttlePace p
      if p = 64 then do
        modPow (fun y => { y with throttleBy := none })
        putFlag F.pwThrottle false
        raiseThermal false i (nthD sensors i 0)
      else pure ()
    else pure ()
  | none, none => pure ()
  refreshPace

/-- The trip temperature, in 1/16 °C, of a junction or DRAM sensor (R530). -/
def State.tripAt (s : State) (i : Nat) : Int := 16 * (if i < 16 then s.fld F.tripC else s.fld F.dramTripC : Nat)

/-- A reading of the 56 sensors with one at its trip temperature. -/
def State.trips (s : State) (sensors : List Int) : Bool :=
  (upTo 32).any (fun i => decide (s.tripAt i ≤ nthD sensors i 0))

/-- A thermal trip: every engine stops and the spillways close (R530). -/
def thermalTrip : M Unit := do
  putFlag F.pwTripped true
  modify (fun s => { s with pins := { s.pins with thermtrip := true } })
  closeSpillways

/-- Every step that stands open sees the pace of the interval (R527). -/
def notePace : M Unit := modify (fun s => { s with sched := { s.sched with
  models := s.sched.models.map (fun p => (p.1,
    if p.2.stepOpen then { p.2 with paceSum := p.2.paceSum + s.fld F.pace, paces := p.2.paces + 1 } else p.2)) } })

/-- One control interval of 1 ms: the mean input power over the cap's window, that of the interval, and the readings of
the 56 sensors in 1/16 of their unit. A sensor at its trip temperature trips the module. -/
def execControlInterval (meanW peakW : Nat) (sensors : List Int) (s : State) : Host.Outcome State Fault Refusal :=
  run (do
    guardWait (sensors.length == 56)
    controlCap meanW (nthD sensors 54 0) (nthD sensors 55 0)
    controlThrottle sensors
    gatherSecond peakW sensors
    notePace
    if s.trips sensors then thermalTrip else pure ()) s

/-- The input lies below the operating range, in 1/16 V, with its current in 1/16 A (R563). -/
def execInputLow (volts16 amps16 : Nat) (s : State) : Host.Outcome State Fault Refusal :=
  run (do
    guardWait (decide (volts16 < 768))
    putFlag F.pwInputLow true
    if 1000 < amps16 then lowerCapPace else pure ()) s

/-- A junction or DRAM sensor reaches its trip temperature. -/
def execThermalTrip (sensor : Fin 56) (s : State) : Host.Outcome State Fault Refusal :=
  run (do
    guardWait (decide (sensor.val < 32))
    thermalTrip) s

/-! ### Start-up and input power (R531, R532, R559–R562) -/

/-- PERST# is asserted: every engine stops, contexts end, keys are erased, the spillways close. -/
def execPerstAssert (s : State) : Host.Outcome State Fault Refusal :=
  runAny (do
    guardWait (!s.pins.perst)
    if s.pow.powered then do
      cutTransition
      modify State.restart
      modPow (fun x => { x with booting := false, armed := true })
    else pure ()
    modify (fun s => { s with pins := { s.pins with perst := true } })) s

/-- PERST# is deasserted: the straps are read, and start-up begins, unless the input is absent, has returned without an
assertion since, or a thermal trip is in force. -/
def execPerstDeassert (straps : BitVec 12) (s : State) : Host.Outcome State Fault Refusal :=
  runAny (do
    guardWait s.pins.perst
    modify (fun s => { s with pins := { s.pins with perst := false, mid := straps } })
    putFld F.deviceId straps.toNat
    if s.pow.powered && s.pow.armed && !s.flag F.pwTripped then modPow (fun x => { x with booting := true }) else pure ()) s

/-- The input has been below 45.0 V for more than 1 ms: every volatile state is lost, a thermal trip with it. -/
def execPowerRemoval (s : State) : Host.Outcome State Fault Refusal :=
  runAny (do
    guardWait s.pow.powered
    cutTransition
    putFlag F.pwTripped false
    modify State.restart
    modPow (fun x => { x with booting := false, powered := false, armed := false })
    modify (fun s => { s with pins := { s.pins with pwrGood := false, thermtrip := false } })) s

/-- The input reaches 48.0 V: PWR_GOOD is released. -/
def execPowerApply (s : State) : Host.Outcome State Fault Refusal :=
  runAny (do
    guardWait (!s.pow.powered)
    modPow (fun x => { x with powered := true })
    modify (fun s => { s with pins := { s.pins with pwrGood := true } })) s

/-- Start-up fails with a cause: 1 SECURITY, 2 DIE, 3 HBM (R532). -/
def bootFails (cause : Nat) : M Unit := do
  putFld F.bootStage 15
  putFld F.bootError cause
  modPow (fun x => { x with booting := false })
  modify (fun s => { s with
    rep := { s.rep with bootFailed := true }, pins := { s.pins with alert := true } })

/-- The verified image runs every role. -/
def firmwareRuns : M Unit := do
  let b := (← get).cxl.fwHeld
  modPow (fun x => { x with roleFw := List.replicate 4 (imageDigest b, recField b 4 2), fwVersion := recField b 8 8 })
  putFld F.fwVersion (recField b 8 8)
  modify (fun s => { s with cxl := { s.cxl with fwHeld := [] } })

/-- The module reports ready (R7, R48): context 0 exists. -/
def becomeReady : M Unit := do
  let n ← fresh
  putFld F.bootMs (Config.bootMs n)
  putFlag F.pwReady true
  modPow (fun x => { x with booting := false })
  modCtx 0 (fun x => { x with phase := .live })

/-- The finds of a stage are taken up. The answer is false where a die is left without a logical cluster, or where a
pseudo-channel needs more spares than it has, which fails its training (R264, R532). -/
def foundAtStart (stage : Nat) (fs : List StartFind) : M Bool := do
  if stage = 1 then do
    repairAtStart fs
    let s ← get
    pure ((upTo 4).all (fun d => (upTo 12).any (fun k => !s.rep.retiredClusters.contains (d * 12 + k))))
  else if stage = 4 then do
    eachM fs (fun f => match f with
      | .plinth k => plinthAtStart k
      | _ => pure ())
    pure true
  else foldM' fs true (fun ok f => match f with
    | .lane j ch l => do pure ((← laneAtStart j ch l) && ok)
    | _ => pure ok)

/-- A stage of start-up ends. FETCH ends with an image. In RETIRED nothing follows FIRMWARE (R480). Ready comes only in
FREE, MASTER or LOCKED (R48). -/
def execStartUpStage (r : StageResult) (s : State) : Host.Outcome State Fault Refusal :=
  runAny (do
    guardWait (s.pow.booting && s.unstopped)
    let stage := s.fld F.bootStage
    match r with
    | .security => do
      guardWait (stage == 0)
      bootFails 1
    | .dieDead => do
      guardWait (stage == 1)
      bootFails 2
    | .hbmFail => do
      guardWait (stage == 5)
      bootFails 3
    | .found fs => do
      guardWait (stage == 1 || stage == 4 || stage == 5)
      guardWait (!(stage == 4 && s.fld F.lcState == 4))
      let trained ← foundAtStart stage fs
      if trained then putFld F.bootStage (stage + 1) else bootFails (if stage = 1 then 2 else 3)
    | .ok => do
      guardWait (stage != 2 && decide (stage ≤ 7) && !(stage == 4 && s.fld F.lcState == 4)
        && (stage != 7 || decide (s.fld F.tkState ≤ 2)))
      putFld F.bootStage (stage + 1)
      if stage = 3 then firmwareRuns
      else if stage = 6 then do
        eachM (List.finRange 8) requestSpillway
        putFld F.tkState 5
      else if stage = 7 then becomeReady
      else pure ()) s

/-! ### The image over DOE (R534, R535) -/

/-- The answer to FW_IMAGE: the status and the bytes held. -/
def replyImage (status : Nat) : M Unit := do
  emit (.doe (leBytes 4 status ++ leBytes 8 (← get).cxl.fwHeld.length))

/-- An FW_IMAGE object: offset and bytes. -/
def execFwImage (offset : Nat) (data : List Byte) (s : State) : Host.Outcome State Fault Refusal :=
  runAny (do
    guardWait (decide (data.length ≤ 1048568) && s.pow.powered && !s.pins.perst)
    let b := s.cxl.fwHeld ++ data
    if !(s.pow.booting && s.unstopped && s.fld F.bootStage == 2) then replyImage 1
    else if offset ≠ s.cxl.fwHeld.length then replyImage 2
    else if (0x20 ≤ b.length ∧ !imageHeaderOk b) ∨ imageLength b < b.length then do
      modCxl (fun x => { x with fwHeld := [] })
      replyImage 3
    else if b.length < imageLength b then do
      modCxl (fun x => { x with fwHeld := b })
      replyImage 0
    else if (← imageVerifies b) then do
      takeImage b false
      replyImage 5
    else do
      modCxl (fun x => { x with fwHeld := [] })
      replyImage 4) s

/-- 10 s of FETCH without an accepted object in DEPLOYED: mask ROM tries the peers of ports 0 and 1. -/
def execPeerFetchTimeout (s : State) : Host.Outcome State Fault Refusal :=
  runAny (do
    guardWait (s.pow.booting && s.unstopped && s.fld F.bootStage == 2 && s.fld F.lcState == 2 && s.pow.peerFetch.isNone
      && s.cxl.fwHeld.isEmpty)
    modPow (fun x => { x with peerFetch := some [] })
    requestSpillway 0
    eachM [(0 : Port), 1] (fun p => do
      if (← getFld (F.portState p)) = 4 then fetchStart p else pure ())) s

/-! ### Hitless update (R536–R538) -/

/-- The update of a role begins: its standby copies the image, which must still have its digest. -/
def updateRole (u : FwUpd) : M Unit := do
  let s ← get
  let k := u.role
  modPow (fun x => { x with upd := some u })
  if s.flag (F.roleNoStandby k) then stopUpdate 1 0xC3
  else
    match (s.sysCmd u.q).bind (fun x => x.handleAt 4) with
    | none => stopUpdate 1 0xC3
    | some h => do
      match ← attempt (vaRead 0 h.address h.size) with
      | .ok b => if imageDigest b = u.digest then pure () else stopUpdate 0xC 0xC1
      | .error _ => stopUpdate 0xC 0xC1

/-- FW_UPDATE. -/
def execFwUpdate (q : QIdx) (s : State) : Host.Outcome State Fault Refusal :=
  run (do
    let x ← sysStarted q 0x40
    sysRun q x (do
      guardCode (recField x.body 2 2 == 0 && zeroFrom x.body 8) 2 0xC0
      let h ← orErr (x.handleAt 4) (.code 2 0xC0)
      guardCode (h.kind == 1 && bitOf h.rights 0 && decide (0x800 + 3328 ≤ h.size)) 2 0xC0
      let head ← readAs 0xC0 (vaRead 0 h.address 0x20)
      guardCode (decide (imageLength head ≤ h.size)) 2 0xC0
      let s ← get
      guardCode (s.pow.upd.isNone && s.sec.lcJob.isNone && s.pow.trans.isNone) 2 0xC4
      guardCode ((upTo 4).all (fun k => !s.flag (F.roleNoStandby k))) 2 0xC5
      let b ← readAs 0xC0 (vaRead 0 h.address (imageLength head))
      guardCode (← imageVerifies b) 0xC 0xC1
      guardCode (s.pow.roleFw.all (fun r => decide (recField b 6 2 ≤ r.2))) 2 0xC2
      sysRunning q x
      putFld F.updState 1
      putFld F.updRolesNew 0
      updateRole { q := s.sysRef q x.idx, role := 0, reload := false, digest := imageDigest b, version := recField b 8 8
                   logVersion := recField b 4 2 })) s

/-- The tick after the standby has caught up: it takes the role, and the former active core reloads. -/
def execRoleHandover (s : State) : Host.Outcome State Fault Refusal :=
  run (do
    let u ← needSome s.pow.upd
    let k ← needSome (finOf 4 u.role)
    guardWait (!u.reload && s.standbyReady k)
    let a := s.fld (F.roleActive k.val)
    let b := s.fld (F.roleStandby k.val)
    putFld (F.roleActive k.val) b
    putFld (F.roleStandby k.val) a
    putFld (F.plinth b) 0
    putFld (F.plinth a) 2
    modPow (fun x => { x with
      upd := some { u with reload := true }, roleFw := setNth x.roleFw k.val (u.digest, u.logVersion)
      fwVersion := if k.val = 3 then u.version else x.fwVersion })
    if k.val = 3 then putFld F.fwVersion u.version else pure ()
    roleChanged k 2 a) s

/-- The former active core has loaded the image and is the standby: the next role follows, or the update is done. A core
that fails its reload is retired, and the update stops. -/
def execRoleReloadComplete (pass : Bool) (s : State) : Host.Outcome State Fault Refusal :=
  run (do
    let u ← needSome s.pow.upd
    let k ← needSome (finOf 4 u.role)
    guardWait u.reload
    let b := s.fld (F.roleStandby k.val)
    if !pass then do
      retirePlinth k b
      stopUpdate 1 0xC3
    else do
      putFld (F.plinth b) 1
      putFld F.updRolesNew (putBits (s.fld F.updRolesNew) k.val 1 1)
      if k.val = 3 then do
        modPow (fun x => { x with upd := none })
        putFld F.updState 2
        endSys u.q 0 0
      else updateRole { u with role := k.val + 1, reload := false }) s

/-! ### Calibration (R540) -/

/-- A lane of a port returns to factory values: not on an Ethernet port, and not while it carries data without a free
spare. -/
def restoreLane (p : Port) (lane : Nat) : M Unit := do
  let s ← get
  let x := s.portOf p
  guardCode (s.fld (F.portMode p) == 0 && (!x.lanes.any (fun l => l.val == lane) || x.spare.isSome)) 2 0xC6

/-- RESTORE_FACTORY. A channel's retraining follows one already running in its stack. -/
def execRestoreFactory (q : QIdx) (s : State) : Host.Outcome State Fault Refusal :=
  run (do
    let x ← sysStarted q 0x41
    sysRun q x (do
      let f := recField x.body
      let bad := Err.code 2 0xC0
      let s ← get
      let ref := s.sysRef q x.idx
      guardCode (zeroFrom x.body 5) 2 0xC0
      match f 2 1 with
      | 1 => do
        let p ← orErr (finOf 16 (f 3 1)) bad
        guardCode (decide (f 4 1 ≤ 8)) 2 0xC0
        restoreLane p (f 4 1)
        toFactory 1 p.val (f 4 1)
        endSys ref 0 0
      | 2 => do
        let j ← orErr (finOf 16 (f 3 1)) bad
        let ch ← orErr (finOf 32 (f 4 1)) bad
        guardWait (!s.mem.retrain.any (fun r => r.stack == j) && !s.mem.selfRefresh.contains j)
        modMem (fun m => { m with retrain := m.retrain ++ [⟨j, ch, none, some ref⟩] })
        sysRunning q x
      | 3 => do
        guardCode (decide (f 3 1 < 56) && f 4 1 == 0) 2 0xC0
        toFactory 3 (f 3 1) 0
        endSys ref 0 0
      | _ => throw bad)) s

/-! ### Management (R541) -/

/-- A cap that R542 admits. -/
def capOk (w : Nat) : Bool := decide (1200 ≤ w ∧ w ≤ 3000 ∧ w % 50 = 0)

/-- An MCTP message, from stage FIRMWARE on. -/
def execMctpMessage (m : MctpMsg) (s : State) : Host.Outcome State Fault Refusal :=
  runAny (do
    guardWait (s.pow.powered && !s.pins.perst && s.unstopped && decide (4 ≤ s.fld F.bootStage ∧ s.fld F.bootStage ≤ 8))
    match m with
    | .control | .pldmBase => do
      let n ← fresh
      emit (.mctp [Config.mctpReply n])
    | .readSensor i => do
      guardWait (decide (i < 56))
      emit (.mctp (leBytes 2 (toUnsigned 16 (nthD s.pow.sensors i 0))))
    | .readState => emit (.mctp (leBytes 1 (s.fld F.pwMode + s.fld F.pwParked * 16) ++ leBytes 1 (s.fld F.pwTripped)
        ++ leBytes 1 (s.fld F.lcState)))
    | .setEffecter w => if capOk w then putFld F.capW w else pure ()) s

end Sys2Proof.Machine
end

