-- ==== Sys2Proof/Machine/Time.lean ====
section
/-! DEFINITION. The step tick and device time: the tick and all that is keyed to it, beacons, holdover, the electrical
pulses, the TK_ registers, latched reads, and the deadline marks (R34–R63, R352, R513, R545, R556, R579). -/

namespace Sys2Proof.Machine

/-! ### Masters (R42, R46) -/

/-- TK_STATUS.STATE is one in which the module follows a master, or is in line to. -/
def State.follows (s : State) : Bool :=
  s.fld F.tkState == 2 || s.fld F.tkState == 3 || s.fld F.tkState == 5

/-- MASTER or FREE. -/
def State.ownTick (s : State) : Bool := decide (s.fld F.tkState ≤ 1)

/-- The better of two masters, each its priority and identifier (R42). -/
def masterBetter (a b : Nat × Nat) : Bool := decide (b.1 < a.1) || (a.1 == b.1 && decide (a.2 < b.2))

/-- The master that a beacon names. -/
def masterOf (b : Beacon) : Nat × Nat := (b.priority.toNat, b.masterId.toNat)

/-- The module's current master: that of the beacon adopted since the last tick, else TK_MASTER's. -/
def State.masterNow (s : State) : Nat × Nat :=
  match s.time.adopted with
  | some a => masterOf a.beacon
  | none => (s.fld F.tkMasterPrio, s.fld F.tkMasterId)

/-- ALERT#: a module fault, a failed start-up, or CONFLICT while ALERT_CONFLICT is set (R43, R518, R532). -/
def State.refreshAlert (s : State) : State :=
  { s with pins := { s.pins with
      alert := s.rep.moduleFault || s.rep.bootFailed || (s.fld F.tkState == 4 && s.flag F.tkAlertConflict) } }

/-- Enter a state of R46. -/
def setTkState (n : Nat) : M Unit := modify (fun s => (s.setFld F.tkState n).refreshAlert)

/-- The module becomes MASTER where it is master-capable, and FREE otherwise; it is its own master. -/
def becomeOwn : M Unit := do
  let s ← get
  let p := s.fld F.tkPriority
  putFld F.tkMasterId (s.fld F.deviceId)
  putFld F.tkMasterPrio p
  putFld F.tkHops 0
  modTime (fun t => { t with missed := 0, adopted := none, heard := none })
  setTkState (if p = 0 then 0 else 1)

/-- A period of a step, with its marks (R57). -/
def setPeriod (us : Nat) : M Unit := do
  putFld F.tkPeriod us
  putFld F.tkMark50 (us / 2)
  putFld F.tkMark80 (4 * us / 5)

/-- The pending period change. -/
def setPendPeriod (x : Option (Nat × Nat)) : M Unit := do
  modTime (fun t => { t with pendPeriod := x })
  putFlag F.tkPending x.isSome

/-! ### Beacons (R38–R43, R432) -/

/-- The 64 bytes of a BEACON. -/
def beaconBytes (b : Beacon) : List Byte :=
  leBytes 8 b.step.toNat ++ leBytes 8 b.tickTime.toNat ++ leBytes 2 b.masterId.toNat ++ leBytes 1 b.priority.toNat
    ++ leBytes 1 b.hops.toNat ++ leBytes 4 b.period.toNat ++ leBytes 4 b.nextPeriod.toNat ++ leBytes 4 b.epoch.toNat
    ++ leBytes 8 b.nextStep.toNat ++ leBytes 16 b.digest.toNat ++ leBytes 4 b.pathPs.toNat ++ leBytes 4 0

/-- The ports whose Jelucy links are up. -/
def State.jelucyUp (s : State) : List Port :=
  (List.finRange 16).filter (fun p => s.fld (F.portMode p) == 0 && s.fld (F.portState p) == 4)

/-- Send a beacon on a port: path_ps grows by the time to its launch. -/
def sendBeacon (b : Beacon) (p : Port) : M Unit := do
  let n ← fresh
  let c : Beacon := { b with pathPs := b.pathPs + BitVec.ofNat 32 (Config.launchPs n) }
  emit (.beacon p c)
  transmit p 7 (beaconBytes c)

/-- The beacon of a master at its tick. -/
def State.ownBeacon (s : State) : Beacon :=
  { step := BitVec.ofNat 48 s.stepNo
    tickTime := BitVec.ofNat 64 s.time.tickTime
    masterId := BitVec.ofNat 16 (s.fld F.deviceId)
    priority := BitVec.ofNat 8 (s.fld F.tkPriority)
    hops := 0
    period := BitVec.ofNat 18 (s.fld F.tkPeriod)
    nextPeriod := BitVec.ofNat 18 ((s.time.pendPeriod.map (·.1)).getD 0)
    nextStep := BitVec.ofNat 48 ((s.time.pendPeriod.map (·.2)).getD 0)
    digest := s.configDigest
    epoch := s.rep.epochNow
    pathPs := 0 }

/-- The digest in force is computed again; where it or the epoch has changed, CONFIG goes out on every link (R514). -/
def refreshConfig (epochBefore : W32) : M Unit := do
  let s ← get
  set s.refreshDigest
  let t ← get
  if t.configDigest = s.configDigest ∧ s.rep.epochNow = epochBefore then pure () else eachM (List.finRange 16) sendConfig

/-- The master's device time when the beacon arrives (R432), in ns. -/
def State.masterTime (s : State) (p : Port) (b : Beacon) : Nat :=
  b.tickTime.toNat + (b.pathPs.toNat + s.fld (F.delayPs p)) / 1000

/-- The beacon is that of the tick which the module's own tick is about to make: it is ahead, and more than half of the
module's own step has passed. -/
def State.comesFirst (s : State) (b : Beacon) (now : Nat) : Bool :=
  decide (s.stepNo < b.step.toNat ∧ s.fld F.tkPeriod * 1000 ≤ 2 * (now - s.time.tickTime))

/-- How an adopted beacon places the next tick, when device time is `d` ns ahead of the master's (R40, R48, R55). -/
def State.place (s : State) (p : Port) (b : Beacon) (now : Nat) (d : Int) : Adopt :=
  let first := s.comesFirst b now
  let next : Int := s.masterTime p b + (if first then 0 else b.period.toNat * 1000)
  let slew : Int := s.fld F.tkPeriod / 10
  let jump := decide (d < -1000) || (decide (1000 < d) && !s.flag F.pwReady)
  let rest : Int := if jump then d else if 0 ≤ d then d - min d slew else d + min (-d) slew
  { beacon := b, port := p
    nextStep := if first then b.step.toNat else b.step.toNat + 1
    nextAt := (next + rest).toNat
    jumpNs := if jump then -d else 0 }

/-- Adopting the beacon would move the step number, or, for a master that the module does not follow yet, device time
backwards (R43); before ready it may (R48). -/
def State.backwards (s : State) (a : Adopt) (d : Int) : Bool :=
  s.flag F.pwReady && (decide (a.nextStep < s.stepNo + 1)
    || (decide (1000 < d) && a.beacon.masterId.toNat != s.fld F.tkMasterId))

/-- A beacon takes the place of the last one adopted: a better copy of its tick, a later tick, or a better master
(R39). -/
def replacedBy (a : Beacon × Port) (p : Port) (b : Beacon) : Bool :=
  if a.1.masterId = b.masterId then
    decide (a.1.step.toNat < b.step.toNat)
      || (a.1.step == b.step && lexLess [b.hops.toNat, p.val] [a.1.hops.toNat, a.2.val])
  else masterBetter (masterOf b) (masterOf a.1)

/-- The beacon is that of the tick that comes next. -/
def Adopt.ofNext (a : Adopt) : Bool := a.nextStep == a.beacon.step.toNat

/-- The module follows the beacon's master: TK_MASTER (R39, R42). -/
def followMaster (a : Adopt) : M Unit := do
  let b := a.beacon
  putFld F.tkMasterId b.masterId.toNat
  putFld F.tkMasterPrio b.priority.toNat
  putFld F.tkHops (min 255 (b.hops.toNat + 1))
  modTime (fun t => { t with masterPort := some a.port, missed := 0, conflictWith := none })

/-- The step of the beacon has begun: its period, what is pending, and the configuration check (R36, R52, R53, R513,
R515). -/
def followStep (a : Adopt) : M Unit := do
  let b := a.beacon
  setPeriod b.period.toNat
  setPendPeriod (if b.nextPeriod = 0 then none else some (b.nextPeriod.toNat, b.nextStep.toNat))
  refreshConfig (← get).rep.epochNow
  checkConfig a.port 0 b.digest b.epoch false

/-- TK_OFFSET: device time less the master's. -/
def putOffset (d : Int) : M Unit := do
  let n ← fresh
  putFld F.tkOffset (if -(2 ^ 31) ≤ d ∧ d < 2 ^ 31 then toUnsigned 32 d else Config.wideOffset n)

/-- The state of a follower that has adopted a beacon, by its offset (R40, R46). -/
def State.lockState (s : State) (d : Int) : Nat :=
  if d < -1000 ∨ 1000 < d then 5
  else if s.fld F.tkState = 5 ∧ (d < -25 ∨ 25 < d) then 5
  else 2

/-- A follower forwards a beacon on every other Jelucy link (R39). -/
def forwardBeacon (p : Port) (b : Beacon) : M Unit := do
  if b.hops = 255 then pure ()
  else do
    let s ← get
    let c : Beacon := { b with
      hops := b.hops + 1, pathPs := b.pathPs + BitVec.ofNat 32 (s.fld (F.delayPs p)) }
    eachM (s.jelucyUp.filter (· ≠ p)) (sendBeacon c)

/-- A beacon arrives: it is adopted, refused, or puts the module in CONFLICT. -/
def receiveBeacon (p : Port) (b : Beacon) : M Unit := do
  let now ← sampleTime
  let s ← get
  let d : Int := (now : Int) - s.masterTime p b
  let a := s.place p b now d
  let same := masterOf b == s.masterNow || b.masterId.toNat == s.masterNow.2
  let allowed := (same || masterBetter (masterOf b) s.masterNow) && (match s.time.heard with
    | some x => replacedBy x p b
    | none => true)
  let tests := match s.time.conflictWith with
    | some m => b.masterId == m || masterBetter (masterOf b) s.masterNow
    | none => true
  if !(allowed && tests) then pure ()
  else if s.backwards a d then
    (if same then pure ()
    else do
      modTime (fun t => { t with conflictWith := some b.masterId, adopted := none })
      setTkState 4)
  else do
    modTime (fun t => { t with adopted := some a, heard := some (b, p) })
    putOffset d
    if s.ownTick then pure ()
    else do
      followMaster a
      if a.ofNext then pure () else followStep a
      setTkState (s.lockState d)
      forwardBeacon p b

/-- The tick runs: the module works, or start-up is in OPTICS (R48). -/
def State.ticks (s : State) : Bool := s.works || s.fld F.bootStage == 7

def execBeacon (p : Port) (b : Beacon) (s : State) : Host.Outcome State Fault Refusal :=
  runLink (do
    let s ← get
    guardWait (s.ticks && s.fld (F.portMode p) == 0 && s.fld (F.portState p) == 4)
    if b.masterId.toNat = s.fld F.deviceId then pure () else receiveBeacon p b) s

/-! ### The tick (R36) -/

/-- Orders 1 and 2: the step number and device time, at a tick that falls at device time `at'`. -/
def tickAdvance (at' : Nat) : M Unit := do
  let s ← get
  let k := s.time.pendAdvance
  let jump := (s.time.adopted.map (·.jumpNs)).getD 0
  let want := (s.time.adopted.map (·.nextStep)).getD 0
  let ready := s.flag F.pwReady
  let step := if ready ∨ s.time.adopted.isNone then max (s.stepNo + k + 1) want else want
  let before := if ready then max at' (s.fld F.tkTime) else at'
  let time := ((before : Int) + k * s.fld F.tkPeriod * 1000 + jump).toNat
  putFld F.tkStep step
  putFld F.tkTime time
  modTime (fun t => { t with tickTime := time, pendAdvance := 0, marks := 0 })
  if before < time ∨ s.stepNo + 1 < step then do
    putFlag F.tkJumped true
    bumpFull F.tkJumpCount
    let n ← fresh
    trace none 0x0A (Config.traceDie n % 4) 0 0 before (step - (s.stepNo + 1))
  else pure ()

/-- Order 3: the values that the configuration covers (R52, R513). -/
def tickConfig : M Unit := do
  let s ← get
  match s.time.pendPeriod with
  | some (us, n) =>
    if n ≤ s.stepNo then do
      setPeriod us
      setPendPeriod none
    else pure ()
  | none => pure ()
  modify (fun s => { s with rep := { s.rep with
    pendCfg := []
    epochNow := ((s.rep.pendCfg.find? 8).map (fun v => BitVec.ofNat 32 v.toNat)).getD s.rep.epochNow
    opNow := (s.rep.pendCfg.erase 8).foldl (fun m (p : Nat × W64) => m.insert p.1 p.2) s.rep.opNow } })
  refreshConfig s.rep.epochNow

/-- No beacon of a step, nor of a later one, has been adopted (R47). -/
def State.unheard (s : State) (step : Nat) : Bool :=
  match s.time.heard with
  | some x => decide (x.1.step.toNat < step)
  | none => true

/-- The domain at a tick that ends the step `last`: the priority written since (R579), a master that the module joins
(R47), the period of a beacon that came before its tick, and a missed beacon. A follower that misses one is in HOLDOVER,
from ACQUIRING too (DEDUCED from R47, log 99). -/
def tickDomain (last : Nat) : M Unit := do
  let s ← get
  if s.ownTick then
    match s.time.adopted with
    | some a => do
      followMaster a
      followStep a
      setTkState 2
    | none => becomeOwn
  else do
    match s.time.adopted with
    | some a => do
      if a.ofNext then followStep a else pure ()
      if a.jumpNs ≠ 0 then setTkState 2 else pure ()
    | none => pure ()
    if s.unheard last && s.follows && s.time.masterPort.isSome then do
      modTime (fun t => { t with missed := t.missed + 1 })
      setTkState 3
    else pure ()
  modTime (fun t => { t with adopted := none })

/-- Order 5: the master's beacon. -/
def tickBeacon : M Unit := do
  let s ← get
  if s.fld F.tkState = 1 then eachM s.jelucyUp (sendBeacon s.ownBeacon) else pure ()

/-- The caps and modes of the DMA engines take effect (R306). -/
def State.dmaModes (s : State) : State :=
  let named := s.regs.foldl (fun (m : AMap DmaEng DmaEngSt) (p : Reg × W64) =>
    let put := fun (e : DmaEng) (chs : List Nat) =>
      let x := m.getD e .idle
      m.insert e { x with chans := chs.foldl (fun c ch => c.insert ch (c.getD ch .empty)) x.chans }
    match p.1 with
    | .dmCore n => put (.core n) (upTo 8)
    | .dmDie d => put (.die d) []
    | .dmCh d ch => put (.die d) [ch.val]
    | _ => m) s.dma
  { s with dma := named.map (fun (p : DmaEng × DmaEngSt) =>
      (p.1, { p.2 with
        mode := match p.1 with
          | .core n => s.fld (F.dmCoreMode n)
          | .die d => s.fld (F.dmDieMode d)
        chans := p.2.chans.map (fun (c : Nat × DmaCh) => (c.1, { c.2 with
          prioCap := match p.1 with
            | .core n => s.fld (F.dmCorePrioCap n)
            | .die d => if h : c.1 < 32 then s.fld (F.dmPrioCap d ⟨c.1, h⟩) else 3
          shareCap := match p.1 with
            | .core n => s.fld (F.dmCoreShareCap n)
            | .die d => if h : c.1 < 32 then s.fld (F.dmShareCap d ⟨c.1, h⟩) else 256 })) })) }

/-- Saturation counts of the step are latched and start again (R126, R128). -/
def State.latchSaturation (s : State) : State :=
  let steps := s.regs.filterMap (fun (p : Reg × W64) => match p.1 with
    | .vxSatStep c k => some (c, k)
    | _ => none)
  let t := steps.foldl (fun (x : State) (p : Ctx × Fin 16) =>
    (x.setReg (.vxSatLast p.1 p.2) (s.reg (.vxSatStep p.1 p.2))).setReg (.vxSatStep p.1 p.2) 0) s
  { t with ctxs := t.ctxs.map (fun (p : Ctx × CtxSt) => (p.1, { p.2 with satRaised := [] })) }

/-- A command holds cores now, or, of another kind, runs (R54, R357, R492). -/
def State.counts (s : State) (c : Ctx) (q : QIdx) (x : Cmd) : Bool :=
  x.phase == .waiting || (x.started && x.ending.isNone && (x.kind != 1
    || s.cores.any (fun p => p.2.ctx == c && p.2.q == q && p.2.idx == x.idx && p.2.stage.isNone && p.2.wait != .preempted)))

/-- Ticks of waits, budgets and bounds. -/
def State.countTicks (s : State) : State :=
  { s with
    time := { s.time with ticks := s.time.ticks + 1 }
    queues := s.queues.map (fun (p : (Ctx × QIdx) × QueueSt) =>
      (p.1, { p.2 with cmds := p.2.cmds.map (fun x =>
        if s.counts p.1.1 p.1.2 x then { x with ticks := x.ticks + 1 } else x) }))
    fab := { s.fab with ports := s.fab.ports.map (fun (p : Port × PortSt) =>
      (p.1, { p.2 with tagFails := 0, stepsToDelay := p.2.stepsToDelay - 1 })) }
    sec := { s.sec with joinWait := s.sec.joinWait.map (fun (p : SysRef × Nat) => (p.1, p.2 + 1)) }
    pow := { s.pow with transTick := s.pow.trans.isSome } }

/-- CTX_CREATE and SE_SET_JOIN that have waited WAIT_TICKS ticks for a key end (R494). -/
def tickEntropy : M Unit := do
  let s ← get
  let limit := s.fld F.feWaitTicks
  eachM s.ctxs (fun p =>
    match p.2.phase with
    | .creating ref n =>
      if limit ≤ n + 1 then do
        modCtx p.1 (fun y => { CtxSt.absent with gen := y.gen })
        endSys ref 7 0xB4
      else modCtx p.1 (fun y => { y with phase := .creating ref (n + 1) })
    | _ => pure ())
  eachM (s.sec.joinWait.filter (fun w => decide (limit ≤ w.2))) (fun w => do
    modSec (fun x => { x with joinWait := x.joinWait.filter (fun v => v.1 ≠ w.1) })
    endSys w.1 7 0xB4)

/-- What is due at the tick and needs nothing else: the deadlines of reclaims, waits, budgets and bounds, joins, stalls and
graces, each as the command that names it has it (R23, R334, R357, R391, R403, R492, R515). -/
def tickDeadlines : M Unit := do
  orLater reclaimDeadline
  let s ← get
  eachM s.queues (fun p => orLater (waitTimeout p.1.1 p.1.2))
  eachM s.queues (fun p => eachM p.2.cmds (fun x => do
    orLater (nonpreemptOverrun p.1.1 p.1.2 x.idx)
    orLater (budgetExpiry p.1.1 p.1.2 x.idx)))
  eachM s.jobs (fun p => do
    orLater (joinTimeout p.1)
    eachM p.2.ops (fun o => match finOf 64 o.1 with
      | some ch => orLater (clStall p.1 ch)
      | none => pure ()))
  eachM (List.finRange 16) (fun p => orLater (graceExpiry p))

/-- Field calibration: the lanes of the ports that are UP have adapted, and every 1,024 steps the sensors are checked
(R539). -/
def tickCalibration (last : Nat) : M Unit := do
  let s ← get
  eachM s.jelucyUp (fun p => eachM (s.portOf p).lanes (fun l => recalibrate 1 p.val l.val))
  if last / 1024 = s.stepNo / 1024 then pure () else eachM (upTo 56) (fun i => recalibrate 3 i 0)

/-- The idle flits of the links that are UP have passed (R420, R421). -/
def tickLinks : M Unit := do
  eachM (← get).jelucyUp (fun p => do
    if ((← get).portOf p).keys.isEmpty then pure () else (passIdle p).bind (fun _ => pure ()))

/-- Order 6: counters, timeouts and deadlines. -/
def tickCounts (last : Nat) : M Unit := do
  modify State.latchSaturation
  modify State.dmaModes
  modify State.countTicks
  tickEntropy
  tickPart
  tickSlices
  tickReclaims
  tickJobs
  tickDeadlines
  tickCalibration last
  tickLinks
  chooseGrants
  tickTests

/-- A tick at device time `at'`. -/
def tickAt (at' : Nat) : M Unit := do
  let last := (← get).stepNo
  tickAdvance at'
  tickDomain last
  tickConfig
  let s ← get
  if s.flag F.tkTickOutEn && s.works then
    modify (fun s => { s with pins := { s.pins with tickOut := s.pins.tickOut + 1 } })
  else pure ()
  tickBeacon
  tickCounts last
  buildSteps

/-- The module's own tick: one period after the last, or as a beacon has placed it. -/
def execTick (s : State) : Host.Outcome State Fault Refusal :=
  runLink (do
    let s ← get
    guardWait s.ticks
    tickAt s.nextTickAt) s

/-- HOLDOVER_TICKS consecutive missed ticks. -/
def execHoldoverExpiry (s : State) : Host.Outcome State Fault Refusal :=
  runLink (do
    let s ← get
    guardWait (s.fld F.tkState == 3 && decide (s.fld F.tkHoldoverTicks ≤ s.time.missed))
    becomeOwn) s

/-- No enabled Jelucy port is on its way up: the links that come up are up (R418, R48). -/
def State.linksSettled (s : State) : Bool :=
  (List.finRange 16).all (fun p => s.fld (F.portMode p) != 0 || !s.flag (F.portEnable p)
    || !(decide (1 ≤ s.fld (F.portState p) ∧ s.fld (F.portState p) ≤ 3)))

/-- 160 ms of ACQUIRING at start-up without a beacon, which count from when the optical links are up (log 100). -/
def execAcquireTimeout (s : State) : Host.Outcome State Fault Refusal :=
  runLink (do
    let s ← get
    guardWait (s.fld F.tkState == 5 && s.time.masterPort.isNone && s.linksSettled)
    becomeOwn) s

/-! ### Pulses (R50, R51) -/

/-- A rising edge of TICK_IN, `off` ns after the computed tick. -/
def execTickInEdge (off : Int) (s : State) : Host.Outcome State Fault Refusal :=
  run (do
    let s ← get
    guardWait (s.ownTick && s.fld F.tkPhaseSrc == 1)
    if -1000 ≤ off ∧ off ≤ 1000 then tickAt ((s.nextTickAt : Int) + off).toNat else putFlag F.tkTickInMiss true) s

/-- A rising edge of PPS_IN at device time `t`. -/
def execPpsInEdge (t : BitVec 64) (s : State) : Host.Outcome State Fault Refusal :=
  run (do
    let s ← get
    guardWait (s.ownTick && s.fld F.tkPhaseSrc == 2 && decide (s.fld F.tkTime ≤ t.toNat ∧ t.toNat < s.nextTickAt))
    let second := s.fld F.tkPpsSeconds
    let value := second * 10 ^ 9
    let part := t.toNat % 10 ^ 9
    if s.time.ppsLocked = true ∧ 1000 < min part (10 ^ 9 - part) then do
      putFld F.tkTime t.toNat
      putFlag F.tkPpsFault true
    else if value < t.toNat then do
      putFld F.tkTime t.toNat
      putFlag F.tkPpsFault true
      putFld F.tkPpsSeconds (second + 1)
    else do
      putFld F.tkTime value
      putFld F.tkPpsSeconds (second + 1)
      modTime (fun x => { x with ppsLocked := true })
      if t.toNat < value then do
        putFlag F.tkJumped true
        bumpFull F.tkJumpCount
        let n ← fresh
        trace none 0x0A (Config.traceDie n % 4) 0 0 t.toNat 0
      else pure ()) s

/-! ### TK_ registers (R44, R52, R62, R579) -/

/-- Which fields of TK_CTRL keep a new value: a PHASE_SRC of 0b11 and HOLDOVER_TICKS of 0 do not (R50). -/
def tkCtrlOk (lo x : Nat) : Bool :=
  match lo with
  | 8 => bitsOf x 8 2 != 3
  | 12 => bitsOf x 12 4 != 0
  | _ => true

/-- A write of TK_CTRL: the priority acts at the next tick. -/
def writeTkCtrl (h : Half) (v : W64) : M Unit :=
  modify (fun s => (s.checkedWrite .tkCtrl h v tkCtrlOk).refreshAlert)

def execTkCtrlWrite (h : Half) (v : W64) (s : State) : Host.Outcome State Fault Refusal := run (writeTkCtrl h v) s

/-- A write of TK_PERIOD_STEP: one that reaches bits [63:32] arms the change. -/
def writePeriodStep (h : Half) (v : W64) : M Unit := do
  modify (fun s => s.plainWrite .tkPeriodStep h v)
  if h = .lo then pure ()
  else do
    let s ← get
    let us := s.fld F.tkPeriodNext
    let n := s.fld F.tkPeriodStep
    if s.ownTick = true ∧ 500 ≤ us ∧ us ≤ 250000 ∧ s.stepNo + 8 ≤ n then setPendPeriod (some (us, n))
    else putFlag F.tkPeriodReject true

def execTkPeriodStepWrite (h : Half) (v : W64) (s : State) : Host.Outcome State Fault Refusal :=
  run (writePeriodStep h v) s

/-- A write of TK_ADVANCE. -/
def writeAdvance (h : Half) (v : W64) : M Unit := do
  let k := v.toNat % 2 ^ 32
  if h = .hi ∨ k = 0xFFFFFFFF then pure ()
  else if !(← get).ownTick then putFlag F.tkAdvanceReject true
  else if k = 0 then pure ()
  else modTime (fun t => { t with pendAdvance := k })

def execTkAdvanceWrite (h : Half) (v : W64) (s : State) : Host.Outcome State Fault Refusal := run (writeAdvance h v) s

/-- What a read of a width returns of a register. -/
def halfRead (h : Half) (x : Nat) : W64 :=
  BitVec.ofNat 64 (match h with
    | .full => x
    | .lo => x % 2 ^ 32
    | .hi => x / 2 ^ 32)

/-! ### Latched reads (R63, R545, R556) -/

/-- What a counter window shows of a core: COUNT and VALID. Its counts of cycles are free values. -/
def windowValue (n : CoreId) (k : Nat) : M Nat := do
  let a ← fresh
  let runs := (← get).cores.any (fun p => p.1 == n)
  if runs && k == 0 then countCore n 0 (Config.cycles a)
  else if runs && k == 4 then countCore n 4 (Config.bankWait a)
  else pure ()
  pure (min (2 ^ 62 - 1) (nthD ((← get).cntOf n).cnt k 0) + b2n runs * 2 ^ 62)

/-- The core of rank `r` of the oldest running KERNEL command of a queue. -/
def State.rankCore (s : State) (c : Ctx) (q : QIdx) (r : Nat) : Option CoreId :=
  let on := fun (x : Cmd) (p : CoreId × Core) => p.2.ctx == c && p.2.q == q && p.2.idx == x.idx && p.2.stage.isNone
  match (s.queueOf c q).cmds.find? (fun x => x.kind == 1 && x.started && x.ending.isNone && s.cores.any (on x)) with
  | none => none
  | some x => (List.find? (fun p => on x p && p.2.rank == r) s.cores).map (·.1)

/-- The live value of a register whose reads latch, on a path. -/
def liveValue (via : Via) : LatchReg → M Nat
  | .time => sampleTime
  | .cycle d => sampleCycle d
  | .coreCnt k => do
    let s ← get
    match finOf 384 (s.fld F.coreSel) with
    | some n => do
      let v ← windowValue n k.val
      modify (fun s => s.setReg (.obCoreCnt k) v)
      pure v
    | none => pure 0
  | .ctxCnt c k => do
    let s ← get
    let v ← match (finOf 64 (s.fld (F.ctxSelQueue c))).bind (fun q => s.rankCore c q (s.fld (F.ctxSelRank c))) with
      | some n => windowValue n k.val
      | none => pure 0
    modify (fun s => s.setReg (.obCtxCnt c k) v)
    pure (match via with
      | .pf0 => v
      | .vf _ => v / 2 ^ 62 * 2 ^ 62 + countFor c (v % 2 ^ 62))

/-- A read of a register whose low-half reads latch: bits [31:0] latch bits [63:32]; at offset + 4 the latched half is
returned while it is held, else the live one; a 64-bit read discards the latch (R63). -/
def readLatched (via : Via) (r : LatchReg) (h : Half) : M W64 := do
  match h with
  | .lo => do
    let v ← liveValue via r
    modTime (fun t => { t with latches := t.latches.insert r (BitVec.ofNat 32 (v / 2 ^ 32)) })
    pure (halfRead .lo v)
  | .full => do
    let v ← liveValue via r
    modTime (fun t => { t with latches := t.latches.erase r })
    pure (halfRead .full v)
  | .hi =>
    match (← get).time.latches.find? r with
    | some x => pure (BitVec.ofNat 64 x.toNat)
    | none => do pure (halfRead .hi (← liveValue via r))

/-- The latch of a register, where it has one. -/
def Reg.latch : Reg → Option LatchReg
  | .tkTime => some .time
  | .tkCycle d => some (.cycle d)
  | .obCoreCnt k => some (.coreCnt k)
  | .obCtxCnt c k => some (.ctxCnt c k)
  | _ => none

/-- What a read of a register returns on a path; a read of TK_STEP latches the tick time (R8, R62, R63). -/
def readReg (via : Via) (r : Reg) (h : Half) : M W64 := do
  match r.latch with
  | some l => readLatched via l h
  | none => do
    let s ← get
    if r = .tkStep then putFld F.tkTickTime s.time.tickTime else pure ()
    pure (halfRead h (s.reg r))

/-- A read of TK_STEP latches the tick time. -/
def execTkStepRead (h : Half) (s : State) : Host.Outcome State Fault Refusal :=
  run (do emit (.readData (← readReg .pf0 .tkStep h))) s

/-- The path reaches the register: a VF only the window of its own context's page (R443). -/
def State.latchReach (s : State) (via : Via) : LatchReg → Bool
  | .ctxCnt c _ => s.ctxLive c && (match via with
    | .pf0 => true
    | .vf f => f == c && decide (1 ≤ f.val ∧ f.val ≤ s.cxl.numVfs))
  | _ => match via with
    | .pf0 => true
    | .vf _ => false

/-- A 32-bit read of bits [31:0] latches bits [63:32]. -/
def execLowHalfReadLatch (via : Via) (r : LatchReg) (s : State) : Host.Outcome State Fault Refusal :=
  run (do
    guardWait ((← get).latchReach via r)
    emit (.readData (← readLatched via r .lo))) s

/-- A 64-bit read returns the live value and discards the latch. -/
def execLatchDiscardRead (via : Via) (r : LatchReg) (s : State) : Host.Outcome State Fault Refusal :=
  run (do
    guardWait ((← get).latchReach via r)
    emit (.readData (← readLatched via r .full))) s

/-! ### Marks (R57, R352) -/

/-- Mark 50 or mark 80 of the current step. -/
def execDeadlineMark (m80 : Bool) (s : State) : Host.Outcome State Fault Refusal :=
  run (do
    let s ← get
    guardWait (s.time.marks == b2n m80)
    let at' := s.time.tickTime + s.fld (if m80 then F.tkMark80 else F.tkMark50) * 1000
    putFld F.tkTime (max at' (s.fld F.tkTime))
    modTime (fun t => { t with marks := t.marks + 1 })
    eachM (List.finRange 16) (fun m => monitor m m80 at')) s

end Sys2Proof.Machine
end

