-- ==== Sys2Proof/Machine/Registers.lean ====
section
/-! DEFINITION. Register writes: the checks that the register tables state, the writes with a row of their own, and the
write of any register by its offset (R5, R8, R236, R363, R443, R554–R556, R575–R578). -/

namespace Sys2Proof.Machine

/-! ### KV_INSTi (R211, R236) -/

/-- Bits of an element of a page format, or none where the code names no format (R211). -/
def kvBits (fmt : Nat) : Option Nat :=
  if fmt = 0 then some 16 else if fmt = 3 ∨ fmt = 4 then some 8 else if fmt = 7 then some 4 else none

/-- Whole-register values of KV_INSTi that keep R211. -/
def kvFits (x : Nat) : Bool :=
  match kvBits (bitsOf x 16 4) with
  | some e => decide (512 * 2 ^ bitsOf x 8 3 * (64 * 2 ^ bitsOf x 12 2) * e / 8 ≤ 65536 * 2 ^ bitsOf x 4 4)
  | none => false

/-- What KV_INSTi holds after a write, ENABLE apart: each field's own check, then R211 over the four fields as a whole;
while the instance is enabled only the format may change. -/
def kvInstNext (old new : Nat) : Nat :=
  let on := bitOf old 0
  let keep := fun (ok : Bool) (lo n x : Nat) => if ok then x else putBits x lo n (bitsOf old lo n)
  let x1 := keep (decide (bitsOf new 4 4 ≤ 6) && !on) 4 4 new
  let x2 := keep (decide (bitsOf new 8 3 ≤ 4) && !on) 8 3 x1
  let x3 := keep (decide (bitsOf new 12 2 ≠ 3) && !on) 12 2 x2
  let x4 := keep (kvBits (bitsOf new 16 4)).isSome 16 4 x3
  let x5 := keep (decide (bitsOf new 24 8 ≠ 0)) 24 8 x4
  let x6 := keep (decide (16 ≤ bitsOf new 32 8 ∧ bitsOf new 32 8 ≤ 128)) 32 8 x5
  let x7 := if kvFits x6 then x6
    else putBits (putBits (putBits (putBits x6 4 4 (bitsOf old 4 4)) 8 3 (bitsOf old 8 3)) 12 2 (bitsOf old 12 2))
      16 4 (bitsOf old 16 4)
  putBits x7 0 1 (bitsOf old 0 1)

/-- ENABLE may be set: R211 holds, and every pool with pages has its addresses. -/
def State.kvCanEnable (s : State) (i : CacheInst) : Bool :=
  kvFits (s.reg (.kvInst i)) && (List.finRange 16).all (fun j =>
    s.fld (F.poolPages j i) == 0 || (s.fld (F.poolBase j i) != 0 && s.fld (F.poolRec j i) != 0))

/-- A page of the instance is granted. -/
def pagesGranted (i : CacheInst) : M Bool := do
  let rs ← mapM' (List.finRange 16) (fun j => do
    if (← getFld (F.poolPages j i)) = 0 then pure false
    else pure ((← poolRecords j i).any (fun p => p.2.granted)))
  pure (rs.any id)

/-- A write of KV_INSTi. -/
def writeKvInst (i : CacheInst) (h : Half) (v : W64) : M Unit := do
  let s ← get
  let old := s.reg (.kvInst i)
  let new := Reg.written (.kvInst i) old h (halfPlace h v)
  set (s.setReg (.kvInst i) (kvInstNext old new))
  let t ← get
  if bitOf new 0 ∧ !bitOf old 0 then putFlag (F.kvEnable i) (t.kvCanEnable i)
  else if !bitOf new 0 ∧ bitOf old 0 then do
    match ← attempt (pagesGranted i) with
    | .ok granted => putFlag (F.kvEnable i) granted
    | .error _ => pure ()
  else pure ()

def execKvInstEnable (i : CacheInst) (h : Half) (v : W64) (s : State) : Host.Outcome State Fault Refusal :=
  run (writeKvInst i h v) s

/-! ### SS_MODELm_CFG (R341, R342, R363) -/

/-- The step plan of an instance, where its configuration lets it be enabled. -/
def enabledPlan (m : Model) : M (Option (List StagePlan)) := do
  let s ← get
  let a := s.fld (F.mPlan m)
  let fb := s.fallbackOf m
  if a % 64 = 0 ∧ s.fld (F.mBatch m) % 65536 = 0 ∧ 1 ≤ s.fld (F.mChunk m) ∧ s.fld (F.mChunk m) ≤ 65534
      ∧ 1 ≤ s.fld (F.mMaxRows m) ∧ s.fld (F.mMaxRows m) ≤ 2046 ∧ s.flag (F.kvEnable (s.cacheOf m)) = true
      ∧ fb.all (fun f => f != m && s.flag (F.mEnable f) && !s.flag (F.mFbValid f)
          && !(List.finRange 16).any (fun k => s.flag (F.mEnable k) && s.fallbackOf k == some m)) = true then do
    match ← attempt (vaRead 0 a 64) with
    | .error _ => pure none
    | .ok b =>
      match ← attempt (vaRead 0 a (64 * (recField b 0 1 + 1))) with
      | .error _ => pure none
      | .ok b => pure (parsePlan b (s.fld F.serveMin))
  else pure none

/-- Which fields of SS_MODELm_CFG keep a new value, ENABLE apart, and as it was before the write. -/
def modelCfgOk (on : Bool) (lo x : Nat) : Bool :=
  match lo with
  | 0 => false
  | 1 | 4 | 8 => !on
  | 48 => bitsOf x 48 8 != 0
  | _ => true

/-- A write of SS_MODELm_CFG. -/
def writeModelCfg (m : Model) (h : Half) (v : W64) : M Unit := do
  let s ← get
  let on := s.flag (F.mEnable m)
  let want := bitOf (Reg.written (.ssModelCfg m) (s.reg (.ssModelCfg m)) h (halfPlace h v)) 0
  set (s.checkedWrite (.ssModelCfg m) h v (modelCfgOk on))
  if want ∧ !on then do
    match ← enabledPlan m with
    | none => pure ()
    | some p => do
      modModel m (fun x => { x with plan := p })
      putFlag (F.mEnable m) true
  else if !want ∧ on then putFlag (F.mEnable m) false
  else pure ()

def execSsModelEnable (m : Model) (h : Half) (v : W64) (s : State) : Host.Outcome State Fault Refusal :=
  run (writeModelCfg m h v) s

/-- SERVE_MIN: 1–12, no less than an enabled plan's ranks ask for, and no more than the running grants leave. -/
def State.serveMinOk (s : State) (n : Nat) : Bool :=
  let held := s.ctxs.flatMap (fun p => p.2.holds)
  decide (1 ≤ n ∧ n ≤ 12)
    && (List.finRange 16).all (fun m => !s.flag (F.mEnable m) || (s.modelOf m).plan.all (fun st => decide (st.ranks ≤ 32 * n)))
    && (upTo 4).all (fun d => decide (onDie held d + n ≤ 12))

/-! ### OB_TRMARK (R554, R555) -/

/-- A write of OB_TRMARK: the marker is written, and sent where OB_TRMARK_DST says so. -/
def writeTrmark (h : Half) (v : W64) : M Unit := do
  let x := halfPlace h v
  if h = .lo then modify (fun s => { s with obs := { s.obs with markLow := BitVec.ofNat 32 x } })
  else do
    let s ← get
    let value := if h = .hi then x + s.obs.markLow.toNat else x
    modify (fun s => { s with obs := { s.obs with markLow := 0 } })
    let a ← fresh
    trace (some 3) 9 (Config.traceDie a % 4) 0 0 value (s.fld F.deviceId)
    if s.flag F.trmarkSend then do
      let _ ← sendRouted 10 (s.fld F.trmarkDev) 0 0 (leBytes 8 value) none
      pure ()
    else pure ()

def execObTrmarkWrite (h : Half) (v : W64) (s : State) : Host.Outcome State Fault Refusal := run (writeTrmark h v) s

/-! ### Writes with checks of their own -/

/-- Which fields of a register keep a new value: by the field's low bit, the register as the write would leave it, and
the state before the write. A field that no table restricts always does. -/
def State.fieldOk (s : State) (r : Reg) (lo x : Nat) : Bool :=
  match r, lo with
  | .feCtrl, 0 => bitsOf x 0 16 != 0
  | .feCtrl, 16 => bitsOf x 16 16 != 0
  | .ssCtrl, 0 => s.serveMinOk (bitsOf x 0 4)
  | .ssCtrl, 32 => bitsOf x 32 32 != 0
  | .ssWctrl, 0 => bitsOf x 0 16 != 0
  | .ssWctrl, 16 => decide (1 ≤ bitsOf x 16 8 ∧ bitsOf x 16 8 ≤ 64)
  | .ssModelPlan m, _ => !s.flag (F.mEnable m)
  | .ssModelBatch m, _ => !s.flag (F.mEnable m)
  | .msSweep, _ => bitsOf x 0 8 != 0
  | .msRetrain, 0 => bitsOf x 0 16 != 0
  | .msRetrain, 16 => bitsOf x 16 16 != 0
  | .feHtcount _, _ => bitsOf x 0 21 != 0x1FFFFF
  | .jlWtcount, _ => bitsOf x 0 17 != 0x1FFFF
  | .cxPeercount, _ => bitsOf x 0 13 != 0x1FFF
  | .trCtrl, _ => decide (1025 ≤ bitsOf x 0 11 ∧ bitsOf x 0 11 ≤ 1040)
  | .jlCtrl, 0 => bitsOf x 0 16 != 0xFFFF &&
      (List.finRange 16).all (fun p => s.fld (F.portMode p) != 0 || s.fld (F.portState p) == 0)
  | .jlCtrl, 16 => bitsOf x 16 16 != 0
  | .jlCtrl, 32 => bitsOf x 32 16 != 0 && bitsOf x 32 16 != 0xFFFF
  | .jlPortMac p, _ => !s.flag (F.portEnable p)
  | .cxCtrl, _ => bitsOf x 0 16 != 0
  | .cxSeg _, 0 => decide (1 ≤ bitsOf x 0 11 ∧ bitsOf x 0 11 ≤ 1040)
  | .pwCap, 0 => capOk (bitsOf x 0 12)
  | .pwCap, 16 => decide (10 ≤ bitsOf x 16 10 ∧ bitsOf x 16 10 ≤ 1000)
  | .pwTherm, 0 => decide (85 ≤ bitsOf x 0 8 ∧ bitsOf x 0 8 ≤ 110)
  | .pwTherm, 8 => decide (85 ≤ bitsOf x 8 8 ∧ bitsOf x 8 8 ≤ 100)
  | .pwTherm, 16 => decide (1 ≤ bitsOf x 16 8 ∧ bitsOf x 16 8 ≤ 15)
  | .rpCtrl, 0 => bitsOf x 0 16 != 0
  | .rpCtrl, 16 | .rpCtrl, 26 => decide (10 ≤ bitsOf x 16 10 ∧ 1 ≤ bitsOf x 26 4 ∧ bitsOf x 16 10 * bitsOf x 26 4 ≤ 300)
  | .rpCtrl, 32 => decide (10 ≤ bitsOf x 32 16 ∧ bitsOf x 32 16 ≤ 1000)
  | .rpCfgCtrl, _ => bitsOf x 0 16 != 0
  | .obCoreSel, _ => decide (bitsOf x 0 9 ≤ 383)
  | .obTapcount, _ => decide (bitsOf x 0 9 ≤ 256)
  | .obTrbase, _ => !s.flag F.trEnable
  | .obTrcfg, 8 => !s.flag F.trEnable && decide (4 ≤ bitsOf x 8 4)
  | .clCtrl, 0 => bitsOf x 0 16 != 0
  | .clCtrl, 16 => bitsOf x 16 16 != 0
  | .mxTestCtrl _, 8 => decide (96 ≤ bitsOf x 8 24 ∧ bitsOf x 8 24 ≠ 0xFFFFFF)
  | .kvPoolBase _ i, _ => !s.flag (F.kvEnable i) && bitsOf x 0 57 % s.pageSize i == 0
  | .kvPoolSize _ i, _ => !s.flag (F.kvEnable i) && bitsOf x 0 28 != 0xFFFFFFF
  | .kvPoolRec _ i, _ => !s.flag (F.kvEnable i) && bitsOf x 0 57 % 64 == 0
  | .dmCore _, 8 => decide (1 ≤ bitsOf x 8 9 ∧ bitsOf x 8 9 ≤ 256)
  | .dmCh _ _, 8 => decide (1 ≤ bitsOf x 8 9 ∧ bitsOf x 8 9 ≤ 256)
  | .feQring c q, _ | .feQcring c q, _ => s.fld (F.qState c q) == 0
  | .feEvbase c, _ => !s.flag (F.evEnable c)
  | .feEvcfg c, 8 => !s.flag (F.evEnable c) && decide (5 ≤ bitsOf x 8 4 ∧ bitsOf x 8 4 ≤ 12)
  | .vxSatCfg _ _, 0 => bitsOf x 0 32 != 0xFFFFFFFF
  | .kvReserve c i, _ => (List.finRange 16).all (fun j =>
      decide (((List.finRange 1025).filter (fun k => k ≠ c && s.ctxLive k)).foldl
        (fun n k => n + s.fld (F.kvReserve k i)) (bitsOf x 0 28) ≤ s.fld (F.poolPages j i)))
  | .kvPressure _ _, _ => bitsOf x 0 28 != 0xFFFFFFF
  | .obCtxSel _, 16 => decide (bitsOf x 16 9 ≤ 383)
  | _, _ => true

/-- A write of RP_CFG_OPk (k) or RP_CFG_EPOCH (8): the value takes effect at the next tick (R513). -/
def writeCfgValue (k : Nat) (r : Reg) (h : Half) (v : W64) : M Unit := do
  modify (fun s => s.plainWrite r h v)
  modify (fun s => { s with rep := { s.rep with pendCfg := s.rep.pendCfg.insert k (BitVec.ofNat 64 (s.reg r)) } })

/-- Drop a held latch (R63). -/
def dropLatch (r : LatchReg) : M Unit := modTime (fun t => { t with latches := t.latches.erase r })

/-- The effect of a write of a register, whatever its path. -/
def writeReg (r : Reg) (h : Half) (v : W64) : M Unit := do
  match r with
  | .tkCtrl => writeTkCtrl h v
  | .tkPeriodStep => writePeriodStep h v
  | .tkAdvance => writeAdvance h v
  | .tkTime => dropLatch .time
  | .tkCycle d => dropLatch (.cycle d)
  | .obCoreCnt k => dropLatch (.coreCnt k)
  | .obCtxCnt c k => dropLatch (.ctxCnt c k)
  | .ssModelCfg m => writeModelCfg m h v
  | .msPart => writeMsPart h v
  | .msZero => writeMsZero h v
  | .trInvCmd => writeInvCmd h v
  | .trRekey => writeRekey h v
  | .jlPortCfg p => writePortCfg p h v
  | .cxHdm => writeHdm h v
  | .cxHdmBase => writeHdmBase h v
  | .pwReq => writePwReq h v
  | .kvInst i => writeKvInst i h v
  | .feQcfg c q => writeQcfg c q h v
  | .feQdb c q => writeDoorbell c q h v
  | .feQcptr c q => writeHead (F.qChead c q) (F.qCtail c q) (some (F.qPtrReject c q)) h v
  | .feEvptr c => writeHead (F.evHead c) (F.evTail c) (some (F.evPtrReject c)) h v
  | .obTrptr => writeHead F.trHead F.trTail none h v
  | .feFval c f => writeFval c f h v
  | .feFcfg c f => writeFcfg c f h v
  | .obTrmark => writeTrmark h v
  | .rpCfgOp k => writeCfgValue k.val r h v
  | .rpCfgEpoch => writeCfgValue 8 r h v
  | _ => do
    let s ← get
    set (s.checkedWrite r h v (s.fieldOk r))
    refreshSensor
    refreshMapData
    if r = .jlCtrl ∧ s.ownTick = true then putFld F.tkMasterId (← getFld F.deviceId) else pure ()

/-! ### A write by offset (R8, R443, R444, R575, R578) -/

/-- The half of a register that an access of a width reaches; none for a width or alignment that R8 refuses. -/
def accessHalf (off bits : Nat) : Option Half :=
  if bits = 64 ∧ off % 8 = 0 then some .full
  else if bits = 32 ∧ off % 8 = 0 then some .lo
  else if bits = 32 ∧ off % 8 = 4 then some .hi
  else none

/-- The register at an offset of a path's BAR0. -/
def regAt (via : Via) (off : Nat) : Option Reg :=
  match via with
  | .pf0 => Reg.ofPf0 (off / 8 * 8)
  | .vf c => if off < 0x4000 then Reg.ofPage c (off / 8 * 8) else none

/-- A VF may write the register. -/
def vfWrites : Reg → Bool
  | .feHtbase _ | .feHtcount _ | .kvReserve _ _ => false
  | _ => true

/-- A register of the PW_ block. -/
def Reg.isPw : Reg → Bool
  | .pwReq | .pwStatus | .pwCap | .pwPace | .pwPower | .pwTherm | .pwSensorIndex | .pwSensorData | .pwRoles | .pwFw
  | .pwFwUpd | .pwBoot => true
  | _ => false

/-- The register answers a write now: all of them while the module works; PW_ alone after a thermal trip, and, PW_REQ
apart, before READY; none after a module fault or in RETIRED (R480, R518, R531). -/
def State.answers (s : State) (r : Reg) : Bool :=
  s.works || (r.isPw && !s.rep.moduleFault && s.pow.powered && !s.pins.perst && s.fld F.lcState != 4
    && (s.flag F.pwReady || r != .pwReq))

/-- A register of the ID_, SE_ or RP_ block. -/
def Reg.isId : Reg → Bool
  | .idPart | .idShape | .idClock | .idMem => true
  | _ => false

def Reg.isSe : Reg → Bool
  | .seLc | .seSerial | .seRegistry | .seSets | .seStat | .seSetId0 _ | .seSetId1 _ => true
  | _ => false

def Reg.isRp : Reg → Bool
  | .rpCtrl | .rpStat | .rpPlinth | .rpMapCount | .rpMapIndex | .rpMapData | .rpCfgEpoch | .rpCfgCtrl | .rpCfgOp _
  | .rpCfgDigest _ | .rpCfgStat | .rpDrain | .rpResets => true
  | _ => false

/-- The register answers a read now: none without power or under PERST#; ID_ and RP_ alone after a module fault, ID_ and
SE_ alone in RETIRED, ID_, SE_ and PW_ alone before READY (R480, R518, R531). -/
def State.answersRead (s : State) (r : Reg) : Bool :=
  s.pow.powered && !s.pins.perst && (r.isId ||
    (if s.rep.moduleFault then r.isRp
     else if s.fld F.lcState = 4 then r.isSe
     else s.flag F.pwReady || r.isSe || r.isPw))

/-- The register lies in the page of a context that does not exist (R444). -/
def State.pageGone (s : State) (r : Reg) : Bool :=
  match r.page with
  | some c => !s.ctxLive c
  | none => false

/-- A read of `bits` bits at an offset of a path's BAR0 (R8). The table has no row for a read that has no effect beyond
its answer; the reads that have one are LOW_HALF_READ_LATCH, LATCH_DISCARD_READ and TK_STEP_READ, which are this read of
their registers (log 98). -/
def readAccess (via : Via) (off bits : Nat) : M Unit := do
  match accessHalf off bits with
  | none => emit .unsupported
  | some h =>
    match regAt via off with
    | none => emit (.readData 0)
    | some r => do
      let s ← get
      if s.answersRead r && !s.pageGone r then emit (.readData (← readReg via r h)) else emit (.readData 0)

/-- A write of `bits` bits at an offset of PF0 BAR0, or of a VF's BAR0. -/
def execRegisterWrite (via : Via) (off bits : Nat) (v : W64) (s : State) : Host.Outcome State Fault Refusal :=
  runAny (do
    guardWait (match via with
      | .pf0 => decide (off < 2 ^ 26)
      | .vf c => decide (1 ≤ c.val ∧ c.val ≤ s.cxl.numVfs ∧ off < 0x4000))
    match accessHalf off bits with
    | none => emit .unsupported
    | some h =>
      match regAt via off with
      | none => pure ()
      | some r =>
        if s.answers r && !s.pageGone r && (via == .pf0 || vfWrites r) then writeReg r h v else pure ()) s

end Sys2Proof.Machine
end

