-- ==== Sys2Proof/Machine/Scalar.lean ====
section
/-! DEFINITION. Scalar and predicate instructions (R79, R80). -/

namespace Sys2Proof.Machine

/-- The two-operand operations SALU 0x00–0x12 (R79, R80). -/
def aluOp (minor : Nat) (a b : W64) : W64 :=
  match minor with
  | 0x00 => a + b
  | 0x01 => a - b
  | 0x02 => a * b
  | 0x03 => BitVec.ofInt 64 (a.toInt * b.toInt / 2 ^ 64)
  | 0x04 => BitVec.ofNat 64 (a.toNat * b.toNat / 2 ^ 64)
  | 0x05 => if b = 0 then BitVec.allOnes 64 else BitVec.ofInt 64 (a.toInt.tdiv b.toInt)
  | 0x06 => if b = 0 then BitVec.allOnes 64 else BitVec.ofNat 64 (a.toNat / b.toNat)
  | 0x07 => if b = 0 then a else BitVec.ofInt 64 (a.toInt.tmod b.toInt)
  | 0x08 => if b = 0 then a else BitVec.ofNat 64 (a.toNat % b.toNat)
  | 0x09 => a &&& b
  | 0x0A => a ||| b
  | 0x0B => a ^^^ b
  | 0x0C => a <<< (b.toNat % 64)
  | 0x0D => a >>> (b.toNat % 64)
  | 0x0E => a.sshiftRight (b.toNat % 64)
  | 0x0F => if a.toInt ≤ b.toInt then a else b
  | 0x10 => if a.toInt ≤ b.toInt then b else a
  | 0x11 => if a.toNat ≤ b.toNat then a else b
  | _ => if a.toNat ≤ b.toNat then b else a

/-- The relations eq, ne, lt, ltu, le, leu in the order of SALU 0x13–0x18. -/
def aluRel (r : Nat) (a b : W64) : Bool :=
  match r with
  | 0 => a == b
  | 1 => a != b
  | 2 => decide (a.toInt < b.toInt)
  | 3 => decide (a.toNat < b.toNat)
  | 4 => decide (a.toInt ≤ b.toInt)
  | _ => decide (a.toNat ≤ b.toNat)

/-- Count of one bits among the low n bits. -/
def popCount : Nat → Nat → Nat
  | 0, _ => 0
  | n + 1, x => x % 2 + popCount n (x / 2)

/-- Count of leading zeros of a 64-bit value. -/
def leadingZeros (a : W64) : Nat := if a = 0 then 64 else 63 - Nat.log2 a.toNat

/-- The decode fault of a SALU word (R70, R72, R79). -/
def saluBad (x : Nat) : Option Nat :=
  let m := Wd.minor x
  if 0x22 ≤ m then some 0x01
  else reservedUnless x
    (if m ≤ 0x12 then [(45, 5), (40, 5), (35, 5)]
     else if m ≤ 0x18 then [(45, 3), (40, 5), (35, 5)]
     else if m = 0x19 then [(45, 5), (40, 5), (35, 5), (30, 3)]
     else if m ≤ 0x1B then [(45, 5), (40, 5)]
     else if m ≤ 0x1E then [(45, 3), (40, 3), (35, 3)]
     else if m = 0x1F then [(45, 3), (40, 3)]
     else if m = 0x20 then [(45, 3), (40, 5), (35, 5)]
     else [(45, 5), (40, 3), (20, 1)])

/-- The effect of a SALU instruction on the core's registers (R79). -/
def saluEffect (x : Nat) (k : Core) : Core :=
  let m := Wd.minor x
  let rd := Wd.f45 x
  let a := k.getS (Wd.f40 x)
  let b := k.getS (Wd.f35 x)
  let pa := k.getP (Wd.f40 x % 8)
  let pb := k.getP (Wd.f35 x % 8)
  if m ≤ 0x12 then k.setS rd (aluOp m a b)
  else if m ≤ 0x18 then k.setP rd (allPred (aluRel (m - 0x13) a b))
  else
    match m with
    | 0x19 => k.setS rd (if bitOf (k.getP (Wd.f30 x)).toNat 0 then a else b)
    | 0x1A => k.setS rd (w64 (popCount 64 a.toNat))
    | 0x1B => k.setS rd (w64 (leadingZeros a))
    | 0x1C => k.setP rd (pa &&& pb)
    | 0x1D => k.setP rd (pa ||| pb)
    | 0x1E => k.setP rd (pa ^^^ pb)
    | 0x1F => k.setP rd (~~~pa)
    | 0x20 => k.setP rd (BitVec.ofNat 128 (a.toNat + b.toNat * 2 ^ 64))
    | _ => k.setS rd (w64 (pa.toNat / 2 ^ (64 * bitsOf x 20 1)))

/-- The scalar registers that a SALU instruction reads or writes. -/
def saluRegs (x : Nat) : List Nat :=
  let m := Wd.minor x
  let rd := Wd.f45 x
  let ra := Wd.f40 x
  let rb := Wd.f35 x
  if m ≤ 0x12 ∨ m = 0x19 then [rd, ra, rb]
  else if m ≤ 0x18 ∨ m = 0x20 then [ra, rb]
  else if m ≤ 0x1B then [rd, ra]
  else if m ≤ 0x1F then [] else [rd]

/-- SALU (R79, R80). -/
def execSalu (n : CoreId) (w : BitVec 56) (s : State) : Host.Outcome State Fault Refusal :=
  run (let x := wordOf56 2 w
    issue n x (saluBad x) (fun k => do
      stallS k (saluRegs x)
      modCore n (saluEffect x))) s

/-- The decode fault of a SALUI word. Shifts use imm36[5:0] and the model ignores the rest (R79; log 110). -/
def saluiBad (x : Nat) : Option Nat :=
  let m := Wd.minor x
  if 0x0C ≤ m then some 0x01
  else reservedUnless x
    (if m = 7 then [(45, 5), (4, 36)]
     else if m ≤ 8 then [(45, 5), (40, 5), (4, 36)]
     else [(45, 3), (40, 5), (4, 36)])

/-- The effect of a SALUI instruction (R79). -/
def saluiEffect (x : Nat) (k : Core) : Core :=
  let rd := Wd.f45 x
  let a := k.getS (Wd.f40 x)
  let i := BitVec.ofInt 64 (Wd.imm36 x)
  let sh := Wd.imm36u x % 64
  match Wd.minor x with
  | 0x00 => k.setS rd (a + i)
  | 0x01 => k.setS rd (a &&& i)
  | 0x02 => k.setS rd (a ||| i)
  | 0x03 => k.setS rd (a ^^^ i)
  | 0x04 => k.setS rd (a <<< sh)
  | 0x05 => k.setS rd (a >>> sh)
  | 0x06 => k.setS rd (a.sshiftRight sh)
  | 0x07 => k.setS rd i
  | 0x08 => k.setS rd (w64 (Wd.imm36u x * 2 ^ 28 + a.toNat % 2 ^ 28))
  | 0x09 => k.setP rd (allPred (aluRel 0 a i))
  | 0x0A => k.setP rd (allPred (aluRel 2 a i))
  | _ => k.setP rd (allPred (aluRel 3 a i))

/-- SALUI (R79). -/
def execSalui (n : CoreId) (w : BitVec 56) (s : State) : Host.Outcome State Fault Refusal :=
  run (let x := wordOf56 3 w
    let m := Wd.minor x
    issue n x (saluiBad x) (fun k => do
      stallS k ((if m ≤ 8 then [Wd.f45 x] else []) ++ (if m = 7 then [] else [Wd.f40 x]))
      modCore n (saluiEffect x))) s

end Sys2Proof.Machine
end

