-- ==== Sys2Proof/Machine/Vector.lean ====
section
/-! DEFINITION. Vector arithmetic, reductions, permutations, conversions, gather and scatter (R67, R86–R88,
R116, R117, R119–R121). -/

namespace Sys2Proof.Machine

/-! ### Lanes (R86) -/

/-- Width of a lane of an etype, and the number of lanes. -/
def laneWidth (t : Nat) : Nat := if t = 0 ∨ t = 2 then 16 else 32
def laneCount (t : Nat) : Nat := if t = 0 ∨ t = 2 then 128 else 64

/-- The four lane layouts; the floating ones. -/
def laneType (t : Nat) : Bool := t == 0 || t == 1 || t == 2 || t == 9
def laneFloat (t : Nat) : Bool := t == 0 || t == 1 || t == 2

/-- The lane of a register as a value. -/
def laneVal (t : Nat) (v : BitVec 2048) (i : Nat) : Val := decodeNum t (laneOf v (laneWidth t) i)

/-- The lane predicate of a word selects lane i (R67, R86). -/
def laneOn (k : Core) (x i : Nat) : Bool := bitOf (k.getP (Wd.pl x)).toNat i

/-- A destination register from its lanes: masked lanes are zeroed with zm, kept without (R86). -/
def lanesInto (k : Core) (x t : Nat) (f : Nat → Nat) : BitVec 2048 :=
  let w := laneWidth t
  ofLanes w ((upTo (laneCount t)).map (fun i =>
    if laneOn k x i then f i else if Wd.zm x then 0 else laneOf (k.getV (Wd.f45 x)) w i))

/-- The scalar s(sa) as an instruction broadcasts it (R87). -/
def broadcast (k : Core) (x t : Nat) : Nat :=
  let b := (k.getS (Wd.saV x)).toNat % 2 ^ 32
  if laneFloat t then (convert t (ofFp32 b)).bits else b

/-- The fields of the lane predicate. -/
def usePl : List (Nat × Nat) := [(23, 3), (22, 1)]
/-- etype. -/
def useEt : Nat × Nat := (26, 4)

/-! ### VX (R87) -/

/-- The function of a transcendental minor opcode. -/
def vxFn : Nat → Option Fn
  | 0x0E => some .expsub | 0x0F => some .exp | 0x10 => some .exp2 | 0x11 => some .log2 | 0x12 => some .ln
  | 0x13 => some .rcp | 0x14 => some .rsqrt | 0x15 => some .sqrt | 0x16 => some .tanh
  | 0x17 => some .sigmoid | 0x18 => some .silu | 0x19 => some .gelu | _ => none

/-- The fields that a VX instruction uses beside vd, etype and the lane predicate. -/
def vxUse (m : Nat) : List (Nat × Nat) :=
  let va := (40, 5)
  let vb := (35, 5)
  if m ≤ 2 ∨ m = 4 ∨ m = 5 ∨ (8 ≤ m ∧ m ≤ 0xA) ∨ m = 0xE ∨ 0x1C ≤ m then [va, vb]
  else if m = 3 then [va, vb, (30, 5)]
  else if m = 0xB then [va, vb, (30, 3)]
  else if m = 0xC ∨ m = 0xD then [(17, 5)]
  else if m = 0x1A ∨ m = 0x1B then [va, (17, 5)]
  else [va]

/-- The etypes that a VX instruction takes. -/
def vxTypes (m t : Nat) : Bool :=
  if m = 3 ∨ (0xE ≤ m ∧ m ≤ 0x19) then laneFloat t
  else if m = 0xD ∨ 0x1C ≤ m then t == 9
  else laneType t

/-- The decode fault of a VX word (R70, R72, R86). -/
def vxBad (x : Nat) : Option Nat :=
  let m := Wd.minor x
  if 0x21 ≤ m then some 0x01
  else
    let vd := if 8 ≤ m ∧ m ≤ 0xA then (45, 3) else (45, 5)
    match reservedUnless x (vd :: useEt :: usePl ++ vxUse m) with
    | some f => some f
    | none => if vxTypes m (Wd.etype x) then none else some 0x03

/-- A lane of an INT32 operation, modulo 2^32. -/
def intLane (m : Nat) (a b : Nat) : Nat :=
  let x := signOf 32 a
  let y := signOf 32 b
  match m with
  | 0x00 => toUnsigned 32 (x + y) | 0x01 => toUnsigned 32 (x - y) | 0x02 => toUnsigned 32 (x * y)
  | 0x04 => if x < y then b else a
  | 0x05 => if x < y then a else b
  | 0x06 => toUnsigned 32 (x.natAbs : Int)
  | 0x07 => toUnsigned 32 (-x)
  | 0x1A => toUnsigned 32 (x * y) | 0x1B => toUnsigned 32 (x + y)
  | 0x1C => a &&& b | 0x1D => a ||| b | 0x1E => a ^^^ b
  | 0x1F => a * 2 ^ (b % 32) % 2 ^ 32
  | _ => a / 2 ^ (b % 32)

/-- A lane of a floating operation: the exact result. -/
def floatOp (m : Nat) (a b c : Val) : Val :=
  match m with
  | 0x00 => Val.add a b | 0x01 => Val.sub a b | 0x02 => Val.mul a b
  | 0x03 => Val.add (Val.mul a b) c
  | 0x04 => Val.max a b | 0x05 => Val.min a b | 0x06 => a.abs | 0x07 => a.neg
  | 0x1A => Val.mul a b | _ => Val.add a b

/-- The relation of a compare: eq, lt, le; false where a floating lane is NaN. -/
def laneRel (m t : Nat) (a b : Nat) : Bool :=
  if t = 9 then
    (if m = 8 then a == b else if m = 9 then decide (signOf 32 a < signOf 32 b)
     else decide (signOf 32 a ≤ signOf 32 b))
  else
    let x := decodeNum t a
    let y := decodeNum t b
    if m = 8 then Val.eqv x y else if m = 9 then Val.lt x y else Val.le x y

/-- One lane of a VX instruction that writes a vector register. -/
def vxLane (k : Core) (x i : Nat) : Nat :=
  let m := Wd.minor x
  let t := Wd.etype x
  let w := laneWidth t
  let a := laneOf (k.getV (Wd.f40 x)) w i
  let b := if m = 0x1A ∨ m = 0x1B then broadcast k x t else laneOf (k.getV (Wd.f35 x)) w i
  let c := laneOf (k.getV (Wd.f30 x)) w i
  if m = 0x0B then (if bitOf (k.getP (bitsOf x 30 3)).toNat i then a else b)
  else if m = 0x0C then broadcast k x t
  else if m = 0x0D then (i + broadcast k x t) % 2 ^ 32
  else
    match vxFn m with
    | some .expsub => Fn.lane .expsub t (a + 2 ^ 32 * b) (Val.sub (decodeNum t a) (decodeNum t b))
    | some f => Fn.lane f t a (decodeNum t a)
    | none =>
      if t = 9 then intLane m a b
      else (convert t (floatOp m (decodeNum t a) (decodeNum t b) (decodeNum t c))).bits

/-- The predicate that a vector compare writes (R67). -/
def vxCompare (k : Core) (x : Nat) : BitVec 128 :=
  let t := Wd.etype x
  let w := laneWidth t
  let old := (k.getP (bitsOf x 45 3)).toNat
  BitVec.ofNat 128 (packLanes 1 ((upTo (laneCount t)).map (fun i => b2n (
    if laneOn k x i then laneRel (Wd.minor x) t (laneOf (k.getV (Wd.f40 x)) w i) (laneOf (k.getV (Wd.f35 x)) w i)
    else !Wd.zm x && bitOf old i))))

/-- The vector arithmetic instructions. -/
def execVx (n : CoreId) (w : BitVec 56) (s : State) : Host.Outcome State Fault Refusal :=
  run (let x := wordOf56 6 w
    issue n x (vxBad x) (fun k => do
      let m := Wd.minor x
      let cmp := 8 ≤ m && m ≤ 0xA
      stallV k ((if cmp then [] else [Wd.f45 x]) ++
        ([(40, 5), (35, 5), (30, 5)].filter (vxUse m).contains).map (fun f => bitsOf x f.1 f.2))
      stallS k [if (vxUse m).contains (17, 5) then Wd.saV x else 0]
      countCore n 3 1
      if cmp then modCore n (fun c => c.setP (bitsOf x 45 3) (vxCompare k x))
      else modCore n (fun c => c.setV (Wd.f45 x) (lanesInto k x (Wd.etype x) (vxLane k x))))) s

/-! ### Reductions and permutations (R88) -/

/-- The decode fault of a VXR word whose etypes `ts` allows. -/
def vxrBad (x : Nat) (used : List (Nat × Nat)) (ts : Nat → Bool) : Option Nat :=
  match reservedUnless x (useEt :: used) with
  | some f => some f
  | none => if ts (Wd.etype x) then none else some 0x03

/-- The selected lanes, ascending. -/
def selected (k : Core) (x : Nat) : List Nat := (upTo (laneCount (Wd.etype x))).filter (laneOn k x)

/-- rsum of floating lanes: each addition rounded to FP32, the total rounded to etype. -/
def sumLanes (t : Nat) (vs : List Val) : Nat :=
  match vs with
  | [] => 0
  | v :: r => (convert t (r.foldl (fun a b => fp32 (Val.add a b)) v)).bits

/-- The result of a reduction: 0 rsum, 1 rmax, 2 rmin, 3 rabsmax. -/
def reduceLanes (op t : Nat) (vs : List Nat) : Nat :=
  if t = 9 then
    (let xs := vs.map (signOf 32)
     match op, xs with
     | 0, _ => toUnsigned 32 xs.sum
     | 1, _ => toUnsigned 32 (xs.foldl max (-(2 ^ 31)))
     | 2, _ => toUnsigned 32 (xs.foldl min (2 ^ 31 - 1))
     | _, _ =>
       let top := xs.foldl (fun a b => max a (b.natAbs : Int)) 0
       if top = 2 ^ 31 ∧ Config.leastLaneWraps vs = true then
         toUnsigned 32 (xs.foldl (fun a b => if b = -(2 ^ 31) then a else max a (b.natAbs : Int)) 0)
       else toUnsigned 32 top)
  else
    (let xs := vs.map (decodeNum t)
     match op with
     | 0 => sumLanes t xs
     | 1 => (convert t (xs.foldl Val.max (.inf true))).bits
     | 2 => (convert t (xs.foldl Val.min (.inf false))).bits
     | _ => (convert t (xs.foldl (fun a b => Val.max a b.abs) Val.zero)).bits)

/-- Issue a reduction. -/
def issueReduce (n : CoreId) (op x : Nat) : M Unit :=
  issue n x (vxrBad x ([(45, 5), (40, 5)] ++ usePl) laneType) (fun k => do
    stallV k [Wd.f45 x, Wd.f40 x]
    countCore n 3 1
    let t := Wd.etype x
    let r := reduceLanes op t ((selected k x).map (laneOf (k.getV (Wd.f40 x)) (laneWidth t)))
    modCore n (fun c => c.setV (Wd.f45 x) (BitVec.ofNat 2048 r)))

/-- rsum -/
def execRsum (n : CoreId) (w : BitVec 50) (s : State) : Host.Outcome State Fault Refusal :=
  run (issueReduce n 0 (wordOf 7 0 w)) s
/-- rmax -/
def execRmax (n : CoreId) (w : BitVec 50) (s : State) : Host.Outcome State Fault Refusal :=
  run (issueReduce n 1 (wordOf 7 1 w)) s
/-- rmin -/
def execRmin (n : CoreId) (w : BitVec 50) (s : State) : Host.Outcome State Fault Refusal :=
  run (issueReduce n 2 (wordOf 7 2 w)) s
/-- rabsmax -/
def execRabsmax (n : CoreId) (w : BitVec 50) (s : State) : Host.Outcome State Fault Refusal :=
  run (issueReduce n 3 (wordOf 7 3 w)) s

/-- shuf: vd lane n ← va lane (vb lane n mod lanes). -/
def execShuf (n : CoreId) (w : BitVec 50) (s : State) : Host.Outcome State Fault Refusal :=
  run (let x := wordOf 7 4 w
    issue n x (vxrBad x ([(45, 5), (40, 5), (35, 5)] ++ usePl) laneType) (fun k => do
      stallV k [Wd.f45 x, Wd.f40 x, Wd.f35 x]
      countCore n 3 1
      let t := Wd.etype x
      let l := laneWidth t
      modCore n (fun c => c.setV (Wd.f45 x) (lanesInto k x t (fun i =>
        laneOf (k.getV (Wd.f40 x)) l (laneOf (k.getV (Wd.f35 x)) l i % laneCount t)))))) s

/-- rot: vd lane n ← va lane ((n + imm13) mod lanes). -/
def execRot (n : CoreId) (w : BitVec 50) (s : State) : Host.Outcome State Fault Refusal :=
  run (let x := wordOf 7 5 w
    issue n x (vxrBad x ([(45, 5), (40, 5), (4, 13)] ++ usePl) laneType) (fun k => do
      stallV k [Wd.f45 x, Wd.f40 x]
      countCore n 3 1
      let t := Wd.etype x
      modCore n (fun c => c.setV (Wd.f45 x) (lanesInto k x t (fun i =>
        laneOf (k.getV (Wd.f40 x)) (laneWidth t) ((i + Wd.imm13 x) % laneCount t)))))) s

/-! ### Conversions (R88, R119–R121) -/

/-- Counts of a vector conversion: the class is csr.CVT_CLASS (R126). -/
def vectorCounts (n : CoreId) (k : Core) (sat nanc : Nat) : M Unit := do
  modCore n (fun c => { c with satCount := c.satCount + sat })
  addCounts k.ctx k.cvtClass sat nanc

/-- The type code of cvt. -/
def cvtType (x : Nat) : Nat := bitsOf x 4 4

/-- The decode fault of cvt. -/
def cvtBad (x : Nat) : Option Nat :=
  let t := Wd.etype x
  let wide := laneCount t == 128 && isType (cvtType x) && ebits (cvtType x) == 32
  match vxrBad x ([(45, 5), (40, 5), (4, 4)] ++ (if wide then [(8, 1)] else []) ++ usePl) laneType with
  | some f => some f
  | none => if isType (cvtType x) then none else some 0x03

/-- cvt: each selected source lane converted, packed from byte 0. -/
def execCvt (n : CoreId) (w : BitVec 50) (s : State) : Host.Outcome State Fault Refusal :=
  run (let x := wordOf 7 6 w
    issue n x (cvtBad x) (fun k => do
      stallV k [Wd.f45 x, Wd.f40 x]
      countCore n 3 1
      let t := Wd.etype x
      let u := cvtType x
      let b := ebits u
      let m := min (laneCount t) (2048 / b)
      let off := if bitOf x 8 then 64 else 0
      let r := (upTo m).map (fun i =>
        if laneOn k x (i + off) then convert u (laneVal t (k.getV (Wd.f40 x)) (i + off))
        else ⟨if Wd.zm x then 0 else laneOf (k.getV (Wd.f45 x)) b i, 0, 0⟩)
      modCore n (fun c => c.setV (Wd.f45 x) (ofLanes b (r.map (·.bits))))
      vectorCounts n k (r.map (·.sat)).sum (r.map (·.nanc)).sum)) s

/-- The decode fault of quant and dequant. -/
def quantBad (x : Nat) : Option Nat :=
  match vxrBad x ([(45, 5), (40, 5), (30, 5), (17, 5), (4, 10)] ++ usePl) laneFloat with
  | some f => some f
  | none =>
    let b := bitsOf x 4 6
    let u := bitsOf x 10 4
    if !isType u then some 0x03 else if (b = 16 ∨ b = 32) ∧ isNarrow u then none else some 0x02

/-- quant: blocks of lanes to narrow elements and fine scales (R121). -/
def execQuant (n : CoreId) (w : BitVec 50) (s : State) : Host.Outcome State Fault Refusal :=
  run (let x := wordOf 7 7 w
    issue n x (quantBad x) (fun k => do
      stallV k [Wd.f45 x, Wd.f40 x, Wd.f30 x]
      stallS k [Wd.saV x]
      countCore n 3 1
      let t := Wd.etype x
      let b := bitsOf x 4 6
      let u := bitsOf x 10 4
      let c := ofFp32 ((k.getS (Wd.saV x)).toNat % 2 ^ 32)
      let blocks := (upTo (laneCount t / b)).map (fun g =>
        let on := (upTo b).filter (fun i => laneOn k x (g * b + i))
        (on, quantiseBlock (on.map (fun i => laneVal t (k.getV (Wd.f40 x)) (g * b + i))) c u))
      let elems := (upTo (laneCount t)).map (fun i =>
        let p := nthD blocks (i / b) ([], ⟨[], 0, 0, 0⟩)
        if p.1.contains (i % b) then nthD p.2.q (p.1.idxOf (i % b)) 0
        else if Wd.zm x then 0 else laneOf (k.getV (Wd.f45 x)) (ebits u) i)
      let scales := (upTo (laneCount t / b)).map (fun g =>
        let p := nthD blocks g ([], ⟨[], 0, 0, 0⟩)
        if p.1.isEmpty then (if Wd.zm x then 0 else laneOf (k.getV (Wd.f30 x)) 8 g) else p.2.fine)
      let last ← fresh
      let vd := ofLanes (ebits u) elems
      let vc := ofLanes 8 scales
      modCore n (fun k =>
        if Config.scalesLast last then (k.setV (Wd.f45 x) vd).setV (Wd.f30 x) vc
        else (k.setV (Wd.f30 x) vc).setV (Wd.f45 x) vd)
      let full := blocks.filter (fun p => !p.1.isEmpty)
      vectorCounts n k (full.map (fun p => p.2.sat)).sum (full.map (fun p => p.2.nanc)).sum)) s

/-- dequant: packed elements widened under their scales (R119, R120). -/
def execDequant (n : CoreId) (w : BitVec 50) (s : State) : Host.Outcome State Fault Refusal :=
  run (let x := wordOf 7 8 w
    issue n x (quantBad x) (fun k => do
      stallV k [Wd.f45 x, Wd.f40 x, Wd.f30 x]
      stallS k [Wd.saV x]
      countCore n 3 1
      let t := Wd.etype x
      let b := bitsOf x 4 6
      let u := bitsOf x 10 4
      let c := ofFp32 ((k.getS (Wd.saV x)).toNat % 2 ^ 32)
      modCore n (fun d => d.setV (Wd.f45 x) (lanesInto k x t (fun i =>
        (convert t (widen u (laneOf (k.getV (Wd.f40 x)) (ebits u) i)
          (fineNum (laneOf (k.getV (Wd.f30 x)) 8 (i / b))) c)).bits)))
      vectorCounts n k 0 (if coarseBad c then (selected k x).length else 0))) s

/-- tos: s(vd) ← one lane, zero-extended. -/
def execTos (n : CoreId) (w : BitVec 50) (s : State) : Host.Outcome State Fault Refusal :=
  run (let x := wordOf 7 9 w
    let bad := match vxrBad x [(45, 5), (40, 5), (4, 7)] laneType with
      | some f => some f
      | none => if bitsOf x 4 7 < laneCount (Wd.etype x) then none else some 0x02
    issue n x bad (fun k => do
      stallS k [Wd.f45 x]
      stallV k [Wd.f40 x]
      countCore n 3 1
      modCore n (fun c => c.setS (Wd.f45 x)
        (w64 (laneOf (k.getV (Wd.f40 x)) (laneWidth (Wd.etype x)) (bitsOf x 4 7)))))) s

/-- The 16-bit floating types. -/
def laneHalf (t : Nat) : Bool := t == 0 || t == 2

/-- pack: two registers of FP32 lanes to one of 16-bit lanes. -/
def execPack (n : CoreId) (w : BitVec 50) (s : State) : Host.Outcome State Fault Refusal :=
  run (let x := wordOf 7 0xA w
    issue n x (vxrBad x ([(45, 5), (40, 5), (35, 5)] ++ usePl) laneHalf) (fun k => do
      stallV k [Wd.f45 x, Wd.f40 x, Wd.f35 x]
      countCore n 3 1
      let t := Wd.etype x
      modCore n (fun c => c.setV (Wd.f45 x) (lanesInto k x t (fun i =>
        (convert t (laneVal 1 (k.getV (if i < 64 then Wd.f40 x else Wd.f35 x)) (i % 64))).bits))))) s

/-- unpack: half of a register of 16-bit lanes to FP32 lanes. -/
def execUnpack (n : CoreId) (w : BitVec 50) (s : State) : Host.Outcome State Fault Refusal :=
  run (let x := wordOf 7 0xB w
    issue n x (vxrBad x ([(45, 5), (40, 5), (4, 1)] ++ usePl) laneHalf) (fun k => do
      stallV k [Wd.f45 x, Wd.f40 x]
      countCore n 3 1
      let off := if bitOf x 4 then 64 else 0
      modCore n (fun c => c.setV (Wd.f45 x) (lanesInto k x 1 (fun i =>
        toFp32 (laneVal (Wd.etype x) (k.getV (Wd.f40 x)) (i + off))))))) s

/-! ### Gather and scatter (R88) -/

/-- The scratchpad offset that lane i addresses: s(sa) + vb lane i. -/
def laneOffset (k : Core) (x i : Nat) : Nat :=
  (k.getS (Wd.saV x) + w64 (laneOf (k.getV (Wd.f35 x)) (laneWidth (Wd.etype x)) i)).toNat

/-- The offsets of the selected lanes are aligned and lie in the scratchpad. -/
def offsetsOk (n : CoreId) (k : Core) (x : Nat) : M Unit :=
  eachM (selected k x) (fun i =>
    onCoreOk (padOf n) (laneOffset k x i) (laneWidth (Wd.etype x) / 8) (laneWidth (Wd.etype x) / 8))

/-- vgath. -/
def execVgath (n : CoreId) (w : BitVec 50) (s : State) : Host.Outcome State Fault Refusal :=
  run (let x := wordOf 7 0xC w
    issue n x (vxrBad x ([(45, 5), (35, 5), (17, 5)] ++ usePl) laneType) (fun k => do
      stallV k [Wd.f45 x, Wd.f35 x]
      stallS k [Wd.saV x]
      offsetsOk n k x
      countCore n 3 1
      let t := Wd.etype x
      let got ← mapM' (selected k x) (fun i => do
        pure (i, leNat (← sramRead (k.who n) (padOf n) (laneOffset k x i) (laneWidth t / 8))))
      modCore n (fun c => c.setV (Wd.f45 x) (lanesInto k x t (fun i => AMap.getD got i 0))))) s

/-- vscat: the higher lane wins where two name one offset. -/
def execVscat (n : CoreId) (w : BitVec 50) (s : State) : Host.Outcome State Fault Refusal :=
  run (let x := wordOf 7 0xD w
    issue n x (vxrBad x ([(40, 5), (35, 5), (17, 5)] ++ usePl) laneType) (fun k => do
      stallV k [Wd.f40 x, Wd.f35 x]
      stallS k [Wd.saV x]
      offsetsOk n k x
      countCore n 3 1
      let b := laneWidth (Wd.etype x) / 8
      eachM (selected k x) (fun i => sramWrite (k.who n) (padOf n) (laneOffset k x i)
        (leBytes b (laneOf (k.getV (Wd.f40 x)) (8 * b) i))))) s

end Sys2Proof.Machine
end

