-- ==== Sys2Proof/Machine/Dispatch.lean ====
section
/-! DEFINITION. The effect of each command on everything but the queue: one arm per row of the table. -/

namespace Sys2Proof.Machine

/-- The effect of a command: one direct call of its meaning. -/
def exec (i : Instr) (s : State) : Host.Outcome State Fault Refusal :=
  match i with
  | .tick => Sys2Proof.Machine.execTick s
  | .holdoverExpiry => Sys2Proof.Machine.execHoldoverExpiry s
  | .acquireTimeout => Sys2Proof.Machine.execAcquireTimeout s
  | .beacon p b => Sys2Proof.Machine.execBeacon p b s
  | .tickInEdge offNs => Sys2Proof.Machine.execTickInEdge offNs s
  | .ppsInEdge t => Sys2Proof.Machine.execPpsInEdge t s
  | .linkDelayMeasure p t1 => Sys2Proof.Machine.execLinkDelayMeasure p t1 s
  | .delayReq p t1 t2 t3 => Sys2Proof.Machine.execDelayReq p t1 t2 t3 s
  | .delayRsp p t2 t3 t4 => Sys2Proof.Machine.execDelayRsp p t2 t3 t4 s
  | .tkCtrlWrite h v => Sys2Proof.Machine.execTkCtrlWrite h v s
  | .tkPeriodStepWrite h v => Sys2Proof.Machine.execTkPeriodStepWrite h v s
  | .tkAdvanceWrite h v => Sys2Proof.Machine.execTkAdvanceWrite h v s
  | .tkStepRead h => Sys2Proof.Machine.execTkStepRead h s
  | .lowHalfReadLatch via r => Sys2Proof.Machine.execLowHalfReadLatch via r s
  | .deadlineMark m80 => Sys2Proof.Machine.execDeadlineMark m80 s
  | .ctlNop n w => Sys2Proof.Machine.execCtlNop n w s
  | .ctlEnd n w => Sys2Proof.Machine.execCtlEnd n w s
  | .ctlBr n w => Sys2Proof.Machine.execCtlBr n w s
  | .ctlCall n w => Sys2Proof.Machine.execCtlCall n w s
  | .ctlJr n w => Sys2Proof.Machine.execCtlJr n w s
  | .ctlLoop n w => Sys2Proof.Machine.execCtlLoop n w s
  | .ctlYield n w => Sys2Proof.Machine.execCtlYield n w s
  | .coreStop n => Sys2Proof.Machine.execCoreStop n s
  | .salu n w => Sys2Proof.Machine.execSalu n w s
  | .salui n w => Sys2Proof.Machine.execSalui n w s
  | .dscLd n w => Sys2Proof.Machine.execDscLd n w s
  | .dscLdx n w => Sys2Proof.Machine.execDscLdx n w s
  | .dscSt n w => Sys2Proof.Machine.execDscSt n w s
  | .dscMov n w => Sys2Proof.Machine.execDscMov n w s
  | .dscOrg n w => Sys2Proof.Machine.execDscOrg n w s
  | .dscOrgadd n w => Sys2Proof.Machine.execDscOrgadd n w s
  | .dscSize n w => Sys2Proof.Machine.execDscSize n w s
  | .dscResize n w => Sys2Proof.Machine.execDscResize n w s
  | .mxZero n w => Sys2Proof.Machine.execMxZero n w s
  | .mxMma n w => Sys2Proof.Machine.execMxMma n w s
  | .mxLd n w => Sys2Proof.Machine.execMxLd n w s
  | .mxSt n w => Sys2Proof.Machine.execMxSt n w s
  | .mxRd n w => Sys2Proof.Machine.execMxRd n w s
  | .mxWr n w => Sys2Proof.Machine.execMxWr n w s
  | .mxFinish n k => Sys2Proof.Machine.execMxFinish n k s
  | .vx n w => Sys2Proof.Machine.execVx n w s
  | .rsum n w => Sys2Proof.Machine.execRsum n w s
  | .rmax n w => Sys2Proof.Machine.execRmax n w s
  | .rmin n w => Sys2Proof.Machine.execRmin n w s
  | .rabsmax n w => Sys2Proof.Machine.execRabsmax n w s
  | .shuf n w => Sys2Proof.Machine.execShuf n w s
  | .rot n w => Sys2Proof.Machine.execRot n w s
  | .cvt n w => Sys2Proof.Machine.execCvt n w s
  | .quant n w => Sys2Proof.Machine.execQuant n w s
  | .dequant n w => Sys2Proof.Machine.execDequant n w s
  | .tos n w => Sys2Proof.Machine.execTos n w s
  | .pack n w => Sys2Proof.Machine.execPack n w s
  | .unpack n w => Sys2Proof.Machine.execUnpack n w s
  | .vgath n w => Sys2Proof.Machine.execVgath n w s
  | .vscat n w => Sys2Proof.Machine.execVscat n w s
  | .ldSp n w => Sys2Proof.Machine.execLdSp n w s
  | .stSp n w => Sys2Proof.Machine.execStSp n w s
  | .ldCs n w => Sys2Proof.Machine.execLdCs n w s
  | .stCs n w => Sys2Proof.Machine.execStCs n w s
  | .ldG n w => Sys2Proof.Machine.execLdG n w s
  | .stG n w => Sys2Proof.Machine.execStG n w s
  | .vldSp n w => Sys2Proof.Machine.execVldSp n w s
  | .vstSp n w => Sys2Proof.Machine.execVstSp n w s
  | .vldCs n w => Sys2Proof.Machine.execVldCs n w s
  | .vstCs n w => Sys2Proof.Machine.execVstCs n w s
  | .vldG n w => Sys2Proof.Machine.execVldG n w s
  | .vstG n w => Sys2Proof.Machine.execVstG n w s
  | .globalDataReturn n k => Sys2Proof.Machine.execGlobalDataReturn n k s
  | .dmaCp n w => Sys2Proof.Machine.execDmaCp n w s
  | .dmaRun n w => Sys2Proof.Machine.execDmaRun n w s
  | .dmaPoll n w => Sys2Proof.Machine.execDmaPoll n w s
  | .dmaBurst e ch => Sys2Proof.Machine.execDmaBurst e ch s
  | .dmaRequestComplete e ch => Sys2Proof.Machine.execDmaRequestComplete e ch s
  | .syncFence n w => Sys2Proof.Machine.execSyncFence n w s
  | .syncWt n w => Sys2Proof.Machine.execSyncWt n w s
  | .syncBar n w => Sys2Proof.Machine.execSyncBar n w s
  | .atAdd n w => Sys2Proof.Machine.execAtAdd n w s
  | .atAnd n w => Sys2Proof.Machine.execAtAnd n w s
  | .atOr n w => Sys2Proof.Machine.execAtOr n w s
  | .atXor n w => Sys2Proof.Machine.execAtXor n w s
  | .atSwap n w => Sys2Proof.Machine.execAtSwap n w s
  | .atMax n w => Sys2Proof.Machine.execAtMax n w s
  | .atMin n w => Sys2Proof.Machine.execAtMin n w s
  | .atMaxu n w => Sys2Proof.Machine.execAtMaxu n w s
  | .atMinu n w => Sys2Proof.Machine.execAtMinu n w s
  | .atCas n w => Sys2Proof.Machine.execAtCas n w s
  | .atFadd n w => Sys2Proof.Machine.execAtFadd n w s
  | .wlPost n w => Sys2Proof.Machine.execWlPost n w s
  | .wlPostm n w => Sys2Proof.Machine.execWlPostm n w s
  | .atQk n w => Sys2Proof.Machine.execAtQk n w s
  | .atSm n w => Sys2Proof.Machine.execAtSm n w s
  | .atPv n w => Sys2Proof.Machine.execAtPv n w s
  | .atMrg n w => Sys2Proof.Machine.execAtMrg n w s
  | .atFin n w => Sys2Proof.Machine.execAtFin n w s
  | .atRp n w => Sys2Proof.Machine.execAtRp n w s
  | .clPost n w => Sys2Proof.Machine.execClPost n w s
  | .enPush n w => Sys2Proof.Machine.execEnPush n w s
  | .enDb n w => Sys2Proof.Machine.execEnDb n w s
  | .csrRd n w => Sys2Proof.Machine.execCsrRd n w s
  | .csrWr n w => Sys2Proof.Machine.execCsrWr n w s
  | .wellCommandStart x => Sys2Proof.Machine.execWellCommandStart x s
  | .wellPass x => Sys2Proof.Machine.execWellPass x s
  | .wellCommandComplete x => Sys2Proof.Machine.execWellCommandComplete x s
  | .feQcfgEnableSet c q h v => Sys2Proof.Machine.execFeQcfgEnableSet c q h v s
  | .queueActive c q => Sys2Proof.Machine.execQueueActive c q s
  | .feQcfgEnableClear c q h v => Sys2Proof.Machine.execFeQcfgEnableClear c q h v s
  | .queueFree c q => Sys2Proof.Machine.execQueueFree c q s
  | .feQdbWrite c q h v => Sys2Proof.Machine.execFeQdbWrite c q h v s
  | .feQcptrWrite c q h v => Sys2Proof.Machine.execFeQcptrWrite c q h v s
  | .feEvptrWrite c h v => Sys2Proof.Machine.execFeEvptrWrite c h v s
  | .obTrptrWrite h v => Sys2Proof.Machine.execObTrptrWrite h v s
  | .feFvalWrite c f h v => Sys2Proof.Machine.execFeFvalWrite c f h v s
  | .fenceReset c f h v => Sys2Proof.Machine.execFenceReset c f h v s
  | .prefetch c q => Sys2Proof.Machine.execPrefetch c q s
  | .registerWaits c q => Sys2Proof.Machine.execRegisterWaits c q s
  | .commandStart c q => Sys2Proof.Machine.execCommandStart c q s
  | .waitTimeout c q => Sys2Proof.Machine.execWaitTimeout c q s
  | .kernel c q cores => Sys2Proof.Machine.execKernel c q cores s
  | .dma c q => Sys2Proof.Machine.execDma c q s
  | .marker c q => Sys2Proof.Machine.execMarker c q s
  | .request c q => Sys2Proof.Machine.execRequest c q s
  | .commandComplete c q index => Sys2Proof.Machine.execCommandComplete c q index s
  | .msixIntervalExpiry c v => Sys2Proof.Machine.execMsixIntervalExpiry c v s
  | .ctxCreate q => Sys2Proof.Machine.execCtxCreate q s
  | .ctxDestroy q => Sys2Proof.Machine.execCtxDestroy q s
  | .partition q => Sys2Proof.Machine.execPartition q s
  | .reclaim q => Sys2Proof.Machine.execReclaim q s
  | .reclaimDeadline => Sys2Proof.Machine.execReclaimDeadline s
  | .contextReset c cause => Sys2Proof.Machine.execContextReset c cause s
  | .stageStart m cores => Sys2Proof.Machine.execStageStart m cores s
  | .sliceEnd c => Sys2Proof.Machine.execSliceEnd c s
  | .imageSave c => Sys2Proof.Machine.execImageSave c s
  | .imageRestore c => Sys2Proof.Machine.execImageRestore c s
  | .nonpreemptOverrun c q index => Sys2Proof.Machine.execNonpreemptOverrun c q index s
  | .budgetExpiry c q index => Sys2Proof.Machine.execBudgetExpiry c q index s
  | .wtLoad q => Sys2Proof.Machine.execWtLoad q s
  | .wtReplace q => Sys2Proof.Machine.execWtReplace q s
  | .wtResume q => Sys2Proof.Machine.execWtResume q s
  | .shardArrival m k data => Sys2Proof.Machine.execShardArrival m k data s
  | .shardTimeout m k => Sys2Proof.Machine.execShardTimeout m k s
  | .layerCopy m => Sys2Proof.Machine.execLayerCopy m s
  | .layerCopyComplete m => Sys2Proof.Machine.execLayerCopyComplete m s
  | .streamFetchStart m => Sys2Proof.Machine.execStreamFetchStart m s
  | .jobCreate q => Sys2Proof.Machine.execJobCreate q s
  | .jobDestroy q => Sys2Proof.Machine.execJobDestroy q s
  | .joinTimeout c => Sys2Proof.Machine.execJoinTimeout c s
  | .collective src job ch body opNum elem data => Sys2Proof.Machine.execCollective src job ch body opNum elem data s
  | .collectiveComplete c ch => Sys2Proof.Machine.execCollectiveComplete c ch s
  | .clStall c ch => Sys2Proof.Machine.execClStall c ch s
  | .abort job origin code => Sys2Proof.Machine.execAbort job origin code s
  | .drainStart c => Sys2Proof.Machine.execDrainStart c s
  | .drainComplete c ok => Sys2Proof.Machine.execDrainComplete c ok s
  | .trInvLeaf h v => Sys2Proof.Machine.execTrInvLeaf h v s
  | .trInvContext h v => Sys2Proof.Machine.execTrInvContext h v s
  | .trInvAll h v => Sys2Proof.Machine.execTrInvAll h v s
  | .invalidationComplete => Sys2Proof.Machine.execInvalidationComplete s
  | .trRekeyWrite h v => Sys2Proof.Machine.execTrRekeyWrite h v s
  | .rekeyComplete => Sys2Proof.Machine.execRekeyComplete s
  | .msZeroWrite h v => Sys2Proof.Machine.execMsZeroWrite h v s
  | .zeroFillComplete => Sys2Proof.Machine.execZeroFillComplete s
  | .msPartWrite h v => Sys2Proof.Machine.execMsPartWrite h v s
  | .channelRetrain j ch lane => Sys2Proof.Machine.execChannelRetrain j ch lane s
  | .selfRefreshExit j => Sys2Proof.Machine.execSelfRefreshExit j s
  | .patrolScrub p => Sys2Proof.Machine.execPatrolScrub p s
  | .rollingSelfTest u => Sys2Proof.Machine.execRollingSelfTest u s
  | .selfTestComplete u r => Sys2Proof.Machine.execSelfTestComplete u r s
  | .parityError u => Sys2Proof.Machine.execParityError u s
  | .unitStuck u => Sys2Proof.Machine.execUnitStuck u s
  | .drainMarkerAck endpoint => Sys2Proof.Machine.execDrainMarkerAck endpoint s
  | .drainMarkerStuck endpoint => Sys2Proof.Machine.execDrainMarkerStuck endpoint s
  | .heartbeatMiss k standby => Sys2Proof.Machine.execHeartbeatMiss k standby s
  | .takeoverComplete k pass => Sys2Proof.Machine.execTakeoverComplete k pass s
  | .rpRetire q => Sys2Proof.Machine.execRpRetire q s
  | .clusterSpare d cl => Sys2Proof.Machine.execClusterSpare d cl s
  | .moduleFault cause => Sys2Proof.Machine.execModuleFault cause s
  | .config p digest epoch mismatch => Sys2Proof.Machine.execConfig p digest epoch mismatch s
  | .graceExpiry p => Sys2Proof.Machine.execGraceExpiry p s
  | .laneFailure p lane cause => Sys2Proof.Machine.execLaneFailure p lane cause s
  | .spillwaySwitch x => Sys2Proof.Machine.execSpillwaySwitch x s
  | .linkTraining p good => Sys2Proof.Machine.execLinkTraining p good s
  | .hello p device peerPort width nonce => Sys2Proof.Machine.execHello p device peerPort width nonce s
  | .report p bytes => Sys2Proof.Machine.execReport p bytes s
  | .encap p ciphertext => Sys2Proof.Machine.execEncap p ciphertext s
  | .attestRetry p => Sys2Proof.Machine.execAttestRetry p s
  | .rekeyThreshold p => Sys2Proof.Machine.execRekeyThreshold p s
  | .rekey p key => Sys2Proof.Machine.execRekey p key s
  | .keyHoldTimeout p => Sys2Proof.Machine.execKeyHoldTimeout p s
  | .flit p f => Sys2Proof.Machine.execFlit p f s
  | .nak p seq => Sys2Proof.Machine.execNak p seq s
  | .retryTimeout p => Sys2Proof.Machine.execRetryTimeout p s
  | .write p m window offset data => Sys2Proof.Machine.execWrite p m window offset data s
  | .read p m window offset length => Sys2Proof.Machine.execRead p m window offset length s
  | .readRsp p m req status data => Sys2Proof.Machine.execReadRsp p m req status data s
  | .signal p m fence op flags value => Sys2Proof.Machine.execSignal p m fence op flags value s
  | .ack p m req status => Sys2Proof.Machine.execAck p m req status s
  | .trace p m marker => Sys2Proof.Machine.execTrace p m marker s
  | .routedForward p type m body => Sys2Proof.Machine.execRoutedForward p type m body s
  | .e2eTimeout id => Sys2Proof.Machine.execE2eTimeout id s
  | .send qp psn data => Sys2Proof.Machine.execSend qp psn data s
  | .congestionNotification qp => Sys2Proof.Machine.execCongestionNotification qp s
  | .rateRecovery qp => Sys2Proof.Machine.execRateRecovery qp s
  | .pfcPause p prio on => Sys2Proof.Machine.execPfcPause p prio on s
  | .rdmaCompletion qp r => Sys2Proof.Machine.execRdmaCompletion qp r s
  | .hostMemAccess addr store len => Sys2Proof.Machine.execHostMemAccess addr store len s
  | .backInvalidate line => Sys2Proof.Machine.execBackInvalidate line s
  | .hostSnoop line => Sys2Proof.Machine.execHostSnoop line s
  | .atsInvalidation c => Sys2Proof.Machine.execAtsInvalidation c s
  | .hostRequestCompletion id r => Sys2Proof.Machine.execHostRequestCompletion id r s
  | .functionLevelReset c => Sys2Proof.Machine.execFunctionLevelReset c s
  | .uioSignal rid aligned msg => Sys2Proof.Machine.execUioSignal rid aligned msg s
  | .cxlLinkTrained width rate => Sys2Proof.Machine.execCxlLinkTrained width rate s
  | .fwImage offset data => Sys2Proof.Machine.execFwImage offset data s
  | .attest nonce => Sys2Proof.Machine.execAttest nonce s
  | .peerFetchTimeout => Sys2Proof.Machine.execPeerFetchTimeout s
  | .seRegister q => Sys2Proof.Machine.execSeRegister q s
  | .seSetJoin q => Sys2Proof.Machine.execSeSetJoin q s
  | .seSetLeave q => Sys2Proof.Machine.execSeSetLeave q s
  | .seAttest q => Sys2Proof.Machine.execSeAttest q s
  | .seLc q => Sys2Proof.Machine.execSeLc q s
  | .entropyRecovery => Sys2Proof.Machine.execEntropyRecovery s
  | .fwUpdate q => Sys2Proof.Machine.execFwUpdate q s
  | .roleHandover => Sys2Proof.Machine.execRoleHandover s
  | .restoreFactory q => Sys2Proof.Machine.execRestoreFactory q s
  | .activeToQuiet h v => Sys2Proof.Machine.execActiveToQuiet h v s
  | .quietToActive h v => Sys2Proof.Machine.execQuietToActive h v s
  | .park h v => Sys2Proof.Machine.execPark h v s
  | .unpark h v => Sys2Proof.Machine.execUnpark h v s
  | .powerTransitionComplete => Sys2Proof.Machine.execPowerTransitionComplete s
  | .controlInterval meanW peakW sensors => Sys2Proof.Machine.execControlInterval meanW peakW sensors s
  | .thermalTrip sensor => Sys2Proof.Machine.execThermalTrip sensor s
  | .perstAssert => Sys2Proof.Machine.execPerstAssert s
  | .perstDeassert straps => Sys2Proof.Machine.execPerstDeassert straps s
  | .startUpStage r => Sys2Proof.Machine.execStartUpStage r s
  | .powerRemoval => Sys2Proof.Machine.execPowerRemoval s
  | .powerApply => Sys2Proof.Machine.execPowerApply s
  | .inputLow volts16 amps16 => Sys2Proof.Machine.execInputLow volts16 amps16 s
  | .kvInstEnable inst h v => Sys2Proof.Machine.execKvInstEnable inst h v s
  | .ssModelEnable m h v => Sys2Proof.Machine.execSsModelEnable m h v s
  | .cxHdmValid h v => Sys2Proof.Machine.execCxHdmValid h v s
  | .jlPortCfgWrite p h v => Sys2Proof.Machine.execJlPortCfgWrite p h v s
  | .obTrmarkWrite h v => Sys2Proof.Machine.execObTrmarkWrite h v s
  | .registerWrite via off bits v => Sys2Proof.Machine.execRegisterWrite via off bits v s
  | .illegalOpcode n w => Sys2Proof.Machine.execIllegalOpcode n w s
  | .codeRegionExtent n => Sys2Proof.Machine.execCodeRegionExtent n s
  | .entropyFail => Sys2Proof.Machine.execEntropyFail s
  | .keyAgreementTimeout p => Sys2Proof.Machine.execKeyAgreementTimeout p s
  | .cxlLinkDown => Sys2Proof.Machine.execCxlLinkDown s
  | .ethLinkUp p sub => Sys2Proof.Machine.execEthLinkUp p sub s
  | .ethLinkDown p sub => Sys2Proof.Machine.execEthLinkDown p sub s
  | .qpAckTimeout qp => Sys2Proof.Machine.execQpAckTimeout qp s
  | .mctpMessage m => Sys2Proof.Machine.execMctpMessage m s
  | .doeDiscovery index => Sys2Proof.Machine.execDoeDiscovery index s
  | .hdmDecoderCommit base size => Sys2Proof.Machine.execHdmDecoderCommit base size s
  | .numvfsWrite n => Sys2Proof.Machine.execNumvfsWrite n s
  | .imageSaveComplete c => Sys2Proof.Machine.execImageSaveComplete c s
  | .imageRestoreComplete c => Sys2Proof.Machine.execImageRestoreComplete c s
  | .spareCopyComplete => Sys2Proof.Machine.execSpareCopyComplete s
  | .channelRetrainComplete j ch => Sys2Proof.Machine.execChannelRetrainComplete j ch s
  | .roleReloadComplete pass => Sys2Proof.Machine.execRoleReloadComplete pass s
  | .uioCompletion tag ok => Sys2Proof.Machine.execUioCompletion tag ok s
  | .msixVectorUnmask c v => Sys2Proof.Machine.execMsixVectorUnmask c v s
  | .latchDiscardRead via r => Sys2Proof.Machine.execLatchDiscardRead via r s

end Sys2Proof.Machine
end

