-- ==== Sys2Proof/Safety.lean ====
section
/-! DEFINITION. What counts as a safe state and a safe run, in the terms of the claims. -/

namespace Sys2Proof

open Sys2Proof.Machine

/-- The three memories are in canonical form: addresses strictly rising, no entry that reads as an unlisted byte. -/
def memoriesWf (s : State) : Prop :=
  s.mem.bytes.wf = true ∧ s.sram.spad.wf = true ∧ s.sram.store.wf = true

/-- A step goes on: it ends in a state, not in a fault or a refusal. -/
def goesOn (s : State) : Prop := ∃ t, step s = .next t

/-- `t` follows `s` in some number of steps. -/
inductive Reaches : State → State → Prop where
  | refl (s : State) : Reaches s s
  | tail {s t u : State} : Reaches s t → step t = .next u → Reaches s u

/-! ### The terms of the claims about instructions -/

/-- Core `n` stands before the instruction word `x` and may issue it: the module works, the core runs and is in no
barrier, its pc lies on a word of its code region, and the word is in its instruction buffer (R64, R76, R77, R92). -/
structure AtWord (s : State) (n : CoreId) (k : Core) (x : Nat) : Prop where
  works : s.works = true
  core : s.cores.find? n = some k
  runs : k.wait = .running
  bar : k.bar = none
  code : k.inCode k.pc.toNat = true
  word : k.ibuf.find? k.pc.toNat = some (BitVec.ofNat 64 x)

/-- Core `n` issues the word `x`: it stands before it, and the guard holds (R67, R70). -/
structure Issues (s : State) (n : CoreId) (k : Core) (x : Nat) : Prop extends AtWord s n k x where
  guard : guardHolds k x = true

/-- The core past the word that it issued. -/
def past (k : Core) : Core := k.jump (k.pc + 8)

/-- The state with a core in a new state, and nothing else changed. -/
def setCore (s : State) (n : CoreId) (k : Core) : State := { s with cores := s.cores.insert n k }

/-- None of the scalar registers has a pending write (R65). -/
abbrev freeS (k : Core) (rs : List Nat) : Prop := ∀ r ∈ rs, k.sBusy r = false

/-- None of the vector registers has a pending write (R65). -/
abbrev freeV (k : Core) (rs : List Nat) : Prop := ∀ r ∈ rs, k.vBusy r = false

/-- None of the descriptor registers has a pending write (R65). -/
abbrev freeD (k : Core) (rs : List Nat) : Prop := ∀ r ∈ rs, k.dBusy r = false

/-- No acquire holds later memory instructions (R278). -/
abbrev noAcquire (k : Core) : Prop := ∀ g ∈ k.gl, g.acq = 0

/-- The word sets no bit outside the listed fields (lowest bit, width) and its opcode (R70). -/
abbrev fieldsOnly (x : Nat) (used : List (Nat × Nat)) : Prop := onlyUses x used = true

/-- No poisoned word lies among the bytes of on-core memory (R489). -/
abbrev cleanWords (x : SramSt) (m : Sram) (o n : Nat) : Prop :=
  ∀ w ∈ x.poisonOf m, w < m.wordKey o ∨ m.wordKey (o + n - 1) < w

/-- The state with the commands of an entry count changed by `f`, and nothing else. -/
def setCmd (s : State) (c : Ctx) (q : QIdx) (idx : W32) (f : Cmd → Cmd) : State :=
  { s with queues := s.queues.insert (c, q) { s.queueOf c q with
      cmds := (s.queueOf c q).cmds.map (fun y => if y.idx = idx then f y else y) } }

/-- What makes a command one that has ended, with its records still to be written. -/
def ends (status fault : Nat) (x : Cmd) : Cmd := { x with phase := .ended, ending := some ⟨status, fault, none⟩ }

/-- A SYSTEM command with the given op that has started waits for its kind's step: it is the first such of its queue,
and no later command of the queue has its count (R315, R339). -/
structure SysStarted (s : State) (q : QIdx) (op : Nat) (x : Cmd) : Prop where
  works : s.works = true
  first : (s.queueOf 0 q).cmds.find? (fun x => x.kind == 5 && x.phase == .started && x.ending.isNone &&
    recField x.body 0 2 == op) = some x
  named : s.cmdOf 0 q x.idx = some x
  open' : x.ending = none

/-- The command with an entry count has ended so, and its records are still to be written (R102, R323). -/
def ended (s : State) (c : Ctx) (q : QIdx) (idx : W32) (e : Ending) : Prop :=
  ∃ x, s.cmdOf c q idx = some x ∧ x.phase = .ended ∧ x.ending = some e

/-- Nothing is written to a trace or to an event ring: both are disabled (R32, R551). -/
structure Silent (s : State) : Prop where
  trace : s.flag F.trEnable = false
  events : ∀ c, s.flag (F.evEnable c) = false

/-- Nothing makes an access of memory wait: no stack is in self-refresh, no channel retrains, and the host holds no line
(R265, R267, R452). -/
structure Awake (s : State) : Prop where
  noSleep : s.mem.selfRefresh = []
  noRetrain : s.mem.retrain = []
  noHeld : s.cxl.held = []

/-- The module ticks by itself, and a tick finds nothing to do beyond its step number, its time, its domain, its
configuration and its pulse: no tenant context, no request, no instance that is enabled, no page pool, and nothing that
waits for a tick. -/
structure Still (s : State) : Prop where
  works : s.works = true
  silent : Silent s
  own : s.ownTick = true
  adopted : s.time.adopted = none
  tenants : s.clients = []
  created : ∀ p ∈ s.ctxs, ∀ r n, p.2.phase ≠ .creating r n
  queues : s.queues = []
  jobs : s.jobs = []
  joins : s.sec.joinWait = []
  placed : s.mem.pendPart = none
  reclaims : s.sched.reclaims = []
  requests : s.sched.reqs = []
  models : ∀ m, s.flag (F.mEnable m) = false ∧ (s.modelOf m).stepOpen = false
  pools : ∀ j i, s.fld (F.poolPages j i) = 0

/-- An access of memory has changed nothing but the memory system and the count of free values. -/
abbrev onlyMem (s u : State) : Prop := u = { s with mem := u.mem, seed := u.seed }

/-- The command answers the next state `t`. -/
abbrev answers (i : Instr) (s t : State) : Prop := exec i s = .next t

/-- The command answers a next state of which `P` holds. -/
def completes (i : Instr) (s : State) (P : State → Prop) : Prop := ∃ t, exec i s = .next t ∧ P t

end Sys2Proof
end

