-- ==== Sys2Proof/Certificates/Slice0/Obligations.lean ====
section
/-! DEFINITION. The statements about the model, for the provers: one proposition each.
Every statement about a command rests on log 3 (a command whose event cannot happen now changes nothing), every one about
an instruction row on log 8 (the row runs where the core stands at its word); a free value is that of Config at the
state's `seed`, and every statement holds for every `seed`. -/

open Sys2Proof Sys2Proof.Machine

/-! ### Instructions: control, scalar and special registers -/

/-- R76, R77, R78: what each control instruction does to its core. The branch address is pc + 8 × off36. R70: an instruction
whose guard fails has no effect but to pass its word. The rows named fix major, minor and the listed fields. -/
def Obligations.ControlAndGuards : Prop :=
  (
  ∀ (s : State) (n : CoreId) (k : Core) (w : BitVec 50),
    (let x := wordOf 1 0 w
     Issues s n k x → fieldsOnly x [] → exec (.ctlNop n w) s = .next (setCore s n (past k))) ∧
    (let x := wordOf 1 1 w
     Issues s n k x → fieldsOnly x [] →
      exec (.ctlEnd n w) s = .next (setCore s n { past k with wait := .ending })) ∧
    (let x := wordOf 1 2 w
     Issues s n k x → fieldsOnly x [(4, 36)] → k.inCode (branchTarget k x).toNat = true →
      exec (.ctlBr n w) s = .next (setCore s n { k with pc := k.pc + BitVec.ofInt 64 (8 * Wd.imm36 x) })) ∧
    (let x := wordOf 1 3 w
     Issues s n k x → fieldsOnly x [(45, 5), (4, 36)] → freeS k [Wd.f45 x] →
      k.inCode (branchTarget k x).toNat = true →
      exec (.ctlCall n w) s =
        .next (setCore s n (Core.setS { k with pc := k.pc + BitVec.ofInt 64 (8 * Wd.imm36 x) } (Wd.f45 x) (k.pc + 8)))) ∧
    (let x := wordOf 1 4 w
     Issues s n k x → fieldsOnly x [(45, 5)] → freeS k [Wd.f45 x] →
      (k.getS (Wd.f45 x)).toNat % 8 = 0 → k.inCode (k.getS (Wd.f45 x)).toNat = true →
      exec (.ctlJr n w) s = .next (setCore s n { k with pc := k.getS (Wd.f45 x) })) ∧
    (let x := wordOf 1 5 w
     Issues s n k x → fieldsOnly x [(45, 5), (4, 36)] → freeS k [Wd.f45 x] →
      (k.getS (Wd.f45 x) = 1 → exec (.ctlLoop n w) s = .next (setCore s n ((past k).setS (Wd.f45 x) 0))) ∧
      (k.getS (Wd.f45 x) ≠ 1 → k.inCode (branchTarget k x).toNat = true →
        exec (.ctlLoop n w) s =
          .next (setCore s n (Core.setS { k with pc := k.pc + BitVec.ofInt 64 (8 * Wd.imm36 x) } (Wd.f45 x)
            (k.getS (Wd.f45 x) - 1))))) ∧
    (let x := wordOf 1 6 w
     Issues s n k x → fieldsOnly x [] →
      (s.preemptAsked k = true → exec (.ctlYield n w) s = .next (setCore s n { past k with wait := .preempting })) ∧
      (s.preemptAsked k = false → exec (.ctlYield n w) s = .next (setCore s n (past k))))) ∧
  (
  ∀ r ∈ ([(.ctlNop, 1, 0, []), (.ctlEnd, 1, 1, []), (.ctlBr, 1, 2, [(4, 36)]), (.ctlCall, 1, 3, [(45, 5), (4, 36)]),
      (.ctlJr, 1, 4, [(45, 5)]), (.ctlLoop, 1, 5, [(45, 5), (4, 36)]), (.ctlYield, 1, 6, []),
      (.dscLd, 4, 0, [(46, 4), (31, 5), (15, 1), (4, 11)]), (.dscMov, 4, 3, [(46, 4), (42, 4)]),
      (.mxZero, 5, 0, [(36, 2)]), (.mxMma, 5, 1, [(36, 2), (46, 4), (42, 4), (31, 5), (15, 3)]),
      (.stSp, 8, 1, [(45, 5), (40, 5), (34, 2), (4, 30)]), (.vstCs, 8, 0xB, [(45, 5), (40, 5), (4, 30)]),
      (.dmaCp, 0xA, 0, [(46, 4), (42, 4), (4, 3)]), (.syncBar, 0xB, 2, [(4, 5)]), (.wlPost, 0xC, 0, [(40, 5), (35, 5)]),
      (.atPv, 0xD, 2, [(36, 2), (46, 4), (42, 4)]), (.clPost, 0xE, 0, [(40, 5), (35, 5)]),
      (.enDb, 0xF, 1, [(40, 5)]), (.csrWr, 0x10, 1, [(40, 5), (4, 12)])] :
      List ((CoreId → BitVec 50 → Instr) × Nat × Nat × List (Nat × Nat))),
    ∀ (s : State) (n : CoreId) (k : Core) (w : BitVec 50),
      AtWord s n k (wordOf r.2.1 r.2.2.1 w) → guardHolds k (wordOf r.2.1 r.2.2.1 w) = false →
      fieldsOnly (wordOf r.2.1 r.2.2.1 w) r.2.2.2 →
      exec (r.1 n w) s = .next (setCore s n (past k)))

/-- R79, R80: SALU writes its result to the register that rd names, and changes nothing else but the pc. R79: SALUI takes the
sign-extended imm36 as its second operand, and changes nothing else but the pc. -/
def Obligations.ScalarResults : Prop :=
  (
  ∀ (s : State) (n : CoreId) (k : Core) (w : BitVec 56), let x := wordOf56 2 w
    Issues s n k x → saluBad x = none → freeS k (saluRegs x) →
    let m := Wd.minor x
    let a := k.getS (Wd.f40 x)
    let b := k.getS (Wd.f35 x)
    let pa := k.getP (Wd.f40 x % 8)
    let pb := k.getP (Wd.f35 x % 8)
    let res (v : W64) : Host.Outcome State Fault Refusal := .next (setCore s n ((past k).setS (Wd.f45 x) v))
    let toP (v : BitVec 128) : Host.Outcome State Fault Refusal := .next (setCore s n ((past k).setP (Wd.f45 x) v))
    let rel (c : Prop) [Decidable c] := toP (if c then BitVec.allOnes 128 else 0)
    (m = 0x00 → exec (.salu n w) s = res (BitVec.ofNat 64 (a.toNat + b.toNat))) ∧
    (m = 0x01 → exec (.salu n w) s = res (BitVec.ofInt 64 (a.toNat - b.toNat))) ∧
    (m = 0x02 → exec (.salu n w) s = res (BitVec.ofNat 64 (a.toNat * b.toNat))) ∧
    (m = 0x03 → exec (.salu n w) s = res (BitVec.ofInt 64 (a.toInt * b.toInt / 2 ^ 64))) ∧
    (m = 0x04 → exec (.salu n w) s = res (BitVec.ofNat 64 (a.toNat * b.toNat / 2 ^ 64))) ∧
    (m = 0x05 → exec (.salu n w) s = res (if b = 0 then BitVec.allOnes 64 else BitVec.ofInt 64 (a.toInt.tdiv b.toInt))) ∧
    (m = 0x06 → exec (.salu n w) s = res (if b = 0 then BitVec.allOnes 64 else BitVec.ofNat 64 (a.toNat / b.toNat))) ∧
    (m = 0x07 → exec (.salu n w) s = res (if b = 0 then a else BitVec.ofInt 64 (a.toInt.tmod b.toInt))) ∧
    (m = 0x08 → exec (.salu n w) s = res (if b = 0 then a else BitVec.ofNat 64 (a.toNat % b.toNat))) ∧
    (m = 0x09 → exec (.salu n w) s = res (a &&& b)) ∧
    (m = 0x0A → exec (.salu n w) s = res (a ||| b)) ∧
    (m = 0x0B → exec (.salu n w) s = res (a ^^^ b)) ∧
    (m = 0x0C → exec (.salu n w) s = res (BitVec.ofNat 64 (a.toNat * 2 ^ (b.toNat % 64)))) ∧
    (m = 0x0D → exec (.salu n w) s = res (BitVec.ofNat 64 (a.toNat / 2 ^ (b.toNat % 64)))) ∧
    (m = 0x0E → exec (.salu n w) s = res (BitVec.ofInt 64 (a.toInt / 2 ^ (b.toNat % 64)))) ∧
    (m = 0x0F → exec (.salu n w) s = res (BitVec.ofInt 64 (min a.toInt b.toInt))) ∧
    (m = 0x10 → exec (.salu n w) s = res (BitVec.ofInt 64 (max a.toInt b.toInt))) ∧
    (m = 0x11 → exec (.salu n w) s = res (BitVec.ofNat 64 (min a.toNat b.toNat))) ∧
    (m = 0x12 → exec (.salu n w) s = res (BitVec.ofNat 64 (max a.toNat b.toNat))) ∧
    (m = 0x13 → exec (.salu n w) s = rel (a = b)) ∧
    (m = 0x14 → exec (.salu n w) s = rel (a ≠ b)) ∧
    (m = 0x15 → exec (.salu n w) s = rel (a.toInt < b.toInt)) ∧
    (m = 0x16 → exec (.salu n w) s = rel (a.toNat < b.toNat)) ∧
    (m = 0x17 → exec (.salu n w) s = rel (a.toInt ≤ b.toInt)) ∧
    (m = 0x18 → exec (.salu n w) s = rel (a.toNat ≤ b.toNat)) ∧
    (m = 0x19 → exec (.salu n w) s = res (if (k.getP (Wd.f30 x)).getLsbD 0 then a else b)) ∧
    (m = 0x1A → exec (.salu n w) s =
      res (BitVec.ofNat 64 ((List.range 64).filter (fun i => a.getLsbD i)).length)) ∧
    (m = 0x1B → exec (.salu n w) s = res (BitVec.ofNat 64 (if a = 0 then 64 else 63 - a.toNat.log2))) ∧
    (m = 0x1C → exec (.salu n w) s = toP (pa &&& pb)) ∧
    (m = 0x1D → exec (.salu n w) s = toP (pa ||| pb)) ∧
    (m = 0x1E → exec (.salu n w) s = toP (pa ^^^ pb)) ∧
    (m = 0x1F → exec (.salu n w) s = toP (~~~pa)) ∧
    (m = 0x20 → exec (.salu n w) s = toP (BitVec.ofNat 128 (a.toNat + 2 ^ 64 * b.toNat))) ∧
    (m = 0x21 → exec (.salu n w) s =
      res (BitVec.ofNat 64 (if bitOf x 20 then pa.toNat / 2 ^ 64 else pa.toNat)))) ∧
  (
  ∀ (s : State) (n : CoreId) (k : Core) (w : BitVec 56), let x := wordOf56 3 w
    let m := Wd.minor x
    Issues s n k x → saluiBad x = none → freeS k ((if m ≤ 8 then [Wd.f45 x] else []) ++ [Wd.f40 x]) →
    let a := k.getS (Wd.f40 x)
    let i := BitVec.ofInt 64 (Wd.imm36 x)
    let sh := bitsOf x 4 6
    let res (v : W64) : Host.Outcome State Fault Refusal := .next (setCore s n ((past k).setS (Wd.f45 x) v))
    let rel (c : Prop) [Decidable c] : Host.Outcome State Fault Refusal :=
      .next (setCore s n ((past k).setP (Wd.f45 x) (if c then BitVec.allOnes 128 else 0)))
    (m = 0x00 → exec (.salui n w) s = res (a + i)) ∧
    (m = 0x01 → exec (.salui n w) s = res (a &&& i)) ∧
    (m = 0x02 → exec (.salui n w) s = res (a ||| i)) ∧
    (m = 0x03 → exec (.salui n w) s = res (a ^^^ i)) ∧
    (m = 0x04 → exec (.salui n w) s = res (BitVec.ofNat 64 (a.toNat * 2 ^ sh))) ∧
    (m = 0x05 → exec (.salui n w) s = res (BitVec.ofNat 64 (a.toNat / 2 ^ sh))) ∧
    (m = 0x06 → exec (.salui n w) s = res (BitVec.ofInt 64 (a.toInt / 2 ^ sh))) ∧
    (m = 0x07 → exec (.salui n w) s = res i) ∧
    (m = 0x08 → exec (.salui n w) s = res (BitVec.ofNat 64 (bitsOf x 4 36 * 2 ^ 28 + a.toNat % 2 ^ 28))) ∧
    (m = 0x09 → exec (.salui n w) s = rel (a = i)) ∧
    (m = 0x0A → exec (.salui n w) s = rel (a.toInt < i.toInt)) ∧
    (m = 0x0B → exec (.salui n w) s = rel (a.toNat < i.toNat)))

/-- R66: register s0 reads as zero and discards writes; predicate p0 reads as all ones and discards writes. -/
def Obligations.HardWiredRegisters : Prop :=
  ∀ (k : Core), k.getS 0 = 0 ∧ k.getP 0 = BitVec.allOnes 128 ∧
    (∀ v, k.setS 0 v = k) ∧ (∀ v, k.setP 0 v = k) ∧
    (∀ r v, r ≠ 0 → (k.setS r v).getS r = v ∧ ∀ q, q ≠ r → (k.setS r v).getS q = k.getS q) ∧
    (∀ r v, r ≠ 0 → (k.setP r v).getP r = v ∧ ∀ q, q ≠ r → (k.setP r v).getP q = k.getP q)

/-- R68, R69, R100: csr.rd of each readable register, and csr.wr of each writable one. TIME and CYCLES read what the counters
are when they are looked at. Where the rules leave a corner open it follows the model's reading, log 4. -/
def Obligations.CsrResults : Prop :=
  ∀ (s : State) (n : CoreId) (k : Core) (w : BitVec 50),
    (let x := wordOf 0x10 0 w
     Issues s n k x → fieldsOnly x [(45, 5), (4, 12)] → freeS k [Wd.f45 x] →
      let c := bitsOf x 4 12
      let res (v : Nat) : Host.Outcome State Fault Refusal :=
        .next (setCore s n ((past k).setS (Wd.f45 x) (BitVec.ofNat 64 v)))
      (c = 0x000 → exec (.csrRd n w) s = res n.val) ∧
      (c = 0x001 → exec (.csrRd n w) s = res (s.fld (F.mxWidth n))) ∧
      (c = 0x002 → exec (.csrRd n w) s = res k.ctx.val) ∧
      (c = 0x003 → exec (.csrRd n w) s = res k.q.val) ∧
      (c = 0x004 → exec (.csrRd n w) s = res (s.fld F.tkStep)) ∧
      (c = 0x005 → s.nextTickAt ≤ 2 ^ 64 → completes (.csrRd n w) s (fun t =>
        t.cores.find? n = some ((past k).setS (Wd.f45 x) (BitVec.ofNat 64 (timeFor k.ctx (t.fld F.tkTime)))))) ∧
      (c = 0x006 → completes (.csrRd n w) s (fun t =>
        t.cores.find? n = some ((past k).setS (Wd.f45 x)
          (BitVec.ofNat 64 (if k.ctx = 0 then t.fld (F.tkCycle (dieOf n)) else 0))))) ∧
      (c = 0x008 → exec (.csrRd n w) s = res k.args.toNat) ∧
      (c = 0x009 → exec (.csrRd n w) s = res k.rank) ∧
      (c = 0x00A → exec (.csrRd n w) s = res k.ranks) ∧
      (c = 0x010 → exec (.csrRd n w) s = res k.cvtClass) ∧
      (c = 0x011 → exec (.csrRd n w) s = res k.satCount) ∧
      (0x020 ≤ c → c ≤ 0x023 → exec (.csrRd n w) s = res (k.user.getD (c - 0x20) 0).toNat)) ∧
    (let x := wordOf 0x10 1 w
     Issues s n k x → fieldsOnly x [(40, 5), (4, 12)] → freeS k [Wd.f40 x] →
      let c := bitsOf x 4 12
      let v := k.getS (Wd.f40 x)
      (c = 0x010 → exec (.csrWr n w) s = .next (setCore s n { past k with cvtClass := v.toNat % 16 })) ∧
      (0x020 ≤ c → c ≤ 0x023 →
        exec (.csrWr n w) s = .next (setCore s n { past k with user := k.user.insert (c - 0x20) v })))

/-! ### Instructions: descriptors -/

/-- R81, R151: the descriptor instructions that touch no memory. A failed dsc.resize is not among them. R81, R147: dsc.ld,
dsc.ldx and dsc.st in the scratchpad form. What dsc.ld and dsc.ldx load is what resolution makes of the bytes. Where the
rules leave a corner open it follows the model's reading, log 22. -/
def Obligations.DescriptorResults : Prop :=
  (
  ∀ (s : State) (n : CoreId) (k : Core) (w : BitVec 50),
    (let x := wordOf 4 3 w
     Issues s n k x → fieldsOnly x [(46, 4), (42, 4)] → freeD k [Wd.dx x, Wd.dy x] →
      exec (.dscMov n w) s = .next (setCore s n ((past k).setD (Wd.dx x) (k.getD (Wd.dy x))))) ∧
    (let x := wordOf 4 4 w
     Issues s n k x → dimBad x [(46, 4), (31, 5)] = none → freeS k [Wd.sa x] → freeD k [Wd.dx x] →
      let d := k.getD (Wd.dx x)
      exec (.dscOrg n w) s = .next (setCore s n ((past k).setD (Wd.dx x)
        { d with origin := setNth d.origin (bitsOf x 4 3) (signOf 32 (k.getS (Wd.sa x)).toNat) }))) ∧
    (let x := wordOf 4 5 w
     Issues s n k x → dimBad x [(46, 4), (31, 5)] = none → freeS k [Wd.sa x] → freeD k [Wd.dx x] →
      let d := k.getD (Wd.dx x)
      let sum := (nthD d.origin (bitsOf x 4 3) 0 + (k.getS (Wd.sa x)).toNat) % 2 ^ 32
      exec (.dscOrgadd n w) s = .next (setCore s n ((past k).setD (Wd.dx x)
        { d with origin := setNth d.origin (bitsOf x 4 3) (if sum < 2 ^ 31 then sum else sum - 2 ^ 32) }))) ∧
    (let x := wordOf 4 6 w
     Issues s n k x → dimBad x [(46, 4), (26, 5)] = none → freeS k [Wd.sb x] → freeD k [Wd.dx x] →
      exec (.dscSize n w) s = .next (setCore s n ((past k).setS (Wd.sb x)
        (BitVec.ofNat 64 ((k.getD (Wd.dx x)).raw.toNat / 2 ^ (128 + 32 * bitsOf x 4 3) % 2 ^ 32))))) ∧
    (let x := wordOf 4 7 w
     Issues s n k x → dimBad x [(46, 4), (31, 5)] = none → freeS k [Wd.sa x] → freeD k [Wd.dx x] →
      let d := (k.getD (Wd.dx x)).withSize (bitsOf x 4 3) (k.getS (Wd.sa x)).toNat
      d.etype ≠ 0xF → d.staticFault = none → d.extentOk = true →
      exec (.dscResize n w) s = .next (setCore s n ((past k).setD (Wd.dx x) d)))) ∧
  (
  ∀ (s : State) (n : CoreId) (k : Core) (w : BitVec 50),
    (let x := wordOf 4 0 w
     let a := dscAddress k x
     Issues s n k x → fieldsOnly x [(46, 4), (31, 5), (15, 1), (4, 11)] → bitOf x 15 = true →
      freeS k [Wd.sa x] → freeD k [Wd.dx x] → noAcquire k → a % 64 = 0 → a + 128 ≤ 2 ^ 22 →
      cleanWords s.sram (padOf n) a 128 → ∀ d u, resolveDesc k.ctx (BitVec.ofNat 1024 (leNat (s.sram.readBytes (padOf n) k.ctx.val k.gen a 128)))
          (setCore s n (past k)) = .ok d u →
        exec (.dscLd n w) s = .next (u.onCore n (fun c => c.setD (Wd.dx x) d))) ∧
    (let x := wordOf 4 1 w
     let a := dscAddress k x
     let d := k.getD (Wd.dx x)
     let e := BitVec.ofNat 512 (leNat (s.sram.readBytes (padOf n) k.ctx.val k.gen a 64))
     Issues s n k x → fieldsOnly x [(46, 4), (31, 5), (15, 1), (4, 11)] → bitOf x 15 = true →
      freeS k [Wd.sa x] → freeD k [Wd.dx x] → noAcquire k → a % 64 = 0 → a + 64 ≤ 2 ^ 22 →
      cleanWords s.sram (padOf n) a 64 → extFault d e = none →
      exec (.dscLdx n w) s = .next (setCore s n ((past k).setD (Wd.dx x) { d with ext := some e }))) ∧
    (let x := wordOf 4 2 w
     let a := dscAddress k x
     Issues s n k x → fieldsOnly x [(46, 4), (31, 5), (15, 1), (4, 11)] → bitOf x 15 = true →
      freeS k [Wd.sa x] → freeD k [Wd.dx x] → a % 64 = 0 → a + 128 ≤ 2 ^ 22 →
      exec (.dscSt n w) s = .next { setCore s n (past k) with
        sram := SramSt.writeWords (padOf n) k.ctx.val k.gen 4 s.sram a (leBytes 128 (k.getD (Wd.dx x)).raw.toNat) }))

/-! ### Instructions: the matrix engine and attention -/

/-- R83, R96, R157: a matrix or attention instruction that passes its checks takes an MX token and enters the queue of the
matrix engine with the operands that it reads at issue; nothing else changes but the pc. Where the rules leave a corner open
it follows the model's reading, log 31 and 106. -/
def Obligations.MatrixIssue : Prop :=
  ∀ (s : State) (n : CoreId) (k : Core) (w : BitVec 50),
    mxWaiting k.mxq < 8 → nthD k.pend 0 0 < 255 →
    let entered (x op : Nat) (v : BitVec 2048) : Host.Outcome State Fault Refusal :=
      .next (setCore s n { past k with
        pend := setNth k.pend 0 (nthD k.pend 0 0 + 1)
        mxq := k.mxq ++ [{ op := op, w := w, sa := k.getS (Wd.sa x), sb := k.getS (Wd.sb x), dx := k.getD (Wd.dx x)
                           dy := k.getD (Wd.dy x), v := v, pc := k.pc }] })
    let passes (m : M Unit) : Prop := m (setCore s n (past k)) = .ok () (setCore s n (past k))
    (let x := wordOf 5 0 w
     Issues s n k x → fieldsOnly x [(36, 2)] → noAcquire k → exec (.mxZero n w) s = entered x 0 0) ∧
    (let x := wordOf 5 1 w
     Issues s n k x → fieldsOnly x [(36, 2), (46, 4), (42, 4), (31, 5), (15, 3)] →
      freeS k [Wd.sa x] → freeD k [Wd.dx x, Wd.dy x] → noAcquire k → passes (mmaChecks x k) →
      exec (.mxMma n w) s = entered x 1 0) ∧
    (let x := wordOf 5 2 w
     let d := k.getD (Wd.dx x)
     Issues s n k x → fieldsOnly x [(36, 2), (46, 4)] → freeD k [Wd.dx x] → noAcquire k →
      d.etype ≤ 1 → d.space = 2 → d.matrixStride = true →
      exec (.mxLd n w) s = entered x 2 0) ∧
    (let x := wordOf 5 3 w
     let d := k.getD (Wd.dx x)
     Issues s n k x → fieldsOnly x [(36, 2), (46, 4)] → freeD k [Wd.dx x] → noAcquire k →
      d.etype ≤ 1 → (d.space = 2 ∨ (d.space = 3 ∧ k.markAhead (Wd.acc x) = false)) → d.matrixStride = true →
      d.view ≠ 1 → d.readOnly = false →
      exec (.mxSt n w) s = entered x 3 0) ∧
    (let x := wordOf 5 5 w
     Issues s n k x → fieldsOnly x [(36, 2), (21, 5), (31, 5)] → freeS k [Wd.sa x] → freeV k [Wd.vaT x] → noAcquire k →
      (k.getS (Wd.sa x)).toNat ≤ 63 →
      exec (.mxWr n w) s = entered x 5 (k.getV (Wd.vaT x))) ∧
    (let x := wordOf 0xD 0 w
     let q := k.getD (Wd.dx x)
     let y := k.getD (Wd.dy x)
     let len := (k.getS (Wd.sa x)).toNat
     Issues s n k x → fieldsOnly x [(36, 2), (46, 4), (42, 4), (31, 5), (26, 5)] →
      freeS k [Wd.sa x, Wd.sb x] → freeD k [Wd.dx x, Wd.dy x] → noAcquire k →
      q.etype = 0 → q.space = 2 → q.matrixStride = true →
      y.etype ∈ [0, 3, 4, 7] → y.space = 2 → y.matrixStride = true →
      (len = 0 ∨ ((len : Int) ≤ q.windowSize 0 ∧ (len : Int) ≤ y.windowSize 0)) →
      exec (.atQk n w) s = entered x 8 0) ∧
    (let x := wordOf 0xD 1 w
     let d := k.getD (Wd.dx x)
     Issues s n k x → fieldsOnly x [(36, 2), (46, 4), (31, 5), (26, 5), (21, 5), (15, 2), (4, 4)] →
      Wd.vaT x % 2 = 0 → Wd.acc x ∉ maskTiles x →
      freeS k [Wd.sa x, Wd.sb x] → freeV k [Wd.vaT x, Wd.vaT x + 1] → freeD k [Wd.dx x] → noAcquire k →
      d.etype = 0 → d.space = 2 → d.matrixStride = true → d.view ≠ 1 → d.readOnly = false →
      exec (.atSm n w) s = entered x 9 0) ∧
    (let x := wordOf 0xD 2 w
     let d := k.getD (Wd.dx x)
     let y := k.getD (Wd.dy x)
     Issues s n k x → fieldsOnly x [(36, 2), (46, 4), (42, 4)] → freeD k [Wd.dx x, Wd.dy x] → noAcquire k →
      d.etype = 0 → d.space = 2 → d.matrixStride = true → y.etype = 0 → y.space = 2 → y.matrixStride = true →
      (s.fld (F.mxWidth n) = 0 ∨ (s.fld (F.mxWidth n) : Int) ≤ d.windowSize 0) →
      exec (.atPv n w) s = entered x 10 0) ∧
    (let x := wordOf 0xD 3 w
     let d := k.getD (Wd.dx x)
     Issues s n k x → fieldsOnly x [(46, 4), (21, 5), (4, 4)] → Wd.vaT x % 2 = 0 →
      freeV k [Wd.vaT x, Wd.vaT x + 1] → freeD k [Wd.dx x] → noAcquire k →
      d.etype = 1 → d.space = 2 → d.matrixStride = true → 2 ≤ d.size 0 →
      d.size 0 - 2 ≤ (maskTiles x).length * s.fld (F.mxWidth n) →
      exec (.atMrg n w) s = entered x 11 0) ∧
    (let x := wordOf 0xD 4 w
     let d := k.getD (Wd.dx x)
     Issues s n k x → fieldsOnly x [(46, 4), (21, 5), (4, 4)] → Wd.vaT x % 2 = 0 →
      freeV k [Wd.vaT x, Wd.vaT x + 1] → freeD k [Wd.dx x] → noAcquire k →
      d.etype ≠ 0xF → d.space = 2 → d.matrixStride = true →
      d.size 0 ≤ (maskTiles x).length * s.fld (F.mxWidth n) → d.view ≠ 1 → d.readOnly = false →
      exec (.atFin n w) s = entered x 12 (k.getV (Wd.vaT x + 1))) ∧
    (let x := wordOf 0xD 5 w
     let d := k.getD (Wd.dx x)
     Issues s n k x → fieldsOnly x [(36, 2), (46, 4), (31, 5), (26, 5), (21, 5), (15, 1)] →
      freeS k [Wd.sa x, Wd.sb x] → freeV k [Wd.vaT x] → freeD k [Wd.dx x] → noAcquire k →
      d.etype = 0 → d.space = 2 → d.matrixStride = true → d.view ≠ 1 → d.readOnly = false →
      exec (.atRp n w) s = entered x 13 (k.getV (Wd.vaT x)))

/-- R85: mx.rd writes row s(sa) of the tile to va: the lanes below the width in force, and zeros above; it waits for the
instructions that name its tile. R83, R157: when the instruction at the head of the queue finishes, its result stands, it
leaves the queue, and its token returns. mx.zero writes zeros to the columns below the width in force and clears the score
mark. Where the rules leave a corner open it follows the model's reading, log 31, 32 and 96. -/
def Obligations.MatrixRun : Prop :=
  (
  ∀ (s : State) (n : CoreId) (k : Core) (w : BitVec 50), let x := wordOf 5 4 w
    Issues s n k x → fieldsOnly x [(36, 2), (21, 5), (31, 5)] → freeS k [Wd.sa x] → freeV k [Wd.vaT x] → noAcquire k →
    (k.getS (Wd.sa x)).toNat ≤ 63 → (∀ o ∈ k.mxq, Wd.acc x ∉ o.tiles) →
    ∃ v : BitVec 2048, exec (.mxRd n w) s = .next (setCore s n ((past k).setV (Wd.vaT x) v)) ∧
      ∀ j < 64, laneOf v 32 j =
        (if j < s.fld (F.mxWidth n) then laneOf (k.row (Wd.acc x) (k.getS (Wd.sa x)).toNat) 32 j else 0)) ∧
  (
  ∀ (s : State) (n : CoreId) (k : Core) (o : MxOp) (rest : List MxOp),
    s.works = true → s.cores.find? n = some k → k.mxq = o :: rest →
    let left (c : Core) : State := setCore s n { c with mxq := rest, pend := setNth k.pend 0 (nthD k.pend 0 0 - 1) }
    (o.op = 0 → exec (.mxFinish n 0) s =
      .next (left ((k.putTile (Wd.acc o.w.toNat) (s.fld (F.mxWidth n)) (fun _ _ => 0)).unmark (Wd.acc o.w.toNat)))) ∧
    (∀ u, finishOp n k o s = .ok () u →
      exec (.mxFinish n 0) s = .next
        ((u.onCore n (fun c => { c with mxq := c.mxq.eraseIdx 0 })).onCore n
          (fun c => { c with pend := setNth c.pend 0 (nthD c.pend 0 0 - 1) }))))

/-! ### Instructions: vectors -/

/-- R65, R70, R72, R86, R87: a VX instruction of a defined minor opcode, whose unused fields are zero, whose etype its row
takes and whose registers have no pending write, completes: it writes its lanes to vd, or its compares to a predicate, and
counts one vector instruction; masked
lanes are zeroed with zm and kept without it. Where the rules leave a corner open it follows the model's reading, log 19 and
36. -/
def Obligations.VectorResults : Prop :=
  ∀ (s : State) (n : CoreId) (k : Core) (w : BitVec 56), let x := wordOf56 6 w
    Issues s n k x → Wd.minor x ≤ 0x20 →
    fieldsOnly x ((if 8 ≤ Wd.minor x ∧ Wd.minor x ≤ 0xA then (45, 3) else (45, 5)) :: (26, 4) :: (23, 3) :: (22, 1) ::
      vxUse (Wd.minor x)) →
    Wd.etype x ∈ [0, 1, 2, 9] → (Wd.minor x = 3 ∨ (0xE ≤ Wd.minor x ∧ Wd.minor x ≤ 0x19) → Wd.etype x ≠ 9) →
    (Wd.minor x = 0xD ∨ 0x1C ≤ Wd.minor x → Wd.etype x = 9) →
    freeV k ((if 8 ≤ Wd.minor x ∧ Wd.minor x ≤ 0xA then [] else [Wd.f45 x]) ++
      ([(40, 5), (35, 5), (30, 5)].filter (vxUse (Wd.minor x)).contains).map (fun f => bitsOf x f.1 f.2)) →
    ((vxUse (Wd.minor x)).contains (17, 5) = true → freeS k [Wd.saV x]) →
    let m := Wd.minor x
    let t := Wd.etype x
    let wd := laneWidth t
    ∃ u : State, u.sram = s.sram ∧ u.mem = s.mem ∧ u.regs = s.regs ∧ u.out = s.out ∧ u.dma = s.dma ∧
      exec (.vx n w) s = .next u ∧ ∃ c, u.cores = s.cores.insert n c ∧ c.pc = k.pc + 8 ∧ c.s = k.s ∧
        ((8 ≤ m ∧ m ≤ 0xA) → c.v = k.v ∧ ∀ i < laneCount t, (c.getP (bitsOf x 45 3)).getLsbD i =
          (if bitsOf x 45 3 = 0 then true
           else if (k.getP (Wd.pl x)).getLsbD i then
             laneRel m t (laneOf (k.getV (Wd.f40 x)) wd i) (laneOf (k.getV (Wd.f35 x)) wd i)
           else !Wd.zm x && (k.getP (bitsOf x 45 3)).getLsbD i)) ∧
        (¬(8 ≤ m ∧ m ≤ 0xA) → c.p = k.p ∧ (∀ q, q ≠ Wd.f45 x → c.getV q = k.getV q) ∧
          ∀ i < laneCount t, laneOf (c.getV (Wd.f45 x)) wd i =
            (if (k.getP (Wd.pl x)).getLsbD i then vxLane k x i % 2 ^ wd
             else if Wd.zm x then 0 else laneOf (k.getV (Wd.f45 x)) wd i))

/-- R65, R70, R86, R88: with no unused field set, an etype that the row takes and no pending write of a register named, the
instruction completes: the reductions write lane 0 of vd and zero the rest; the permutations and lane moves write theirs;
each counts one vector instruction. R88, R119–R121, R126: the conversions complete where no event is to be raised, write only their
destinations, and add to csr.SAT_COUNT what they saturated. Where the rules leave a corner open it follows the model's
reading, log 35. -/
def Obligations.VectorMovesAndConversions : Prop :=
  (
  ∀ (s : State) (n : CoreId) (k : Core) (w : BitVec 50),
    let counted (c : Core) : Host.Outcome State Fault Refusal := .next { setCore s n c with
      obs := { s.obs with cores := s.obs.cores.insert n ((s.cntOf n).add 3 1) } }
    let reduced (x op : Nat) : Host.Outcome State Fault Refusal :=
      counted ((past k).setV (Wd.f45 x) (BitVec.ofNat 2048 (reduceLanes op (Wd.etype x)
        ((selected k x).map (laneOf (k.getV (Wd.f40 x)) (laneWidth (Wd.etype x)))))))
    let lanes (x t : Nat) (f : Nat → Nat) : Host.Outcome State Fault Refusal :=
      counted ((past k).setV (Wd.f45 x) (lanesInto k x t f))
    let pl : List (Nat × Nat) := [(23, 3), (22, 1)]
    let typed (x : Nat) : Prop := Wd.etype x ∈ [0, 1, 2, 9]
    (∀ r ∈ ([(.rsum, 0), (.rmax, 1), (.rmin, 2), (.rabsmax, 3)] : List ((CoreId → BitVec 50 → Instr) × Nat)),
      let x := wordOf 7 r.2 w
      Issues s n k x → fieldsOnly x ([(26, 4), (45, 5), (40, 5)] ++ pl) → typed x → freeV k [Wd.f45 x, Wd.f40 x] →
      exec (r.1 n w) s = reduced x r.2) ∧
    (let x := wordOf 7 4 w
     Issues s n k x → fieldsOnly x ([(26, 4), (45, 5), (40, 5), (35, 5)] ++ pl) → typed x →
      freeV k [Wd.f45 x, Wd.f40 x, Wd.f35 x] →
      exec (.shuf n w) s = lanes x (Wd.etype x) (fun i => laneOf (k.getV (Wd.f40 x)) (laneWidth (Wd.etype x))
        (laneOf (k.getV (Wd.f35 x)) (laneWidth (Wd.etype x)) i % laneCount (Wd.etype x)))) ∧
    (let x := wordOf 7 5 w
     Issues s n k x → fieldsOnly x ([(26, 4), (45, 5), (40, 5), (4, 13)] ++ pl) → typed x →
      freeV k [Wd.f45 x, Wd.f40 x] →
      exec (.rot n w) s = lanes x (Wd.etype x) (fun i => laneOf (k.getV (Wd.f40 x)) (laneWidth (Wd.etype x))
        ((i + bitsOf x 4 13) % laneCount (Wd.etype x)))) ∧
    (let x := wordOf 7 9 w
     Issues s n k x → fieldsOnly x [(26, 4), (45, 5), (40, 5), (4, 7)] → typed x → bitsOf x 4 7 < laneCount (Wd.etype x) →
      freeS k [Wd.f45 x] → freeV k [Wd.f40 x] →
      exec (.tos n w) s = counted ((past k).setS (Wd.f45 x)
        (BitVec.ofNat 64 (laneOf (k.getV (Wd.f40 x)) (laneWidth (Wd.etype x)) (bitsOf x 4 7))))) ∧
    (let x := wordOf 7 0xA w
     Issues s n k x → fieldsOnly x ([(26, 4), (45, 5), (40, 5), (35, 5)] ++ pl) → Wd.etype x ∈ [0, 2] →
      freeV k [Wd.f45 x, Wd.f40 x, Wd.f35 x] →
      exec (.pack n w) s = lanes x (Wd.etype x) (fun i =>
        (convert (Wd.etype x) (laneVal 1 (k.getV (if i < 64 then Wd.f40 x else Wd.f35 x)) (i % 64))).bits)) ∧
    (let x := wordOf 7 0xB w
     Issues s n k x → fieldsOnly x ([(26, 4), (45, 5), (40, 5), (4, 1)] ++ pl) → Wd.etype x ∈ [0, 2] →
      freeV k [Wd.f45 x, Wd.f40 x] →
      exec (.unpack n w) s = lanes x 1 (fun i =>
        toFp32 (laneVal (Wd.etype x) (k.getV (Wd.f40 x)) (i + (if bitOf x 4 then 64 else 0)))))) ∧
  (
  ∀ (s : State) (n : CoreId) (k : Core) (w : BitVec 50), Silent s →
    let keeps (i : Instr) (dst : List Nat) : Prop := completes i s (fun t => ∃ c, t.cores.find? n = some c ∧
      c.pc = k.pc + 8 ∧ c.s = k.s ∧ c.p = k.p ∧ c.d = k.d ∧ k.satCount ≤ c.satCount ∧
      (∀ q, q ∉ dst → c.getV q = k.getV q) ∧ t.sram = s.sram ∧ t.mem = s.mem ∧
      t.obs.cores.getD n .zero = (s.cntOf n).add 3 1)
    let quants (x : Nat) : Prop := fieldsOnly x [(26, 4), (45, 5), (40, 5), (30, 5), (17, 5), (4, 10), (23, 3), (22, 1)] ∧
      Wd.etype x ∈ [0, 1, 2] ∧ bitsOf x 4 6 ∈ [16, 32] ∧ isType (bitsOf x 10 4) = true ∧ isNarrow (bitsOf x 10 4) = true
    (let x := wordOf 7 6 w
     Issues s n k x → bitsOf x 4 4 ∈ [0, 1, 2, 3, 4, 5, 6, 7, 8, 9] → Wd.etype x ∈ [0, 1, 2, 9] →
      fieldsOnly x ([(26, 4), (45, 5), (40, 5), (4, 4)] ++
        (if Wd.etype x ∈ [0, 2] ∧ bitsOf x 4 4 ∈ [1, 9] then [(8, 1)] else []) ++ [(23, 3), (22, 1)]) →
      freeV k [Wd.f45 x, Wd.f40 x] → keeps (.cvt n w) [Wd.f45 x]) ∧
    (let x := wordOf 7 7 w
     Issues s n k x → quants x → freeV k [Wd.f45 x, Wd.f40 x, Wd.f30 x] → freeS k [Wd.saV x] →
      keeps (.quant n w) [Wd.f45 x, Wd.f30 x]) ∧
    (let x := wordOf 7 8 w
     Issues s n k x → quants x → freeV k [Wd.f45 x, Wd.f40 x, Wd.f30 x] → freeS k [Wd.saV x] →
      keeps (.dequant n w) [Wd.f45 x]))

/-- R65, R70, R86, R88: with no unused field set, an etype of a lane layout, no pending write of a register named and every
selected lane aligned within the scratchpad, vgath reads, and vscat writes, the selected lanes at s(sa) + vb lane i of the
scratchpad. Where the rules leave a corner open it follows the model's reading, log 36. -/
def Obligations.GatherScatter : Prop :=
  ∀ (s : State) (n : CoreId) (k : Core) (w : BitVec 50),
    let obs : ObsSt := { s.obs with cores := s.obs.cores.insert n ((s.cntOf n).add 3 1) }
    let inPad (x : Nat) : Prop := ∀ i ∈ selected k x,
      laneOffset k x i % (laneWidth (Wd.etype x) / 8) = 0 ∧ laneOffset k x i + laneWidth (Wd.etype x) / 8 ≤ 2 ^ 22
    (let x := wordOf 7 0xC w
     Issues s n k x → fieldsOnly x [(26, 4), (45, 5), (35, 5), (17, 5), (23, 3), (22, 1)] → Wd.etype x ∈ [0, 1, 2, 9] →
      freeV k [Wd.f45 x, Wd.f35 x] → freeS k [Wd.saV x] → inPad x →
      (∀ i ∈ selected k x, cleanWords s.sram (padOf n) (laneOffset k x i) (laneWidth (Wd.etype x) / 8)) →
      ∃ v : BitVec 2048, exec (.vgath n w) s = .next { setCore s n ((past k).setV (Wd.f45 x) v) with obs := obs } ∧
        ∀ i < laneCount (Wd.etype x), laneOf v (laneWidth (Wd.etype x)) i =
          (if i ∈ selected k x then
            leNat (s.sram.readBytes (padOf n) k.ctx.val k.gen (laneOffset k x i) (laneWidth (Wd.etype x) / 8))
           else if Wd.zm x then 0 else laneOf (k.getV (Wd.f45 x)) (laneWidth (Wd.etype x)) i)) ∧
    (let x := wordOf 7 0xD w
     Issues s n k x → fieldsOnly x [(26, 4), (40, 5), (35, 5), (17, 5), (23, 3), (22, 1)] → Wd.etype x ∈ [0, 1, 2, 9] →
      freeV k [Wd.f40 x, Wd.f35 x] → freeS k [Wd.saV x] → inPad x →
      exec (.vscat n w) s = .next { setCore s n (past k) with
        obs := obs
        sram := (selected k x).foldl (fun m i => SramSt.writeWords (padOf n) k.ctx.val k.gen
          (laneWidth (Wd.etype x) / 8 / 64 + 2) m (laneOffset k x i)
          (leBytes (laneWidth (Wd.etype x) / 8)
            (laneOf (k.getV (Wd.f40 x)) (8 * (laneWidth (Wd.etype x) / 8)) i))) s.sram })

/-! ### Arithmetic -/

/-- R80: a division by zero gives a quotient of all ones and a remainder equal to the dividend; −2^63 by −1 gives −2^63 and a
remainder of 0; and no scalar operation traps: each one whose word decodes leaves its core past the word, and changes
nothing outside the core. -/
def Obligations.DivisionCorners : Prop :=
  ∀ (s : State) (n : CoreId) (k : Core) (w : BitVec 56),
    (let x := wordOf56 2 w
     Issues s n k x → saluBad x = none → freeS k (saluRegs x) →
      let m := Wd.minor x
      let a := k.getS (Wd.f40 x)
      let b := k.getS (Wd.f35 x)
      let res (v : W64) : Host.Outcome State Fault Refusal := .next (setCore s n ((past k).setS (Wd.f45 x) v))
      (b = 0 → (m = 5 ∨ m = 6) → exec (.salu n w) s = res (BitVec.allOnes 64)) ∧
      (b = 0 → (m = 7 ∨ m = 8) → exec (.salu n w) s = res a) ∧
      (a.toInt = -(2 ^ 63) → b.toInt = -1 → m = 5 → exec (.salu n w) s = res a) ∧
      (a.toInt = -(2 ^ 63) → b.toInt = -1 → m = 7 → exec (.salu n w) s = res 0) ∧
      (∃ k', exec (.salu n w) s = .next (setCore s n k') ∧ k'.pc = k.pc + 8 ∧ k'.wait = .running)) ∧
    (let x := wordOf56 3 w
     let m := Wd.minor x
     Issues s n k x → saluiBad x = none → freeS k ((if m ≤ 8 then [Wd.f45 x] else []) ++ [Wd.f40 x]) →
      ∃ k', exec (.salui n w) s = .next (setCore s n k') ∧ k'.pc = k.pc + 8 ∧ k'.wait = .running)

/-- R108: INT8 reads every encoding from −128 to 127 as its value, and every conversion to it gives one from −127 to 127. -/
def Obligations.Int8Range : Prop :=
  (∀ x : Int, -128 ≤ x → x ≤ 127 → decodeNum 8 (toUnsigned 8 x) = Val.ofInt x) ∧
  (∀ v : Val, ∃ x : Int, -127 ≤ x ∧ x ≤ 127 ∧ (convert 8 v).bits = toUnsigned 8 x)

/-- R118: the value of every encoding of an E5M3 fine scale, and that its NaN makes every element of a block read as NaN. -/
def Obligations.FineScales : Prop :=
  (∀ b < 255, ∃ n d, fineNum b = .fin false n d ∧ d ≠ 0 ∧
    (b < 8 → n * 2 ^ 32 = b * d) ∧ (8 ≤ b → n * 2 ^ 33 = (8 + b % 8) * 2 ^ (b / 8) * d)) ∧
  fineNum 255 = .nan ∧ (∀ t x c, isNarrow t = true → widen t x (fineNum 255) c = .nan)

/-! ### Instructions: memory -/

/-- R89: the loads and stores of on-core memory. A scalar access is of 1, 2, 4 or 8 bytes and naturally aligned, a vector access
of 256 bytes and aligned to 64; a load zero-extends. R169, R489: what an engine writes to on-core memory it reads back, and
every other byte of every on-core memory reads to it as before; a word that it had not written reads as zero before and
after. -/
def Obligations.OnCoreAccess : Prop :=
  (
  ∀ (s : State) (n : CoreId) (k : Core) (w : BitVec 50),
    (∀ r ∈ ([(.ldSp, 0, padOf n), (.ldCs, 2, storeOf n)] : List ((CoreId → BitVec 50 → Instr) × Nat × Sram)),
      let x := wordOf 8 r.2.1 w
      Issues s n k x → fieldsOnly x [(45, 5), (40, 5), (34, 2), (4, 30)] → freeS k [Wd.f45 x, Wd.f40 x] →
      memAddress k x % memSize x = 0 → memAddress k x + memSize x ≤ r.2.2.size →
      cleanWords s.sram r.2.2 (memAddress k x) (memSize x) →
      exec (r.1 n w) s = .next (setCore s n ((past k).setS (Wd.f45 x) (BitVec.ofNat 64
        (leNat (s.sram.readBytes r.2.2 k.ctx.val k.gen (memAddress k x) (memSize x))))))) ∧
    (∀ r ∈ ([(.stSp, 1, padOf n), (.stCs, 3, storeOf n)] : List ((CoreId → BitVec 50 → Instr) × Nat × Sram)),
      let x := wordOf 8 r.2.1 w
      Issues s n k x → fieldsOnly x [(45, 5), (40, 5), (34, 2), (4, 30)] → freeS k [Wd.f45 x, Wd.f40 x] →
      memAddress k x % memSize x = 0 → memAddress k x + memSize x ≤ r.2.2.size →
      exec (r.1 n w) s = .next { setCore s n (past k) with
        sram := SramSt.writeWords r.2.2 k.ctx.val k.gen 2 s.sram (memAddress k x)
          (leBytes (memSize x) (k.getS (Wd.f45 x)).toNat) }) ∧
    (∀ r ∈ ([(.vldSp, 8, padOf n), (.vldCs, 0xA, storeOf n)] : List ((CoreId → BitVec 50 → Instr) × Nat × Sram)),
      let x := wordOf 8 r.2.1 w
      Issues s n k x → fieldsOnly x [(45, 5), (40, 5), (4, 30)] → freeS k [Wd.f40 x] → freeV k [Wd.f45 x] →
      memAddress k x % 64 = 0 → memAddress k x + 256 ≤ r.2.2.size →
      cleanWords s.sram r.2.2 (memAddress k x) 256 →
      exec (r.1 n w) s = .next (setCore s n ((past k).setV (Wd.f45 x) (BitVec.ofNat 2048
        (leNat (s.sram.readBytes r.2.2 k.ctx.val k.gen (memAddress k x) 256)))))) ∧
    (∀ r ∈ ([(.vstSp, 9, padOf n), (.vstCs, 0xB, storeOf n)] : List ((CoreId → BitVec 50 → Instr) × Nat × Sram)),
      let x := wordOf 8 r.2.1 w
      Issues s n k x → fieldsOnly x [(45, 5), (40, 5), (4, 30)] → freeS k [Wd.f40 x] → freeV k [Wd.f45 x] →
      memAddress k x % 64 = 0 → memAddress k x + 256 ≤ r.2.2.size →
      exec (r.1 n w) s = .next { setCore s n (past k) with
        sram := SramSt.writeWords r.2.2 k.ctx.val k.gen 6 s.sram (memAddress k x)
          (leBytes 256 (k.getV (Wd.f45 x)).toNat) })) ∧
  (
  ∀ (x : SramSt) (m : Sram) (c gen o : Nat) (bs : List Byte),
    x.spad.wf = true → x.store.wf = true → o + bs.length ≤ m.size →
    let y := SramSt.writeWords m c gen (bs.length / 64 + 2) x o bs
    y.readBytes m c gen o bs.length = bs ∧
    (∀ a, (a < o ∨ o + bs.length ≤ a) → a < m.size → y.readByte m c gen a = x.readByte m c gen a) ∧
    (∀ (m' : Sram) (c' g' a : Nat), (m'.store ≠ m.store ∨ m'.unit ≠ m.unit) → a < m'.size →
      y.readByte m' c' g' a = x.readByte m' c' g' a) ∧
    y.spad.wf = true ∧ y.store.wf = true)

/-- R73, R74, R89, R90: a load of device memory takes a GL token, and its data, as the home gives them, are on their way to the
register; an acquire is marked. A store takes a token and is made with right W; a release waits for the core's earlier
stores. R447, R448: a load through the host aperture of a line that the coherence cache does not hold sends one request to
the host and waits for it. Where the rules leave a corner open it follows the model's reading, log 10, 11 and 27. -/
def Obligations.GlobalAccess : Prop :=
  (
  ∀ (s : State) (n : CoreId) (k : Core) (w : BitVec 50), nthD k.pend 1 0 < 255 → noAcquire k →
    let counted (len : Nat) : State := { setCore s n { past k with pend := setNth k.pend 1 (nthD k.pend 1 0 + 1) } with
      obs := { s.obs with cores := s.obs.cores.insert n ((s.cntOf n).add 5 len) } }
    let push (u : State) (g : GlPend) : State := u.onCore n (fun c => { c with gl := c.gl ++ [g] })
    let acq (x : Nat) : Nat := if Wd.ord x = 1 then (if Wd.scope x = 0 then 1 else 2) else 0
    (let x := wordOf 8 4 w
     let a := memAddress k x
     Issues s n k x → ordBad x scalarUse [0, 1, 3] = none → freeS k [Wd.f45 x, Wd.f40 x] → a % memSize x = 0 →
      (Wd.ord x = 3 → k.loadsOut = false) → inHostAperture a = false →
      ∀ b u, homeRead n k a (memSize x) (Wd.ord x) (counted (memSize x)) = .ok b u →
        exec (.ldG n w) s = .next (push u ⟨.s (Wd.f45 x) (BitVec.ofNat 64 (leNat b)), false, none, k.pc, acq x⟩)) ∧
    (let x := wordOf 8 0xC w
     let a := memAddress k x
     Issues s n k x → ordBad x vectorUse [0, 1, 3] = none → freeS k [Wd.f40 x] → freeV k [Wd.f45 x] → a % 32 = 0 →
      (Wd.ord x = 3 → k.loadsOut = false) → inHostAperture a = false →
      ∀ b u, homeRead n k a 256 (Wd.ord x) (counted 256) = .ok b u →
        exec (.vldG n w) s = .next (push u ⟨.v (Wd.f45 x) (BitVec.ofNat 2048 (leNat b)), false, none, k.pc, acq x⟩)) ∧
    (let x := wordOf 8 5 w
     let a := memAddress k x
     let bs := leBytes (memSize x) (k.getS (Wd.f45 x)).toNat
     Issues s n k x → ordBad x scalarUse [0, 2] = none → freeS k [Wd.f45 x, Wd.f40 x] → a % memSize x = 0 →
      (Wd.ord x = 2 → Wd.scope x ≠ 0 → k.storesOut = false) → inHostAperture a = false →
      ∀ u, storeCheck (k.who n) a (memSize x) (counted (memSize x)) = .ok () u →
        exec (.stG n w) s = .next (push (u.onCore n (fun c => { c with rcache := cacheStore c.rcache a bs }))
          ⟨.st a bs, true, none, k.pc, 0⟩)) ∧
    (let x := wordOf 8 0xD w
     let a := memAddress k x
     let bs := leBytes 256 (k.getV (Wd.f45 x)).toNat
     Issues s n k x → ordBad x vectorUse [0, 2] = none → freeS k [Wd.f40 x] → freeV k [Wd.f45 x] → a % 32 = 0 →
      (Wd.ord x = 2 → Wd.scope x ≠ 0 → k.storesOut = false) → inHostAperture a = false →
      ∀ u, storeCheck (k.who n) a 256 (counted 256) = .ok () u →
        exec (.vstG n w) s = .next (push (u.onCore n (fun c => { c with rcache := cacheStore c.rcache a bs }))
          ⟨.st a bs, true, none, k.pc, 0⟩))) ∧
  (
  ∀ (s : State) (n : CoreId) (k : Core) (w : BitVec 50), nthD k.pend 1 0 < 255 → noAcquire k →
    let x := wordOf 8 4 w
    let a := memAddress k x
    Issues s n k x → ordBad x scalarUse [0, 1, 3] = none → freeS k [Wd.f45 x, Wd.f40 x] → a % memSize x = 0 →
    (Wd.ord x = 3 → k.loadsOut = false) → inHostAperture a = true →
    ∀ h u, hostAddress k.ctx a (memSize x) 1
        { setCore s n { past k with pend := setNth k.pend 1 (nthD k.pend 1 0 + 1) } with
          obs := { s.obs with cores := s.obs.cores.insert n ((s.cntOf n).add 5 (memSize x)) } } = .ok h u →
      u.cxl.cohRead k.ctx h (memSize x) false = none →
      completes (.ldG n w) s (fun t =>
        t.out = u.out ++ [.hostReq u.cxl.nextReq h (memSize x) false] ∧
        t.cxl.reqs = u.cxl.reqs ++ [⟨u.cxl.nextReq, k.ctx, h, memSize x, [], .load n⟩] ∧
        t.cxl.nextReq = u.cxl.nextReq + 1 ∧ t.mem = u.mem))

/-- R246–R255: a write of device memory that succeeds changes only bytes of the pieces that translation gives, where no
zero-fill is queued; bytes that lie in one granule read back as written. -/
def Obligations.DeviceWriteFrame : Prop :=
  ∀ (s t : State) (c : Ctx) (va : Nat) (bs : List Byte) (need : Right),
    s.mem.bytes.wf = true → s.mem.fills = [] → vaWriteAs c va bs need s = .ok () t →
    ∃ (ps : List (Nat × Nat × Nat)) (u : State), translatePieces c va bs.length need s = .ok ps u ∧
      u.mem.bytes = s.mem.bytes ∧ t.mem.bytes.wf = true ∧
      (∀ a, (∀ p ∈ ps, a < p.1 ∨ p.1 + p.2.2 ≤ a) → t.mem.bytes.read a = s.mem.bytes.read a) ∧
      (va % 256 + bs.length ≤ 256 → bs ≠ [] → ∃ d sl, ps = [(d, sl, bs.length)] ∧ t.mem.bytes.readList d bs.length = bs)

/-- R73, R278: when global data return, the register is written, a completed acquire of a wider scope than CORE invalidates the
read cache, and the GL token returns. R74, R92, R175, R277, R278: a fence completes when no global access of the core is
outstanding; sync.wt completes at the count; the last core to arrive at a barrier releases every core that waits in it.
Where the rules leave a corner open it follows the model's reading, log 26. -/
def Obligations.ReturnsAndSync : Prop :=
  (
  ∀ (s : State) (n : CoreId) (k : Core) (i : Nat) (g : GlPend),
    s.works = true → s.cores.find? n = some k → k.gl[i]? = some g → g.host = none →
    let c := { k with
      gl := k.gl.eraseIdx i, rcache := (if g.acq = 2 then [] else k.rcache)
      pend := setNth k.pend 1 (nthD k.pend 1 0 - 1) }
    (∀ r v, g.dest = .s r v → exec (.globalDataReturn n i) s = .next (setCore s n (c.setS r v))) ∧
    (∀ r v, g.dest = .v r v → exec (.globalDataReturn n i) s = .next (setCore s n (c.setV r v))) ∧
    (∀ r d, g.dest = .d r d → exec (.globalDataReturn n i) s = .next (setCore s n (c.setD r d))) ∧
    (g.dest = .none → exec (.globalDataReturn n i) s = .next (setCore s n c)) ∧
    (∀ a bs, g.dest = .st a bs → Core.storing { k with gl := k.gl.take i } a bs.length = false →
      ∀ u, accWrite (k.who n) a bs .w s = .ok () u → u.cores = s.cores →
        exec (.globalDataReturn n i) s = .next (setCore u n c))) ∧
  (
  ∀ (s : State) (n : CoreId) (k : Core) (w : BitVec 50),
    (let x := wordOf 0xB 0 w
     Issues s n k x → fieldsOnly x [(4, 4)] → bitsOf x 4 2 ≠ 3 → bitsOf x 6 2 ≠ 0 →
      (bitOf x 6 = true → k.loadsOut = false) → (bitOf x 7 = true → bitsOf x 4 2 ≠ 0 → k.storesOut = false) →
      exec (.syncFence n w) s = .next (setCore s n
        (if bitOf x 6 = true ∧ bitsOf x 4 2 ≠ 0 then { past k with rcache := [] } else past k))) ∧
    (let x := wordOf 0xB 1 w
     Issues s n k x → fieldsOnly x [(4, 11)] → bitsOf x 12 3 ≤ 4 → nthD k.pend (bitsOf x 12 3) 0 ≤ bitsOf x 4 8 →
      exec (.syncWt n w) s = .next (setCore s n
        (if 2 ≤ bitsOf x 12 3 then { past k with rcache := [] } else past k))) ∧
    (let x := wordOf 0xB 2 w
     let b := (bitsOf x 4 4, bitOf x 8)
     let group := s.barGroup n k b.2
     Issues s n k x → fieldsOnly x [(4, 5)] →
      ((∃ m ∈ group, m ≠ n ∧ ∃ c, s.cores.find? m = some c ∧ b ∉ c.arrived) →
        exec (.syncBar n w) s = .next (setCore s n { past k with
          arrived := (if b ∈ k.arrived then k.arrived else b :: k.arrived), bar := some b })) ∧
      ((∀ m ∈ group, m ≠ n → ∃ c, s.cores.find? m = some c ∧ b ∈ c.arrived) →
        completes (.syncBar n w) s (fun t =>
          (∀ m ∈ group, ∃ c, t.cores.find? m = some c ∧ b ∉ c.arrived ∧ c.bar ≠ some b) ∧
          (∀ m, m ∉ group → m ≠ n → t.cores.find? m = s.cores.find? m) ∧ t.sram = s.sram ∧ t.mem = s.mem))))

/-- R94: what memory receives from each atomic, on operands of 32 or 64 bits. R94: an atomic takes a GL token, acts at the home,
and its old value is on its way to rd. -/
def Obligations.Atomics : Prop :=
  (
  ∀ (w old b c : Nat), (w = 32 ∨ w = 64) → old < 2 ^ w → b < 2 ^ w → c < 2 ^ w →
    atomicNew 0x10 w old b c = (old + b) % 2 ^ w ∧
    atomicNew 0x11 w old b c = old &&& b ∧ atomicNew 0x12 w old b c = old ||| b ∧
    atomicNew 0x13 w old b c = old ^^^ b ∧ atomicNew 0x14 w old b c = b ∧
    (signOf w (atomicNew 0x15 w old b c) = max (signOf w old) (signOf w b)) ∧
    (signOf w (atomicNew 0x16 w old b c) = min (signOf w old) (signOf w b)) ∧
    atomicNew 0x17 w old b c = max old b ∧ atomicNew 0x18 w old b c = min old b ∧
    atomicNew 0x19 w old b c = (if old = b then c else old) ∧
    (∀ m, 0x10 ≤ m → m ≤ 0x19 → atomicNew m w old b c < 2 ^ w)) ∧
  (
  ∀ r ∈ ([(.atAdd, 0x10), (.atAnd, 0x11), (.atOr, 0x12), (.atXor, 0x13), (.atSwap, 0x14), (.atMax, 0x15), (.atMin, 0x16),
      (.atMaxu, 0x17), (.atMinu, 0x18), (.atCas, 0x19), (.atFadd, 0x1A)] : List ((CoreId → BitVec 50 → Instr) × Nat)),
    ∀ (s : State) (n : CoreId) (k : Core) (w : BitVec 50), let x := wordOf 0xB r.2 w
      let nb := if bitsOf x 24 2 = 2 then 4 else 8
      let a := (k.getS (Wd.f40 x)).toNat
      Issues s n k x → atomicBad x = none →
      freeS k ([Wd.f45 x, Wd.f40 x, Wd.f35 x] ++ (if r.2 = 0x19 then [Wd.f30 x] else [])) →
      a % nb = 0 → noAcquire k → nthD k.pend 1 0 < 255 →
      (bitOf x 23 = true → bitsOf x 20 2 ≠ 0 → k.storesOut = false) → k.storing a nb = false → inHostAperture a = false →
      ∀ old u, homeAtomic n k r.2 nb (bitsOf x 20 2) a ((k.getS (Wd.f35 x)).toNat % 2 ^ (8 * nb))
          ((k.getS (Wd.f30 x)).toNat % 2 ^ (8 * nb))
          { setCore s n { past k with pend := setNth k.pend 1 (nthD k.pend 1 0 + 1) } with
            obs := { s.obs with cores := s.obs.cores.insert n ((s.cntOf n).add 5 nb) } } = .ok old u →
        exec (r.1 n w) s = .next ((u.onCore n (fun c => { c with rcache := c.rcache.erase (a / 64) })).onCore n
          (fun c => { c with gl := c.gl ++ [⟨.s (Wd.f45 x) (BitVec.ofNat 64 old), true, none, k.pc,
            if bitOf x 22 then (if bitsOf x 20 2 = 0 then 1 else 2) else 0⟩] })))

/-! ### Instructions: synchronisation, posts and faults -/

/-- R72, R77, R101, R102: a reserved opcode raises ILLEGAL_OPCODE, and running past the code region raises EXTENT. Either ends
the command with DESCRIPTOR_FAULT, the code, the core and the pc, and its cores stop. Where the rules leave a corner open it
follows the model's reading, log 29. -/
def Obligations.InstructionFaults : Prop :=
  ∀ (s : State) (n : CoreId) (k : Core) (x : Cmd), s.jobs = [] → k.stage = none →
    s.cmdOf k.ctx k.q k.idx = some x → x.ending = none →
    (∀ w : W64, AtWord s n k w.toNat → illegalWord w.toNat = true →
      completes (.illegalOpcode n w) s (fun t =>
        ended t k.ctx k.q k.idx ⟨2, 0x01, some (n, k.pc)⟩ ∧ t.cores.find? n = none ∧ t.mem = s.mem ∧ t.sram = s.sram)) ∧
    (s.works = true → s.cores.find? n = some k → k.wait = .running → k.bar = none → k.inCode k.pc.toNat = false →
      completes (.codeRegionExtent n) s (fun t =>
        ended t k.ctx k.q k.idx ⟨2, 0x05, some (n, k.pc)⟩ ∧ t.cores.find? n = none ∧ t.mem = s.mem ∧ t.sram = s.sram)) ∧
    (∀ w : BitVec 50, AtWord s n k (wordOf 1 0 w) → ¬fieldsOnly (wordOf 1 0 w) [] →
      completes (.ctlNop n w) s (fun t =>
        ended t k.ctx k.q k.idx ⟨2, 0x02, some (n, k.pc)⟩ ∧ t.cores.find? n = none ∧ t.mem = s.mem ∧ t.sram = s.sram))

/-- R91, R294: dma.cp and dma.run take a DMA token and enter a request at the end of the channel; dma.poll answers whether the
channel is empty. R95, R184, R185: wl.post and wl.postm copy the command from the scratchpad and post it to the wells named,
in slots in ascending order, with a WL token each. A mask of zero posts nothing. R99, R312: en.push writes the 64-byte entry
at the queue's push count and answers all ones, or writes nothing and answers zeros when the ring is full; en.db makes the
pushed entries the tail. -/
def Obligations.EnginePosts : Prop :=
  (
  ∀ (s : State) (n : CoreId) (k : Core) (w : BitVec 50),
    let enters (i : Instr) (ch : Nat) (r : DmaReq) : Prop := completes i s (fun t =>
      (t.chanOf (.core n) ch).reqs = (s.chanOf (.core n) ch).reqs ++
        [{ r with order := (s.dmaOf (.core n)).next, pc := k.pc }] ∧
      (∀ e c, (e, c) ≠ (DmaEng.core n, ch) → (t.chanOf e c).reqs = (s.chanOf e c).reqs) ∧
      t.cores = s.cores.insert n { past k with pend := setNth k.pend 2 (nthD k.pend 2 0 + 1) } ∧
      t.mem = s.mem ∧ t.sram = s.sram ∧ t.regs = s.regs)
    (let x := wordOf 0xA 0 w
     let d := k.getD (Wd.dx x)
     let y := k.getD (Wd.dy x)
     Issues s n k x → fieldsOnly x [(46, 4), (42, 4), (4, 3)] → freeD k [Wd.dx x, Wd.dy x] → noAcquire k →
      d.etype ≠ 0xF → y.etype = d.etype → d.seenRank = y.seenRank → d.view ≠ 1 → d.readOnly = false →
      (s.chanOf (.core n) (bitsOf x 4 3)).reqs.length < 4 → nthD k.pend 2 0 < 255 →
      enters (.dmaCp n w) (bitsOf x 4 3)
        { parseRec [] k.ctx k.gen k.q k.idx (some n) with op := 4, checked := true, dx := d, dy := y }) ∧
    (let x := wordOf 0xA 1 w
     let a := (k.getS (Wd.f40 x)).toNat
     let b := s.sram.readBytes (padOf n) k.ctx.val k.gen a 128
     Issues s n k x → fieldsOnly x [(40, 5), (20, 3)] → freeS k [Wd.f40 x] → noAcquire k →
      a % 64 = 0 → a + 128 ≤ 2 ^ 22 → cleanWords s.sram (padOf n) a 128 → recReserved b = false →
      (s.chanOf (.core n) (bitsOf x 20 3)).reqs.length < 4 → nthD k.pend 2 0 < 255 →
      enters (.dmaRun n w) (bitsOf x 20 3) (parseRec b k.ctx k.gen k.q k.idx (some n))) ∧
    (let x := wordOf 0xA 2 w
     Issues s n k x → fieldsOnly x [(45, 3), (20, 3)] → noAcquire k →
      exec (.dmaPoll n w) s = .next (setCore s n ((past k).setP (bitsOf x 45 3)
        (if (s.chanOf (.core n) (bitsOf x 20 3)).reqs = [] then BitVec.allOnes 128 else 0))))) ∧
  (
  ∀ (s : State) (n : CoreId) (k : Core) (w : BitVec 50),
    let posted (i : Instr) (off : Nat) (xs : List WellId) : Prop :=
      let rows := (s.sram.readByte (padOf n) k.ctx.val k.gen (off + 1)).toNat
      let len := if 64 < rows then 64 else 64 + 16 * rows
      off % 64 = 0 → off + len ≤ 2 ^ 22 → cleanWords s.sram (padOf n) off len → (∀ y ∈ xs, s.wellThere y = true) →
      (∀ y ∈ xs, s.postsOf n y < 16) → nthD k.pend 3 0 + xs.length ≤ 255 →
      completes i s (fun t =>
        t.wells.queue = s.wells.queue ++ xs.zipIdx.map (fun p =>
          { core := n, ctx := k.ctx, gen := k.gen, q := k.q, idx := k.idx, pc := k.pc, named := p.1, slot := p.2
            bytes := s.sram.readBytes (padOf n) k.ctx.val k.gen off len, order := s.wells.order + p.2 }) ∧
        t.cores = s.cores.insert n { past k with pend := setNth k.pend 3 (nthD k.pend 3 0 + xs.length) } ∧
        t.wells.run = s.wells.run ∧ t.mem = s.mem ∧ t.sram = s.sram)
    (let x := wordOf 0xC 0 w
     Issues s n k x → fieldsOnly x [(40, 5), (35, 5)] → freeS k [Wd.f40 x, Wd.f35 x] → noAcquire k →
      ∀ y : WellId, (k.getS (Wd.f40 x)).toNat = y.val → posted (.wlPost n w) (k.getS (Wd.f35 x)).toNat [y]) ∧
    (let x := wordOf 0xC 1 w
     Issues s n k x → fieldsOnly x [(40, 5), (35, 5)] → freeS k [Wd.f40 x, Wd.f35 x] → noAcquire k →
      (k.getS (Wd.f40 x) ≠ 0 → posted (.wlPostm n w) (k.getS (Wd.f35 x)).toNat
        ((List.finRange 64).filter (fun y => (k.getS (Wd.f40 x)).getLsbD y.val))) ∧
      (k.getS (Wd.f40 x) = 0 → (k.getS (Wd.f35 x)).toNat % 64 = 0 →
        exec (.wlPostm n w) s = .next (setCore s n (past k))))) ∧
  (
  ∀ (s : State) (n : CoreId) (k : Core) (w : BitVec 50) (q : QIdx),
    s.ctxLive k.ctx = true → s.fld (F.qState k.ctx q) = 2 → s.flag (F.qWriter k.ctx q) = true →
    let push := (s.queueOf k.ctx q).push
    let size := 2 ^ s.fld (F.qSizeLog2 k.ctx q)
    (let x := wordOf 0xF 0 w
     let a := (k.getS (Wd.f35 x)).toNat
     Issues s n k x → fieldsOnly x [(45, 3), (40, 5), (35, 5), (20, 1)] → freeS k [Wd.f40 x, Wd.f35 x] → noAcquire k →
      a % 64 = 0 → a + 64 ≤ 2 ^ 22 → cleanWords s.sram (padOf n) a 64 → (k.getS (Wd.f40 x)).toNat = q.val →
      (bitOf x 20 = true → k.storesOut = false) →
      (size ≤ (push.toNat + 2 ^ 32 - s.fld (F.qHead k.ctx q)) % 2 ^ 32 →
        exec (.enPush n w) s = .next (setCore s n ((past k).setP (bitsOf x 45 3) 0))) ∧
      ((push.toNat + 2 ^ 32 - s.fld (F.qHead k.ctx q)) % 2 ^ 32 < size → bitOf x 20 = false →
        ∀ u, vaWrite k.ctx ((s.queueOf k.ctx q).ring + 64 * (push.toNat % size))
            (s.sram.readBytes (padOf n) k.ctx.val k.gen a 64) (setCore s n (past k)) = .ok () u →
          exec (.enPush n w) s = .next (State.onCore { u with
            queues := u.queues.insert (k.ctx, q) { u.queueOf k.ctx q with push := push + 1 } } n
              (fun c => c.setP (bitsOf x 45 3) (BitVec.allOnes 128))))) ∧
    (let x := wordOf 0xF 1 w
     Issues s n k x → fieldsOnly x [(40, 5)] → freeS k [Wd.f40 x] → noAcquire k → (k.getS (Wd.f40 x)).toNat = q.val →
      k.storesOut = false →
      exec (.enDb n w) s = .next ((setCore s n (past k)).setFld (F.qTail k.ctx q) push.toNat)))

/-! ### The front end -/

/-- R311, R326: a doorbell or consumer count that lies in the permitted range takes effect; any other is refused, and REJECT is
set where the register has it. An access to the high half alone has no effect. R316, R329, R331: a write of FE_FVALf is a
SET signal: the fence takes the greater of its value and the one written, and a poisoned fence ignores it; RESET zeroes the
value and clears POISON. R457: at the end of its interval a vector that is pending and not masked sends its message and
starts another interval; unmasking one that is pending outside an interval sends it at once. Where the rules leave a corner
open it follows the model's reading, log 43. -/
def Obligations.PointerWrites : Prop :=
  (
  ∀ (s : State) (c : Ctx) (q : QIdx) (h : Half) (v : W64), s.works = true →
    let t := v.toNat % 2 ^ 32
    let dist (a b : Nat) : Nat := (a + 2 ^ 32 - b) % 2 ^ 32
    (h = .hi → exec (.feQdbWrite c q h v) s = .next s ∧ exec (.feQcptrWrite c q h v) s = .next s ∧
      exec (.feEvptrWrite c h v) s = .next s ∧ exec (.obTrptrWrite h v) s = .next s) ∧
    (h ≠ .hi → s.ctxLive c = true →
      (s.fld (F.qState c q) = 2 → s.flag (F.qWriter c q) = false →
        dist t (s.fld (F.qTail c q)) ≤ 2 ^ s.fld (F.qSizeLog2 c q) →
        dist t (s.fld (F.qHead c q)) ≤ 2 ^ s.fld (F.qSizeLog2 c q) →
        exec (.feQdbWrite c q h v) s = .next (s.setFld (F.qTail c q) t)) ∧
      ((s.fld (F.qState c q) ≠ 2 ∨ s.flag (F.qWriter c q) = true ∨
          2 ^ s.fld (F.qSizeLog2 c q) < dist t (s.fld (F.qTail c q)) ∨
          2 ^ s.fld (F.qSizeLog2 c q) < dist t (s.fld (F.qHead c q))) →
        exec (.feQdbWrite c q h v) s = .next (s.setFlag (F.qDbReject c q) true)) ∧
      (dist t (s.fld (F.qChead c q)) ≤ dist (s.fld (F.qCtail c q)) (s.fld (F.qChead c q)) →
        exec (.feQcptrWrite c q h v) s = .next (s.setFld (F.qChead c q) t)) ∧
      (dist (s.fld (F.qCtail c q)) (s.fld (F.qChead c q)) < dist t (s.fld (F.qChead c q)) →
        exec (.feQcptrWrite c q h v) s = .next (s.setFlag (F.qPtrReject c q) true)) ∧
      (dist t (s.fld (F.evHead c)) ≤ dist (s.fld (F.evTail c)) (s.fld (F.evHead c)) →
        exec (.feEvptrWrite c h v) s = .next (s.setFld (F.evHead c) t)) ∧
      (dist (s.fld (F.evTail c)) (s.fld (F.evHead c)) < dist t (s.fld (F.evHead c)) →
        exec (.feEvptrWrite c h v) s = .next (s.setFlag (F.evPtrReject c) true))) ∧
    (h ≠ .hi →
      exec (.obTrptrWrite h v) s = .next
        (if dist t (s.fld F.trHead) ≤ dist (s.fld F.trTail) (s.fld F.trHead) then s.setFld F.trHead t else s))) ∧
  (
  ∀ (s : State) (c : Ctx) (f : FenceId) (v : W64), s.works = true → s.ctxLive c = true →
    (s.flag (F.fencePoison c f) = true → ∀ h, exec (.feFvalWrite c f h v) s = .next s) ∧
    (s.flag (F.fencePoison c f) = false → completes (.feFvalWrite c f .full v) s (fun t =>
      t.fld (F.fence c f) = max (s.fld (F.fence c f)) v.toNat ∧ t.queues = s.queues ∧ t.mem = s.mem ∧
      ∀ r, r ≠ Reg.feFval c f → t.reg r = s.reg r)) ∧
    (∀ h, h ≠ .hi → v.getLsbD 9 = true → completes (.fenceReset c f h v) s (fun t =>
      t.fld (F.fence c f) = 0 ∧ t.flag (F.fencePoison c f) = false ∧ t.queues = s.queues ∧ t.mem = s.mem ∧
      ∀ r, r ≠ Reg.feFval c f → r ≠ Reg.feFcfg c f → t.reg r = s.reg r))) ∧
  (
  ∀ (s : State) (c : Ctx) (v : Fin 2), s.works = true →
    let x := s.cxl.vecs.getD (c, v) .initial
    let with' (y : VecSt) (out : List Out) : Host.Outcome State Fault Refusal :=
      .next { s with cxl := { s.cxl with vecs := s.cxl.vecs.insert (c, v) y }, out := out }
    (x.hot = true → x.pending = true → x.masked = false →
      exec (.msixIntervalExpiry c v) s = with' { masked := false, pending := false, hot := true } (s.out ++ [.msix c v])) ∧
    (x.hot = true → (x.pending = false ∨ x.masked = true) →
      exec (.msixIntervalExpiry c v) s = with' { x with hot := false } s.out) ∧
    (c.val ≤ s.cxl.numVfs → x.masked = true → x.pending = true → x.hot = false →
      completes (.msixVectorUnmask c v) s (fun t => t.out = s.out ++ [.msix c v] ∧
        t.cxl.vecs.getD (c, v) .initial = { masked := false, pending := false, hot := true })) ∧
    (c.val ≤ s.cxl.numVfs → x.masked = true → (x.pending = false ∨ x.hot = true) →
      completes (.msixVectorUnmask c v) s (fun t => t.out = s.out ∧
        t.cxl.vecs.getD (c, v) .initial = { x with masked := false })))

/-- R61, R308, R309, R335, R336: the life of a queue. Setting ENABLE on a FREE queue with bases and a size that are allowed
makes it CREATING and advances its generation; with others it stays FREE and CFG_REJECT is set; the drain makes it ACTIVE
with zero pointers. Clearing ENABLE on an ACTIVE queue makes it DESTROYING and advances its generation; the drain makes it
FREE. -/
def Obligations.QueueLife : Prop :=
  ∀ (s : State) (c : Ctx) (q : QIdx) (h : Half) (v : W64), s.works = true → s.ctxLive c = true → h ≠ .hi →
    let w := s.checkedWrite (.feQcfg c q) h v (fun lo _ => lo ≠ 0)
    let ring := bitsOf (s.reg (.feQring c q)) 12 45
    let cring := bitsOf (s.reg (.feQcring c q)) 12 45
    (v.getLsbD 0 = true → s.fld (F.qState c q) = 0 →
      (6 ≤ w.fld (F.qSizeLog2 c q) → ring ≠ 0 → cring ≠ 0 →
        completes (.feQcfgEnableSet c q h v) s (fun t =>
          t.fld (F.qState c q) = 1 ∧ t.flag (F.qEnable c q) = true ∧
          t.fld (F.qGen c q) = (s.fld (F.qGen c q) + 1) % 256 ∧
          t.queueOf c q = { cmds := [], push := 0, ring := ring * 4096, cring := cring * 4096 } ∧
          t.rep.drains = s.rep.drains ++ [⟨c, some q, s.fld (F.qGen c q), upTo 7⟩] ∧ t.mem = s.mem ∧ t.cores = s.cores)) ∧
      ((w.fld (F.qSizeLog2 c q) < 6 ∨ ring = 0 ∨ cring = 0) →
        exec (.feQcfgEnableSet c q h v) s = .next (w.setFlag (F.qCfgReject c q) true))) ∧
    (v.getLsbD 0 = false → s.fld (F.qState c q) = 2 → (s.queueOf c q).cmds = [] →
      completes (.feQcfgEnableClear c q h v) s (fun t =>
        t.fld (F.qState c q) = 3 ∧ t.flag (F.qEnable c q) = false ∧
        t.fld (F.qGen c q) = (s.fld (F.qGen c q) + 1) % 256 ∧
        t.rep.drains = s.rep.drains ++ [⟨c, some q, s.fld (F.qGen c q), upTo 7⟩] ∧ t.mem = s.mem ∧ t.cores = s.cores)) ∧
    (s.fld (F.qState c q) = 1 → s.queueDrains c q = false →
      exec (.queueActive c q) s = .next (((((s.setFld (F.qHead c q) 0).setFld (F.qTail c q) 0).setFld
        (F.qChead c q) 0).setFld (F.qCtail c q) 0).setFld (F.qState c q) 2)) ∧
    (s.fld (F.qState c q) = 3 → s.queueDrains c q = false →
      exec (.queueFree c q) s = .next (s.setFld (F.qState c q) 0))

/-- R310, R320: prefetch reads the entry at the head of an ACTIVE queue whose commands have all started, appends what it read,
and advances HEAD; a command that failed is counted. R313, R321: what reading an entry makes of a ring entry that is not
well formed, and of a buffer whose header is not: the command ends with DESCRIPTOR_FAULT, FE_BAD_ENTRY or FE_BAD_HEADER, and
the entry's tag. Where the rules leave a corner open it follows the model's reading, log 37. -/
def Obligations.Prefetch : Prop :=
  (
  ∀ (s u : State) (c : Ctx) (q : QIdx) (x : Cmd), s.works = true →
    s.fld (F.qState c q) = 2 → s.fld (F.qHead c q) ≠ s.fld (F.qTail c q) → (∀ y ∈ (s.queueOf c q).cmds, y.started = true) →
    readCommand c q (BitVec.ofNat 32 (s.fld (F.qHead c q))) s = .ok x u →
    let u' := (if x.ending.isSome then u.bump F.fePrefetchFaults else u).setFld (F.qHead c q)
      ((s.fld (F.qHead c q) + 1) % 2 ^ 32)
    exec (.prefetch c q) s = .next { u' with
      queues := u'.queues.insert (c, q) { u'.queueOf c q with cmds := (u'.queueOf c q).cmds ++ [x] } }) ∧
  (
  ∀ (s u : State) (c : Ctx) (q : QIdx) (idx : W32) (ent : List Byte),
    vaRead c ((s.queueOf c q).ring + 64 * (idx.toNat % 2 ^ s.fld (F.qSizeLog2 c q))) 64 s = .ok ent u →
    let tag := BitVec.ofNat 32 (recField ent 0xC 4)
    (entryOk ent = false →
      readCommand c q idx s =
        .ok { Cmd.blank idx with tag := tag, phase := .ended, ending := some ⟨2, 0x40, none⟩ } u) ∧
    (entryOk ent = true → ∀ b u' v, vaRead c (recField ent 0 8) (recField ent 8 4) u = .ok b u' →
      recordsFault c b u' = .ok none v → parseHeader v c { Cmd.blank idx with tag := tag } b = none →
      readCommand c q idx s =
        .ok { Cmd.blank idx with tag := tag, phase := .ended, ending := some ⟨2, 0x41, none⟩ } v))

/-- R320, R330, R333, R334: the next command in turn registers its waits; a wait on a poisoned fence cancels it, and a closed
cycle ends it with DEADLOCK; a wait that is not met by its last tick ends it with TIMEOUT. -/
def Obligations.WaitRules : Prop :=
  ∀ (s : State) (c : Ctx) (q : QIdx) (x : Cmd), s.works = true → s.nextCmd c q = some x →
    (s.fld (F.qState c q) = 2 → x.phase = .fetched → s.inTurn c q x = true →
      (s.waitPoisoned c x = true → exec (.registerWaits c q) s = .next (setCmd s c q x.idx (ends 1 0))) ∧
      (s.waitPoisoned c x = false →
        let t := setCmd s c q x.idx (fun y => { y with phase := .waiting, ticks := 0 })
        (t.closed c q = false → exec (.registerWaits c q) s = .next t) ∧
        (t.closed c q = true → completes (.registerWaits c q) s (fun t =>
          ∃ y ∈ (t.queueOf c q).cmds, y.phase = .ended ∧ y.ending = some ⟨8, 0, none⟩)))) ∧
    (x.phase = .waiting → (if x.waitTicks = 0 then s.fld F.feWaitTicks else x.waitTicks) ≤ x.ticks →
      (∃ w ∈ x.waits, s.waitMet c w = false) →
      exec (.waitTimeout c q) s = .next (setCmd s c q x.idx (ends 7 0)))

/-- R320, R325, R355: a command whose waits are met and whose completion ring has room starts; one of another kind than KERNEL
counts in RUNNING, and a MARKER then ends with success; a KERNEL command starts on its cores, rank i on the i-th, with the
registers of kernel start. R294, R315, R322, R345: the steps of the kinds: a MARKER ends with success; a DMA command without
records ends with success, and one with records is placed on a channel of its die; a REQUEST waits for the next build of its
instance. Where the rules leave a corner open it follows the model's reading, log 42. -/
def Obligations.CommandStarts : Prop :=
  (
  ∀ (s : State) (c : Ctx) (q : QIdx) (x : Cmd), s.works = true → s.flag F.trEnable = false →
    s.nextCmd c q = some x → s.cmdOf c q x.idx = some x →
    (s.fld (F.qState c q) = 2 → x.phase = .waiting → (∀ w ∈ x.waits, s.waitMet c w = true) → s.kindStarts x = true →
      s.ringRoom c q (s.startedCount c q + 1) = true →
      (x.kind = 1 → exec (.commandStart c q) s = .next (setCmd s c q x.idx (fun y => { y with phase := .started }))) ∧
      (x.kind ≠ 1 → completes (.commandStart c q) s (fun t =>
        (∃ τ, t.cmdOf c q x.idx = some { x with
          phase := .started, started := true, startTime := τ, startStep := s.fld F.tkStep, ticks := 0 }) ∧
        t.fld (F.qRunning c q) = min 0xFFFF (s.fld (F.qRunning c q) + 1) ∧ t.mem = s.mem ∧ t.cores = s.cores))) ∧
    (∀ (cores : List CoreId) (o : HandleObj), x.code = some o → x.phase = .started → x.kind = 1 →
      s.kernelsRun c = true → s.kindStarts x = true → cores.length = x.ranks → cores.Nodup →
      (∀ n ∈ cores, n ∈ s.kernelCores c) → s.kernelFirst c q x (s.kernelCores c).length = true →
      s.rep.pendCols = [] →
      completes (.kernel c q cores) s (fun t =>
        (∀ i n, cores[i]? = some n → t.cores.find? n =
          some (Core.initial c (s.genOf c) q x.idx none i x.ranks (BitVec.ofNat 64 x.args) o.address o.size
            (s.fld F.tkStep % 2))) ∧
        (∀ n, n ∉ cores → t.cores.find? n = s.cores.find? n) ∧
        t.fld (F.qRunning c q) = min 0xFFFF (s.fld (F.qRunning c q) + 1) ∧ t.mem = s.mem ∧ t.sram = s.sram))) ∧
  (
  ∀ (s : State) (c : Ctx) (q : QIdx) (x : Cmd), s.works = true →
    ((s.queueOf c q).cmds.find? (fun y => y.kind == 3 && y.phase == .started) = some x →
      exec (.marker c q) s = .next (setCmd s c q x.idx (ends 0 0))) ∧
    ((s.queueOf c q).cmds.find? (fun y => y.kind == 2 && y.phase == .started) = some x →
      (x.count = 0 → exec (.dma c q) s = .next (setCmd s c q x.idx (ends 0 0))) ∧
      (x.count ≠ 0 → s.cmdOf c q x.idx = some x → completes (.dma c q) s (fun t =>
        (∃ y, t.cmdOf c q x.idx = some y ∧ y.phase = .running ∧ y.chan = some (s.dmaChannel c q x.die) ∧
          y.count = x.count) ∧
        (t.dmaOf (.die x.die)).next = (s.dmaOf (.die x.die)).next + x.count ∧ t.mem = s.mem ∧ t.cores = s.cores))) ∧
    ((s.queueOf c q).cmds.find? (fun y => y.kind == 4 && y.phase == .started) = some x →
      let u := setCmd s c q x.idx (fun y => { y with phase := .running })
      exec (.request c q) s = .next { u with sched := { s.sched with
        reqs := s.sched.reqs ++ [parseRequest s c q x], order := s.sched.order + 1 } }))

/-- R323, R325, R327, R362: when a started command that has ended completes, its record is written at CTAIL, CTAIL and SS_JOBS
advance, RUNNING falls, and the command leaves its queue. Stated for a command without counters and signals, with taps and
traces disabled. R323, R324: the fields of a completion record, and the PHASE bit, which changes at each pass of the ring. -/
def Obligations.CommandCompletes : Prop :=
  (
  ∀ (s u : State) (c : Ctx) (q : QIdx) (idx : W32) (x : Cmd) (e : Ending), s.works = true → Silent s →
    s.flag F.tapValid = false → s.cmdOf c q idx = some x → x.ending = some e → x.phase = .ended → x.started = true →
    x.counters = none → x.signals = [] → x.kind ≠ 4 → s.ringRoom c q 1 = true →
    let k := s.fld (F.qCtail c q)
    vaWrite c ((s.queueOf c q).cring + 32 * (k % 2 ^ s.fld (F.qSizeLog2 c q)))
      (completionRecord s c q x e false) s = .ok () u →
    completes (.commandComplete c q idx) s (fun t =>
      t.fld (F.qCtail c q) = (k + 1) % 2 ^ 32 ∧
      t.fld (F.qRunning c q) = s.fld (F.qRunning c q) - 1 ∧
      t.fld (F.ssJobs c) = satAdd (2 ^ (F.ssJobs c).width - 2) (s.fld (F.ssJobs c)) 1 ∧
      t.cmdOf c q idx = none ∧ t.mem.bytes = u.mem.bytes ∧ t.cores = s.cores ∧ t.sram = s.sram)) ∧
  (
  ∀ (s : State) (c : Ctx) (q : QIdx) (x : Cmd) (e : Ending) (counters : Bool),
    let b := completionRecord s c q x e counters
    let k := s.fld (F.qCtail c q)
    let size := 2 ^ s.fld (F.qSizeLog2 c q)
    b.length = 32 ∧ leNat (b.take 1) = e.status % 256 ∧
    bitOf (leNat ((b.drop 1).take 1)) 0 = decide (k / size % 2 = 0) ∧
    bitOf (leNat ((b.drop 1).take 1)) 1 = e.core.isSome ∧ bitOf (leNat ((b.drop 1).take 1)) 2 = counters ∧
    leNat ((b.drop 2).take 1) = e.fault % 256 ∧ leNat ((b.drop 4).take 4) = x.tag.toNat ∧
    leNat ((b.drop 8).take 4) = x.idx.toNat ∧
    (∀ n a, e.core = some (n, a) → leNat ((b.drop 0xC).take 2) = n.val ∧ leNat ((b.drop 0x10).take 8) = a.toNat) ∧
    leNat ((b.drop 0x18).take 8) = s.fld F.tkStep)

/-! ### Contexts and the scheduler -/

/-- R339, R475: CTX_CREATE of an absent context whose tables, body and save area pass the checks makes it exist with the fields
of the body and a new key in phase 0 of its slot, and completes with success. Without entropy it waits for a key. R339: a
SYSTEM command of this chapter that fails a check completes with DESCRIPTOR_FAULT and SS_BAD_SYSTEM, and changes nothing
else: a context to create that exists, a context to destroy that does not, a grant for one that does not. PARTITION of a
context that a reclaim names completes with SS_RECLAIM. Where the rules leave a corner open it follows the model's reading,
log 40. -/
def Obligations.SystemContexts : Prop :=
  (
  ∀ (s u : State) (q : QIdx) (x : Cmd) (c : Ctx), SysStarted s q 1 x →
    let b := x.body
    recField b 2 2 = c.val → c ≠ 0 → recField b 7 1 = 0 → zeroFrom b 0x10 = true → recField b 6 1 ≤ 48 →
    recField b 8 8 % 65536 = 0 → recField b 8 8 < 2 ^ 57 → (s.ctxs.getD c .absent).phase = .absent →
    s.flag (F.rootValid c) = true → s.ownerState = true → s.ctxDrains c = false →
    (∀ r, s.mem.rekey = some r → r.slot ≠ c.val) → c.val ∉ s.sec.rekeyWait →
    saveAreaOk c (recField b 8 8) (recField b 6 1) s = .ok () u → u.queues = s.queues → u.regs = s.regs → u.ctxs = s.ctxs →
    (s.flag F.entropyFail = false → completes (.ctxCreate q) s (fun t =>
      ended t 0 q x.idx ⟨0, 0, none⟩ ∧
      t.ctxs.getD c .absent = { CtxSt.absent with
        phase := .live, gen := s.genOf c, models := recField b 4 2, saveClusters := recField b 6 1
        saveArea := recField b 8 8 } ∧
      t.mem.slotKeys c.val = ⟨false, some u.mem.nextKey, none⟩ ∧ t.mem.bytes = u.mem.bytes ∧ t.cores = u.cores)) ∧
    (s.flag F.entropyFail = true → completes (.ctxCreate q) s (fun t =>
      (t.ctxs.getD c .absent).phase = .creating (q, s.fld (F.qGen 0 q), x.idx) 0 ∧
      t.cmdOf 0 q x.idx = some { x with phase := .running } ∧ t.mem = u.mem))) ∧
  (
  ∀ (s : State) (q : QIdx) (x : Cmd) (c : Ctx), recField x.body 2 2 = c.val → c ≠ 0 →
    (SysStarted s q 1 x → s.ctxLive c = true → exec (.ctxCreate q) s = .next (setCmd s 0 q x.idx (ends 2 0x51))) ∧
    (SysStarted s q 2 x → (s.ctxs.getD c .absent).phase = .absent →
      exec (.ctxDestroy q) s = .next (setCmd s 0 q x.idx (ends 2 0x51))) ∧
    (SysStarted s q 3 x → s.ctxLive c = false →
      exec (.partition q) s = .next (setCmd s 0 q x.idx (ends 2 0x51))) ∧
    (SysStarted s q 3 x → s.ctxLive c = true → recField x.body 9 1 = 0 → zeroFrom x.body 0xC = true →
      recField x.body 8 1 ≤ 3 → s.reclaiming c = true →
      exec (.partition q) s = .next (setCmd s 0 q x.idx (ends 2 0x53))))

/-- R355: PARTITION records the grant's clusters per die, its priority and its slice, and completes with success. R23, R361:
RECLAIM names its contexts, records the drain region of its target and its deadline step, and runs until they are gone.
R356, R492: at the end of a slice the grant goes to the end of its priority and the scheduler chooses again; a kernel past
its budget, and a command of context 0 past its bound, ends. Where the rules leave a corner open it follows the model's
reading, log 46 and 50. -/
def Obligations.PartitionGrants : Prop :=
  (
  ∀ (s : State) (q : QIdx) (x : Cmd) (c : Ctx), SysStarted s q 3 x →
    let b := x.body
    let n (d : Nat) : Nat := recField b (4 + d) 1
    recField b 2 2 = c.val → c ≠ 0 → s.ctxLive c = true → recField b 9 1 = 0 → zeroFrom b 0xC = true →
    recField b 8 1 ≤ 3 → s.reclaiming c = false → (∀ d < 4, n d ≤ 12 - s.fld F.serveMin) →
    ((s.ctxs.getD c .absent).saveClusters = 0 ∨ n 0 + n 1 + n 2 + n 3 ≤ (s.ctxs.getD c .absent).saveClusters) →
    completes (.partition q) s (fun t =>
      ended t 0 q x.idx ⟨0, 0, none⟩ ∧
      t.fld (F.partClusters c) = n 0 + 16 * n 1 + 256 * n 2 + 4096 * n 3 ∧
      t.fld (F.partPriority c) = recField b 8 1 ∧ t.fld (F.partSlice c) = recField b 0xA 2 ∧
      t.ctxs = s.ctxs ∧ t.mem = s.mem ∧ t.cores = s.cores)) ∧
  (
  ∀ (s u : State) (q : QIdx) (x : Cmd) (c : Ctx) (o : HandleObj) (rb : List Byte) (r : Nat × Nat × Nat × Nat),
    SysStarted s q 4 x → Silent s →
    let b := x.body
    recField b 2 2 = 1 → recField b 0xC 4 = 0 → zeroFrom b 0x12 = true → recField b 0x10 2 = c.val → c ≠ 0 →
    s.ctxLive c = true → x.handleAt 8 = some o → o.kind = 1 → bitOf o.rights 0 = true → 64 ≤ o.size →
    vaRead 0 o.address 64 s = .ok rb u → drainRegion rb = some r → u.qpEthernet r.1 = true →
    u.queues = s.queues → u.regs = s.regs → u.ctxs = s.ctxs → u.time = s.time → u.sched = s.sched →
    let ms := if recField b 4 4 = 0 then s.fld F.reclaimMs else recField b 4 4
    let due := (s.fld F.tkStep + (ms * 1000 + max 1 (s.fld F.tkPeriod) - 1) / max 1 (s.fld F.tkPeriod)) % 2 ^ 48
    completes (.reclaim q) s (fun t =>
      t.sched.reclaims = s.sched.reclaims ++ [
        { q := (q, s.fld (F.qGen 0 q), x.idx), posted := s.time.ticks, deadline := due, qp := r.1, rkey := r.2.1,
          base := r.2.2.1, slotBytes := r.2.2.2, ctxs := [c] }] ∧
      (t.ctxs.getD c .absent).reclaimAt = some (match (s.ctxs.getD c .absent).reclaimAt with
        | some d => min d due
        | none => due) ∧
      t.flag (F.partReclaim c) = true ∧
      t.cmdOf 0 q x.idx = some { x with phase := .running })) ∧
  (
  ∀ (s : State) (c : Ctx) (q : QIdx) (idx : W32), s.works = true →
    (s.sliceOver c = true → (s.ctxs.getD c .absent).lastRan < s.time.ticks →
      ∃ t, chooseGrants { s with ctxs := s.ctxs.insert c { s.ctxs.getD c .absent with lastRan := s.time.ticks } } = .ok () t ∧
        exec (.sliceEnd c) s = .next t) ∧
    (∀ x, s.cmdOf c q idx = some x → x.started = true → x.ending = none → s.jobs = [] →
      (x.kind = 1 → x.preemptible = true → (if x.bound = 0 then s.fld F.feBudgetTicks else x.bound) < x.ticks →
        completes (.budgetExpiry c q idx) s (fun t => ended t c q idx ⟨0xE, 0xB1, none⟩ ∧
          t.fld F.resetsBudget = satAdd (2 ^ F.resetsBudget.width - 2) (s.fld F.resetsBudget) 1 ∧
          (∀ m ∈ s.coresOf (.cmd c q idx), t.cores.find? m = none) ∧ t.mem = s.mem)) ∧
      (c = 0 → ((x.kind = 1 ∧ x.preemptible = false) ∨ x.kind = 2) → x.bound ≤ x.ticks →
        completes (.nonpreemptOverrun c q idx) s (fun t => ended t c q idx ⟨0xB, 0xB6, none⟩ ∧
          (∀ m ∈ s.coresOf (.cmd c q idx), t.cores.find? m = none) ∧ t.mem = s.mem))))

/-- R500, R502: a reset of an existing client context advances its generation and makes it a context in teardown, whose keys and
pages the teardown removes; CTX_DESTROY resets it and waits for the teardown; context 0 is not reset. Stated where the
context has no command and no job, and no event is to be written. Where the rules leave a corner open it follows the model's
reading, log 49. -/
def Obligations.ContextReset : Prop :=
  ∀ (s : State) (c : Ctx) (cause : ResetCause), s.works = true → Silent s → s.jobs = [] →
    (∀ q, (s.queueOf c q).cmds = []) → c ≠ 0 → s.ctxLive c = true →
    let torn (t : State) : Prop :=
      (t.ctxs.getD c .absent).phase = .teardown ∧ (t.ctxs.getD c .absent).gen = (s.genOf c + 1) % 4096 ∧
      (t.ctxs.getD c .absent).holds = [] ∧ (t.ctxs.getD c .absent).images = [] ∧
      t.mem = s.mem ∧ t.sram = s.sram ∧ t.cores = s.cores
    completes (.contextReset c cause) s torn ∧
    (∀ (q : QIdx) (x : Cmd), SysStarted s q 2 x → recField x.body 2 2 = c.val → zeroFrom x.body 4 = true →
      completes (.ctxDestroy q) s (fun t => torn t ∧ t.cmdOf 0 q x.idx = some { x with phase := .running } ∧
        (t.ctxs.getD c .absent).destroyer = (s.ctxs.getD c .absent).destroyer ++ [(q, s.fld (F.qGen 0 q), x.idx)])) ∧
    (∀ r, s.sched.reclaims = [r] → r.ctxs = [c] → r.deadline ≤ s.fld F.tkStep → completes .reclaimDeadline s torn) ∧
    exec (.contextReset 0 cause) s = .next s

/-- R343: the next stage of an open step starts on cores of serving clusters, rank i on the i-th, as a pooled command of context
0. Stated for an instance that streams no weights and has no layer copy due. R77, R78: a core that waits for its pending
counts stops once they are zero. With other cores of its command still running, nothing else follows but the settling of the
grants; the last core to end its kernel ends the command with success and frees its cores. Where the rules leave a corner
open it follows the model's reading, log 42. -/
def Obligations.StagesAndStops : Prop :=
  (
  ∀ (s : State) (m : Model) (cores : List CoreId) (st : StagePlan), s.works = true → s.flag F.trEnable = false →
    let x := s.modelOf m
    x.plan[x.nextStage]? = some st → x.stepOpen = true → x.stageRuns = false → s.quiet = false →
    cores.length = st.ranks → cores.Nodup → (∀ n ∈ cores, s.coreReady n = true ∧ s.serves (clusterOf n) = true) →
    (∀ k : Model, k.val < m.val → (s.modelOf k).stepOpen = false ∨ (s.modelOf k).stageRuns = true) →
    s.fld (F.wMode m) ≠ 1 → (s.wtOf m).copyDue = false → (s.wtOf m).copying = false → s.rep.pendCols = [] →
    completes (.stageStart m cores) s (fun t =>
      (∀ i n, cores[i]? = some n → t.cores.find? n =
        some (Core.initial 0 (s.genOf 0) 0 0 (some m) i st.ranks (BitVec.ofNat 64 st.args) st.code (2 ^ 57 - st.code)
          (x.step % 2))) ∧
      (∀ n, n ∉ cores → t.cores.find? n = s.cores.find? n) ∧
      (t.modelOf m).stageRuns = true ∧ (t.modelOf m).nextStage = x.nextStage ∧ t.mem = s.mem ∧ t.sram = s.sram)) ∧
  (
  ∀ (s : State) (n : CoreId) (k : Core), s.works = true → s.cores.find? n = some k → (∀ p ∈ k.pend, p = 0) →
    (∀ w, s.stopOf k = some w →
      (∃ m ∈ s.coresOf k.work, m ≠ n ∧ ∃ c, s.cores.find? m = some c ∧ c.wait ≠ .stopped) →
      ∃ t, settleGrants (setCore s n { k with wait := w, bar := none }) = .ok () t ∧ exec (.coreStop n) s = .next t) ∧
    (k.wait = .ending → k.stage = none → (∀ m ∈ s.coresOf k.work, m ≠ n → ∃ c, s.cores.find? m = some c ∧ c.wait = .stopped) →
      ∀ x, s.cmdOf k.ctx k.q k.idx = some x →
      completes (.coreStop n) s (fun t => ended t k.ctx k.q k.idx ⟨0, 0, none⟩ ∧
        (∀ m ∈ s.coresOf k.work, t.cores.find? m = none) ∧ t.mem = s.mem ∧ t.sram = s.sram)))

/-- R357–R359: when every core of a context that was asked to preempt has stopped, its images are taken and its cores are free;
the image in the save area ends the saving; a context whose grant runs again enters its cores, and when the image is back
the cores go on where they stopped, under the context's generation. Where the rules leave a corner open it follows the
model's reading, log 25 and 48. -/
def Obligations.Images : Prop :=
  ∀ (s : State) (c : Ctx), s.works = true → s.flag F.trEnable = false →
    let x := s.ctxs.getD c .absent
    let mine (k : Core) : Bool := k.ctx == c && k.stage.isNone
    (x.preempt = true → x.saving = false → (∃ p ∈ s.cores, mine p.2 = true) →
      (∀ p ∈ s.cores, mine p.2 = true → p.2.wait = .preempted ∨ p.2.wait = .stopped) →
      completes (.imageSave c) s (fun t =>
        (t.ctxs.getD c .absent).saving = true ∧
        (t.ctxs.getD c .absent).images.map (fun i => (i.q, i.idx)) = s.ctxWorks c ∧
        t.cores = s.cores.filter (fun p => !mine p.2) ∧ t.mem = s.mem ∧ t.sram = s.sram)) ∧
    (x.saving = true → ∀ u, vaWriteAs c x.saveArea (imageBytesOf x.images) .rw s = .ok () u →
        u.ctxs = s.ctxs → u.regs = s.regs →
      completes (.imageSaveComplete c) s (fun t =>
        (t.ctxs.getD c .absent).saving = false ∧ (t.ctxs.getD c .absent).images = x.images ∧
        t.mem.bytes = u.mem.bytes ∧ t.cores = u.cores)) ∧
    (s.flag (F.partRunning c) = true → x.preempt = false → x.saving = false → x.restoring = false → x.images ≠ [] →
      (∀ i ∈ x.images, ∀ p ∈ i.cores, s.coreReady p.1 = true ∧ s.fld (F.mxWidth p.1) = p.2.2) → s.rep.pendCols = [] →
      completes (.imageRestore c) s (fun t =>
        (t.ctxs.getD c .absent).restoring = true ∧ t.cores = s.cores ∧ t.mem = s.mem ∧ t.sram = s.sram)) ∧
    (∀ i j u, x.restoring = true → x.images = [i] → readImage c x.saveArea i s = .ok j u →
        u.ctxs = s.ctxs → u.regs = s.regs → (j.cores.map (·.1)).Nodup →
      completes (.imageRestoreComplete c) s (fun t =>
        (t.ctxs.getD c .absent).restoring = false ∧ (t.ctxs.getD c .absent).images = [] ∧
        (∀ p ∈ j.cores, t.cores.find? p.1 = some { p.2.1 with
          wait := if p.2.1.wait = .preempted then .running else p.2.1.wait, rcache := [], ibuf := []
          gen := s.genOf c }) ∧ t.mem = u.mem)) ∧
    (∀ (k : Core) cnt, k.ofBlock cnt (k.block cnt) = (k, cnt))

/-! ### Engines: wells, DMA, weights and collectives -/

/-- R181, R189, R193–R196: a well that is free takes its oldest command: one that fails a check ends the command that posted it;
otherwise its input rows are read, every row starts OK or, where its generation is not current, CANCELLED, and the passes
begin. R180, R189, R198, R199: a pass does its work on the rows still OK; a pass of a GEMV appends to each of them the
block's columns: F segment sums, added in an order that the device does not state. R4, R191, R196: after its last pass the
well writes the output rows and the result record to the scratchpad of the core that posted the command, and returns the WL
token; a command with nothing to do writes nothing. Stated for a well that stays in service and, for the last, a command that
has counted no saturation. Where the rules leave a corner
open it follows the model's reading, log 12, 56 and 57. -/
def Obligations.WellCommands : Prop :=
  (
  ∀ (s : State) (x : WellId) (w : WellCmd), s.works = true → s.wells.run.find? x = none → s.wellServes x = true →
    HwUnit.well x ∉ s.rep.needTest → (HwUnit.well x, true) ∉ s.rep.testing → s.nextWellCmd x = some w →
    let rows := if w.idle = true ∨ w.inBytes = 0 then 0 else w.inRows
    (w.fault = none → (∀ i < rows, cleanWords s.sram w.who.spad (w.inOff + i * w.inPitch) w.inBytes) →
      completes (.wellCommandStart x) s (fun t => ∃ r, t.wells.run.find? x = some r ∧
        r.cmd = w ∧ r.passes = w.passCount ∧ r.passesDone = 0 ∧ r.out = [] ∧ r.inputs.length = rows ∧
        (∀ i < w.rows, nthD r.rowStatus i 0 = if (s.rowLive w i).isSome then 0 else 1) ∧
        (∀ i < rows, i ∈ (upTo w.rows).map w.inRow →
          nthD r.inputs i [] = s.sram.readBytes w.who.spad w.ctx.val w.gen (w.inOff + i * w.inPitch) w.inBytes) ∧
        t.wells.queue = s.wells.queue.filter (fun y => y.order ≠ w.order) ∧
        t.cores = s.cores ∧ t.mem = s.mem ∧ t.sram = s.sram)) ∧
    (∀ st f k c, w.fault = some (st, f) → s.jobs = [] → s.cores.find? w.core = some k → k.stage = none →
      s.cmdOf k.ctx k.q k.idx = some c → c.ending = none →
      completes (.wellCommandStart x) s (fun t => ended t k.ctx k.q k.idx ⟨st, f, some (w.core, w.pc)⟩ ∧
        t.cores.find? w.core = none ∧ t.mem = s.mem ∧ t.sram = s.sram))) ∧
  (
  ∀ (s : State) (x : WellId) (r0 : WellRun), s.works = true → s.wells.run.find? x = some r0 → r0.passesDone < r0.passes →
    let r := r0.recheck s (r0.cmd.accessed r0.passesDone)
    let w := r0.cmd
    let begun : State := { s with
      wells := { s.wells with run := s.wells.run.insert x { r with passesDone := r.passesDone + 1 } } }
    (∀ u, wellPassWork x r r.passesDone begun = .ok () u → exec (.wellPass x) s = .next u) ∧
    (w.op = 1 → ∀ m u r1, shared (weightBlock x w ((w.src : Int) + w.slot * w.step) (64 * r0.passesDone)
        (min 64 (w.n - 64 * r0.passesDone))) begun = .ok m u → u.wells.run.find? x = some r1 →
      completes (.wellPass x) s (fun t => ∃ r2 key, t.wells.run.find? x = some r2 ∧ t.mem = u.mem ∧ t.sram = u.sram ∧
        (∀ i < w.rows, nthD r.rowStatus i 0 = 0 → r2.out.getD i [] = r1.out.getD i [] ++
          (upTo (min 64 (w.n - 64 * r0.passesDone))).map (fun c =>
            foldSum (key + 2 ^ 64 * (64 * i + c)) (64 / w.rows) (foldLength w (64 / w.rows)) w.k (fun p =>
              Val.mul (nthD (r.input (w.inRow i) 0 w.k) p Val.zero) (entry m p c)))) ∧
        (∀ i, ¬(i < w.rows ∧ nthD r.rowStatus i 0 = 0) → r2.out.getD i [] = r1.out.getD i [])))) ∧
  (
  ∀ (s : State) (x : WellId) (r : WellRun) (k : Core), s.works = true → s.wells.run.find? x = some r →
    r.passesDone = r.passes → s.cores.find? r.cmd.core = some k → (s.rep.wellCols.getD x []).length < 3 →
    x ∉ s.rep.markedWells → r.counts = [] →
    let w := r.cmd
    let write (m : SramSt) (o : Nat) (bs : List Byte) : SramSt :=
      SramSt.writeWords w.who.spad w.ctx.val w.gen (bs.length / 64 + 2) m o bs
    completes (.wellCommandComplete x) s (fun t =>
      t.wells.run = s.wells.run.erase x ∧ t.wells.queue = s.wells.queue ∧ t.mem = s.mem ∧
      t.cores = s.cores.insert w.core { k with pend := setNth k.pend 3 (nthD k.pend 3 0 - 1) } ∧
      (w.idle = true → t.sram = s.sram) ∧
      (w.idle = false → ∃ key cycles, t.sram = write
        ((upTo (if w.outBytes = 0 then 0 else w.outRows)).foldl (fun m o => write m (w.region + 128 + o * w.outPitch)
          ((r.outRow key o).flatMap (leBytes (if w.outBf16 then 2 else 4)))) s.sram)
        w.region (r.record x cycles))))

/-- R294, R298, R299, R302, R303: after the cycles that have passed, a channel that the engine serves starts a burst of its
ready request, and one that it does not serve waits. A burst of a FILL to the scratchpad, on an engine with one channel in
use and credit for it, stores the pattern there and advances the request; a request of a core with no checksum whose bytes have all
moved leaves its channel and returns its token; the last request of a DMA command ends the command with success. Where the
rules leave a corner open it follows the model's reading, log 59 and 96. -/
def Obligations.DmaBursts : Prop :=
  ∀ (s : State) (e : DmaEng) (ch : Fin 32), s.works = true →
    let y := s.dmaOf e
    let x := y.wait (dmaBus e) (Config.sluiceCycles s.seed)
    let seen : State := { s with seed := s.seed + 1, dma := s.dma.insert e x }
    (s.unitHeld (engUnit e) = false →
      (∀ r r' u v, (y.chan ch.val).ready.isSome = true → x.serves (dmaBus e) ch.val = true → (x.chan ch.val).ready = some r →
        asDma (ensureChecked e ch.val r) seen = .ok r' u → startBurst e ch.val r' u = .ok () v →
        ∃ t, refreshChan e ch.val v = .ok () t ∧ exec (.dmaBurst e ch) s = .next t) ∧
      ((y.chan ch.val).ready.isSome = true → x.serves (dmaBus e) ch.val = false → exec (.dmaBurst e ch) s = .next seen) ∧
      (∀ n r, e = .core n → y.mode = 0 → y.turn = [] → (∀ p ∈ y.chans, p.1 = ch.val) → (y.chan ch.val).ready = some r →
        r.burstLen r.done * 256 ≤ (y.chan ch.val).credit → r.core = some n → r.checked = true → r.op = 2 →
        r.dstSpace = 2 → r.dstObj = none → r.sum = 0 → r.stored = false →
        (y.chan ch.val).reqs.find? (fun z => z.order == r.order) = some r →
        let len := r.burstLen r.done
        let bs := (upTo len).map (fun b => BitVec.ofNat 8 (bitsOf r.fill.toNat (8 * ((r.done % r.run + b) % 8)) 8))
        completes (.dmaBurst e ch) s (fun t =>
          t.sram = SramSt.writeWords (padOf n) r.ctx.val r.gen (len / 64 + 2) s.sram (r.at' r.dst r.dstStep r.done) bs ∧
          (t.chanOf e ch.val).reqs = (y.chan ch.val).reqs.map (fun z =>
            if z.order = r.order then { z with done := r.done + len } else z) ∧
          t.mem = s.mem ∧ t.cores = s.cores))) ∧
    (∀ r, (y.chan ch.val).reqs.head? = some r → r.total ≤ r.done → r.waits = [] → r.checked = true → r.sum = 0 →
      (∀ n k, e = .core n → s.cores.find? n = some k →
        completes (.dmaRequestComplete e ch) s (fun t =>
          (t.chanOf e ch.val).reqs = (y.chan ch.val).reqs.filter (fun z => z.order ≠ r.order) ∧
          t.cores = s.cores.insert n { k with pend := setNth k.pend 2 (nthD k.pend 2 0 - 1) } ∧
          t.mem = s.mem ∧ t.sram = s.sram)) ∧
      (∀ d c, e = .die d → s.cmdOf r.ctx r.q r.idx = some c → c.ending = none → c.count ≤ c.recDone + 1 →
        completes (.dmaRequestComplete e ch) s (fun t => ended t r.ctx r.q r.idx ⟨0, 0, none⟩ ∧
          t.cores = s.cores ∧ t.mem = s.mem ∧ t.sram = s.sram)))

/-- R370, R374–R378, R381, R385: WT_LOAD, WT_REPLACE and WT_RESUME whose checks pass: a STREAMED load ends at once in state
STREAMED; a RESIDENT load runs in LOADING, a replacement in REPLACING from its first layer, and a resumed one in REPLACING
at its layer, each with the first shards, at most INFLIGHT of them, in flight. -/
def Obligations.WeightCommands : Prop :=
  ∀ (s : State) (q : QIdx) (x : Cmd) (m : Model), recField x.body 2 1 = m.val →
    let runs (t : State) (state : Nat) (p : Package) (ks : List Nat) : Prop :=
      t.cmdOf 0 q x.idx = some { x with phase := .running } ∧ t.fld (F.wState m) = state ∧
      t.fld (F.wRefetch m) = 0 ∧ (t.wtOf m).q = some (s.sysRef q x.idx) ∧ (t.wtOf m).pkg = some p ∧
      (t.wtOf m).verified = [] ∧ (t.wtOf m).flight.map (fun f => (f.k, f.source)) = (ks.take (s.fld F.inflight)).map (fun k => (k, 0)) ∧
      t.cores = s.cores
    let depots (w : WtSt) : Prop := ∀ src ∈ w.sources, src.obj = none
    let s0 := s.setFld (F.wRefetch m) 0
    (∀ w p streamed u, SysStarted s q 0x10 x → wtChecks m x true s0 = .ok (w, streamed) u → onlyMem s0 u →
      w.pkg = some p → w.verified = [] → w.flight = [] →
      (streamed = true → completes (.wtLoad q) s (fun t => ended t 0 q x.idx ⟨0, 0, none⟩ ∧ t.fld (F.wState m) = 3 ∧
        t.flag (F.wMode m) = true ∧ t.fld (F.wVer m) = p.version % 2 ^ 64 ∧ (t.wtOf m).q = none ∧ t.mem = u.mem ∧
        t.cores = s.cores)) ∧
      (streamed = false → completes (.wtLoad q) s (fun t => runs t 1 p (upTo p.shards.length) ∧
        t.flag (F.wMode m) = false ∧ (depots w → t.mem = u.mem)))) ∧
    (∀ w p u, SysStarted s q 0x11 x → wtChecks m x false s0 = .ok (w, false) u → onlyMem s0 u → w.pkg = some p →
      s.fld (F.wState m) ≠ 5 → p.layers ≠ [] →
      completes (.wtReplace q) s (fun t => runs t 4 p (p.shardsOf 0) ∧ (t.wtOf m).layer = 0 ∧ (depots w → t.mem = u.mem))) ∧
    (∀ w u, SysStarted s q 0x11 x → wtChecks m x false s0 = .ok (w, true) u → onlyMem s0 u →
      completes (.wtReplace q) s (fun t => t.cmdOf 0 q x.idx = some { x with phase := .running } ∧
        t.fld (F.wState m) = 4 ∧ (t.wtOf m).next.map (·.pkg) = w.pkg ∧ (t.wtOf m).swapAfter = s.fld F.tkStep ∧
        (t.wtOf m).pkg = (s.wtOf m).pkg ∧ (t.wtOf m).sources = (s.wtOf m).sources ∧ (t.wtOf m).ring = (s.wtOf m).ring ∧
        t.fld (F.wRate m) = s.fld (F.wRate m) ∧ t.mem = u.mem ∧ t.cores = s.cores)) ∧
    (∀ p ck, SysStarted s q 0x12 x → zeroFrom x.body 3 = true → s.fld (F.wState m) = 5 → (s.wtOf m).q = none →
      (s.wtOf m).pkg = some p → s.sec.sets.any (fun k => k.2.1 == p.setId) = true →
      s.contentKey p.setId p.wrapped = some ck →
      completes (.wtResume q) s (fun t => runs t 4 { p with key := some ck } (p.shardsOf (s.wtOf m).layer) ∧
        (t.wtOf m).layer = (s.wtOf m).layer ∧ (depots (s.wtOf m) → t.mem = s.mem)))

/-- R375–R377, R380, R381, R385: a shard of a replaced layer that verifies is written in the staging buffer, and the layer is
ready with its last one; a source that answers with an error is followed by the next; a shard that no source gives in time
ends a load with WT_SOURCE in FAILED, a replacement in PAUSED, and takes a STREAMED instance out of service. R378, R379,
R381, R382, R386: a ready layer is copied at a build of its instance, or at once while ENABLE is clear; its copy brings the
staged bytes to the layer's place, and the next layer is taken; a STREAMED instance begins to fetch its next layer while its
prefetch distance allows it. Where the rules leave a corner open it follows the model's reading, log 63. -/
def Obligations.WeightMovement : Prop :=
  (
  ∀ (s : State) (m : Model) (k : Nat) (p : Package) (f : ShardSt) (sh : Nat × Nat × Nat × Nat × Nat), s.works = true →
    (s.wtOf m).pkg = some p → (s.wtOf m).flight.find? (fun f => f.k == k) = some f → p.shards[k]? = some sh →
    (∀ bs key plain h u, p.key = some key → bs.length = sh.2.1 → Config.shake256 (natBytes bs) = sh.2.2.2.2 →
      Config.gcmOpen key (k + p.version * 2 ^ 32) (natBytes bs) = some plain → s.flag (F.wMode m) = false →
      s.fld (F.wState m) = 4 → (s.wtOf m).staging = some h →
      vaWrite 0 (h.address + sh.2.2.1) ((plain.map (BitVec.ofNat 8)).take (sh.2.1 - 16)) s = .ok () u → onlyMem s u →
      completes (.shardArrival m k (some bs)) s (fun t => (t.wtOf m).verified = k :: (s.wtOf m).verified ∧
        ((∀ j ∈ p.shardsOf (s.wtOf m).layer, j = k ∨ j ∈ (s.wtOf m).verified) → (t.wtOf m).ready = true) ∧
        t.fld (F.wState m) = 4 ∧ ((∀ src ∈ (s.wtOf m).sources, src.obj = none) → t.mem = u.mem) ∧ t.cores = s.cores)) ∧
    (∀ src u, (s.wtOf m).sources[f.source + 1]? = some src → turnShard m f s = .ok () u →
      completes (.shardArrival m k none) s (fun t =>
        (t.wtOf m).flight = (s.wtOf m).flight.map (fun y => if y = f then f.next else y) ∧
        t.fld (F.wRefetch m) = satAdd (2 ^ (F.wRefetch m).width - 2) (s.fld (F.wRefetch m)) 1 ∧
        (src.obj = none → ∀ v, (if u.qpReady src.qp then sendRoce src.qp (.read src.rkey (src.base + sh.2.2.2.1) sh.2.1) u
          else .ok () u) = .ok () v → t.mem = v.mem ∧ t.out = v.out))) ∧
    (∀ r x, s.flag (F.wMode m) = false → (s.wtOf m).q = some r → s.sysCmd r = some x → x.ending = none →
      completes (.shardTimeout m k) s (fun t => ended t 0 r.1 r.2.2 ⟨0xD, 0x64, none⟩ ∧ (t.wtOf m).flight = [] ∧
        t.fld (F.wState m) = (if s.fld (F.wState m) = 1 then 6 else 5) ∧ t.mem = s.mem ∧ t.cores = s.cores)) ∧
    (s.flag (F.wMode m) = true → Silent s → completes (.shardTimeout m k) s (fun t => t.flag (F.mEnable m) = false ∧
      t.fld (F.mFault m) = 0x64 ∧ (t.wtOf m).flight = [] ∧ (t.wtOf m).stream = [] ∧ t.mem = s.mem))) ∧
  (
  ∀ (s : State) (m : Model), s.works = true →
    let w := s.wtOf m
    (w.ready = true → w.copying = false → (w.copyDue = true ∨ s.flag (F.mEnable m) = false) →
      completes (.layerCopy m) s (fun t => t.wts = s.wts.insert m { w with copying := true } ∧
        (∀ d, ∃ ch, 24 ≤ ch ∧ ch < 32 ∧ (ch, OwnUse.copy m) ∈ (t.dmaOf (.die d)).own) ∧
        t.cores = s.cores ∧ t.mem = s.mem ∧ t.sram = s.sram)) ∧
    (∀ h e u v, w.copying = true → w.staging = some h → layerEntry m w.layer s = .ok e u → onlyMem s u →
      (do vaWrite 0 (recField e 0 8) (← vaRead 0 h.address (nthD w.layerBytes w.layer 0)) : M Unit) u = .ok () v →
      onlyMem s v → w.reverting = false → w.nextLayer (w.layer + 1) = some (w.layer + 1) →
      completes (.layerCopyComplete m) s (fun t => (t.wtOf m).layer = w.layer + 1 ∧ (t.wtOf m).copying = false ∧
        w.layer ∈ (t.wtOf m).newLayers ∧ (t.wtOf m).verified = [] ∧ t.fld (F.wState m) = 4 ∧
        ((∀ src ∈ w.sources, src.obj = none) → ∃ v' : State, v'.mem = v.mem ∧ ∀ z,
          writeLayerMap w.map w.layer 1 (some (recField e 0 8)) v' = .ok () z → t.mem = z.mem) ∧
        t.cores = s.cores ∧ t.sram = s.sram)) ∧
    (∀ p step L, s.flag (F.wMode m) = true → (s.fld (F.wState m) = 3 ∨ s.fld (F.wState m) = 4) →
      s.flag (F.mEnable m) = true → w.ahead < w.distance → w.pkg = some p →
      (∀ e ∈ w.stream, w.bufferOf e.step e.layer ≠ w.bufferOf step (L + 1)) →
      w.lastFetch = some (step, L) → L + 1 < p.layers.length →
      completes (.streamFetchStart m) s (fun t =>
        (t.wtOf m).stream = w.stream ++ [⟨step, L + 1, [], false⟩] ∧ (t.wtOf m).lastFetch = some (step, L + 1) ∧
        (t.wtOf m).flight.map (fun f => (f.k, f.step)) = w.flight.map (fun f => (f.k, f.step)) ++
          ((p.shardsOf (L + 1)).take (s.fld F.inflight - w.flight.length)).map (fun k => (k, step)) ∧
        ((∀ src ∈ w.sources, src.obj = none) → t.mem = s.mem) ∧ t.cores = s.cores)))

/-- R98, R394–R397: cl.post of a record that passes its checks takes a CL token and appends the operation to its channel; behind
an operation that has begun nothing else follows. A record of no elements does nothing. R398, R399, R404: a header that
matches the operation's admits the predecessor's messages; values are written at their elements of dst and counted, and go
no further where the successor owns them; an operation with nothing left returns its CL token and leaves its channel. Where
the rules leave a corner open it follows the model's reading, log 64. -/
def Obligations.CollectivePosts : Prop :=
  (
  ∀ (s : State) (n : CoreId) (k : Core) (w : BitVec 50) (j : JobSt) (ch : Fin 64) (o u : _),
    let x := wordOf 0xE 0 w
    let off := (k.getS (Wd.f35 x)).toNat
    let o0 : ClOp :=
      { core := n, pc := k.pc, q := k.q, idx := k.idx, opNum := j.nextOp.getD ch.val 0
        bytes := s.sram.readBytes (padOf n) k.ctx.val k.gen off 128, prog := [], headerOk := false, headerSent := false
        partialsIn := 0, valuesIn := 0, silent := 0, ownDone := 0 }
    Issues s n k x → fieldsOnly x [(40, 5), (35, 5)] → freeS k [Wd.f40 x, Wd.f35 x] → noAcquire k →
    off % 64 = 0 → off + 128 ≤ 2 ^ 22 → cleanWords s.sram (padOf n) off 128 → s.jobs.find? k.ctx = some j →
    (k.getS (Wd.f40 x)).toNat = ch.val → ch.val < j.channels → j.aborted = false → (j.ops.getD ch.val []).length < 8 →
    checkCl k.ctx j o0 (setCore s n (past k)) = .ok o u → onlyMem (setCore s n (past k)) u →
    (o.count = 0 → exec (.clPost n w) s = .next u) ∧
    (o.count ≠ 0 → nthD k.pend 4 0 < 255 →
      (∀ t, queueOp k.ctx ch o (u.onCore n (fun c => { c with pend := setNth c.pend 4 (nthD c.pend 4 0 + 1) })) = .ok () t →
        exec (.clPost n w) s = .next t) ∧
      ((∃ h, j.headOp ch.val = some h ∧ h.headerSent = true) → completes (.clPost n w) s (fun t =>
        t.jobs.find? k.ctx = some { j with
          ops := j.ops.insert ch.val (j.ops.getD ch.val [] ++ [o]), nextOp := j.nextOp.insert ch.val (o.opNum + 1) } ∧
        t.cores = s.cores.insert n { past k with pend := setNth k.pend 4 (nthD k.pend 4 0 + 1) } ∧
        t.mem = u.mem ∧ t.sram = s.sram ∧ t.out = s.out)))) ∧
  (
  ∀ (s : State) (job : W32) (c : Ctx) (ch : Fin 64) (j : JobSt) (o : ClOp) (rest : List ClOp) (src : BitVec 16),
    s.works = true → s.jobCtx job = some c → s.jobs.find? c = some j → j.ops.getD ch.val [] = o :: rest →
    s.unitHeld (.coll j.die) = false →
    let head (t : State) (o' : ClOp) : Prop := t.jobs.find? c = some { j with ops := j.ops.insert ch.val (o' :: rest) }
    (j.aborted = false → 2 ≤ j.members → (nthD j.table j.before (0, 0)).1 = src.toNat → o.headerSent = true →
      (∀ (crc : W64) (num elem : W32) data, num.toNat = o.opNum → crc.toNat = o.crc →
        completes (.collective src job ch (.header crc) num elem data) s (fun t =>
          head t { o with silent := 0, headerOk := true } ∧ t.mem = s.mem ∧ t.cores = s.cores)) ∧
      (∀ (num elem : W32) data u, num.toNat = o.opNum → o.headerOk = true →
        j.after = (if o.op = 3 then o.root else elem.toNat / max 1 (unitOf o.count j.members)) →
        vaWriteAs c (o.dst + elem.toNat * o.dstBytes) (data.take ((o.count - elem.toNat) * o.dstBytes)) .w { s with
          jobs := s.jobs.insert c { j with ops := j.ops.insert ch.val ({ o with silent := 0 } :: rest) } } = .ok () u →
        completes (.collective src job ch .value num elem data) s (fun t =>
          head t { o with silent := 0, valuesIn := o.valuesIn + data.length / o.dstBytes } ∧ t.mem = u.mem ∧
          t.fld (F.digRcrc c ch) = crcOn (s.fld (F.digRcrc c ch)) data % 2 ^ 64 ∧
          t.fld (F.digRbytes c ch) = (s.fld (F.digRbytes c ch) + data.length) % 2 ^ 64 ∧ t.cores = s.cores))) ∧
    (∀ k, opDone j o = true → rest = [] → s.cores.find? o.core = some k →
      completes (.collectiveComplete c ch) s (fun t =>
        t.jobs.find? c = some { j with ops := j.ops.insert ch.val [] } ∧
        t.cores = s.cores.insert o.core { k with pend := setNth k.pend 4 (nthD k.pend 4 0 - 1) } ∧
        t.mem = s.mem ∧ t.sram = s.sram)))

/-- R390–R393: JOB_CREATE whose checks pass makes the context's job FORMING, queues the zero-fill of its cistern and runs;
JOB_DESTROY of a job without operations makes it go, with its cistern queued for zero-fill; a job whose joins do not come in
time is not created, and its command ends with TIMEOUT. Where the rules leave a corner open it follows the model's reading,
log 64. -/
def Obligations.JobLife : Prop :=
  ∀ (s : State) (q : QIdx) (x : Cmd) (c : Ctx),
    (∀ (d : Die) u tb, SysStarted s q 0x20 x →
      let f := recField x.body
      let M := f 0xC 2
      let t := (upTo M).map (fun i => (recField tb (4 * i) 2, recField tb (4 * i + 2) 2))
      f 2 2 = c.val → f 8 1 = d.val → 1 ≤ f 9 1 → f 9 1 ≤ 64 → 1 ≤ M → M ≤ 4096 → f 0xE 2 < M → f 0xB 1 = 0 →
      zeroFrom x.body 0x28 = true → f 0x10 8 % 64 = 0 → f 0x10 8 < 2 ^ 57 → f 0x18 8 % 65536 = 0 → f 0x20 8 % 65536 = 0 →
      s.ctxLive c = true → s.jobs = [] → ((f 0xA 1 = 1 ∧ c ≠ 0) ∨ (f 0xA 1 = 2 ∧ c = 0)) →
      vaRead 0 (f 0x10 8) (4 * M) s = .ok tb u → onlyMem s u → t.all (fun p => decide (p.2 < 2 ^ 11 ∧ p.1 ≠ 0xFFFF)) = true →
      nthD t (f 0xE 2) (0, 0) = (s.fld F.deviceId, c.val) → (t.map (·.1)).Nodup →
      (∃ w, windowOf u.mem.partNow (f 0x18 8) = some w ∧ w.cls = 1 ∧ w.unit = d.val ∧
        f 0x18 8 + f 0x20 8 ≤ w.base + w.size) → s.ownerState = true → Awake s →
      (∀ e ∈ s.fab.joins, e.job ≠ BitVec.ofNat 32 (f 4 4)) →
      completes (.jobCreate q) s (fun v =>
        v.cmdOf 0 q x.idx = some { x with phase := .running } ∧ v.fld (F.clState c) = 1 ∧ v.fld (F.clJobId c) = f 4 4 ∧
        v.fld (F.clRank c) = f 0xE 2 ∧ v.fld (F.clChannels c) = f 9 1 ∧ v.fld (F.clDie c) = d.val ∧
        (∃ j, v.jobs.find? c = some j ∧ j.table = t ∧ j.rank = f 0xE 2 ∧ j.cistern = f 0x18 8 ∧ j.cisternBytes = f 0x20 8 ∧
          j.ops = [] ∧ j.aborted = false ∧ j.creator = some (s.sysRef q x.idx)) ∧
        (∃ z ∈ v.mem.fills, z.why = .job c) ∧ v.cores = s.cores)) ∧
    (∀ j, SysStarted s q 0x21 x → recField x.body 2 2 = c.val → zeroFrom x.body 4 = true → s.jobs.find? c = some j →
      j.ops = [] → j.dying = false → j.creator = none → completes (.jobDestroy q) s (fun v =>
        v.cmdOf 0 q x.idx = some { x with phase := .running } ∧
        v.jobs.find? c = some { j with aborted := true, dying := true, drain := none
                                       destroyer := j.destroyer ++ [s.sysRef q x.idx] } ∧
        v.mem.fills = s.mem.fills ++ [⟨.job c, [(j.cistern / 256, (j.cistern + j.cisternBytes) / 256)]⟩] ∧
        v.mem.bytes = s.mem.bytes ∧ v.cores = s.cores)) ∧
    (∀ j r y, s.works = true → s.jobs.find? c = some j → s.fld (F.clState c) = 1 → j.dying = false →
      s.fld F.joinTicks ≤ j.waited → j.joins.length + 1 < j.members → j.creator = some r → s.sysCmd r = some y → y.ending = none → j.destroyer = [] →
      completes (.joinTimeout c) s (fun v => ended v 0 r.1 r.2.2 ⟨7, 0, none⟩ ∧ v.jobs.find? c = none ∧
        v.fld (F.clState c) = 0 ∧ v.mem = s.mem ∧ v.cores = s.cores))

/-- R403, R405, R406: a neighbour that stays silent past STALL_TICKS ends the command of the operation with ABORTED and
CL_STALL, and an abort that arrives ends every command with a pending operation with CL_ABORTED; either way the job is
ABORTED and has no operation left. R407–R409: a drain writes the cistern, as much of it as the slot holds, behind the slot's
header, and when every byte is acknowledged writes the header and ends in DRAINED, or DRAIN_SHORT where the cistern did not
fit; a RoCEv2 error ends it in DRAIN_FAILED. Where the rules leave a corner open it follows the model's reading, log 64 and
65. -/
def Obligations.JobAbortsAndDrains : Prop :=
  (
  ∀ (s : State) (c : Ctx) (j : JobSt), s.works = true → s.jobs.find? c = some j → j.aborted = false →
    (∀ p ∈ j.ops, ∀ o ∈ p.2, ∀ k, s.cores.find? o.core = some k → k.stage = none) →
    let gone (t : State) : Prop := t.fld (F.clState c) = 3 ∧ t.mem.bytes = s.mem.bytes ∧
      ∃ j', t.jobs.find? c = some j' ∧ j'.aborted = true ∧ j'.ops = []
    (∀ (ch : Fin 64) o k x, s.jobs = [(c, j)] → Awake s → s.flag F.trEnable = false → s.mem.fills = [] → j.headOp ch.val = some o → opWaits j o = true → s.fld F.stallTicks < o.silent →
      s.cores.find? o.core = some k → k.stage = none → s.cmdOf k.ctx k.q k.idx = some x → x.ending = none →
      completes (.clStall c ch) s (fun t => gone t ∧ ended t k.ctx k.q k.idx ⟨0xA, 0x76, some (o.core, o.pc)⟩)) ∧
    (∀ (job : W32) (origin : BitVec 16) code, s.jobCtx job = some c → origin.toNat < j.members →
      s.fld (F.clState c) = 2 →
      completes (.abort job origin code) s (fun t => gone t ∧
        t.fld F.clAborts = satAdd (2 ^ F.clAborts.width - 2) (s.fld F.clAborts) 1 ∧ t.out = s.out ∧
        (∀ p ∈ j.ops, ∀ o ∈ p.2, ∀ k x, s.cores.find? o.core = some k → s.cmdOf k.ctx k.q k.idx = some x → x.ending = none →
          ended t k.ctx k.q k.idx ⟨0xA, 0x77, none⟩ ∧ t.cores.find? o.core = none)))) ∧
  (
  ∀ (s : State) (c : Ctx) (j : JobSt) (i qp rkey base slot : Nat), s.works = true → s.jobs.find? c = some j →
    j.drain = some (i, qp, rkey, base, slot) →
    (∀ b u v w, s.fld (F.drainState c) = 1 → j.optRuns = false → s.qpReady qp = true →
      readDpa (cisternSlot c) j.cistern (min j.cisternBytes (slot - 64)) s = .ok b u → onlyMem s u →
      beginOwn j.die (.drain c) u = .ok () v →
      sendRoce qp (.write rkey (base + i * slot + 64) b) (v.setFld (F.drainState c) 2) = .ok () w →
      exec (.drainStart c) s = .next w) ∧
    (s.fld (F.drainState c) = 1 → j.optRuns = false → s.qpReady qp = false →
      exec (.drainStart c) s = .next (s.setFld (F.drainState c) 5)) ∧
    (s.fld (F.drainState c) = 2 →
      completes (.drainComplete c true) s (fun t =>
        t.fld (F.drainState c) = (if slot - 64 < j.cisternBytes then 4 else 3) ∧
        t.fld (F.drainBytes c) = min j.cisternBytes (slot - 64) % 2 ^ 48) ∧
      (∀ u v, let n := min j.cisternBytes (slot - 64)
        endOwn (.drain c) (fun _ => n) s = .ok () u →
        sendRoce qp (.write rkey (base + i * slot) (drainHeader j (s.fld F.deviceId) c n)) (u.setFld (F.drainBytes c) n)
          = .ok () v →
        exec (.drainComplete c true) s =
          .next (v.setFld (F.drainState c) (if slot - 64 < j.cisternBytes then 4 else 3))) ∧
      completes (.drainComplete c false) s (fun t => t.fld (F.drainState c) = 5 ∧ t.out = s.out ∧ t.mem = s.mem ∧
        t.fld (F.drainBytes c) ≤ min j.cisternBytes (slot - 64))))

/-! ### The memory system -/

/-- R252, R269: a write of TR_INV_CMD that names a kind, with a context up to 1,024 and no invalidation running, starts one; any
other sets REJECT; when it completes, no cached copy of the named entries remains and BUSY clears. R258, R477: a write of
TR_REKEY gives the slot a new key in its other phase and sets BUSY; when the sweep is complete every granule that read well
under the slot still does, with the same bytes, only the new key remains, and DONE counts it. -/
def Obligations.InvalidationsAndRekeys : Prop :=
  (
  ∀ (s : State), s.works = true →
    (∀ r ∈ ([(.trInvLeaf, 0), (.trInvContext, 1), (.trInvAll, 2)] : List ((Half → W64 → Instr) × Nat)), ∀ (h : Half) (v : W64),
      h ≠ .hi →
      let x := halfPlace h v
      bitsOf x 12 2 = r.2 →
      (bitsOf x 0 11 ≤ 1024 → s.flag F.invBusy = false → exec (r.1 h v) s = .next (State.setFlag { s with
        mem := { s.mem with inv := some (r.2, bitsOf x 0 11, s.fld F.invVa * 65536) } } F.invBusy true)) ∧
      ((1024 < bitsOf x 0 11 ∨ s.flag F.invBusy = true) → exec (r.1 h v) s = .next (s.setFlag F.invReject true))) ∧
    (∀ i, s.mem.inv = some i → exec .invalidationComplete s = .next (State.setFlag { s with
      mem := { s.mem with inv := none, tlb := s.mem.tlb.filter (fun p => !invHits i p.1) } } F.invBusy false))) ∧
  (
  ∀ (s : State), s.works = true →
    (∀ (h : Half) (v : W64), h ≠ .hi →
      let slot := bitsOf (halfPlace h v) 0 11
      (1 ≤ slot → slot ≤ 1040 → s.flag F.rekeyBusy = false → s.flag F.entropyFail = false →
        completes (.trRekeyWrite h v) s (fun t => t.flag F.rekeyBusy = true ∧ t.fld F.rekeySlot = slot ∧
          t.mem = s.mem.rekeySlot slot ∧ t.mem.currentKey slot = s.mem.nextKey ∧ t.cores = s.cores)) ∧
      ((slot = 0 ∨ 1040 < slot ∨ s.flag F.rekeyBusy = true) →
        exec (.trRekeyWrite h v) s = .next (s.setFlag F.rekeyReject true))) ∧
    (∀ r new, s.mem.rekey = some r → s.mem.fills = [] →
      let k := s.mem.slotKeys r.slot
      r.oldKey = (if k.phase then k.key0 else k.key1) → (if k.phase then k.key1 else k.key0) = some new →
      completes .rekeyComplete s (fun t => t.mem.rekey = none ∧ t.flag F.rekeyBusy = false ∧
        t.fld F.rekeyDone = satAdd (2 ^ F.rekeyDone.width - 2) (s.fld F.rekeyDone) 1 ∧ t.mem.bytes = s.mem.bytes ∧
        t.mem.slotKeys r.slot = (if k.phase then ⟨true, none, some new⟩ else ⟨false, some new, none⟩) ∧
        (∀ g, s.mem.granuleOk r.slot g = true → t.mem.granuleOk r.slot g = true) ∧ t.cores = s.cores)))

/-- R259, R260, R268: a write of MS_ZERO queues the zero-fill of its pages; when it completes, every byte of them reads as zero
and every other as before. MS_PART is accepted only where its sizes sum to 31 and no change is pending. R264–R267: a channel
retrains alone in its stack, and its spare lane, where it is free, takes the place of the failing lane; a stack leaves
self-refresh once its die is not parked. Where the rules leave a corner open it follows the model's reading, log 17 and 67. -/
def Obligations.MemoryUpkeep : Prop :=
  (
  ∀ (s : State), s.works = true →
    (∀ (v : W64), let base := bitsOf v.toNat 0 23
      let count := bitsOf v.toNat 32 23
      (count ≠ 0 → count ≠ 2 ^ 23 - 1 → (base + count) * 65536 ≤ allocTop → s.flag F.zeroBusy = false →
        exec (.msZeroWrite .full v) s = .next { s.setFlag F.zeroBusy true with
          mem := { s.mem with zeroBase := 0, fills := s.mem.fills ++ [⟨.msZero, [(base * 256, (base + count) * 256)]⟩] } }) ∧
      (count ≠ 0 → (count = 2 ^ 23 - 1 ∨ allocTop < (base + count) * 65536 ∨ s.flag F.zeroBusy = true) →
        exec (.msZeroWrite .full v) s = .next { s.setFlag F.zeroReject true with mem := { s.mem with zeroBase := 0 } })) ∧
    (∀ lo hi rest, s.mem.fills = ⟨.msZero, [(lo, hi)]⟩ :: rest → s.rangeAsleep (lo, hi) = false → s.mem.bytes.wf = true →
      completes .zeroFillComplete s (fun t => t.mem.fills = rest ∧ t.flag F.zeroBusy = false ∧
        t.fld F.zeroDone = satAdd (2 ^ F.zeroDone.width - 2) (s.fld F.zeroDone) 1 ∧ t.mem.bytes.wf = true ∧
        (∀ a, lo * 256 ≤ a → a < hi * 256 → t.mem.bytes.read a = 0) ∧
        (∀ a, (a < lo * 256 ∨ hi * 256 ≤ a) → t.mem.bytes.read a = s.mem.bytes.read a) ∧ t.cores = s.cores)) ∧
    (∀ (v : W64), let new := (bitsOf v.toNat 0 5, bitsOf v.toNat 8 5, bitsOf v.toNat 16 5)
      (new.1 + new.2.1 + new.2.2 = 31 → s.flag F.msChanging = false → new ≠ s.mem.partNow →
        completes (.msPartWrite .full v) s (fun t => t.flag F.msChanging = true ∧ t.mem = { s.mem with pendPart := some new } ∧
          t.cores = s.cores)) ∧
      ((new.1 + new.2.1 + new.2.2 ≠ 31 ∨ s.flag F.msChanging = true) → exec (.msPartWrite .full v) s = .next s))) ∧
  (
  ∀ (s : State) (j : Stack) (ch : Fin 32), s.works = true →
    (∀ lane, (∀ r ∈ s.mem.retrain, r.stack ≠ j) → j ∉ s.mem.selfRefresh →
      exec (.channelRetrain j ch lane) s =
        .next { s with mem := { s.mem with retrain := s.mem.retrain ++ [⟨j, ch, lane, none⟩] } }) ∧
    (∀ r, s.mem.retrain.find? (fun r => r.stack == j && r.ch == ch) = some r → r.factory = none →
      (r.lane = none → exec (.channelRetrainComplete j ch) s = .next { s with
        mem := { s.mem with retrain := s.mem.retrain.filter (· ≠ r) }, seed := s.seed + 1
        pow := { s.pow with fieldCal := s.pow.fieldCal.insert (2, j.val, ch.val) (Config.calibrated s.seed) } }) ∧
      (∀ l, r.lane = some l → l.val < 80 → (j, ch, spareLane l.val) ∉ s.mem.lanes → Silent s →
        completes (.channelRetrainComplete j ch) s (fun t =>
          t.mem = { s.mem with retrain := s.mem.retrain.filter (· ≠ r), lanes := s.mem.lanes ++ [(j, ch, spareLane l.val)] } ∧
          bitOf (t.fld (F.chSpared j)) ch.val = true ∧
          t.fld F.repairs = satAdd (2 ^ F.repairs.width - 2) (s.fld F.repairs) 1 ∧ t.cores = s.cores)) ∧
      (∀ l, r.lane = some l → (80 ≤ l.val ∨ (j, ch, spareLane l.val) ∈ s.mem.lanes) →
        completes (.channelRetrainComplete j ch) s (fun t =>
          t.mem = { s.mem with retrain := s.mem.retrain.filter (· ≠ r) } ∧
          bitOf (t.fld (F.chExhausted j)) ch.val = true ∧ t.cores = s.cores))) ∧
    (j ∈ s.mem.selfRefresh → bitOf (s.fld F.pwParked) (j.val / 4) = false →
      exec (.selfRefreshExit j) s = .next { s with mem := { s.mem with selfRefresh := s.mem.selfRefresh.filter (· ≠ j) } }))

/-! ### Faults, repair and supervision -/

/-- R166, R167, R489–R491: what a patrol finds: corrected errors of a bank are counted, and past BANK_CE the bank is remapped;
an uncorrectable word is poisoned; a line with a broken owner tag loses its data and its tag; a dirty pool-cache line goes
back with a poisoned tag; on-die counts are added. R507, R509–R511: a marked cluster that is idle is copied to a spare
cluster; the copy to a spare bank puts it in the bank's place and is recorded as a repair; RP_RETIRE of a core marks it and
waits until it is retired. Where the rules leave a corner open it follows the model's reading, log 67, 69 and 70. -/
def Obligations.PatrolsAndSpares : Prop :=
  (
  ∀ (s : State), s.works = true →
    (∀ (n : CoreId) (bank : Fin 16) count, let key := (false, n.val * 16 + bank.val)
      let total := s.sram.bankErrs.getD key 0 + count
      let counted : State := { s with sram := { s.sram with bankErrs := s.sram.bankErrs.insert key total } }
      (total < s.fld F.bankCe → exec (.patrolScrub (.corrected n bank count)) s = .next counted) ∧
      (s.fld F.bankCe ≤ total → s.sram.bankRemap = [] → s.flag (F.mxBankSpared n) = false →
        exec (.patrolScrub (.corrected n bank count)) s =
          .next { counted with sram := { counted.sram with bankRemap := [(n, bank.val)] } })) ∧
    (∀ (n : CoreId) w, exec (.patrolScrub (.scratchWord n w)) s = .next { s with
      sram := { s.sram with spadPoison := poisonIn s.sram.spadPoison (n.val * 65536 + w % 65536) } }) ∧
    (∀ (n : CoreId) line, let k := n.val * 4096 + line % 4096
      completes (.patrolScrub (.scratchTag n line)) s (fun t => t.sram.spadTags = s.sram.spadTags.erase k ∧
        (∀ a, k * 1024 ≤ a → a < (k + 1) * 1024 → t.sram.spad.read a = 0) ∧
        (∀ a, (a < k * 1024 ∨ (k + 1) * 1024 ≤ a) → t.sram.spad.read a = s.sram.spad.read a) ∧
        t.sram.store = s.sram.store ∧ t.mem = s.mem ∧ t.cores = s.cores)) ∧
    (∀ g, (s.mem.dirty.find? g = none → exec (.patrolScrub (.poolLine g)) s =
        .next { s with mem := { s.mem with lines := s.mem.lines.erase g } }) ∧
      (s.mem.dirty.find? g ≠ none → completes (.patrolScrub (.poolLine g)) s (fun t => t.mem.dirty.find? g = none ∧
        (∀ slot, t.mem.granuleOk slot g = false) ∧ (∀ slot a, a ≠ g → t.mem.granuleOk slot a = s.mem.granuleOk slot a) ∧
        t.mem.bytes = s.mem.bytes ∧ t.cores = s.cores))) ∧
    (∀ (cl : Fin 48) w, exec (.patrolScrub (.storeWord cl w)) s = .next { s with
      sram := { s.sram with storePoison := poisonIn s.sram.storePoison (cl.val * 2 ^ 18 + w % 2 ^ 18) } }) ∧
    (∀ (d : Die) bank count, exec (.patrolScrub (.poolCorrected d bank count)) s = .next { s with sram := { s.sram with
      poolErrs := s.sram.poolErrs.insert (d.val, bank) (s.sram.poolErrs.getD (d.val, bank) 0 + count) } }) ∧
    (∀ (cl : Fin 48) d k, clusterDie cl.val = some (d, k) → cl.val ∉ s.rep.retiredClusters →
      completes (.patrolScrub (.portHard cl)) s (fun t => (d, k) ∈ t.rep.markedClusters ∧ t.mem = s.mem ∧ t.cores = s.cores)) ∧
    (∀ g j, stackOf s.mem.partNow (g * 256) = some j → completes (.patrolScrub (.onDieRow g)) s (fun t =>
      t.fld (F.msUncorrected j) = satAdd (2 ^ (F.msUncorrected j).width - 2) (s.fld (F.msUncorrected j)) 1 ∧
      g ∈ t.mem.eccBad ∧ t.mem.bytes = s.mem.bytes ∧ t.cores = s.cores)) ∧
    (∀ j c u, exec (.patrolScrub (.onDie j c u)) s = .next ((s.bumpBy (F.msCorrected j) c).bumpBy (F.msUncorrected j) u))) ∧
  (
  ∀ (s : State), s.works = true →
    (∀ (d : Die) (k : Fin 12), (d, k) ∈ s.rep.markedClusters → (∀ n ∈ clusterCores (d.val * 12 + k.val), s.cores.find? n = none) →
      s.rep.copies = [] → s.rep.spareClustersUsed.getD d.val 0 < 2 →
      exec (.clusterSpare d k) s = .next { s with rep := { s.rep with
        spareClustersUsed := s.rep.spareClustersUsed.insert d.val (s.rep.spareClustersUsed.getD d.val 0 + 1)
        copies := [.cluster d k (12 + s.rep.spareClustersUsed.getD d.val 0)] } }) ∧
    (∀ n b rest, s.rep.copies = [] → s.sram.bankRemap = (n, b) :: rest → s.cores.find? n = none → Silent s →
      completes .spareCopyComplete s (fun t => t.sram.bankRemap = ((n, b) :: rest).filter (fun p => p ≠ (n, b)) ∧
        t.flag (F.mxBankSpared n) = true ∧ t.sram.spad = s.sram.spad ∧
        t.fld F.repairs = satAdd (2 ^ F.repairs.width - 2) (s.fld F.repairs) 1 ∧ t.mem = s.mem ∧ t.cores = s.cores)) ∧
    (∀ q x (n : CoreId), SysStarted s q 0x50 x → zeroFrom x.body 6 = true → recField x.body 2 1 = 3 →
      recField x.body 3 1 < 4 → recField x.body 4 1 < 12 → recField x.body 5 1 < 8 →
      n.val = recField x.body 3 1 * 96 + recField x.body 4 1 * 8 + recField x.body 5 1 → s.flag (F.mxRetired n) = false →
      s.spareFree (clusterOf n) = true → s.rep.marked = [] →
      completes (.rpRetire q) s (fun t => t.cmdOf 0 q x.idx = some { x with phase := .running } ∧ t.rep.marked = [n] ∧
        t.rep.retireWait = s.rep.retireWait ++ [(s.sysRef q x.idx, 3 * 65536 + n.val)] ∧ t.mem = s.mem ∧ t.cores = s.cores)))

/-- R162–R164, R491, R493, R504: the test of an idle unit begins, and a pass ends what the unit owed; new faulty columns of a
core wait, with its next width, for its next command; a parity error, and a unit without progress, end the command that uses
the unit, and the unit owes a test. R503, R504: an acknowledgement takes the endpoint off the oldest drain that waits for
it, and the last one ends the drain; a marker that a unit has held for a tick counts as acknowledged, and DRAIN_STUCK and
HUNG count it. Where the rules leave a corner open it follows the model's reading, log 45 and 69. -/
def Obligations.TestsAndDrains : Prop :=
  (
  ∀ (s : State) (n : CoreId) (k : Core) (x : Cmd) (d : Die), s.works = true → d.val = n.val / 96 →
    (∀ u, s.unitIdle u = true → (u ∈ s.rep.needTest ∨ s.testAllowed u = true) →
      (∀ t ∈ s.rep.testing, unitDie t.1 ≠ unitDie u ∨ isWell t.1 ≠ isWell u) →
      exec (.rollingSelfTest u) s = .next { s with
        rep := { s.rep with testing := s.rep.testing ++ [(u, s.rep.needTest.contains u)] } }) ∧
    (∀ b, (HwUnit.core n, b) ∈ s.rep.testing →
      let done : State := { s with rep := { s.rep with
        testing := s.rep.testing.filter (fun t => t.1 ≠ HwUnit.core n)
        needTest := s.rep.needTest.filter (· ≠ HwUnit.core n) } }
      exec (.selfTestComplete (.core n) .pass) s = .next ((done.bump (F.testRun d)).setFld (F.mxLastTest n) (s.fld F.tkStep)) ∧
      (∀ cols : List (Fin 66), s.newColumns (.core n) cols = cols → cols ≠ [] →
        let f := (s.rep.coreCols.getD n []).length + (s.rep.pendCols.getD n []).length + cols.length
        48 ≤ widthOf f →
        completes (.selfTestComplete (.core n) (.columns cols)) s (fun t =>
          t.rep.pendCols.getD n [] = s.rep.pendCols.getD n [] ++ cols ∧ t.rep.coreCols = s.rep.coreCols ∧
          t.fld (F.mxNextWidth n) = widthOf f ∧ t.fld (F.mxWidth n) = s.fld (F.mxWidth n) ∧
          t.fld (F.testFound d) = satAdd (2 ^ (F.testFound d).width - 2) (s.fld (F.testFound d)) 1 ∧ t.cores = s.cores))) ∧
    (s.jobs = [] → s.cores.find? n = some k → k.stage = none → s.cmdOf k.ctx k.q k.idx = some x → x.ending = none →
      completes (.parityError (.core n)) s (fun t => ended t k.ctx k.q k.idx ⟨5, 0xB3, none⟩ ∧
        HwUnit.core n ∈ t.rep.needTest ∧ t.cores.find? n = none ∧ t.mem = s.mem ∧ t.sram = s.sram) ∧
      (∀ (w : WellId) r, s.wells.run.find? w = some r → r.cmd.core = n → s.noHold = true →
        s.rep.unitResets.find? (.well w) = none →
        completes (.unitStuck (.well w)) s (fun t => ended t k.ctx k.q k.idx ⟨0xE, 0xB2, none⟩ ∧
          HwUnit.well w ∈ t.rep.needTest ∧ t.fld F.hung = satAdd (2 ^ F.hung.width - 2) (s.fld F.hung) 1 ∧
          t.wells.run.find? w = none ∧ t.mem = s.mem ∧ t.sram = s.sram)))) ∧
  (
  ∀ (s : State) (e : Nat) (d : Drain), s.works = true →
    s.rep.drains.find? (fun d => d.endpoints.contains e) = some d → (s.ctxs.getD d.ctx .absent).phase ≠ .teardown →
    let left := d.endpoints.filter (· ≠ e)
    let ds := if left = [] then s.rep.drains.erase d
      else s.rep.drains.map (fun x => if x = d then { x with endpoints := left } else x)
    let t : State := State.setFld { s with rep := { s.rep with drains := ds } } F.drainPending (min 0xFFFF ds.length)
    exec (.drainMarkerAck e) s = .next t ∧
    exec (.drainMarkerStuck e) s = .next ((t.bump F.drainStuck).bump F.hung))

/-- R496–R498: when an active plinth core misses its heartbeats, its standby takes the role and the failed core is tested; one
that passes is the standby again, one that fails is retired; a standby that is lost leaves the role without one; and a role
without a standby to take it is a module fault. R518: a module fault stops every engine for good, asserts ALERT#, and closes
every spillway; from then on no instruction and no command of the engines has an effect. -/
def Obligations.PlinthAndModuleFault : Prop :=
  (
  ∀ (s : State) (k : Fin 4), s.works = true → Silent s →
    let a := s.fld (F.roleActive k.val)
    let b := s.fld (F.roleStandby k.val)
    (s.standbyReady k = true → a ≠ b → s.updating k.val = false → completes (.heartbeatMiss k false) s (fun t =>
      t.fld (F.roleActive k.val) = b ∧ t.fld (F.roleStandby k.val) = a ∧ t.fld (F.plinth b) = 0 ∧ t.fld (F.plinth a) = 2 ∧
      t.rep.takeover = s.rep.takeover ++ [k.val] ∧ t.mem = s.mem ∧ t.cores = s.cores)) ∧
    (s.standbyReady k = true → s.updating k.val = false → completes (.heartbeatMiss k true) s (fun t =>
      t.fld (F.plinth b) = 3 ∧ t.flag (F.roleNoStandby k.val) = true ∧ t.fld (F.roleActive k.val) = a ∧
      t.mem = s.mem ∧ t.cores = s.cores)) ∧
    (s.standbyReady k = false → s.updating k.val = false → completes (.heartbeatMiss k false) s (fun t =>
      t.rep.moduleFault = true ∧ t.mem = s.mem ∧ t.cores = s.cores)) ∧
    (k.val ∈ s.rep.takeover →
      exec (.takeoverComplete k true) s = .next (State.setFld { s with
        rep := { s.rep with takeover := s.rep.takeover.filter (· ≠ k.val) } } (F.plinth b) 1) ∧
      completes (.takeoverComplete k false) s (fun t => t.fld (F.plinth b) = 3 ∧ t.flag (F.roleNoStandby k.val) = true ∧
        t.rep.takeover = s.rep.takeover.filter (· ≠ k.val)))) ∧
  (
  ∀ (s : State), (s.works = true → completes (.moduleFault .security) s (fun t =>
      t.rep.moduleFault = true ∧ t.flag F.moduleFault = true ∧ t.pins.alert = true ∧ t.works = false ∧
      (∀ k, k ∈ t.fab.closed) ∧ (∀ p, t.fld (F.portState p) = 0) ∧ t.mem = s.mem ∧ t.sram = s.sram ∧ t.cores = s.cores)) ∧
    (s.rep.moduleFault = true → ∀ (n : CoreId) (w50 : BitVec 50) (w : BitVec 56) (c : Ctx) (q : QIdx) (x : WellId) (e : DmaEng)
        (ch : Fin 32) (h : Half) (v : W64) (cores : List CoreId),
      ∀ i ∈ ([.salu n w, .salui n w, .ctlBr n w50, .stG n w50, .stSp n w50, .atAdd n w50, .dmaRun n w50, .wlPost n w50,
          .enPush n w50, .csrWr n w50, .mxFinish n 0, .wellPass x, .dmaBurst e ch, .prefetch c q, .commandStart c q,
          .kernel c q cores, .feQdbWrite c q h v, .feFvalWrite c 0 h v, .trRekeyWrite h v, .msZeroWrite h v, .tick] : List Instr),
        exec i s = .next s))

/-- R536–R538: FW_UPDATE of an image that verifies begins with role 0, whose standby copies it; at the tick after the standby
has caught up it takes the role, and the former active core reloads; the last role's reload ends the update with success,
and a reload that fails retires the core and ends it with CANCELLED. R513–R516, R540: RESTORE_FACTORY of a lane or a sensor
puts the factory's calibration in force and completes, and of a channel retrains it; a CONFIG that agrees with the local digest and epoch ends the port's transition and
mismatch; a transition longer than the grace is a mismatch. Where the rules leave a corner open it follows the model's
reading, log 85. -/
def Obligations.FirmwareAndConfig : Prop :=
  (
  ∀ (s : State),
    (∀ q x h head u b u1 u2 b' w', SysStarted s q 0x40 x → recField x.body 2 2 = 0 → zeroFrom x.body 8 = true →
      x.handleAt 4 = some h → h.kind = 1 → bitOf h.rights 0 = true → 0x800 + 3328 ≤ h.size →
      vaRead 0 h.address 0x20 s = .ok head u → onlyMem s u → imageLength head ≤ h.size →
      s.pow.upd = none → s.sec.lcJob = none → s.pow.trans = none → (∀ k < 4, s.flag (F.roleNoStandby k) = false) →
      vaRead 0 h.address (imageLength head) u = .ok b u1 → onlyMem s u1 → imageVerifies b u1 = .ok true u2 → u2 = u1 →
      (∀ r ∈ s.pow.roleFw, recField b 6 2 ≤ r.2) →
      let upd : FwUpd :=
        { q := s.sysRef q x.idx, role := 0, reload := false, digest := imageDigest b, version := recField b 8 8
          logVersion := recField b 4 2 }
      let w : State := { ((setCmd u1 0 q x.idx (fun y => { y with phase := .running })).setFld F.updState 1).setFld
        F.updRolesNew 0 with pow := { s.pow with upd := some upd } }
      vaRead 0 h.address h.size w = .ok b' w' → imageDigest b' = upd.digest → exec (.fwUpdate q) s = .next w') ∧
    (∀ u (k : Fin 4), s.works = true → Silent s → s.pow.upd = some u → u.role = k.val →
      let a := s.fld (F.roleActive k.val)
      let b := s.fld (F.roleStandby k.val)
      (u.reload = false → s.standbyReady k = true → a ≠ b → s.pow.roleFw.length = 4 →
        completes .roleHandover s (fun t => t.fld (F.roleActive k.val) = b ∧ t.fld (F.roleStandby k.val) = a ∧
          t.fld (F.plinth b) = 0 ∧ t.fld (F.plinth a) = 2 ∧ t.pow.upd = some { u with reload := true } ∧
          nthD t.pow.roleFw k.val (0, 0) = (u.digest, u.logVersion) ∧ t.mem = s.mem ∧ t.cores = s.cores)) ∧
      (∀ x, u.reload = true → s.sysCmd u.q = some x → x.ending = none →
        (k = 3 → completes (.roleReloadComplete true) s (fun t => ended t 0 u.q.1 u.q.2.2 ⟨0, 0, none⟩ ∧
          t.pow.upd = none ∧ t.fld F.updState = 2 ∧ t.fld (F.plinth b) = 1 ∧ t.mem = s.mem ∧ t.cores = s.cores)) ∧
        completes (.roleReloadComplete false) s (fun t => ended t 0 u.q.1 u.q.2.2 ⟨1, 0xC3, none⟩ ∧ t.pow.upd = none ∧
          t.fld F.updState = 3 ∧ t.fld F.updFault = 0xC3 ∧ t.fld (F.plinth b) = 3 ∧
          t.flag (F.roleNoStandby k.val) = true ∧ t.mem = s.mem ∧ t.cores = s.cores)))) ∧
  (
  ∀ (s : State) (q : QIdx) (x : Cmd) (p : Port),
    let restored (kind a b : Nat) : State := { setCmd s 0 q x.idx (ends 0 0) with
      pow := { s.pow with fieldCal := s.pow.fieldCal.erase (kind, a, b) } }
    (SysStarted s q 0x41 x → zeroFrom x.body 5 = true →
      (recField x.body 2 1 = 1 → recField x.body 3 1 = p.val → recField x.body 4 1 ≤ 8 → s.fld (F.portMode p) = 0 →
        ((∀ l ∈ (s.portOf p).lanes, l.val ≠ recField x.body 4 1) ∨ (s.portOf p).spare.isSome = true) →
        exec (.restoreFactory q) s = .next (restored 1 p.val (recField x.body 4 1))) ∧
      (recField x.body 2 1 = 3 → recField x.body 3 1 < 56 → recField x.body 4 1 = 0 →
        exec (.restoreFactory q) s = .next (restored 3 (recField x.body 3 1) 0)) ∧
      (∀ (j : Stack) (ch : Fin 32), recField x.body 2 1 = 2 → recField x.body 3 1 = j.val → recField x.body 4 1 = ch.val →
        (∀ r ∈ s.mem.retrain, r.stack ≠ j) → j ∉ s.mem.selfRefresh →
        exec (.restoreFactory q) s = .next { setCmd s 0 q x.idx (fun y => { y with phase := .running }) with
          mem := { s.mem with retrain := s.mem.retrain ++ [⟨j, ch, none, some (s.sysRef q x.idx)⟩] } })) ∧
    (s.linksRun = true → s.fld (F.portMode p) = 0 → s.fld (F.portState p) = 4 → (s.portOf p).flagSent = false →
      completes (.config p s.configDigest s.rep.epochNow false) s (fun t => (t.portOf p).mismatch = 0 ∧
        (t.portOf p).transition = none ∧ bitOf (t.fld F.cfgPorts) p.val = false ∧ t.mem = s.mem ∧ t.out = s.out)) ∧
    (∀ d, s.linksRun = true → Silent s → s.fld (F.portMode p) = 0 → s.fld (F.portState p) = 4 →
      (s.portOf p).flagSent = true → d ≠ s.configDigest → (s.portOf p).mismatch ≠ 1 →
      completes (.config p d s.rep.epochNow false) s (fun t => (t.portOf p).mismatch = 1 ∧
        bitOf (t.fld F.cfgPorts) p.val = true ∧
        t.fld F.cfgEvents = satAdd (2 ^ F.cfgEvents.width - 2) (s.fld F.cfgEvents) 1 ∧ t.mem = s.mem)) ∧
    (∀ τ, s.linksRun = true → Silent s → (s.portOf p).transition = some τ → s.fld F.graceTicks < s.time.ticks - τ →
      (s.portOf p).mismatch ≠ 3 → (s.portOf p).flagSent = true →
      completes (.graceExpiry p) s (fun t => (t.portOf p).mismatch = 3 ∧ bitOf (t.fld F.cfgPorts) p.val = true ∧
        t.fld F.cfgEvents = satAdd (2 ^ F.cfgEvents.width - 2) (s.fld F.cfgEvents) 1 ∧ t.mem = s.mem)))

/-! ### The optical fabric -/

/-- R413–R416, R418, R424: a lane in use that loses lock, or whose corrected symbols pass SER_LIMIT, is replaced by the spare;
without one the width falls to 4, or the port goes DOWN, where the lane lost lock, and otherwise the port runs on and reports
the lane once; a spillway that has closed ends the links of both its ports, and one opens only once both engines have
calibrated, when its ports begin to train; training of at least eight lanes ends with a HELLO under a fresh nonce, unencrypted
and with an all-zero tag, and fewer than four leave the port DOWN. Where the rules leave a corner open it follows the model's
reading, log 73 and 121. -/
def Obligations.PortsAndLanes : Prop :=
  ∀ (s : State) (p : Port), s.linksRun = true →
    let x := s.portOf p
    (∀ (lane sp : Fin 9) cause, Silent s → s.fld (F.portMode p) = 0 → x.trained = true → lane ∉ x.failed →
      lane ∈ x.lanes → lane ≠ sp → x.spare = some sp → s.laneFails p cause = true →
      completes (.laneFailure p lane cause) s (fun t =>
        (t.portOf p).lanes = x.lanes.map (fun l => if l = lane then sp else l) ∧ (t.portOf p).spare = none ∧
        lane ∈ (t.portOf p).failed ∧ t.fld (F.portWidth p) = s.fld (F.portWidth p) ∧ t.flag (F.portSpareFree p) = false ∧
        t.fld F.repairs = satAdd (2 ^ F.repairs.width - 2) (s.fld F.repairs) 1 ∧ t.mem = s.mem)) ∧
    (∀ (lane : Fin 9), Silent s → s.fld (F.portMode p) = 0 → x.trained = true → lane ∉ x.failed → lane ∈ x.lanes →
      x.spare = none →
      completes (.laneFailure p lane .lost) s (fun t => t.mem = s.mem ∧
        (4 ≤ (x.lanes.filter (· ≠ lane)).length → t.fld (F.portWidth p) = 4 ∧ t.fld (F.portState p) = s.fld (F.portState p) ∧
          (t.portOf p).lanes = x.lanes.filter (· ≠ lane)) ∧
        ((x.lanes.filter (· ≠ lane)).length < 4 → t.fld (F.portWidth p) = 0 ∧ t.fld (F.portState p) = 0)) ∧
      (∀ n, s.fld (F.serLimit p) < n →
        (lane ∈ x.worn → exec (.laneFailure p lane (.symbols n)) s = .next s) ∧
        (lane ∉ x.worn → completes (.laneFailure p lane (.symbols n)) s (fun t => (t.portOf p).lanes = x.lanes ∧
          (t.portOf p).worn = lane :: x.worn ∧ t.fld (F.portWidth p) = s.fld (F.portWidth p) ∧
          t.fld (F.portState p) = s.fld (F.portState p) ∧ t.mem = s.mem)))) ∧
    (∀ (y : SpillSwitch) b, y.pair = pairOf p → s.fab.moving.find? (fun m => m.1 == pairOf p) = some (pairOf p, b) →
      s.spillCause (pairOf p) = b →
      let ok (q : Port) (v : Bool) : Bool := s.fab.calibrated.contains q || v
      let opens := !b && ok (evenPort (pairOf p)) y.evenOk && ok (oddPort (pairOf p)) y.oddOk
      completes (.spillwaySwitch y) s (fun t => (∀ m ∈ t.fab.moving, m.1 ≠ pairOf p) ∧ t.mem = s.mem ∧
        (pairOf p ∈ t.fab.closed ↔ (b = true ∨ opens = false ∧ pairOf p ∈ s.fab.closed)) ∧
        (b = true → t.flag (F.portSpill p) = true ∧ t.fld (F.portWidth p) = 0) ∧
        (opens = false → t.fld (F.portState p) = 0) ∧
        (opens = true → t.flag (F.portSpill p) = false ∧ t.fld (F.portWidth p) = 0 ∧ t.fld (F.portState p) =
          if s.flag (F.portEnable p) && s.fld (F.portMode p) == 0 && !s.pins.perst && s.fld F.lcState != 4 then 2
          else 0))) ∧
    (∀ good : List (Fin 9), s.mayTrain p = true → x.trained = false → x.retryAt = false → good.Nodup →
      (s.fld (F.portState p) ≤ 1 → exec (.linkTraining p good) s = .next (s.setFld (F.portState p) 2)) ∧
      (s.fld (F.portState p) = 2 → 8 ≤ good.length → completes (.linkTraining p good) s (fun t =>
        t.fld (F.portState p) = 2 ∧ t.fld (F.portWidth p) = 8 ∧
        (t.portOf p).lanes = good.take 8 ∧ (t.portOf p).spare = good[8]? ∧ t.flag (F.portSpareFree p) = good[8]?.isSome ∧
        (∃ nonce,
          let hello := leBytes 2 (s.fld F.deviceId) ++ leBytes 1 p.val ++ leBytes 1 8 ++ nonce
          (t.portOf p).helloSent = some nonce ∧ nonce.length = 32 ∧
          t.out = s.out ++ [.link p 1 hello, .flit p ⟨some 0, 0, 11, true, true, leBytes 1 1 ++ hello⟩
            (flitHeader (flitCtl 0 true true false false) 11 0 4095 0 0 37) none]) ∧
        t.mem = s.mem)) ∧
      (s.fld (F.portState p) = 2 → good.length < 4 → completes (.linkTraining p good) s (fun t =>
        t.fld (F.portState p) = 0 ∧ t.fld (F.portWidth p) = 0 ∧ t.out = s.out ∧ t.mem = s.mem)))

/-- R418, R419, R462: a HELLO records the peer and brings the port to ATTESTING; a REPORT that is accepted gives the peer's key,
to which this side encapsulates, and one that is not takes the port DOWN for 1 s, with ATTEST_FAIL; an ENCAP is kept until
both sides have encapsulated, and the keys of generation 0 are then derived; an agreement that takes too long fails. R421: a
link whose counter has passed the middle of its generation, or whose peer asks for it, sends REKEY with a fresh key; a
direction that has held for 100 ms takes the port DOWN, and it trains again. Where the rules leave a corner open it follows the model's reading,
log 71 and 73. -/
def Obligations.LinkBringUp : Prop :=
  (
  ∀ (s : State) (p : Port), s.linksRun = true →
    let x := s.portOf p
    let failed (t : State) : Prop := t.fld (F.portState p) = 0 ∧ (t.portOf p).retryAt = true ∧ t.flag (F.attestFail p) = true ∧
      (t.portOf p).keys = [] ∧ t.mem = s.mem
    (∀ (device : BitVec 16) (peerPort width : BitVec 8) nonce, s.fld (F.portState p) = 2 → x.trained = true →
      nonce.length = 32 →
      completes (.hello p device peerPort width nonce) s (fun t => t.fld (F.portState p) = 3 ∧
        t.fld (F.peerDevice p) = device.toNat ∧ t.fld (F.portWidth p) = min (s.fld (F.portWidth p)) width.toNat ∧
        (t.portOf p).helloPeer = some (device.toNat, peerPort.toNat, width.toNat, nonce) ∧ t.mem = s.mem)) ∧
    (s.fld (F.portState p) = 3 → x.keys = [] → s.fld F.lcState = 2 →
      completes (.keyAgreementTimeout p) s failed ∧
      (∀ bytes, x.peerKey = none → s.acceptsReport x bytes = false → completes (.report p bytes) s failed) ∧
      (∀ bytes, x.peerKey = none → s.acceptsReport x bytes = true → s.flag F.entropyFail = false → x.encapIn = none →
        completes (.report p bytes) s (fun t => (t.portOf p).peerKey = some (reportParts bytes).2.2 ∧
          (∃ ss ct flits, (t.portOf p).sealed = some (ss, ct) ∧ t.out = s.out ++ .link p 3 ct :: flits ∧
            ∀ o ∈ flits, ∃ f h, o = .flit p f h none) ∧
          t.fld (F.portState p) = 3 ∧ t.mem = s.mem)) ∧
      (∀ ct : List Byte, ct.length = 1088 → x.encapIn = none →
        (x.sealed = none → exec (.encap p ct) s = .next { s with
          fab := { s.fab with ports := s.fab.ports.insert p { x with encapIn := some ct } } }) ∧
        (∀ seed pk z, x.eseed = some seed → x.peerKey = some pk → x.sealed = some z →
          completes (.encap p ct) s (fun t => (t.portOf p).keyGen = 0 ∧ (∃ k, (t.portOf p).keys = [(0, k)]) ∧
            (t.portOf p).eseed = none ∧ (t.portOf p).sealed = none ∧ t.fld (F.txFrames p) = 0 ∧ t.mem = s.mem)))) ∧
    (x.retryAt = true → s.mayTrain p = true → exec (.attestRetry p) s = .next (State.setFld { s with
      fab := { s.fab with ports := s.fab.ports.insert p { x with retryAt := false } } } (F.portState p) 2))) ∧
  (
  ∀ (s : State) (p : Port), s.linksRun = true →
    let x := s.portOf p
    (s.fld (F.portMode p) = 0 → s.fld (F.portState p) = 4 → x.rekeying = false → s.flag F.entropyFail = false →
      (x.keyGen * 2 ^ 32 + 2 ^ 31 < max x.txFrame x.rxFrame →
        completes (.rekeyThreshold p) s (fun t => (t.portOf p).rekeying = true ∧ (t.portOf p).eseed.isSome = true ∧
          (t.portOf p).keys = x.keys ∧ t.fld (F.portState p) = 4 ∧ t.mem = s.mem)) ∧
      (∀ key : List Byte, key.length = 1184 → x.peerKey = none → x.encapIn = none →
        completes (.rekey p key) s (fun t => (t.portOf p).rekeying = true ∧ (t.portOf p).peerKey = some key ∧
          (t.portOf p).sealed.isSome = true ∧ (t.portOf p).keyGen = x.keyGen ∧ t.mem = s.mem))) ∧
    (s.flag (F.keyHold p) = true → completes (.keyHoldTimeout p) s (fun t =>
      t.fld (F.portState p) = (if s.mayTrain p then 2 else 0) ∧
      (t.portOf p).keys = [] ∧ (t.portOf p).retry = [] ∧ t.flag (F.keyHold p) = false ∧ t.mem = s.mem)))

/-- R420–R424: a good flit in order whose tag is that of its bytes under the key of its generation is accepted and its credit
returned; one whose FEC or tag fails, or that comes after a gap, is answered with a NAK, and the 17th failed tag of a step
takes the port DOWN; the frame counter that ends the last generation agreed sets KEY_HOLD; a NAK, or 2 µs without an acknowledgement, sends again every flit that is not acknowledged. Where the
rules leave a corner open it follows the model's reading, log 71. -/
def Obligations.Flits : Prop :=
  ∀ (s : State) (p : Port), s.linksRun = true → s.fld (F.portMode p) = 0 → s.fld (F.portState p) = 4 →
    let x := s.portOf p
    (∀ f : Flit, f.corrected = 0 →
      (f.good = false → x.nakked = false → completes (.flit p f) s (fun t =>
        t.fld (F.fecUncorr p) = satAdd (2 ^ (F.fecUncorr p).width - 2) (s.fld (F.fecUncorr p)) 1 ∧
        (t.portOf p).rxSeq = x.rxSeq ∧ t.out = s.out ++ [.nak p ((x.rxSeq + 4095) % 4096)] ∧ t.mem = s.mem)) ∧
      (f.good = true → s.tagOk p f = false → x.nakked = false → completes (.flit p f) s (fun t => t.mem = s.mem ∧
        (x.tagFails < 16 → (t.portOf p).tagFails = x.tagFails + 1 ∧ t.out = s.out ++ [.nak p ((x.rxSeq + 4095) % 4096)] ∧
          t.fld (F.linkTagFail p) = satAdd (2 ^ (F.linkTagFail p).width - 2) (s.fld (F.linkTagFail p)) 1) ∧
        (16 ≤ x.tagFails → t.fld (F.portState p) = 0 ∧ (t.portOf p).retry = []))) ∧
      (f.good = true → s.tagOk p f = true → x.keys ≠ [] → f.nak = false → f.idle = false → (f.vc ≠ 0 ∨ f.type.toNat ≠ 7) → x.wait = [] →
        (f.seq.toNat = x.rxSeq → completes (.flit p f) s (fun t => (t.portOf p).rxSeq = (x.rxSeq + 1) % 4096 ∧
          (t.portOf p).rxFrame = fullFrame x.rxFrame f.frame.toNat + 1 ∧ (t.portOf p).nakked = false ∧
          (fullFrame x.rxFrame f.frame.toNat + 1 = x.frameEnd → t.flag (F.keyHold p) = true) ∧
          (t.portOf p).retry = x.retry.filter (fun g => !ackedBy f.ack.toNat g) ∧
          t.out = s.out ++ [.credit p f.vc.val 1] ∧ t.mem = s.mem)) ∧
        (x.rxSeq < 4096 → 0 < (f.seq.toNat + 4096 - x.rxSeq) % 4096 → (f.seq.toNat + 4096 - x.rxSeq) % 4096 < 2048 →
          x.nakked = false → completes (.flit p f) s (fun t => (t.portOf p).rxSeq = x.rxSeq ∧
            (t.portOf p).nakked = true ∧ t.out = s.out ++ [.nak p ((x.rxSeq + 4095) % 4096)] ∧ t.mem = s.mem)))) ∧
    (let again (y : PortSt) : State := State.bump { s with fab := { s.fab with
        ports := s.fab.ports.insert p { y with wait := y.retry ++ y.wait, retry := [] } } } (F.linkRetry p)
     (∀ seq : BitVec 12, ∃ t, drainPort p (again { x with
          retry := x.retry.filter (fun f => !ackedBy seq.toNat f)
          wait := x.wait.filter (fun f => f.seq.isNone || !ackedBy seq.toNat f) }) = .ok () t ∧
        exec (.nak p seq) s = .next t) ∧
     (x.retry ≠ [] → ∃ t, drainPort p (again x) = .ok () t ∧ exec (.retryTimeout p) s = .next t))

/-- R428–R432, R554: a routed message that has arrived once before gets the same reply again and is not applied; a WRITE, READ
or SIGNAL that is new is applied under the window's owner or to its fence, and answered. Stated with the trace disabled.
R425, R426, R429, R430: a reply is taken by the request that waits for it, and one that nothing waits for has no effect; a
request without a reply is sent once more over the route, and the second time it is undelivered; a message for another
module goes on by its route, or is dropped and counted in MISROUTE. Stated with the trace disabled. Where the rules leave a
corner open it follows the model's reading, log 72. -/
def Obligations.RoutedTraffic : Prop :=
  (
  ∀ (s : State) (p : Port) (m : MsgHdr), s.linksRun = true → s.flag F.trEnable = false → m.dst.toNat = s.fld F.deviceId →
    (m.src.toNat = s.fld F.deviceId ∨ (s.fld (F.portMode p) = 0 ∧ s.fld (F.portState p) = 4)) →
    let seen := (s.fab.peers.getD m.src.toNat ⟨[]⟩).seen
    let noted (v : State) (reply status : Nat) (data : List Byte) : State := { v with fab := { v.fab with
      peers := v.fab.peers.insert m.src.toNat
        { seen := ((m.id.toNat, reply, status, data) :: (v.fab.peers.getD m.src.toNat ⟨[]⟩).seen).take 4096 } } }
    (∀ e (w : W32) (o : W64) data t, seen.find? (fun e => e.1 == m.id.toNat) = some e → e.2.1 ≠ 0 → 1 ≤ data.length →
      data.length ≤ 4096 → sendReply m e.2.1 e.2.2.1 e.2.2.2 s = .ok () t → exec (.write p m w o data) s = .next t) ∧
    (seen.find? (fun e => e.1 == m.id.toNat) = none →
      (∀ (w : W32) (o : W64) data owner base u v t, 1 ≤ data.length → data.length ≤ 4096 →
        findWindow m w.toNat o.toNat data.length true s = .ok (.ok (owner, base)) u →
        vaWrite owner (base + o.toNat) data u = .ok () v → sendReply m 5 0 [] (noted v 5 0 []) = .ok () t →
        exec (.write p m w o data) s = .next t) ∧
      (∀ (w : W32) (o : W64) data st u t, 1 ≤ data.length → data.length ≤ 4096 →
        findWindow m w.toNat o.toNat data.length true s = .ok (.error st) u →
        sendReply m 5 st [] (noted u 5 st []) = .ok () t → exec (.write p m w o data) s = .next t) ∧
      (∀ (w : W32) (o : W64) n owner base u b v t, 1 ≤ n → n ≤ 4096 →
        findWindow m w.toNat o.toNat n false s = .ok (.ok (owner, base)) u →
        vaRead owner (base + o.toNat) n u = .ok b v → sendReply m 3 0 b (noted v 3 0 b) = .ok () t →
        exec (.read p m w o n) s = .next t) ∧
      (∀ (c : Ctx) (fence op flags : Byte) value u t, m.dstCtx.toNat = c.val → (op.toNat = 1 ∨ op.toNat = 2) → flags.toNat < 2 →
        remoteSignal m.src.toNat m.srcCtx.toNat c fence.toFin op.toNat value.toNat (flags.toNat == 1) s = .ok () u →
        sendReply m 5 0 [] (noted u 5 0 []) = .ok () t → exec (.signal p m fence op flags value) s = .next t) ∧
      (∀ marker, exec (.trace p m marker) s = .next (noted s 0 0 [])))) ∧
  (
  ∀ (s : State) (p : Port) (m : MsgHdr), s.linksRun = true → s.flag F.trEnable = false →
    let drop (id : Nat) : State := { s with fab := { s.fab with sent := s.fab.sent.filter (fun x => x.id ≠ id) } }
    (m.dst.toNat = s.fld F.deviceId →
      (m.src.toNat = s.fld F.deviceId ∨ (s.fld (F.portMode p) = 0 ∧ s.fld (F.portState p) = 4)) →
      ∀ (req : W32) (status : Byte) data, status.toNat ≤ 5 →
      (s.sentMsg req.toNat = none → exec (.readRsp p m req status data) s = .next s ∧ exec (.ack p m req status) s = .next s) ∧
      (∀ x e ch order off t, s.sentMsg req.toNat = some x → x.hdr.dst = m.src → x.eng = some (e, ch, order, off) → status = 0 →
        (x.type = 2 → dataIn e ch order off (2 * x.id + 1) data (drop x.id) = .ok () t →
          exec (.readRsp p m req status data) s = .next t) ∧
        (x.type = 1 → writeDone e ch order (2 * x.id + 1) (drop x.id) = .ok () t → exec (.ack p m req status) s = .next t))) ∧
    (∀ (id : W32) x, s.sentMsg id.toNat = some x →
      (x.resent = true → x.eng = none → x.type = 4 →
        exec (.e2eTimeout id) s = .next (State.bump { s.bump F.e2eFail with fab := (drop x.id).fab } F.feSignalLost)) ∧
      (∀ r u t, x.resent = false → routeTo x.hdr.dst.toNat s = .ok (some r) u →
        launch x.type { x.hdr with route := r } x.body true { u.bump F.e2eResend with fab := { u.fab with
          sent := u.fab.sent.map (fun y => if y.id = x.id then { y with resent := true, hdr := { x.hdr with route := r } } else y) } }
          = .ok () t → exec (.e2eTimeout id) s = .next t)) ∧
    (s.fld (F.portMode p) = 0 → s.fld (F.portState p) = 4 → m.dst.toNat ≠ s.fld F.deviceId → ∀ (type : Byte) body,
      routedType type.toNat = true →
      (forwardStep s p m = none → exec (.routedForward p type m body) s = .next (s.bump F.misroute)) ∧
      (∀ h trunk, forwardStep s p m = some (h, trunk) →
        (s.trunkUp trunk = none → exec (.routedForward p type m body) s = .next (s.bump F.misroute)) ∧
        (∀ q t, s.trunkUp trunk = some q →
          transmit q type.toNat (hdrBytes h ++ body) { s with out := s.out ++ [.forward q type h] } = .ok () t →
          exec (.routedForward p type m body) s = .next t))))

/-- R435–R439, R411: a frame leaves at once, or waits while its priority is paused and leaves when the pause ends; a SEND is
written to the receive ring behind its header and acknowledged, or turned away when the ring is absent or full; a congestion
notification halves the rate of a queue pair and 50 µs without one raise it; retries are counted and then the queue pair
fails its drains; the sub-ports' links give the port's state and width. Where the rules leave a corner open it follows the model's reading, log 74. -/
def Obligations.EthernetPorts : Prop :=
  ∀ (s : State) (p : Port) (qp : Fin 4096), s.linksRun = true →
    (∀ (f : Roce) x t, advancePsn qp.val f s = .ok () t → t.qpPrio qp.val = some x →
      sendRoce qp.val f s = .ok () (if t.qpPaused qp.val then { t with fab := { t.fab with
        held := t.fab.held ++ [(x.1, x.2, qp.val, f)] } } else { t with out := t.out ++ [.roce qp.val f] })) ∧
    (∀ b u, s.flag F.qpValid = true → vaRead 0 (s.qpAddr qp.val) 128 s = .ok b u → qpOk b = true →
      s.fld (F.portMode (qpPort b)) ≠ 0 → ∀ (psn : BitVec 24) data,
      (recField b 0x40 8 = 0 → ∀ t, sendRoce qp.val (.ack 1) u = .ok () t → exec (.send qp psn data) s = .next t) ∧
      (let slots := 2 ^ (recField b 0x48 1 % 32)
       let tail := recField b 0x50 4
       recField b 0x40 8 ≠ 0 → s.fab.rheads.getD qp.val (recField b 0x4C 4) = recField b 0x4C 4 →
       let v : State := { u with fab := { u.fab with rheads := u.fab.rheads.insert qp.val (recField b 0x4C 4) } }
       ((tail + 2 ^ 32 - recField b 0x4C 4) % 2 ^ 32 = slots →
         ∀ t, sendRoce qp.val (.ack 1) v = .ok () t → exec (.send qp psn data) s = .next t) ∧
       ((tail + 2 ^ 32 - recField b 0x4C 4) % 2 ^ 32 ≠ slots → data.length ≤ 4064 →
         ∀ w, (do
            vaWrite 0 (recField b 0x40 8 + 4096 * (tail % slots) + 32) data
            vaWrite 0 (recField b 0x40 8 + 4096 * (tail % slots))
              (leBytes 4 data.length ++ leBytes 4 psn.toNat ++ leBytes 4 tail ++ leBytes 20 0)
            vaWrite 0 (s.qpAddr qp.val + 0x50) (leBytes 4 (tail + 1))
            vaWrite 0 (s.qpAddr qp.val + 0x0C) (leBytes 4 ((psn.toNat + 1) % 2 ^ 24)) : M Unit) v = .ok () w →
           ∀ t, sendRoce qp.val (.ack 0) w = .ok () t → exec (.send qp psn data) s = .next t)) ∧
      (s.qpBusy qp.val = true → s.fab.qpRetry.getD qp.val 0 < recField b 0x3B 1 % 8 →
        ∀ t, sendRoce qp.val .retry { u with
          fab := { u.fab with qpRetry := u.fab.qpRetry.insert qp.val (s.fab.qpRetry.getD qp.val 0 + 1) } } = .ok () t →
        exec (.qpAckTimeout qp) s = .next t)) ∧
    (exec (.congestionNotification qp) s = .next { s with
      fab := { s.fab with rates := s.fab.rates.insert qp.val (s.rateOf qp.val / 2) } }) ∧
    (exec (.rateRecovery qp) s = .next { s with
      fab := { s.fab with rates := s.fab.rates.insert qp.val (min (2 ^ 64) (s.rateOf qp.val + 2 ^ 60)) } }) ∧
    (s.qpBusy qp.val = true →
      exec (.rdmaCompletion qp .ok) s = .next { s with fab := { s.fab with qpRetry := s.fab.qpRetry.erase qp.val } } ∧
      (Awake s → s.shardsOn qp.val = [] → completes (.rdmaCompletion qp .failed) s (fun t =>
        (∀ d ∈ s.drainsOn qp.val, t.fld (F.drainState d.1) = 5) ∧ t.fab.qpRetry = s.fab.qpRetry.erase qp.val ∧
        t.cores = s.cores))) ∧
    (∀ (prio : Fin 8), s.fld (F.portState p) = 5 →
      completes (.pfcPause p prio true) s (fun t => prio ∈ (t.portOf p).paused ∧ t.mem = s.mem ∧ t.regs = s.regs) ∧
      completes (.pfcPause p prio false) s (fun t => prio ∉ (t.portOf p).paused ∧ t.mem = s.mem ∧ t.regs = s.regs ∧
        (let mine (h : Port × Nat × Nat × Roce) : Bool := h.1 == p && h.2.1 == prio.val
         t.out = s.out ++ (s.fab.held.filter mine).map (fun h => .roce h.2.2.1 h.2.2.2) ∧
         t.fab.held = s.fab.held.filter (fun h => !mine h)))) ∧
    (s.flag (F.portEnable p) = true → s.fld (F.portMode p) = 1 → pairOf p ∉ s.fab.closed → (∀ m ∈ s.fab.moving, m.1 ≠ pairOf p) →
      s.fld F.lcState ≠ 4 → s.fld (F.portSubUp p) = 0 →
      completes (.ethLinkUp p 0) s (fun t => t.fld (F.portState p) = 5 ∧ t.fld (F.portWidth p) = 8 ∧
        t.fld (F.portSubUp p) = 1 ∧ t.mem = s.mem ∧ t.fab = s.fab)) ∧
    (s.fld (F.portState p) = 5 → s.fld (F.portSubUp p) = 1 → s.fld (F.portMode p) = 1 →
      completes (.ethLinkDown p 0) s (fun t => t.fld (F.portState p) = 0 ∧ t.fld (F.portWidth p) = 0 ∧
        t.fld (F.portSubUp p) = 0 ∧ (t.portOf p).paused = [] ∧ t.mem = s.mem))

/-! ### The host attachment -/

/-- R450–R452: a host load of a line that the window admits answers its bytes and may leave the line held, and a store writes
them; an access that the window does not admit is counted, and a load is answered with poison; a back-invalidation and an
access of a held line give it up; VALID is set only where the window fits. R446–R449: a snoop of the host writes dirty lines
of the coherence cache back and drops the line; an invalidation of a function drops its cached translations; a completion
gives its bytes to the access that waits, and one with poison ends the command of the core that waits with INTEGRITY.
R441–R444, R455, R456, R459, R500: the link's width and rate are shown, with DEGRADED below x8 or the top rate; NumVFs is
what the host writes; a Function Level Reset resets the VF's context; a signal through the window from a known requester is
applied and completed, and any other is rejected; DOE Discovery names the three protocols. Where the rules leave a corner
open it follows the model's reading, log 75 and 76. -/
def Obligations.HostAttachment : Prop :=
  (
  ∀ (s : State), s.works = true →
    (∀ a n slot dpa b u, s.windowSlot a n = some (slot, dpa) → 1 ≤ n → a % 64 + n ≤ 64 →
      ignoringHeld (do let b ← readDpa slot dpa n; pure (dpa, b)) s = .ok (dpa, b) u →
      exec (.hostMemAccess a none n) s = .next { u with
        cxl := { u.cxl with held := if u.cxl.held.contains (dpa / 64) then u.cxl.held else u.cxl.held ++ [dpa / 64] }
        out := u.out ++ [.hostReply b false] }) ∧
    (∀ a bs len slot dpa r u, s.windowSlot a bs.length = some (slot, dpa) → 1 ≤ bs.length → a % 64 + bs.length ≤ 64 →
      ignoringHeld (do
        checkWrite slot (dpa / 256) false
        writeGranule slot dpa bs
        pure (dpa, ([] : List Byte))) s = .ok r u →
      exec (.hostMemAccess a (some bs) len) s = .next u) ∧
    (∀ a bs len, s.windowSlot a bs.length = none → 1 ≤ bs.length → a % 64 + bs.length ≤ 64 →
      exec (.hostMemAccess a (some bs) len) s = .next (s.bump F.hdmErr)) ∧
    (∀ a n, s.windowSlot a n = none → 1 ≤ n → a % 64 + n ≤ 64 → completes (.hostMemAccess a none n) s (fun t =>
      (∃ b, t.out = s.out ++ [.hostReply b true] ∧ b.length = n) ∧ t.regs = (s.bump F.hdmErr).regs ∧ t.mem = s.mem)) ∧
    (∀ line, line ∈ s.cxl.held → exec (.backInvalidate line) s = .next { s with
      out := s.out ++ [.snoop line], cxl := { s.cxl with held := s.cxl.held.filter (· ≠ line) } }) ∧
    (∀ (h : Half) (v : W64), s.flag F.hdmValid = false →
      let t := s.checkedWrite .cxHdm h v (fun _ _ => true)
      t.flag F.hdmValid = true →
      exec (.cxHdmValid h v) s = .next
        (if s.windowOk (t.fld F.hdmBase) (t.fld F.hdmSize) = true then t else t.setFlag F.hdmValid false)) ∧
    (∀ base size, exec (.hdmDecoderCommit base size) s = .next { s with
      cxl := { s.cxl with hdm := (base, size, decide (size = s.fld F.hdmSize * 2 ^ 28)) } })) ∧
  (
  ∀ (s : State), s.works = true →
    (∀ line, completes (.hostSnoop line) s (fun t => t.cxl.coh = s.cxl.coh.filter (fun p => p.1.2 ≠ line) ∧
      t.out = s.out ++ (s.cxl.coh.filter (fun p => p.1.2 == line && p.2.1)).map (fun p => .hostWrite p.1.1 (64 * line) p.2.2) ∧
      t.mem = s.mem ∧ t.cores = s.cores ∧ t.regs = s.regs)) ∧
    (∀ c, (∀ r ∈ s.cxl.reqs, r.fn = c → r.use.aperture = false) → exec (.atsInvalidation c) s = .next { s with
      cxl := { s.cxl with ats := s.cxl.ats.filter (fun p => p.1 ≠ c) } }) ∧
    (∀ id r, s.cxl.reqs.find? (fun r => r.id == id) = some r →
      let taken : State := { s with cxl := { s.cxl with reqs := s.cxl.reqs.filter (fun y => y.id ≠ id) } }
      (∀ b t, b.length = r.answer → r.use.aperture = true → apertureData r b taken = .ok () t →
        exec (.hostRequestCompletion id (.data b)) s = .next t) ∧
      (∀ e ch order off b t, r.use = .dmaRead e ch order off → b.length = r.len →
        dataIn e ch order off (2 * id) b taken = .ok () t → exec (.hostRequestCompletion id (.data b)) s = .next t) ∧
      (∀ n k g x, r.use = .load n → s.jobs = [] → s.cores.find? n = some k → k.stage = none →
        k.gl.find? (fun g => g.host == some id) = some g → s.cmdOf k.ctx k.q k.idx = some x → x.ending = none →
        completes (.hostRequestCompletion id .poison) s (fun t => ended t k.ctx k.q k.idx ⟨5, 0x91, some (n, g.pc)⟩ ∧
          t.fld F.hostFault = satAdd (2 ^ F.hostFault.width - 2) (s.fld F.hostFault) 1 ∧ t.cores.find? n = none ∧
          t.mem = s.mem)))) ∧
  (
  ∀ (s : State), s.works = true →
    (∀ width rate, width ∈ [1, 2, 4, 8] → 1 ≤ rate → rate ≤ 6 →
      exec (.cxlLinkTrained width rate) s = .next (((s.setFld F.cxWidth width).setFld F.cxRate rate).setFlag F.cxDegraded
        (decide (width < 8 ∨ rate < 6)))) ∧
    exec .cxlLinkDown s = .next (((s.setFld F.cxWidth 0).setFld F.cxRate 0).setFlag F.cxDegraded true) ∧
    (∀ n ≤ 1024, exec (.numvfsWrite n) s = .next { s with cxl := { s.cxl with
      numVfs := n, vecs := s.cxl.vecs.filter (fun p => decide (p.1.1.val ≤ n)) } }) ∧
    (∀ c : Ctx, 1 ≤ c.val → c.val ≤ s.cxl.numVfs → Silent s → s.jobs = [] → (∀ q, (s.queueOf c q).cmds = []) →
      s.ctxLive c = true → completes (.functionLevelReset c) s (fun t => (t.ctxs.getD c .absent).phase = .teardown ∧
        (t.ctxs.getD c .absent).gen = (s.genOf c + 1) % 4096 ∧ (∀ v, t.cxl.vecs.find? (c, v) = none) ∧
        t.mem = s.mem ∧ t.sram = s.sram ∧ t.cores = s.cores)) ∧
    (∀ (rid : BitVec 16) msg u, findPeer (recField msg 0 2) s = .ok none u → ∀ a,
      exec (.uioSignal rid a msg) s = .next (u.bump F.uioReject)) ∧
    (∀ (rid : BitVec 16) msg (c : Ctx) (k : FenceId) a u v, findPeer (recField msg 0 2) s = .ok (some (a, rid.toNat)) u →
      msg.length = 32 → recField msg 9 7 = 0 → recField msg 24 8 = 0 → recField msg 8 1 < 2 →
      (recField msg 7 1 = 1 ∨ recField msg 7 1 = 2) → recField msg 4 2 = c.val → recField msg 6 1 = k.val →
      remoteSignal (recField msg 0 2) (recField msg 2 2) c k (recField msg 7 1) (recField msg 16 8) (recField msg 8 1 == 1) u =
        .ok () v →
      exec (.uioSignal rid true msg) s = .next { v with out := v.out ++ [.uioDone rid.toNat] }) ∧
    (∀ tag ok, (∃ r ∈ s.cxl.uio, r.tag = tag) →
      let t : State := { s with cxl := { s.cxl with uio := s.cxl.uio.filter (fun u => u.tag ≠ tag) } }
      exec (.uioCompletion tag ok) s = .next (if ok then t else t.bump F.feSignalLost)) ∧
    (∀ i p, doeProtocols[i]? = some p → exec (.doeDiscovery i) s = .next { s with
      out := s.out ++ [.doe (leBytes 2 p.1 ++ leBytes 1 p.2 ++ leBytes 1 (if i < 2 then i + 1 else 0))] }))

/-! ### Security -/

/-- R467, R473, R474, R462: SE_REGISTER of a class and a digest; SE_SET_JOIN whose checks pass, which waits while the source of
entropy has failed; SE_SET_LEAVE of a set that nothing uses. R462, R465, R470–R472, R480–R483: SE_ATTEST writes its report
at the destination, and ATTEST answers one over DOE; SE_LC whose checks pass runs, and when its writes are done the module
restarts in the new state; a failed source of entropy is shown, and when it works again a rekey that waited is done. Where
the rules leave a corner open it follows the model's reading, log 77, 78 and 79. -/
def Obligations.Security : Prop :=
  (
  ∀ (s : State) (q : QIdx) (x : Cmd), s.sec.lcJob = none →
    (∀ k : Fin 32, SysStarted s q 0x30 x → recField x.body 2 1 = k.val → recField x.body 3 1 ≤ 3 → recField x.body 4 4 = 0 →
      zeroFrom x.body 0x28 = true → completes (.seRegister q) s (fun t => ended t 0 q x.idx ⟨0, 0, none⟩ ∧
        t.sec.registry.find? k = (if recField x.body 3 1 = 0 then none else some (recField x.body 3 1, recField x.body 8 32)) ∧
        (∀ j, j ≠ k → t.sec.registry.find? j = s.sec.registry.find? j) ∧
        bitOf (t.fld F.regUsed) k.val = decide (recField x.body 3 1 ≠ 0) ∧ t.mem = s.mem ∧ t.cores = s.cores)) ∧
    (∀ k setId key u, SysStarted s q 0x31 x → joinChecks x s = .ok (k, setId, key) u → onlyMem s u →
      (s.flag F.entropyFail = false → completes (.seSetJoin q) s (fun t => ended t 0 q x.idx ⟨0, 0, none⟩ ∧
        t.sec.sets.find? k = some (setId, key) ∧ t.fld (F.setId0 k) = setId % 2 ^ 64 ∧
        t.fld (F.setId1 k) = setId / 2 ^ 64 % 2 ^ 64 ∧ t.mem = u.mem ∧ t.cores = s.cores)) ∧
      (s.flag F.entropyFail = true → completes (.seSetJoin q) s (fun t =>
        t.cmdOf 0 q x.idx = some { x with phase := .running } ∧ t.sec.sets = s.sec.sets ∧
        t.sec.joinWait = s.sec.joinWait ++ [(s.sysRef q x.idx, 0)] ∧ t.mem = u.mem))) ∧
    (∀ k : Fin 16, SysStarted s q 0x32 x → recField x.body 2 1 = k.val → zeroFrom x.body 3 = true →
      (∀ p, s.sec.sets.find? k = some p → s.setBusy p.1 = false) →
      completes (.seSetLeave q) s (fun t => ended t 0 q x.idx ⟨0, 0, none⟩ ∧ t.sec.sets.find? k = none ∧
        (∀ j, j ≠ k → t.sec.sets.find? j = s.sec.sets.find? j) ∧ t.fld (F.setId0 k) = 0 ∧ t.fld (F.setId1 k) = 0 ∧
        t.mem = s.mem ∧ t.cores = s.cores))) ∧
  (
  ∀ (s : State) (q : QIdx) (x : Cmd),
    (∀ h r v w, SysStarted s q 0x33 x → s.sec.lcJob = none → recField x.body 2 2 = 0 → zeroFrom x.body 0x28 = true →
      x.handleAt 4 = some h → h.kind = 1 → bitOf h.rights 1 = true → (reportDelivery s (leBytes 3840 0)).length ≤ h.size →
      signedReport 3 ((x.body.drop 8).take 32) s = .ok (some r) v → vaWrite 0 h.address (reportDelivery v r) v = .ok () w →
      onlyMem v w →
      completes (.seAttest q) s (fun t => ended t 0 q x.idx ⟨0, 0, none⟩ ∧ t.mem = w.mem ∧ t.cores = s.cores)) ∧
    (∀ nonce : List Byte, nonce.length = 32 → s.unstopped = true → s.pow.powered = true → s.pins.perst = false →
      s.fld F.bootStage ≠ 0 → s.fld F.bootStage ≠ 15 → ∀ r v, signedReport 1 nonce s = .ok r v →
      exec (.attest nonce) s = .next { v with out := v.out ++ [.doe (match r with
        | some r => reportDelivery v r
        | none => leBytes 4 0xFFFFFFFF)] }) ∧
    (∀ j u, SysStarted s q 0x34 x → s.sec.lcJob = none → lcChecks q x s = .ok j u → onlyMem s u →
      completes (.seLc q) s (fun t => t.cmdOf 0 q x.idx = some { x with phase := .running } ∧ t.sec.lcJob = some j ∧
        t.flag F.lcBusy = true ∧ t.fld F.lcState = s.fld F.lcState ∧ t.mem = u.mem ∧ t.cores = s.cores)) ∧
    (∀ j, s.works = true → s.sec.lcJob = some j → j.q.1 = q → s.sysCmd j.q = none → j.target < 8 →
      completes (.seLc q) s (fun t => t.fld F.lcState = j.target ∧ t.sec.lcRows = j.target ∧
        t.sec.lcJob = none ∧ t.flag F.pwReady = false ∧ t.fld F.bootStage = 0 ∧ t.cores = [] ∧ t.ctxs = [] ∧
        t.mem.bytes = [] ∧ t.mem.keys = [] ∧ t.pow.booting = true)) ∧
    exec .entropyFail s = .next (s.setFlag F.entropyFail true) ∧
    (∀ slot, s.flag F.entropyFail = true → (∀ c r n, (s.ctxs.getD c .absent).phase ≠ .creating r n) → s.sec.joinWait = [] →
      s.sec.rekeyWait = [slot] → (∀ p, s.fld (F.portState p) ≠ 3) →
      exec .entropyRecovery s = .next { s.setFlag F.entropyFail false with
        mem := s.mem.rekeySlot slot, sec := { s.sec with rekeyWait := [] } }))

/-! ### Firmware, power and start-up -/

/-- R521–R524: a write of PW_REQ that asks for a transition is refused with the first reason that holds, and changes nothing;
else the transition runs. It completes when what it waits for is done: QUIET, ACTIVE, a die parked with its pool cache clean
and its stacks in self-refresh, or unparked. R525–R530, R542, R563: in each control interval the cap's pace falls while the
mean power exceeds the cap and rises by one below 98 % of it; a sensor at its threshold lowers the throttle's pace by 8 and
THROTTLE is set; a low input sets INPUT_LOW; a sensor at its trip temperature trips the module and closes its spillways.
Where the rules leave a corner open it follows the model's reading, log 83 and 84. -/
def Obligations.Power : Prop :=
  (
  ∀ (s : State),
    (∀ (h : Half) (v : W64), s.flag F.pwReady = true → s.rep.moduleFault = false →
      let m := (s.asksPw h v).1
      let k := (s.asksPw h v).2
      ∀ r ∈ ([(.activeToQuiet, m = 1 ∧ s.fld F.pwReqMode = 0), (.quietToActive, m = 0 ∧ s.fld F.pwReqMode = 1),
          (.park, parkChange (s.fld F.pwReqPark) k true ≠ []), (.unpark, parkChange (s.fld F.pwReqPark) k false ≠ [])] :
          List ((Half → W64 → Instr) × Prop)), r.2 →
        (∀ n, s.pwRefusal m k = some n →
          exec (r.1 h v) s = .next ((s.setFlag F.pwReject true).setFld F.pwReason n)) ∧
        (s.pwRefusal m k = none →
          exec (r.1 h v) s = .next { ((s.setFld F.pwReqMode m).setFld F.pwReqPark k).setFlag F.pwBusy true with
            pow := { s.pow with trans := (s.pwSteps m k).head?, transRest := (s.pwSteps m k).drop 1, transTick := false } })) ∧
    (∀ tr, s.works = true → Silent s → s.pow.trans = some tr → s.pow.transRest = [] →
      (tr = .toQuiet → s.quietReady = true → completes .powerTransitionComplete s (fun t => t.fld F.pwMode = 1 ∧
        t.flag F.pwBusy = false ∧ t.pow.trans = none ∧ t.mem = s.mem)) ∧
      (tr = .toActive → completes .powerTransitionComplete s (fun t => t.fld F.pwMode = 0 ∧
        t.flag F.pwBusy = false ∧ t.pow.trans = none ∧ t.mem = s.mem)) ∧
      (∀ d, tr = .park d → s.parkReady d = true → completes .powerTransitionComplete s (fun t =>
        bitOf (t.fld F.pwParked) d.val = true ∧ (∀ j : Stack, onStackOf d j.val = true → j ∈ t.mem.selfRefresh) ∧
        (∀ p ∈ t.mem.dirty, homeDie s.mem.partNow (p.1 * 256) ≠ d.val) ∧ t.mem.bytes = s.mem.bytes ∧ t.cores = s.cores)) ∧
      (∀ d, tr = .unpark d → (∀ j ∈ s.mem.selfRefresh, onStackOf d j.val = false) →
        completes .powerTransitionComplete s (fun t => bitOf (t.fld F.pwParked) d.val = false ∧ t.mem = s.mem ∧
          t.cores = s.cores)))) ∧
  (
  ∀ (s : State), s.works = true →
    (∀ mean peak (sensors : List Int), Silent s → sensors.length = 56 → s.flag F.pwInputLow = false →
      768 ≤ nthD sensors 54 0 → (∀ i < 32, nthD sensors i 0 < s.threshold i) → s.pow.throttleBy = none →
      s.trips sensors = false →
      (mean * 100 < s.fld F.capW * 98 → completes (.controlInterval mean peak sensors) s (fun t =>
        t.fld F.capPace = min 64 (s.fld F.capPace + 1) ∧ t.fld F.throttlePace = s.fld F.throttlePace ∧
        t.fld F.pace = min (min 64 (s.fld F.capPace + 1)) (s.fld F.throttlePace) ∧ t.mem = s.mem ∧ t.cores = s.cores)) ∧
      (s.fld F.capW < mean → completes (.controlInterval mean peak sensors) s (fun t =>
        1 ≤ t.fld F.capPace ∧ t.fld F.capPace ≤ max 1 (s.fld F.capPace - 1) ∧
        t.flag F.pwCapUnmet = decide (t.fld F.capPace = 1) ∧ t.mem = s.mem ∧ t.cores = s.cores))) ∧
    (∀ mean peak (sensors : List Int) i, Silent s → sensors.length = 56 → i < 32 → s.threshold i ≤ nthD sensors i 0 →
      s.trips sensors = false → completes (.controlInterval mean peak sensors) s (fun t =>
        t.fld F.throttlePace = max 1 (s.fld F.throttlePace - 8) ∧ t.pow.throttleBy.isSome = true ∧
        (s.pow.throttleBy = none → t.flag F.pwThrottle = true) ∧ t.mem = s.mem ∧ t.cores = s.cores)) ∧
    (∀ mean peak (sensors : List Int) i, Silent s → sensors.length = 56 → i < 32 → s.tripAt i ≤ nthD sensors i 0 →
      completes (.controlInterval mean peak sensors) s (fun t => t.flag F.pwTripped = true ∧ t.pins.thermtrip = true ∧
        t.works = false ∧ (∀ k, k ∈ t.fab.closed) ∧ t.mem = s.mem ∧ t.cores = s.cores)) ∧
    (∀ volts amps, volts < 768 → amps ≤ 1000 →
      exec (.inputLow volts amps) s = .next (s.setFlag F.pwInputLow true)) ∧
    (∀ volts amps, volts < 768 → 1000 < amps → completes (.inputLow volts amps) s (fun t => t.flag F.pwInputLow = true ∧
      1 ≤ t.fld F.capPace ∧ t.fld F.capPace ≤ max 1 (s.fld F.capPace - 1) ∧ t.mem = s.mem ∧ t.cores = s.cores)) ∧
    (∀ i : Fin 56, i.val < 32 → completes (.thermalTrip i) s (fun t => t.flag F.pwTripped = true ∧ t.pins.thermtrip = true ∧
      t.works = false ∧ (∀ k, k ∈ t.fab.closed) ∧ t.mem = s.mem ∧ t.sram = s.sram ∧ t.cores = s.cores)))

/-- R531, R532, R559–R562: an assertion of PERST# ends everything volatile; its deassertion reads the straps and begins start-up
where the input stands; each stage leads to the next, the last to READY with context 0, and a failed one to FAILED with its
cause; faulty columns that WIPE_BIST finds in a core narrow it (R12, R162); removal of the input loses every volatile state, and its return releases PWR_GOOD. R533–R535, R541: in FETCH an
FW_IMAGE object at the offset reached is kept, and one at another offset is refused; 10 s without one in DEPLOYED starts the
fetch from a peer; a management message reads a sensor or the power state, or sets the cap. Where the rules leave a corner
open it follows the model's reading, log 80, 81 and 86. -/
def Obligations.StartUp : Prop :=
  (
  ∀ (s : State),
    let fresh' (t : State) : Prop := t.flag F.pwReady = false ∧ t.cores = [] ∧ t.ctxs = [] ∧ t.queues = [] ∧
      t.mem.bytes = [] ∧ t.mem.keys = [] ∧ t.jobs = [] ∧ t.fld F.lcState = s.sec.lcRows % 8 ∧ t.sec.owners = s.sec.owners
    (s.pins.perst = false → s.pow.powered = true → s.sec.lcJob = none → completes .perstAssert s (fun t => fresh' t ∧
      t.pins.perst = true ∧ t.pow.booting = false ∧ t.pow.armed = true)) ∧
    (∀ straps, s.pins.perst = true → completes (.perstDeassert straps) s (fun t => t.pins.perst = false ∧
      t.fld F.deviceId = straps.toNat ∧ t.mem = s.mem ∧
      t.pow.booting = (if s.pow.powered && s.pow.armed && !s.flag F.pwTripped then true else s.pow.booting))) ∧
    (s.pow.powered = true → s.sec.lcJob = none → completes .powerRemoval s (fun t => fresh' t ∧ t.pow.powered = false ∧
      t.pow.armed = false ∧ t.pins.pwrGood = false ∧ t.pins.thermtrip = false ∧ t.flag F.pwTripped = false)) ∧
    (s.pow.powered = false → exec .powerApply s = .next { s with
      pow := { s.pow with powered := true }, pins := { s.pins with pwrGood := true } }) ∧
    (s.pow.booting = true → s.unstopped = true →
      (s.fld F.bootStage ∈ [0, 1, 5] → exec (.startUpStage .ok) s = .next (s.setFld F.bootStage (s.fld F.bootStage + 1))) ∧
      (∀ (d : Die) (cl : Fin 14) (core : Fin 9) (cols : List (Fin 66)) (n : CoreId), s.fld F.bootStage = 1 →
        cl.val < 12 → core.val < 8 → n.val = d.val * 96 + cl.val * 8 + core.val → s.flag F.pwReady = false →
        (∀ i : CoreId, s.coreFit (s.physOf (clusterOf i) (i.val % 8)) = true) → s.rep.marked = [] →
        s.rep.markedClusters = [] → s.rep.retiredClusters = [] → 48 ≤ widthOf cols.eraseDups.length →
        completes (.startUpStage (.found [.array d cl core cols])) s (fun t => t.fld F.bootStage = 2 ∧
          t.fld (F.mxWidth n) = widthOf cols.eraseDups.length ∧ t.fld (F.mxFaulty n) = min 31 cols.eraseDups.length ∧
          (∀ i, i ≠ n → t.fld (F.mxWidth i) = s.fld (F.mxWidth i)) ∧ t.mem = s.mem ∧ t.cores = s.cores)) ∧
      (s.fld F.bootStage = 7 → s.fld F.tkState ≤ 2 → completes (.startUpStage .ok) s (fun t => t.fld F.bootStage = 8 ∧
        t.flag F.pwReady = true ∧ t.works = true ∧ t.ctxLive 0 = true ∧ t.mem = s.mem)) ∧
      (∀ r ∈ ([(.security, 0, 1), (.dieDead, 1, 2), (.hbmFail, 5, 3)] : List (StageResult × Nat × Nat)), s.fld F.bootStage = r.2.1 →
        completes (.startUpStage r.1) s (fun t => t.fld F.bootStage = 15 ∧ t.fld F.bootError = r.2.2 ∧
          t.pow.booting = false ∧ t.pins.alert = true ∧ t.flag F.pwReady = s.flag F.pwReady ∧ t.mem = s.mem)))) ∧
  (
  ∀ (s : State), s.unstopped = true → s.pow.powered = true → s.pins.perst = false →
    (∀ offset (data : List Byte), data.length ≤ 1048568 →
      (¬(s.pow.booting = true ∧ s.fld F.bootStage = 2) → exec (.fwImage offset data) s = .next { s with
        out := s.out ++ [.doe (leBytes 4 1 ++ leBytes 8 s.cxl.fwHeld.length)] }) ∧
      (s.pow.booting = true → s.fld F.bootStage = 2 →
        (offset ≠ s.cxl.fwHeld.length → exec (.fwImage offset data) s = .next { s with
          out := s.out ++ [.doe (leBytes 4 2 ++ leBytes 8 s.cxl.fwHeld.length)] }) ∧
        (let b := s.cxl.fwHeld ++ data
         offset = s.cxl.fwHeld.length → (b.length < 0x20 ∨ imageHeaderOk b = true) → b.length < imageLength b →
         exec (.fwImage offset data) s = .next { s with
           cxl := { s.cxl with fwHeld := b }, out := s.out ++ [.doe (leBytes 4 0 ++ leBytes 8 b.length)] }))) ∧
    (s.pow.booting = true → s.fld F.bootStage = 2 → s.fld F.lcState = 2 → s.pow.peerFetch = none →
      s.cxl.fwHeld = [] → s.fld (F.portState 0) ≠ 4 → s.fld (F.portState 1) ≠ 4 →
      completes .peerFetchTimeout s (fun t => t.pow.peerFetch = some [] ∧ t.mem = s.mem ∧ t.out = s.out)) ∧
    (4 ≤ s.fld F.bootStage → s.fld F.bootStage ≤ 8 →
      (∀ i < 56, exec (.mctpMessage (.readSensor i)) s = .next { s with
        out := s.out ++ [.mctp (leBytes 2 (toUnsigned 16 (nthD s.pow.sensors i 0)))] }) ∧
      exec (.mctpMessage .readState) s = .next { s with
        out := s.out ++ [.mctp (leBytes 1 (s.fld F.pwMode + s.fld F.pwParked * 16) ++ leBytes 1 (s.fld F.pwTripped)
          ++ leBytes 1 (s.fld F.lcState))] } ∧
      (∀ w, exec (.mctpMessage (.setEffecter w)) s = .next
        (if 1200 ≤ w ∧ w ≤ 3000 ∧ w % 50 = 0 then s.setFld F.capW w else s))))

/-! ### Registers -/

/-- R5, R8, R236, R341, R363, R415, R444, R554, R555: a register write by its offset writes the fields that the register's table
admits, at once; a width or an alignment that R8 refuses is answered as unsupported, and an offset without a register
changes nothing; ENABLE of a cache instance or of a model instance is set only where its checks hold; a write of
JL_PORTp_CFG takes a port that it disables DOWN; OB_TRMARK writes its marker; a read by its offset answers the register's
value or half, zero where no register or no context lies there, and is unsupported in another width; a 32-bit read of a
latching register latches its high half, and a 64-bit read discards the latch. Where the rules leave a corner open it
follows the model's reading, log 55 and 91. -/
def Obligations.RegisterWrites : Prop :=
  ∀ (s : State), s.works = true →
    (∀ off bits (v : W64), off < 2 ^ 26 →
      (accessHalf off bits = none → exec (.registerWrite .pf0 off bits v) s = .next { s with out := s.out ++ [.unsupported] }) ∧
      (∀ h, accessHalf off bits = some h →
        (regAt .pf0 off = none → exec (.registerWrite .pf0 off bits v) s = .next s) ∧
        (∀ r ∈ ([.feCtrl, .ssCtrl, .ssWctrl, .msSweep, .msRetrain, .trCtrl, .jlCtrl, .cxCtrl, .pwCap, .pwTherm, .rpCtrl,
            .rpCfgCtrl, .obCoreSel, .obTapcount, .clCtrl] : List Reg), regAt .pf0 off = some r →
          completes (.registerWrite .pf0 off bits v) s (fun t =>
            t.reg r = (s.checkedWrite r h v (s.fieldOk r)).reg r ∧
            (∀ r', r' ≠ r → r' ≠ .pwSensorData → r' ≠ .rpMapData → ¬(r = .jlCtrl ∧ r' = .tkMaster) → t.reg r' = s.reg r') ∧
            (r = .jlCtrl → t.reg .tkMaster =
              (if s.ownTick = true then s.setFld F.tkMasterId (t.fld F.deviceId) else s).reg .tkMaster) ∧
            t = { s with regs := t.regs })) ∧
        (∀ p ∈ ([(.msPart, .msPartWrite h v), (.tkCtrl, .tkCtrlWrite h v), (.tkAdvance, .tkAdvanceWrite h v),
            (.tkPeriodStep, .tkPeriodStepWrite h v), (.obTrmark, .obTrmarkWrite h v), (.obTrptr, .obTrptrWrite h v),
            (.msZero, .msZeroWrite h v)] : List (Reg × Instr)), regAt .pf0 off = some p.1 →
          exec (.registerWrite .pf0 off bits v) s = exec p.2 s))) ∧
    (∀ (i : CacheInst) (h : Half) (v : W64),
      let new := Reg.written (.kvInst i) (s.reg (.kvInst i)) h (halfPlace h v)
      let t := s.setReg (.kvInst i) (kvInstNext (s.reg (.kvInst i)) new)
      (bitOf new 0 = bitOf (s.reg (.kvInst i)) 0 → exec (.kvInstEnable i h v) s = .next t) ∧
      (bitOf new 0 = true → bitOf (s.reg (.kvInst i)) 0 = false →
        exec (.kvInstEnable i h v) s = .next (t.setFlag (F.kvEnable i) (t.kvCanEnable i))) ∧
      (bitOf new 0 = false → bitOf (s.reg (.kvInst i)) 0 = true → (∀ j, s.fld (F.poolPages j i) = 0) →
        exec (.kvInstEnable i h v) s = .next (t.setFlag (F.kvEnable i) false))) ∧
    (∀ (m : Model) (h : Half) (v : W64),
      let on := s.flag (F.mEnable m)
      let want := bitOf (Reg.written (.ssModelCfg m) (s.reg (.ssModelCfg m)) h (halfPlace h v)) 0
      let t := s.checkedWrite (.ssModelCfg m) h v (modelCfgOk on)
      (want = on → exec (.ssModelEnable m h v) s = .next t) ∧
      (want = false → on = true → exec (.ssModelEnable m h v) s = .next (t.setFlag (F.mEnable m) false)) ∧
      (want = true → on = false →
        (∀ u, enabledPlan m t = .ok none u → exec (.ssModelEnable m h v) s = .next u) ∧
        (∀ p u, enabledPlan m t = .ok (some p) u → onlyMem t u → completes (.ssModelEnable m h v) s (fun w =>
          w.flag (F.mEnable m) = true ∧ (w.modelOf m).plan = p ∧ w.mem = u.mem ∧ w.cores = s.cores)))) ∧
    (∀ (p : Port) (h : Half) (v : W64),
      let t := s.checkedWrite (.jlPortCfg p) h v (portCfgOk p (s.flag (F.portEnable p)))
      completes (.jlPortCfgWrite p h v) s (fun u => u.reg (.jlPortCfg p) = t.reg (.jlPortCfg p) ∧
        (s.flag (F.portEnable p) = true → t.flag (F.portEnable p) = false →
          u.fld (F.portState p) = 0 ∧ u.fld (F.portWidth p) = 0 ∧ (u.portOf p).keys = []) ∧
        (t.spillCause (pairOf p) = s.fab.closed.contains (pairOf p) → ∀ m ∈ u.fab.moving, m.1 ≠ pairOf p) ∧
        u.mem = s.mem ∧ u.cores = s.cores ∧ u.out = s.out)) ∧
    (∀ (h : Half) (v : W64), s.flag F.trEnable = false → s.flag F.trmarkSend = false →
      exec (.obTrmarkWrite h v) s = .next
        (if h = .lo then { s with obs := { s.obs with markLow := BitVec.ofNat 32 v.toNat } }
        else { s with obs := { s.obs with markLow := 0 }, seed := s.seed + 1 })) ∧
    (∀ (h : Half) (v : W64) u, h ≠ .lo → s.flag F.trmarkSend = false →
      trace (some 3) 9 (Config.traceDie s.seed % 4) 0 0 (if h = .hi then halfPlace h v + s.obs.markLow.toNat else v.toNat)
        (s.fld F.deviceId) { s with obs := { s.obs with markLow := 0 }, seed := s.seed + 1 } = .ok () u →
      exec (.obTrmarkWrite h v) s = .next u) ∧
    (∀ via off bits, let reads (b : W64) : Prop := readAccess via off bits s = .ok ⟨⟩ { s with out := s.out ++ [.readData b] }
      (accessHalf off bits = none → readAccess via off bits s = .ok ⟨⟩ { s with out := s.out ++ [.unsupported] }) ∧
      (∀ h, accessHalf off bits = some h → (regAt via off = none → reads 0) ∧
        (∀ r, regAt via off = some r → (s.pageGone r = true → reads 0) ∧
          (s.pageGone r = false → s.answersRead r = true → r.latch = none → r ≠ .tkStep → reads (halfRead h (s.reg r)))))) ∧
    (∀ via r v u, s.latchReach via r = true → liveValue via r s = .ok v u →
      exec (.lowHalfReadLatch via r) s = .next { u with
        time := { u.time with latches := u.time.latches.insert r (BitVec.ofNat 32 (v / 2 ^ 32)) }
        out := u.out ++ [.readData (BitVec.ofNat 64 (v % 2 ^ 32))] } ∧
      exec (.latchDiscardRead via r) s = .next { u with
        time := { u.time with latches := u.time.latches.erase r }, out := u.out ++ [.readData (BitVec.ofNat 64 v)] })

/-! ### Time -/

/-- R36, R44, R46, R47, R51, R52, R55, R57: a tick of a module that ticks by itself adds one to the step number, and a pending
advance besides, sets device time and the tick time, brings a due period change into force and leaves the module MASTER or
FREE by its priority; an edge of TICK_IN within 1 µs of the computed tick is the tick, and another only sets TICK_IN_MISS;
an edge of PPS_IN sets device time to its second, one that would move it backwards sets PPS_FAULT and counts its second, and
one that is more than 1 µs off a whole second only sets PPS_FAULT; a follower that has missed too many beacons, or found no master,
becomes its own. R352, R354: a mark shows its device time; where every open step is projected to fit, it acts on none, and
where one does not and only OVERRUN is enabled, that step is declared and the next tick builds no batch. R44, R50, R52, R62: a write
of TK_CTRL leaves PHASE_SRC at a reserved value and HOLDOVER_TICKS at 0 as they were; a write of TK_PERIOD_STEP that reaches
its high half arms the change or is rejected; a write of TK_ADVANCE replaces the pending advance, a k of 0 is a no-op, and
in any other state it is rejected; a read of TK_STEP returns the step number and latches the tick time. Where the rules
leave a corner open it follows the model's reading, log 90 and 92. -/
def Obligations.Ticks : Prop :=
  (
  ∀ (s : State), Still s →
    (∀ at', at' < 2 ^ 63 →
      let k := s.time.pendAdvance
      let us := s.fld F.tkPeriod
      let now := max at' (s.fld F.tkTime) + k * us * 1000
      let due := s.time.pendPeriod.filter (fun p => decide (p.2 ≤ s.stepNo + k + 1))
      let ticked (t : State) : Prop := t.stepNo = s.stepNo + k + 1 ∧ t.fld F.tkTime = now ∧ t.time.tickTime = now ∧
        t.time.marks = 0 ∧ t.time.pendAdvance = 0 ∧ t.fld F.tkState = (if s.fld F.tkPriority = 0 then 0 else 1) ∧
        t.fld F.tkMasterId = s.fld F.deviceId ∧ t.fld F.tkMasterPrio = s.fld F.tkPriority ∧
        (due = none → t.fld F.tkPeriod = us ∧ t.time.pendPeriod = s.time.pendPeriod) ∧
        (∀ p, due = some p → t.fld F.tkPeriod = p.1 % 2 ^ 18 ∧ t.time.pendPeriod = none) ∧
        t.flag F.tkJumped = (s.flag F.tkJumped || decide (k ≠ 0)) ∧
        t.pins.tickOut = s.pins.tickOut + (if s.flag F.tkTickOutEn = true then 1 else 0) ∧
        t.mem = s.mem ∧ t.sram = s.sram ∧ t.cores = s.cores ∧ t.queues = s.queues
      s.stepNo + k + 1 < 2 ^ 48 → k < 2 ^ 32 → now < 2 ^ 64 →
      (at' = s.nextTickAt → completes .tick s ticked) ∧
      (∀ off : Int, s.fld F.tkPhaseSrc = 1 → -1000 ≤ off → off ≤ 1000 → at' = ((s.nextTickAt : Int) + off).toNat →
        completes (.tickInEdge off) s ticked)) ∧
    (∀ off : Int, s.fld F.tkPhaseSrc = 1 → (off < -1000 ∨ 1000 < off) →
      exec (.tickInEdge off) s = .next (s.setFlag F.tkTickInMiss true)) ∧
    (∀ t : BitVec 64, s.fld F.tkPhaseSrc = 2 → s.fld F.tkTime ≤ t.toNat → t.toNat < s.nextTickAt →
      let second := s.fld F.tkPpsSeconds
      let part := t.toNat % 10 ^ 9
      let far := s.time.ppsLocked = true ∧ 1000 < min part (10 ^ 9 - part)
      let faulted := (s.setFld F.tkTime t.toNat).setFlag F.tkPpsFault true
      (far → exec (.ppsInEdge t) s = .next faulted) ∧
      (¬far → second * 10 ^ 9 < t.toNat → exec (.ppsInEdge t) s = .next (faulted.setFld F.tkPpsSeconds (second + 1))) ∧
      (¬far → t.toNat ≤ second * 10 ^ 9 → second * 10 ^ 9 < 2 ^ 64 → completes (.ppsInEdge t) s (fun u => u.fld F.tkTime = second * 10 ^ 9 ∧
        u.fld F.tkPpsSeconds = second + 1 ∧ u.time.ppsLocked = true ∧
        u.flag F.tkJumped = (s.flag F.tkJumped || decide (t.toNat < second * 10 ^ 9)) ∧ u.mem = s.mem ∧ u.cores = s.cores))) ∧
    (∀ (u : State) (m80 : Bool), u.works = true → u.time.marks = (if m80 then 1 else 0) →
      let at' := u.time.tickTime + u.fld (if m80 then F.tkMark80 else F.tkMark50) * 1000
      let fits (m : Model) : Bool := u.fits m (at' - (u.modelOf m).startTime) (u.modelOf m)
      let acts (m : Model) (k : Nat) : Bool := bitOf (u.fld (F.mPolicy m)) (2 * k + b2n m80)
      ((∀ m, (u.modelOf m).stepOpen = true → fits m = true) → exec (.deadlineMark m80) u = .next
        { u.setFld F.tkTime (max at' (u.fld F.tkTime)) with time := { u.time with marks := u.time.marks + 1 } }) ∧
      (∀ m, Silent u → (u.modelOf m).stepOpen = true → fits m = false → (u.modelOf m).declared = false →
        acts m 0 = false → acts m 1 = false → acts m 2 = true → (∀ m', m' ≠ m → (u.modelOf m').stepOpen = false) →
        completes (.deadlineMark m80) u (fun t => (t.modelOf m).declared = true ∧ (t.modelOf m).skipBuild = true ∧
          (t.modelOf m).rows = (u.modelOf m).rows ∧
          t.fld (F.mDeclared m) = satAdd (2 ^ (F.mDeclared m).width - 2) (u.fld (F.mDeclared m)) 1 ∧
          t.fld F.tkTime = max at' (u.fld F.tkTime) % 2 ^ 64 ∧ t.time.marks = u.time.marks + 1 ∧
          t.mem = u.mem ∧ t.cores = u.cores))) ∧
    (∀ u : State, u.works = true →
      let own (t : State) : Prop := t.fld F.tkState = (if u.fld F.tkPriority = 0 then 0 else 1) ∧
        t.fld F.tkMasterId = u.fld F.deviceId ∧ t.fld F.tkMasterPrio = u.fld F.tkPriority ∧ t.fld F.tkHops = 0 ∧
        t.time.missed = 0 ∧ t.stepNo = u.stepNo ∧ t.fld F.tkTime = u.fld F.tkTime ∧ t.mem = u.mem ∧ t.cores = u.cores
      (u.fld F.tkState = 3 → u.fld F.tkHoldoverTicks ≤ u.time.missed → completes .holdoverExpiry u own) ∧
      (u.fld F.tkState = 5 → u.time.masterPort = none → u.linksSettled = true → completes .acquireTimeout u own))) ∧
  (
  ∀ (s : State) (h : Half) (v : W64), s.works = true →
    (let t := s.checkedWrite .tkCtrl h v tkCtrlOk
     exec (.tkCtrlWrite h v) s = .next t.refreshAlert ∧ t.fld F.tkPhaseSrc ≤ max 2 (s.fld F.tkPhaseSrc) ∧
     (s.fld F.tkHoldoverTicks ≠ 0 → t.fld F.tkHoldoverTicks ≠ 0)) ∧
    (let t := s.plainWrite .tkPeriodStep h v
     let us := t.fld F.tkPeriodNext
     let n := t.fld F.tkPeriodStep
     let armed := t.ownTick = true ∧ 500 ≤ us ∧ us ≤ 250000 ∧ t.stepNo + 8 ≤ n
     (h = .lo → exec (.tkPeriodStepWrite h v) s = .next t) ∧
     (h ≠ .lo → armed → exec (.tkPeriodStepWrite h v) s = .next
       (State.setFlag { t with time := { t.time with pendPeriod := some (us, n) } } F.tkPending true)) ∧
     (h ≠ .lo → ¬armed → exec (.tkPeriodStepWrite h v) s = .next (t.setFlag F.tkPeriodReject true))) ∧
    (let k := v.toNat % 2 ^ 32
     (h = .hi ∨ k = 0xFFFFFFFF → exec (.tkAdvanceWrite h v) s = .next s) ∧
     (h ≠ .hi → k ≠ 0xFFFFFFFF →
       (s.ownTick = false → exec (.tkAdvanceWrite h v) s = .next (s.setFlag F.tkAdvanceReject true)) ∧
       (s.ownTick = true → k = 0 → exec (.tkAdvanceWrite h v) s = .next s) ∧
       (s.ownTick = true → k ≠ 0 → exec (.tkAdvanceWrite h v) s = .next { s with
         time := { s.time with pendAdvance := k } }))) ∧
    exec (.tkStepRead h) s = .next { s.setFld F.tkTickTime s.time.tickTime with
      out := s.out ++ [.readData (halfRead h s.stepNo)] })

/-- R39, R42, R43, R46, R53, R433: a beacon of the module itself changes nothing; one of a worse master is not adopted; one of a
better master that would move step number or device time backwards puts the module in CONFLICT; a module that ticks by
itself joins the better master at its next tick; a follower takes the master's period, at its next tick where the beacon is
of that tick, and is LOCKED within 1 µs; a copy of an adopted tick that is no better is not adopted. The delay
of a link is measured by a timed exchange, which the peer answers, and the first answer brings the port UP. Where the rules
leave a corner open it follows the model's reading, log 87 and 88. -/
def Obligations.BeaconsAndDelays : Prop :=
  ∀ (s : State) (p : Port), s.works = true → Silent s →
    (∀ b : Beacon, s.fld (F.portMode p) = 0 → s.fld (F.portState p) = 4 →
      (b.masterId.toNat = s.fld F.deviceId → exec (.beacon p b) s = .next s) ∧
      (∀ now u, b.masterId.toNat ≠ s.fld F.deviceId → sampleTime s = .ok now u → s.time.adopted = none →
        s.time.conflictWith = none →
        (∀ x, s.time.heard = some x → replacedBy x p b = false → exec (.beacon p b) s = .next u) ∧
        ((∀ x, s.time.heard = some x → replacedBy x p b = true) →
        let d : Int := (now : Int) - s.masterTime p b
        let a := u.place p b now d
        let better := masterBetter (masterOf b) s.masterNow
        let same := b.masterId.toNat = s.fld F.tkMasterId
        (better = false → ¬same → exec (.beacon p b) s = .next u) ∧
        (better = true → ¬same → u.backwards a d = true → completes (.beacon p b) s (fun t => t.fld F.tkState = 4 ∧
          t.time.conflictWith = some b.masterId ∧ t.time.adopted = none ∧ t.stepNo = s.stepNo ∧ t.mem = s.mem ∧
          t.cores = s.cores)) ∧
        (better = true → u.backwards a d = false → s.ownTick = true → completes (.beacon p b) s (fun t =>
          t.time.adopted = some a ∧ t.fld F.tkState = s.fld F.tkState ∧
          (-(2 ^ 31) ≤ d → d < 2 ^ 31 → t.fld F.tkOffset = toUnsigned 32 d) ∧ t.mem = s.mem ∧ t.cores = s.cores)) ∧
        (same → u.backwards a d = false → s.fld F.tkState = 2 → -1000 ≤ d → d ≤ 1000 →
          completes (.beacon p b) s (fun t => t.time.adopted = some a ∧ t.fld F.tkState = 2 ∧
            t.fld F.tkMasterPrio = b.priority.toNat ∧ t.fld F.tkHops = min 255 (b.hops.toNat + 1) ∧
            (a.ofNext = false → t.fld F.tkPeriod = b.period.toNat) ∧ (a.ofNext = true → t.fld F.tkPeriod = s.fld F.tkPeriod) ∧
            t.fld F.tkOffset = toUnsigned 32 d ∧ t.time.missed = 0 ∧ t.time.heard = some (b, p) ∧
            t.mem = s.mem ∧ t.cores = s.cores))))) ∧
    (s.fld (F.portState p) = 3 → (s.portOf p).keys ≠ [] →
      let sent (o : Out) (t : State) : Prop := (∃ flits, t.out = s.out ++ o :: flits ∧ ∀ o ∈ flits, ∃ f h k, o = .flit p f h k) ∧
        t.mem = s.mem ∧ t.cores = s.cores
      (∀ t1 : BitVec 64, completes (.linkDelayMeasure p t1) s (fun t => (t.portOf p).delayReq = some t1.toNat ∧
        (t.portOf p).stepsToDelay = 1024 ∧ sent (.link p 4 (leBytes 8 t1.toNat)) t)) ∧
      (∀ t1 t2 t3 : BitVec 64, completes (.delayReq p t1 t2 t3) s
        (sent (.link p 5 (leBytes 8 t2.toNat ++ leBytes 8 t3.toNat)))) ∧
      (∀ (t1 : Nat) (t2 t3 t4 : BitVec 64), (s.portOf p).delayReq = some t1 → completes (.delayRsp p t2 t3 t4) s (fun t =>
        t.fld (F.delayPs p) = linkDelay (BitVec.ofNat 64 t1) t2 t3 t4 % 2 ^ 32 ∧ t.fld (F.portState p) = 4 ∧
        (t.portOf p).delayReq = none ∧ t.mem = s.mem ∧ t.cores = s.cores))) ∧
    (∀ (t1 : Nat) (t2 t3 t4 : BitVec 64), s.fld (F.portState p) = 4 → (s.portOf p).delayReq = some t1 →
      exec (.delayRsp p t2 t3 t4) s = .next (State.setFld { s with fab := { s.fab with
        ports := s.fab.ports.insert p { s.portOf p with delayReq := none } } }
        (F.delayPs p) (linkDelay (BitVec.ofNat 64 t1) t2 t3 t4)))

/-! ### The block as a whole -/

/-- The model's own step (DESIGN CHOICE, log 5): the command at the front of the queue takes its effect on the state with the
queue's rest, and a block with no command idles; no word spells a command, since the table gives no bits. -/
def Obligations.StepRunsFront : Prop :=
  (∀ (c : Instr) (s : State), step { s with pending := c :: s.pending } = exec c s) ∧
  (∀ s : State, s.pending = [] → step s = .next s) ∧
  (∀ (s : State) (nbits w : Nat), decodeTableWord nbits w = none ∧ s.withFetchWord nbits w = s)

/-- The model's own rule (DESIGN CHOICE, log 3): every command answers a state, whatever the state it finds; none of them ends
the run, and from any state every number of steps can be taken. -/
def Obligations.EveryCommandGoesOn : Prop :=
  (∀ (c : Instr) (s : State), ∃ t, exec c s = .next t) ∧ (∀ s t : State, Reaches s t → goesOn t)

/-- R7, R34, R57, R62, R302, R335, R338, R519, R576: the values that the register tables give for reset; no command waits,
context 0 alone exists, no core runs, and no memory holds anything. -/
def Obligations.ResetValues : Prop :=
  let s := State.reset
  s.pending = [] ∧ s.works = true ∧ s.ctxLive 0 = true ∧ (∀ c : Ctx, c ≠ 0 → s.ctxLive c = false) ∧ s.cores = [] ∧
  s.queues = [] ∧ s.jobs = [] ∧ s.fld F.tkPeriod = 20000 ∧ s.fld F.tkMark50 = 10000 ∧ s.fld F.tkMark80 = 16000 ∧
  s.fld F.tkPhaseSrc = 0 ∧ s.fld F.tkHoldoverTicks = 8 ∧ s.fld F.feWaitTicks = 64 ∧ s.fld F.serveMin = 2 ∧
  s.fld F.pwMode = 0 ∧ s.fld F.capW = 3000 ∧ s.fld F.pace = 64 ∧ s.flag F.trEnable = false ∧
  (∀ c, s.flag (F.evEnable c) = false) ∧ (∀ c q, s.flag (F.qEnable c q) = false ∧ s.fld (F.qState c q) = 0) ∧
  (∀ i, s.flag (F.kvEnable i) = false) ∧ (∀ m, s.flag (F.mEnable m) = false) ∧
  (∀ c f, s.reg (.feFval c f) = 0) ∧ memoriesWf s

/-- The three memories keep their canonical form under every command, and hence in every state that a run reaches. -/
def Obligations.StepKeepsMemories : Prop :=
  (∀ s t : State, memoriesWf s → step s = .next t → memoriesWf t) ∧
  (∀ s t : State, memoriesWf s → Reaches s t → memoriesWf t)
end

