-- ==== Sys2Proof/Laws/AMap.lean ====
section
/-! SUPPORT. Association lists: what a key is found to hold after an insertion or a removal. -/

namespace Sys2Proof.AMap

variable {κ α : Type} [DecidableEq κ] {m : AMap κ α} {k j : κ} {v w : α}

theorem find?_insert (m : AMap κ α) (k j : κ) (v : α) : (m.insert k v).find? j = if k = j then some v else m.find? j := by
  induction m with
  | nil => rfl
  | cons p t ih =>
    obtain ⟨i, x⟩ := p
    simp only [insert]
    by_cases h : i = k
    · rw [if_pos h]; simp only [find?]; split <;> simp_all
    · rw [if_neg h]
      simp only [find?, ih]
      by_cases hj : i = j
      · rw [if_pos hj, if_pos hj, if_neg (fun e => h (hj.trans e.symm))]
      · rw [if_neg hj, if_neg hj]

@[simp] theorem find?_insert_same (m : AMap κ α) (k : κ) (v : α) : (m.insert k v).find? k = some v := by rw [find?_insert, if_pos rfl]

theorem find?_insert_other (h : k ≠ j) : (m.insert k v).find? j = m.find? j := by rw [find?_insert, if_neg h]

@[simp] theorem getD_insert_same (m : AMap κ α) (k : κ) (v d : α) : (m.insert k v).getD k d = v := by
  rw [getD, find?_insert_same]; rfl

theorem getD_insert_other {d : α} (h : k ≠ j) : (m.insert k v).getD j d = m.getD j d := by rw [getD, getD, find?_insert_other h]

/-- The later of two insertions of one key stands. -/
@[simp] theorem insert_insert (m : AMap κ α) (k : κ) (v w : α) : (m.insert k v).insert k w = m.insert k w := by
  induction m with
  | nil => simp [insert]
  | cons p t ih =>
    obtain ⟨i, x⟩ := p
    by_cases h : i = k
    · simp [insert, h]
    · simp [insert, h, ih]

/-- Listing again what is listed changes nothing. -/
theorem insert_same (h : m.find? k = some v) : m.insert k v = m := by
  induction m with
  | nil => simp [find?] at h
  | cons p t ih =>
    obtain ⟨i, x⟩ := p
    by_cases hk : i = k
    · simp only [find?, if_pos hk, Option.some.injEq] at h; simp [insert, hk, h]
    · simp only [find?, if_neg hk] at h; simp [insert, hk, ih h]

theorem find?_erase (m : AMap κ α) (k j : κ) : (m.erase k).find? j = if k = j then none else m.find? j := by
  induction m with
  | nil => simp [erase, find?]
  | cons p t ih =>
    obtain ⟨i, x⟩ := p
    simp only [erase, List.filter_cons, decide_eq_true_eq] at ih ⊢
    by_cases hi : i = k
    · rw [if_neg (by simpa using hi), ih]; simp only [find?]; split <;> simp_all
    · rw [if_pos (by simpa using hi)]
      simp only [find?, ih]
      by_cases hj : i = j
      · rw [if_pos hj, if_pos hj, if_neg (fun e => hi (hj.trans e.symm))]
      · rw [if_neg hj, if_neg hj]

@[simp] theorem find?_erase_same (m : AMap κ α) (k : κ) : (m.erase k).find? k = none := by rw [find?_erase, if_pos rfl]

theorem find?_erase_other (h : k ≠ j) : (m.erase k).find? j = m.find? j := by rw [find?_erase, if_neg h]

end Sys2Proof.AMap
end

