-- ==== Sys2Proof/Laws/Monad.lean ====
section
/-! SUPPORT. How a computation of the model runs on a state: one equation for each way to build one. A proof about an operation
takes it apart with `simp only` and these, and cites the lemma of each operation that it calls. -/

namespace Sys2Proof.Machine

variable {α β : Type} {s t : State}

theorem run_bind (x : M α) (f : α → M β) (s : State) :
    (x >>= f) s = match x s with
      | .ok a t => f a t
      | .error e t => .error e t := by
  cases h : x s <;> simp [bind, EStateM.bind, h]

theorem run_bind_ok {x : M α} {f : α → M β} {a : α} (h : x s = .ok a t) : (x >>= f) s = f a t := by
  rw [run_bind, h]

theorem run_pure (a : α) (s : State) : (pure a : M α) s = .ok a s := Eq.trans rfl rfl
theorem run_get (s : State) : (get : M State) s = .ok s s := Eq.trans rfl rfl
theorem run_set (t s : State) : (set t : M PUnit) s = .ok ⟨⟩ t := Eq.trans rfl rfl
theorem run_modify (f : State → State) (s : State) : (modify f : M PUnit) s = .ok ⟨⟩ (f s) := Eq.trans rfl rfl
theorem run_throw (e : Err) (s : State) : (throw e : M α) s = .error e s := Eq.trans rfl rfl
theorem run_map (f : α → β) (x : M α) (s : State) :
    (f <$> x) s = match x s with
      | .ok a t => .ok (f a) t
      | .error e t => .error e t := by
  cases h : x s <;> simp [Functor.map, EStateM.map, h]
theorem run_if {c : Prop} [Decidable c] (x y : M α) (s : State) : (if c then x else y) s = if c then x s else y s := by
  split <;> rfl

theorem run_getFld (f : Fld) (s : State) : getFld f s = .ok (s.fld f) s := Eq.trans rfl rfl
theorem run_getFlag (f : Fld) (s : State) : getFlag f s = .ok (s.flag f) s := Eq.trans rfl rfl
theorem run_putFld (f : Fld) (v : Nat) (s : State) : putFld f v s = .ok ⟨⟩ (s.setFld f v) := Eq.trans rfl rfl
theorem run_putFlag (f : Fld) (b : Bool) (s : State) : putFlag f b s = .ok ⟨⟩ (s.setFlag f b) := Eq.trans rfl rfl
theorem run_bump (f : Fld) (s : State) : bump f s = .ok ⟨⟩ (s.bump f) := Eq.trans rfl rfl
theorem run_modMem (f : MemSt → MemSt) (s : State) : modMem f s = .ok ⟨⟩ { s with mem := f s.mem } := Eq.trans rfl rfl
theorem run_emit (o : Out) (s : State) : emit o s = .ok ⟨⟩ { s with out := s.out ++ [o] } := Eq.trans rfl rfl
theorem run_fresh (s : State) : fresh s = .ok s.seed { s with seed := s.seed + 1 } := Eq.trans rfl rfl

theorem run_guardWait_true (s : State) : guardWait true s = .ok () s := Eq.trans rfl rfl
theorem run_guardWait_false (s : State) : guardWait false s = .error .wait s := Eq.trans rfl rfl
theorem run_guardCode_true (a b : Nat) (s : State) : guardCode true a b s = .ok () s := Eq.trans rfl rfl
theorem run_guardCode_false (a b : Nat) (s : State) : guardCode false a b s = .error (.code a b) s := Eq.trans rfl rfl
theorem run_needSome (a : α) (s : State) : needSome (some a) s = .ok a s := Eq.trans rfl rfl
theorem run_needNone (s : State) : (needSome none : M α) s = .error .wait s := Eq.trans rfl rfl
theorem run_attempt_ok {x : M α} {a : α} (h : x s = .ok a t) : attempt x s = .ok (.ok a) t := by
  simp [attempt, h]
theorem run_attempt_error {x : M α} {e : Err} (h : x s = .error e t) (hw : e ≠ .wait) : attempt x s = .ok (.error e) t := by
  cases e <;> simp_all [attempt]

/-- A command whose computation ends well answers the state it reaches, in a module that works. -/
theorem run_next {m : M Unit} {u : Unit} (hw : s.works = true) (h : m s = .ok u t) : run m s = .next t := by
  simp [run, hw, runAny, h]

/-- Any other one leaves the state as it was (log 3). -/
theorem run_stays {m : M Unit} {e : Err} (h : m s = .error e t) : run m s = .next s := by
  simp only [run, runAny, h]
  split <;> rfl

/-- Every command of a working module goes on. -/
theorem run_total (m : M Unit) (s : State) : ∃ t, run m s = .next t := by
  simp only [run, runAny]
  split
  · split
    · exact ⟨_, rfl⟩
    · exact ⟨_, rfl⟩
  · exact ⟨_, rfl⟩

end Sys2Proof.Machine
end

