-- ==== Sys2Proof/Laws/State.lean ====
section
/-! SUPPORT. One lemma per field for each update of the state that the meanings share: what a register write, a change of a
core, of a queue's commands, of a port, and the like leave as it was. -/

namespace Sys2Proof.Machine

variable (s : State)

/-! ### `setReg` -/

@[simp] theorem setReg_pending (r : Reg) (v : Nat) : (s.setReg r v).pending = s.pending := rfl
@[simp] theorem setReg_time (r : Reg) (v : Nat) : (s.setReg r v).time = s.time := rfl
@[simp] theorem setReg_mem (r : Reg) (v : Nat) : (s.setReg r v).mem = s.mem := rfl
@[simp] theorem setReg_sram (r : Reg) (v : Nat) : (s.setReg r v).sram = s.sram := rfl
@[simp] theorem setReg_cores (r : Reg) (v : Nat) : (s.setReg r v).cores = s.cores := rfl
@[simp] theorem setReg_dma (r : Reg) (v : Nat) : (s.setReg r v).dma = s.dma := rfl
@[simp] theorem setReg_wells (r : Reg) (v : Nat) : (s.setReg r v).wells = s.wells := rfl
@[simp] theorem setReg_queues (r : Reg) (v : Nat) : (s.setReg r v).queues = s.queues := rfl
@[simp] theorem setReg_ctxs (r : Reg) (v : Nat) : (s.setReg r v).ctxs = s.ctxs := rfl
@[simp] theorem setReg_sched (r : Reg) (v : Nat) : (s.setReg r v).sched = s.sched := rfl
@[simp] theorem setReg_wts (r : Reg) (v : Nat) : (s.setReg r v).wts = s.wts := rfl
@[simp] theorem setReg_jobs (r : Reg) (v : Nat) : (s.setReg r v).jobs = s.jobs := rfl
@[simp] theorem setReg_fab (r : Reg) (v : Nat) : (s.setReg r v).fab = s.fab := rfl
@[simp] theorem setReg_cxl (r : Reg) (v : Nat) : (s.setReg r v).cxl = s.cxl := rfl
@[simp] theorem setReg_sec (r : Reg) (v : Nat) : (s.setReg r v).sec = s.sec := rfl
@[simp] theorem setReg_rep (r : Reg) (v : Nat) : (s.setReg r v).rep = s.rep := rfl
@[simp] theorem setReg_pow (r : Reg) (v : Nat) : (s.setReg r v).pow = s.pow := rfl
@[simp] theorem setReg_obs (r : Reg) (v : Nat) : (s.setReg r v).obs = s.obs := rfl
@[simp] theorem setReg_pins (r : Reg) (v : Nat) : (s.setReg r v).pins = s.pins := rfl
@[simp] theorem setReg_out (r : Reg) (v : Nat) : (s.setReg r v).out = s.out := rfl
@[simp] theorem setReg_seed (r : Reg) (v : Nat) : (s.setReg r v).seed = s.seed := rfl

/-! ### `setFld` -/

@[simp] theorem setFld_pending (f : Fld) (v : Nat) : (s.setFld f v).pending = s.pending := rfl
@[simp] theorem setFld_time (f : Fld) (v : Nat) : (s.setFld f v).time = s.time := rfl
@[simp] theorem setFld_mem (f : Fld) (v : Nat) : (s.setFld f v).mem = s.mem := rfl
@[simp] theorem setFld_sram (f : Fld) (v : Nat) : (s.setFld f v).sram = s.sram := rfl
@[simp] theorem setFld_cores (f : Fld) (v : Nat) : (s.setFld f v).cores = s.cores := rfl
@[simp] theorem setFld_dma (f : Fld) (v : Nat) : (s.setFld f v).dma = s.dma := rfl
@[simp] theorem setFld_wells (f : Fld) (v : Nat) : (s.setFld f v).wells = s.wells := rfl
@[simp] theorem setFld_queues (f : Fld) (v : Nat) : (s.setFld f v).queues = s.queues := rfl
@[simp] theorem setFld_ctxs (f : Fld) (v : Nat) : (s.setFld f v).ctxs = s.ctxs := rfl
@[simp] theorem setFld_sched (f : Fld) (v : Nat) : (s.setFld f v).sched = s.sched := rfl
@[simp] theorem setFld_wts (f : Fld) (v : Nat) : (s.setFld f v).wts = s.wts := rfl
@[simp] theorem setFld_jobs (f : Fld) (v : Nat) : (s.setFld f v).jobs = s.jobs := rfl
@[simp] theorem setFld_fab (f : Fld) (v : Nat) : (s.setFld f v).fab = s.fab := rfl
@[simp] theorem setFld_cxl (f : Fld) (v : Nat) : (s.setFld f v).cxl = s.cxl := rfl
@[simp] theorem setFld_sec (f : Fld) (v : Nat) : (s.setFld f v).sec = s.sec := rfl
@[simp] theorem setFld_rep (f : Fld) (v : Nat) : (s.setFld f v).rep = s.rep := rfl
@[simp] theorem setFld_pow (f : Fld) (v : Nat) : (s.setFld f v).pow = s.pow := rfl
@[simp] theorem setFld_obs (f : Fld) (v : Nat) : (s.setFld f v).obs = s.obs := rfl
@[simp] theorem setFld_pins (f : Fld) (v : Nat) : (s.setFld f v).pins = s.pins := rfl
@[simp] theorem setFld_out (f : Fld) (v : Nat) : (s.setFld f v).out = s.out := rfl
@[simp] theorem setFld_seed (f : Fld) (v : Nat) : (s.setFld f v).seed = s.seed := rfl

/-! ### `setFlag` -/

@[simp] theorem setFlag_pending (f : Fld) (b : Bool) : (s.setFlag f b).pending = s.pending := rfl
@[simp] theorem setFlag_time (f : Fld) (b : Bool) : (s.setFlag f b).time = s.time := rfl
@[simp] theorem setFlag_mem (f : Fld) (b : Bool) : (s.setFlag f b).mem = s.mem := rfl
@[simp] theorem setFlag_sram (f : Fld) (b : Bool) : (s.setFlag f b).sram = s.sram := rfl
@[simp] theorem setFlag_cores (f : Fld) (b : Bool) : (s.setFlag f b).cores = s.cores := rfl
@[simp] theorem setFlag_dma (f : Fld) (b : Bool) : (s.setFlag f b).dma = s.dma := rfl
@[simp] theorem setFlag_wells (f : Fld) (b : Bool) : (s.setFlag f b).wells = s.wells := rfl
@[simp] theorem setFlag_queues (f : Fld) (b : Bool) : (s.setFlag f b).queues = s.queues := rfl
@[simp] theorem setFlag_ctxs (f : Fld) (b : Bool) : (s.setFlag f b).ctxs = s.ctxs := rfl
@[simp] theorem setFlag_sched (f : Fld) (b : Bool) : (s.setFlag f b).sched = s.sched := rfl
@[simp] theorem setFlag_wts (f : Fld) (b : Bool) : (s.setFlag f b).wts = s.wts := rfl
@[simp] theorem setFlag_jobs (f : Fld) (b : Bool) : (s.setFlag f b).jobs = s.jobs := rfl
@[simp] theorem setFlag_fab (f : Fld) (b : Bool) : (s.setFlag f b).fab = s.fab := rfl
@[simp] theorem setFlag_cxl (f : Fld) (b : Bool) : (s.setFlag f b).cxl = s.cxl := rfl
@[simp] theorem setFlag_sec (f : Fld) (b : Bool) : (s.setFlag f b).sec = s.sec := rfl
@[simp] theorem setFlag_rep (f : Fld) (b : Bool) : (s.setFlag f b).rep = s.rep := rfl
@[simp] theorem setFlag_pow (f : Fld) (b : Bool) : (s.setFlag f b).pow = s.pow := rfl
@[simp] theorem setFlag_obs (f : Fld) (b : Bool) : (s.setFlag f b).obs = s.obs := rfl
@[simp] theorem setFlag_pins (f : Fld) (b : Bool) : (s.setFlag f b).pins = s.pins := rfl
@[simp] theorem setFlag_out (f : Fld) (b : Bool) : (s.setFlag f b).out = s.out := rfl
@[simp] theorem setFlag_seed (f : Fld) (b : Bool) : (s.setFlag f b).seed = s.seed := rfl

/-! ### `bumpBy` -/

@[simp] theorem bumpBy_pending (f : Fld) (n : Nat) : (s.bumpBy f n).pending = s.pending := rfl
@[simp] theorem bumpBy_time (f : Fld) (n : Nat) : (s.bumpBy f n).time = s.time := rfl
@[simp] theorem bumpBy_mem (f : Fld) (n : Nat) : (s.bumpBy f n).mem = s.mem := rfl
@[simp] theorem bumpBy_sram (f : Fld) (n : Nat) : (s.bumpBy f n).sram = s.sram := rfl
@[simp] theorem bumpBy_cores (f : Fld) (n : Nat) : (s.bumpBy f n).cores = s.cores := rfl
@[simp] theorem bumpBy_dma (f : Fld) (n : Nat) : (s.bumpBy f n).dma = s.dma := rfl
@[simp] theorem bumpBy_wells (f : Fld) (n : Nat) : (s.bumpBy f n).wells = s.wells := rfl
@[simp] theorem bumpBy_queues (f : Fld) (n : Nat) : (s.bumpBy f n).queues = s.queues := rfl
@[simp] theorem bumpBy_ctxs (f : Fld) (n : Nat) : (s.bumpBy f n).ctxs = s.ctxs := rfl
@[simp] theorem bumpBy_sched (f : Fld) (n : Nat) : (s.bumpBy f n).sched = s.sched := rfl
@[simp] theorem bumpBy_wts (f : Fld) (n : Nat) : (s.bumpBy f n).wts = s.wts := rfl
@[simp] theorem bumpBy_jobs (f : Fld) (n : Nat) : (s.bumpBy f n).jobs = s.jobs := rfl
@[simp] theorem bumpBy_fab (f : Fld) (n : Nat) : (s.bumpBy f n).fab = s.fab := rfl
@[simp] theorem bumpBy_cxl (f : Fld) (n : Nat) : (s.bumpBy f n).cxl = s.cxl := rfl
@[simp] theorem bumpBy_sec (f : Fld) (n : Nat) : (s.bumpBy f n).sec = s.sec := rfl
@[simp] theorem bumpBy_rep (f : Fld) (n : Nat) : (s.bumpBy f n).rep = s.rep := rfl
@[simp] theorem bumpBy_pow (f : Fld) (n : Nat) : (s.bumpBy f n).pow = s.pow := rfl
@[simp] theorem bumpBy_obs (f : Fld) (n : Nat) : (s.bumpBy f n).obs = s.obs := rfl
@[simp] theorem bumpBy_pins (f : Fld) (n : Nat) : (s.bumpBy f n).pins = s.pins := rfl
@[simp] theorem bumpBy_out (f : Fld) (n : Nat) : (s.bumpBy f n).out = s.out := rfl
@[simp] theorem bumpBy_seed (f : Fld) (n : Nat) : (s.bumpBy f n).seed = s.seed := rfl

/-! ### `bump` -/

@[simp] theorem bump_pending (f : Fld) : (s.bump f).pending = s.pending := rfl
@[simp] theorem bump_time (f : Fld) : (s.bump f).time = s.time := rfl
@[simp] theorem bump_mem (f : Fld) : (s.bump f).mem = s.mem := rfl
@[simp] theorem bump_sram (f : Fld) : (s.bump f).sram = s.sram := rfl
@[simp] theorem bump_cores (f : Fld) : (s.bump f).cores = s.cores := rfl
@[simp] theorem bump_dma (f : Fld) : (s.bump f).dma = s.dma := rfl
@[simp] theorem bump_wells (f : Fld) : (s.bump f).wells = s.wells := rfl
@[simp] theorem bump_queues (f : Fld) : (s.bump f).queues = s.queues := rfl
@[simp] theorem bump_ctxs (f : Fld) : (s.bump f).ctxs = s.ctxs := rfl
@[simp] theorem bump_sched (f : Fld) : (s.bump f).sched = s.sched := rfl
@[simp] theorem bump_wts (f : Fld) : (s.bump f).wts = s.wts := rfl
@[simp] theorem bump_jobs (f : Fld) : (s.bump f).jobs = s.jobs := rfl
@[simp] theorem bump_fab (f : Fld) : (s.bump f).fab = s.fab := rfl
@[simp] theorem bump_cxl (f : Fld) : (s.bump f).cxl = s.cxl := rfl
@[simp] theorem bump_sec (f : Fld) : (s.bump f).sec = s.sec := rfl
@[simp] theorem bump_rep (f : Fld) : (s.bump f).rep = s.rep := rfl
@[simp] theorem bump_pow (f : Fld) : (s.bump f).pow = s.pow := rfl
@[simp] theorem bump_obs (f : Fld) : (s.bump f).obs = s.obs := rfl
@[simp] theorem bump_pins (f : Fld) : (s.bump f).pins = s.pins := rfl
@[simp] theorem bump_out (f : Fld) : (s.bump f).out = s.out := rfl
@[simp] theorem bump_seed (f : Fld) : (s.bump f).seed = s.seed := rfl

/-! ### `bumpFull` -/

@[simp] theorem bumpFull_pending (f : Fld) : (s.bumpFull f).pending = s.pending := rfl
@[simp] theorem bumpFull_time (f : Fld) : (s.bumpFull f).time = s.time := rfl
@[simp] theorem bumpFull_mem (f : Fld) : (s.bumpFull f).mem = s.mem := rfl
@[simp] theorem bumpFull_sram (f : Fld) : (s.bumpFull f).sram = s.sram := rfl
@[simp] theorem bumpFull_cores (f : Fld) : (s.bumpFull f).cores = s.cores := rfl
@[simp] theorem bumpFull_dma (f : Fld) : (s.bumpFull f).dma = s.dma := rfl
@[simp] theorem bumpFull_wells (f : Fld) : (s.bumpFull f).wells = s.wells := rfl
@[simp] theorem bumpFull_queues (f : Fld) : (s.bumpFull f).queues = s.queues := rfl
@[simp] theorem bumpFull_ctxs (f : Fld) : (s.bumpFull f).ctxs = s.ctxs := rfl
@[simp] theorem bumpFull_sched (f : Fld) : (s.bumpFull f).sched = s.sched := rfl
@[simp] theorem bumpFull_wts (f : Fld) : (s.bumpFull f).wts = s.wts := rfl
@[simp] theorem bumpFull_jobs (f : Fld) : (s.bumpFull f).jobs = s.jobs := rfl
@[simp] theorem bumpFull_fab (f : Fld) : (s.bumpFull f).fab = s.fab := rfl
@[simp] theorem bumpFull_cxl (f : Fld) : (s.bumpFull f).cxl = s.cxl := rfl
@[simp] theorem bumpFull_sec (f : Fld) : (s.bumpFull f).sec = s.sec := rfl
@[simp] theorem bumpFull_rep (f : Fld) : (s.bumpFull f).rep = s.rep := rfl
@[simp] theorem bumpFull_pow (f : Fld) : (s.bumpFull f).pow = s.pow := rfl
@[simp] theorem bumpFull_obs (f : Fld) : (s.bumpFull f).obs = s.obs := rfl
@[simp] theorem bumpFull_pins (f : Fld) : (s.bumpFull f).pins = s.pins := rfl
@[simp] theorem bumpFull_out (f : Fld) : (s.bumpFull f).out = s.out := rfl
@[simp] theorem bumpFull_seed (f : Fld) : (s.bumpFull f).seed = s.seed := rfl

/-! ### `setCore` -/

@[simp] theorem setCore_pending (n : CoreId) (k : Core) : (setCore s n k).pending = s.pending := rfl
@[simp] theorem setCore_regs (n : CoreId) (k : Core) : (setCore s n k).regs = s.regs := rfl
@[simp] theorem setCore_time (n : CoreId) (k : Core) : (setCore s n k).time = s.time := rfl
@[simp] theorem setCore_mem (n : CoreId) (k : Core) : (setCore s n k).mem = s.mem := rfl
@[simp] theorem setCore_sram (n : CoreId) (k : Core) : (setCore s n k).sram = s.sram := rfl
@[simp] theorem setCore_dma (n : CoreId) (k : Core) : (setCore s n k).dma = s.dma := rfl
@[simp] theorem setCore_wells (n : CoreId) (k : Core) : (setCore s n k).wells = s.wells := rfl
@[simp] theorem setCore_queues (n : CoreId) (k : Core) : (setCore s n k).queues = s.queues := rfl
@[simp] theorem setCore_ctxs (n : CoreId) (k : Core) : (setCore s n k).ctxs = s.ctxs := rfl
@[simp] theorem setCore_sched (n : CoreId) (k : Core) : (setCore s n k).sched = s.sched := rfl
@[simp] theorem setCore_wts (n : CoreId) (k : Core) : (setCore s n k).wts = s.wts := rfl
@[simp] theorem setCore_jobs (n : CoreId) (k : Core) : (setCore s n k).jobs = s.jobs := rfl
@[simp] theorem setCore_fab (n : CoreId) (k : Core) : (setCore s n k).fab = s.fab := rfl
@[simp] theorem setCore_cxl (n : CoreId) (k : Core) : (setCore s n k).cxl = s.cxl := rfl
@[simp] theorem setCore_sec (n : CoreId) (k : Core) : (setCore s n k).sec = s.sec := rfl
@[simp] theorem setCore_rep (n : CoreId) (k : Core) : (setCore s n k).rep = s.rep := rfl
@[simp] theorem setCore_pow (n : CoreId) (k : Core) : (setCore s n k).pow = s.pow := rfl
@[simp] theorem setCore_obs (n : CoreId) (k : Core) : (setCore s n k).obs = s.obs := rfl
@[simp] theorem setCore_pins (n : CoreId) (k : Core) : (setCore s n k).pins = s.pins := rfl
@[simp] theorem setCore_out (n : CoreId) (k : Core) : (setCore s n k).out = s.out := rfl
@[simp] theorem setCore_seed (n : CoreId) (k : Core) : (setCore s n k).seed = s.seed := rfl

/-! ### `setCmd` -/

@[simp] theorem setCmd_pending (c : Ctx) (q : QIdx) (i : W32) (f : Cmd → Cmd) : (setCmd s c q i f).pending = s.pending := rfl
@[simp] theorem setCmd_regs (c : Ctx) (q : QIdx) (i : W32) (f : Cmd → Cmd) : (setCmd s c q i f).regs = s.regs := rfl
@[simp] theorem setCmd_time (c : Ctx) (q : QIdx) (i : W32) (f : Cmd → Cmd) : (setCmd s c q i f).time = s.time := rfl
@[simp] theorem setCmd_mem (c : Ctx) (q : QIdx) (i : W32) (f : Cmd → Cmd) : (setCmd s c q i f).mem = s.mem := rfl
@[simp] theorem setCmd_sram (c : Ctx) (q : QIdx) (i : W32) (f : Cmd → Cmd) : (setCmd s c q i f).sram = s.sram := rfl
@[simp] theorem setCmd_cores (c : Ctx) (q : QIdx) (i : W32) (f : Cmd → Cmd) : (setCmd s c q i f).cores = s.cores := rfl
@[simp] theorem setCmd_dma (c : Ctx) (q : QIdx) (i : W32) (f : Cmd → Cmd) : (setCmd s c q i f).dma = s.dma := rfl
@[simp] theorem setCmd_wells (c : Ctx) (q : QIdx) (i : W32) (f : Cmd → Cmd) : (setCmd s c q i f).wells = s.wells := rfl
@[simp] theorem setCmd_ctxs (c : Ctx) (q : QIdx) (i : W32) (f : Cmd → Cmd) : (setCmd s c q i f).ctxs = s.ctxs := rfl
@[simp] theorem setCmd_sched (c : Ctx) (q : QIdx) (i : W32) (f : Cmd → Cmd) : (setCmd s c q i f).sched = s.sched := rfl
@[simp] theorem setCmd_wts (c : Ctx) (q : QIdx) (i : W32) (f : Cmd → Cmd) : (setCmd s c q i f).wts = s.wts := rfl
@[simp] theorem setCmd_jobs (c : Ctx) (q : QIdx) (i : W32) (f : Cmd → Cmd) : (setCmd s c q i f).jobs = s.jobs := rfl
@[simp] theorem setCmd_fab (c : Ctx) (q : QIdx) (i : W32) (f : Cmd → Cmd) : (setCmd s c q i f).fab = s.fab := rfl
@[simp] theorem setCmd_cxl (c : Ctx) (q : QIdx) (i : W32) (f : Cmd → Cmd) : (setCmd s c q i f).cxl = s.cxl := rfl
@[simp] theorem setCmd_sec (c : Ctx) (q : QIdx) (i : W32) (f : Cmd → Cmd) : (setCmd s c q i f).sec = s.sec := rfl
@[simp] theorem setCmd_rep (c : Ctx) (q : QIdx) (i : W32) (f : Cmd → Cmd) : (setCmd s c q i f).rep = s.rep := rfl
@[simp] theorem setCmd_pow (c : Ctx) (q : QIdx) (i : W32) (f : Cmd → Cmd) : (setCmd s c q i f).pow = s.pow := rfl
@[simp] theorem setCmd_obs (c : Ctx) (q : QIdx) (i : W32) (f : Cmd → Cmd) : (setCmd s c q i f).obs = s.obs := rfl
@[simp] theorem setCmd_pins (c : Ctx) (q : QIdx) (i : W32) (f : Cmd → Cmd) : (setCmd s c q i f).pins = s.pins := rfl
@[simp] theorem setCmd_out (c : Ctx) (q : QIdx) (i : W32) (f : Cmd → Cmd) : (setCmd s c q i f).out = s.out := rfl
@[simp] theorem setCmd_seed (c : Ctx) (q : QIdx) (i : W32) (f : Cmd → Cmd) : (setCmd s c q i f).seed = s.seed := rfl

theorem setReg_regs (r : Reg) (v : Nat) : (s.setReg r v).regs = s.regs.insert r (BitVec.ofNat 64 v) := rfl
theorem setCore_cores (n : CoreId) (k : Core) : (setCore s n k).cores = s.cores.insert n k := rfl

end Sys2Proof.Machine
end

