-- ==== Sys2Proof/Laws/Regs.lean ====
section
/-! SUPPORT. Registers and their fields: a read after a write of the same register or field, and of another one. -/

namespace Sys2Proof.Machine

variable {s : State} {r r' : Reg} {f g : Fld} {v : Nat}

theorem reg_setReg_same (s : State) (r : Reg) (v : Nat) : (s.setReg r v).reg r = v % 2 ^ 64 := by
  simp [State.reg, State.setReg]

theorem reg_setReg_other (h : r ≠ r') : (s.setReg r v).reg r' = s.reg r' := by
  simp only [State.reg, State.setReg, AMap.getD_insert_other h]

theorem reg_setFld_other (h : f.reg ≠ r) : (s.setFld f v).reg r = s.reg r := reg_setReg_other h

theorem reg_lt (s : State) (r : Reg) : s.reg r < 2 ^ 64 := (s.regs.getD r (BitVec.ofNat 64 r.reset)).isLt

/-- A field of another register keeps its value. -/
theorem fld_setFld_other (h : f.reg ≠ g.reg) : (s.setFld f v).fld g = s.fld g := by
  rw [State.fld, reg_setFld_other h]; rfl

theorem flag_setFld_other (h : f.reg ≠ g.reg) : (s.setFld f v).flag g = s.flag g := by
  rw [State.flag, fld_setFld_other h]; rfl

theorem flag_setFlag_other {b : Bool} (h : f.reg ≠ g.reg) : (s.setFlag f b).flag g = s.flag g := flag_setFld_other h

theorem fld_setFlag_other {b : Bool} (h : f.reg ≠ g.reg) : (s.setFlag f b).fld g = s.fld g := fld_setFld_other h

/-! ### Fields of one register -/

theorem testBit_putBits (x lo n v i : Nat) :
    (putBits x lo n v).testBit i = if lo ≤ i ∧ i < lo + n then v.testBit (i - lo) else x.testBit i := by
  have h1 : v % 2 ^ n * 2 ^ lo + x % 2 ^ lo < 2 ^ (lo + n) := by
    have a := Nat.mod_lt v (Nat.two_pow_pos n)
    have b := Nat.mod_lt x (Nat.two_pow_pos lo)
    rw [pow_add]
    calc v % 2 ^ n * 2 ^ lo + x % 2 ^ lo < v % 2 ^ n * 2 ^ lo + 2 ^ lo := by omega
      _ = (v % 2 ^ n + 1) * 2 ^ lo := by ring
      _ ≤ 2 ^ n * 2 ^ lo := Nat.mul_le_mul_right _ a
      _ = 2 ^ lo * 2 ^ n := Nat.mul_comm _ _
  have e : putBits x lo n v = 2 ^ (lo + n) * (x / 2 ^ (lo + n)) + (2 ^ lo * (v % 2 ^ n) + x % 2 ^ lo) := by
    unfold putBits; ring
  rw [e, Nat.testBit_two_pow_mul_add _ (by rwa [Nat.mul_comm] at h1), Nat.testBit_two_pow_mul_add _ (Nat.mod_lt x (Nat.two_pow_pos lo)),
    Nat.testBit_div_two_pow, Nat.testBit_mod_two_pow, Nat.testBit_mod_two_pow]
  by_cases hi : i < lo + n
  · rw [if_pos hi]
    by_cases hl : i < lo
    · rw [if_pos hl, if_neg (by omega)]; simp [hl]
    · rw [if_neg hl, if_pos (by omega)]; simp [show i - lo < n by omega]
  · rw [if_neg hi, if_neg (by omega), show i - (lo + n) + (lo + n) = i by omega]

theorem testBit_bitsOf (x lo n i : Nat) : (bitsOf x lo n).testBit i = (decide (i < n) && x.testBit (lo + i)) := by
  rw [bitsOf, Nat.testBit_mod_two_pow, Nat.testBit_div_two_pow, Nat.add_comm]

theorem bitsOf_putBits_same (x lo n v : Nat) : bitsOf (putBits x lo n v) lo n = v % 2 ^ n := by
  apply Nat.eq_of_testBit_eq
  intro i
  rw [testBit_bitsOf, testBit_putBits, Nat.testBit_mod_two_pow]
  by_cases h : i < n
  · rw [if_pos (by omega), Nat.add_sub_cancel_left]
  · simp [h]

theorem bitsOf_putBits_other {x lo n v lo' n' : Nat} (h : lo + n ≤ lo' ∨ lo' + n' ≤ lo) :
    bitsOf (putBits x lo n v) lo' n' = bitsOf x lo' n' := by
  apply Nat.eq_of_testBit_eq
  intro i
  rw [testBit_bitsOf, testBit_bitsOf, testBit_putBits]
  by_cases hi : i < n'
  · rw [if_neg (by omega)]
  · simp [hi]

theorem putBits_lt {x lo n v : Nat} (hx : x < 2 ^ 64) (h : lo + n ≤ 64) : putBits x lo n v < 2 ^ 64 := by
  apply Nat.lt_of_testBit 64
  all_goals first
    | (rw [testBit_putBits, if_neg (by omega)]; exact Nat.testBit_lt_two_pow hx)
    | exact Nat.testBit_two_pow_self
    | (intro j hj; rw [testBit_putBits, if_neg (by omega), Nat.testBit_lt_two_pow (lt_of_lt_of_le hx (Nat.pow_le_pow_right (by omega) (by omega))),
        Nat.testBit_two_pow_of_ne (by omega)])

/-- A field that lies in its register holds the value written, in the field's width. -/
theorem fld_setFld_same (s : State) (v : Nat) (h : f.lo + f.width ≤ 64) : (s.setFld f v).fld f = v % 2 ^ f.width := by
  rw [State.fld, State.setFld, reg_setReg_same, Nat.mod_eq_of_lt (putBits_lt (reg_lt s _) h), bitsOf_putBits_same]

/-- A field of the same register that does not overlap keeps its value. -/
theorem fld_setFld_apart (s : State) (v : Nat) (hr : f.reg = g.reg) (h : f.lo + f.width ≤ 64)
    (ha : f.lo + f.width ≤ g.lo ∨ g.lo + g.width ≤ f.lo) : (s.setFld f v).fld g = s.fld g := by
  rw [State.fld, State.setFld, ← hr, reg_setReg_same, Nat.mod_eq_of_lt (putBits_lt (reg_lt s _) h), bitsOf_putBits_other ha, State.fld, hr]

theorem flag_setFlag_same (s : State) (b : Bool) (h : f.lo + f.width ≤ 64) (hw : f.width = 1) : (s.setFlag f b).flag f = b := by
  rw [State.flag, State.setFlag, fld_setFld_same s _ h, hw]; cases b <;> rfl

end Sys2Proof.Machine
end

