-- ==== Sys2Proof/Laws/Issue.lean ====
section
/-! SUPPORT. The issue of an instruction: what it does when the core issues, when the guard fails, and when the word sets a
reserved bit; and the operations that an instruction's body is made of. -/

namespace Sys2Proof.Machine

variable {s : State} {n : CoreId} {k : Core} {x : Nat}

@[simp] theorem setCore_find (s : State) (n : CoreId) (k : Core) : (setCore s n k).cores.find? n = some k :=
  AMap.find?_insert_same _ _ _

@[simp] theorem setCore_setCore (s : State) (n : CoreId) (k k' : Core) : setCore (setCore s n k) n k' = setCore s n k' := by
  simp [setCore]

theorem setCore_same (h : s.cores.find? n = some k) : setCore s n k = s := by
  simp [setCore, AMap.insert_same h]

theorem run_modCore {f : Core → Core} (h : s.cores.find? n = some k) : modCore n f s = .ok ⟨⟩ (setCore s n (f k)) := by
  simp only [modCore, run_modify, State.onCore, h]; rfl

theorem run_modCore_set (s : State) (n : CoreId) (k : Core) (f : Core → Core) :
    modCore n f (setCore s n k) = .ok ⟨⟩ (setCore s n (f k)) := by
  rw [run_modCore (setCore_find s n k), setCore_setCore]

/-! ### Stalls -/

theorem run_stallS {rs : List Nat} (h : freeS k rs) (t : State) : stallS k rs t = .ok ⟨⟩ t := by
  have : (!rs.any k.sBusy) = true := by simpa [List.any_eq_true] using h
  rw [stallS, this]; rfl

theorem run_stallV {rs : List Nat} (h : freeV k rs) (t : State) : stallV k rs t = .ok ⟨⟩ t := by
  have : (!rs.any k.vBusy) = true := by simpa [List.any_eq_true] using h
  rw [stallV, this]; rfl

theorem run_stallD {rs : List Nat} (h : freeD k rs) (t : State) : stallD k rs t = .ok ⟨⟩ t := by
  have : (!rs.any k.dBusy) = true := by simpa [List.any_eq_true] using h
  rw [stallD, this]; rfl

theorem run_stallAcquire (h : noAcquire k) (t : State) : stallAcquire k t = .ok ⟨⟩ t := by
  have : k.gl.all (fun g => g.acq == 0) = true := by simpa [List.all_eq_true] using h
  rw [stallAcquire, this]; rfl

theorem run_takeToken {cls m : Nat} (h : s.cores.find? n = some k) (hm : nthD k.pend cls 0 + m ≤ 255) :
    takeToken n cls m s = .ok ⟨⟩ (setCore s n { k with pend := setNth k.pend cls (nthD k.pend cls 0 + m) }) := by
  unfold takeToken
  rw [run_bind_ok (run_get s), h, run_bind_ok (run_needSome k s), decide_eq_true hm, run_bind_ok (run_guardWait_true s), run_modCore h]

/-! ### Branches -/

theorem run_takeBranch (s : State) (n : CoreId) (j k : Core) (a : W64) (h : k.inCode a.toNat = true) :
    takeBranch n k a (setCore s n j) = .ok ⟨⟩ (setCore s n (j.jump a)) := by
  unfold takeBranch
  rw [h, run_bind_ok (run_guardCode_true _ _ _), run_modCore_set]

/-! ### Issue -/

/-- The fetch of a word that the instruction buffer holds changes nothing. -/
theorem run_fetchWord {a : Nat} {w : W64} (h : k.ibuf.find? a = some w) (hw : w.toNat = x) (t : State) :
    fetchWord n k a x t = .ok x t := by
  simp only [fetchWord, h, if_pos hw]; exact run_pure _ _

theorem free_of_at (h : AtWord s n k x) : (k.wait == .running && k.bar.isNone) = true := by rw [h.runs, h.bar]; rfl

/-- A core that issues a word without a decode fault runs the body one word on; its end in an error is a fault of the core. -/
theorem run_issue {body : Core → M Unit} (h : Issues s n k x) (hx : x < 2 ^ 64) {t : State}
    (hb : body k (setCore s n (past k)) = .ok ⟨⟩ t) : issue n x none body s = .ok ⟨⟩ t := by
  have hw : (BitVec.ofNat 64 x).toNat = x := by rw [BitVec.toNat_ofNat, Nat.mod_eq_of_lt hx]
  unfold issue
  rw [run_bind_ok (run_get s), h.core, run_bind_ok (run_needSome k s), free_of_at h.toAtWord, run_bind_ok (run_guardWait_true s), h.code,
    run_bind_ok (run_guardWait_true s)]
  rw [run_bind_ok (run_attempt_ok (a := ⟨⟩) (t := t) ?_)]
  · exact run_pure _ _
  · rw [run_bind_ok (run_fetchWord h.word hw s), beq_self_eq_true, run_bind_ok (run_guardWait_true s)]
    dsimp only
    rw [run_bind_ok (run_modCore h.core), run_if, if_pos h.guard]
    exact hb

/-- The guard fails: the word is passed, and nothing else changes (R70). -/
theorem run_issue_guarded {body : Core → M Unit} (h : AtWord s n k x) (hg : guardHolds k x = false) (hx : x < 2 ^ 64) :
    issue n x none body s = .ok ⟨⟩ (setCore s n (past k)) := by
  have hw : (BitVec.ofNat 64 x).toNat = x := by rw [BitVec.toNat_ofNat, Nat.mod_eq_of_lt hx]
  unfold issue
  rw [run_bind_ok (run_get s), h.core, run_bind_ok (run_needSome k s), free_of_at h, run_bind_ok (run_guardWait_true s), h.code,
    run_bind_ok (run_guardWait_true s)]
  rw [run_bind_ok (run_attempt_ok (a := ⟨⟩) (t := setCore s n (past k)) ?_)]
  · exact run_pure _ _
  · rw [run_bind_ok (run_fetchWord h.word hw s), beq_self_eq_true, run_bind_ok (run_guardWait_true s)]
    dsimp only
    rw [run_bind_ok (run_modCore h.core), hg]
    exact run_pure _ _

/-- An error of the body other than a wait is the core's fault, in the state that the body reached. -/
theorem run_issue_fault {body : Core → M Unit} {e : Err} {t : State} (h : Issues s n k x) (hx : x < 2 ^ 64)
    (hb : body k (setCore s n (past k)) = .error e t) (he : e ≠ .wait) : issue n x none body s = coreFault n k.pc e t := by
  have hw : (BitVec.ofNat 64 x).toNat = x := by rw [BitVec.toNat_ofNat, Nat.mod_eq_of_lt hx]
  unfold issue
  rw [run_bind_ok (run_get s), h.core, run_bind_ok (run_needSome k s), free_of_at h.toAtWord, run_bind_ok (run_guardWait_true s), h.code,
    run_bind_ok (run_guardWait_true s)]
  rw [run_bind_ok (run_attempt_error (e := e) (t := t) ?_ he)]
  · rw [run_bind_ok (run_fetchWord h.word hw s), beq_self_eq_true, run_bind_ok (run_guardWait_true s)]
    dsimp only
    rw [run_bind_ok (run_modCore h.core), run_if, if_pos h.guard]
    exact hb

/-- A decode fault is the core's fault, and the word has no effect. -/
theorem run_issue_bad {body : Core → M Unit} {f : Nat} (h : AtWord s n k x) (hx : x < 2 ^ 64) :
    issue n x (some f) body s = coreFault n k.pc (.code 2 f) s := by
  have hw : (BitVec.ofNat 64 x).toNat = x := by rw [BitVec.toNat_ofNat, Nat.mod_eq_of_lt hx]
  unfold issue
  rw [run_bind_ok (run_get s), h.core, run_bind_ok (run_needSome k s), free_of_at h, run_bind_ok (run_guardWait_true s), h.code,
    run_bind_ok (run_guardWait_true s)]
  rw [run_bind_ok (run_attempt_error (e := .code 2 f) (t := s) ?_ (by simp))]
  · rw [run_bind_ok (run_fetchWord h.word hw s), beq_self_eq_true, run_bind_ok (run_guardWait_true s)]
    exact run_throw _ _

theorem wordOf_lt {major minor : Nat} (w : BitVec 50) (h : major < 2 ^ 8) (hm : minor < 2 ^ 6) : wordOf major minor w < 2 ^ 64 := by
  have := w.isLt; simp only [wordOf]; omega

theorem wordOf56_lt {major : Nat} (w : BitVec 56) (h : major < 2 ^ 8) : wordOf56 major w < 2 ^ 64 := by
  have := w.isLt; simp only [wordOf56]; omega

theorem reserved_none {used : List (Nat × Nat)} (h : fieldsOnly x used) : reservedUnless x used = none := by
  rw [reservedUnless, if_pos h]

end Sys2Proof.Machine
end

