-- ==== Sys2Proof/Laws/Memory.lean ====
section
/-! SUPPORT. The byte memories: every operation on one keeps the canonical form, a read gives what was written last, and a
write leaves every other byte alone. -/

namespace Sys2Proof.Machine

variable {m : Memory} {a b lo hi n : Nat} {v : Byte}

/-! ### The canonical form -/

theorem wfFrom_le (h : Memory.wfFrom hi m = true) (hl : lo ≤ hi) : Memory.wfFrom lo m = true := by
  cases m with
  | nil => rfl
  | cons p t => simp only [Memory.wfFrom, Bool.and_eq_true, decide_eq_true_eq] at h ⊢; exact ⟨⟨by omega, h.1.2⟩, h.2⟩

theorem wfFrom_write (h : Memory.wfFrom lo m = true) (ha : lo ≤ a) : Memory.wfFrom lo (m.write a v) = true := by
  induction m generalizing lo with
  | nil => unfold Memory.write; split <;> simp_all [Memory.wfFrom]
  | cons p t ih =>
    obtain ⟨k, x⟩ := p
    simp only [Memory.wfFrom, Bool.and_eq_true, decide_eq_true_eq] at h
    unfold Memory.write
    split
    · split
      · simp_all [Memory.wfFrom]
      · simp only [Memory.wfFrom, Bool.and_eq_true, decide_eq_true_eq]
        exact ⟨⟨ha, ‹_›⟩, ⟨by omega, h.1.2⟩, h.2⟩
    · split
      · split
        · exact wfFrom_le h.2 (by omega)
        · subst k; simp_all [Memory.wfFrom]
      · simp only [Memory.wfFrom, Bool.and_eq_true, decide_eq_true_eq]
        exact ⟨h.1, ih h.2 (by omega)⟩

theorem wf_write (h : m.wf = true) (a : Nat) (v : Byte) : (m.write a v).wf = true := wfFrom_write h (Nat.zero_le a)

theorem wf_writeList (h : m.wf = true) (a : Nat) (bs : List Byte) : (m.writeList a bs).wf = true := by
  induction bs generalizing m a with
  | nil => exact h
  | cons x t ih => exact ih (wf_write h a x) (a + 1)

theorem wfFrom_filter (h : Memory.wfFrom lo m = true) (p : Host.Cell → Bool) : Memory.wfFrom lo (m.filter p) = true := by
  induction m generalizing lo with
  | nil => rfl
  | cons c t ih =>
    obtain ⟨k, x⟩ := c
    simp only [Memory.wfFrom, Bool.and_eq_true, decide_eq_true_eq] at h
    rw [List.filter_cons]
    split
    · simp only [Memory.wfFrom, Bool.and_eq_true, decide_eq_true_eq]; exact ⟨h.1, ih h.2⟩
    · exact wfFrom_le (ih h.2) (by omega)

theorem wf_filter (h : m.wf = true) (p : Host.Cell → Bool) : Memory.wf (m.filter p) = true := wfFrom_filter h p

theorem wf_clear (h : m.wf = true) (lo hi : Nat) : (m.clear lo hi).wf = true := wf_filter h _

/-- A fold of steps that keep the form keeps it. -/
theorem wf_foldl {α : Type} {f : Memory → α → Memory} (hf : ∀ m x, m.wf = true → (f m x).wf = true) (l : List α)
    (h : m.wf = true) : (l.foldl f m).wf = true := by
  induction l generalizing m with
  | nil => exact h
  | cons x t ih => exact ih (hf m x h)

/-! ### Reads -/

theorem read_below (h : Memory.wfFrom lo m = true) (ha : a < lo) : m.read a = 0 := by
  cases m with
  | nil => rfl
  | cons p t =>
    simp only [Memory.wfFrom, Bool.and_eq_true, decide_eq_true_eq] at h
    unfold Memory.read
    rw [if_neg (by omega), if_pos (by omega)]

theorem read_writeFrom (h : Memory.wfFrom lo m = true) (a b : Nat) (v : Byte) :
    (m.write a v).read b = if b = a then v else m.read b := by
  induction m generalizing lo with
  | nil =>
    simp only [Memory.write, Memory.read]
    by_cases hv : v = 0
    · rw [if_pos hv, hv, ite_self]; rfl
    · rw [if_neg hv]
      simp only [Memory.read]
      by_cases hb : a = b
      · rw [if_pos hb, if_pos hb.symm]
      · rw [if_neg hb, if_neg (Ne.symm hb), ite_self]
  | cons p t ih =>
    obtain ⟨k, x⟩ := p
    simp only [Memory.wfFrom, Bool.and_eq_true, decide_eq_true_eq] at h
    have e := ih h.2
    have low : ∀ c < k + 1, Memory.read t c = 0 := fun c hc => read_below h.2 hc
    simp only [Memory.write, Memory.read]
    by_cases h1 : a < k
    · rw [if_pos h1]
      by_cases hv : v = 0
      · subst hv
        rw [if_pos rfl]
        simp only [Memory.read]
        split
        · subst b; rw [if_neg (by omega)]
        · split
          · split <;> rfl
          · rw [if_neg (by omega)]
      · rw [if_neg hv]
        simp only [Memory.read]
        by_cases hb : a = b
        · rw [if_pos hb, if_pos hb.symm]
        · rw [if_neg hb, if_neg (Ne.symm hb)]
          by_cases hl : b < a
          · rw [if_pos hl, if_neg (by omega), if_pos (by omega)]
          · rw [if_neg hl]
    · rw [if_neg h1]
      by_cases h2 : k = a
      · subst k
        rw [if_pos rfl]
        by_cases hv : v = 0
        · subst hv
          rw [if_pos rfl]
          by_cases hb : a = b
          · subst hb; rw [if_pos rfl]; exact low a (by omega)
          · rw [if_neg (Ne.symm hb), if_neg hb]
            split
            · exact low b (by omega)
            · rfl
        · rw [if_neg hv]
          simp only [Memory.read]
          by_cases hb : a = b
          · rw [if_pos hb, if_pos hb.symm]
          · rw [if_neg hb, if_neg (Ne.symm hb), if_neg hb]
      · rw [if_neg h2]
        simp only [Memory.read]
        by_cases h3 : k = b
        · rw [if_pos h3, if_neg (by omega), if_pos h3]
        · rw [if_neg h3, if_neg h3]
          split
          · rw [if_neg (by omega)]
          · exact e

/-- A read after a write: the byte written at its address, and the byte from before at every other one. -/
theorem read_write (h : m.wf = true) (a b : Nat) (v : Byte) : (m.write a v).read b = if b = a then v else m.read b :=
  read_writeFrom h a b v

/-- A read after a write of consecutive bytes. -/
theorem read_writeList (h : m.wf = true) (a b : Nat) (bs : List Byte) :
    (m.writeList a bs).read b = if a ≤ b ∧ b < a + bs.length then bs.getD (b - a) 0 else m.read b := by
  induction bs generalizing m a with
  | nil => rw [if_neg (by simp)]; rfl
  | cons x t ih =>
    rw [Memory.writeList, ih (wf_write h a x), read_write h, List.length_cons]
    by_cases hb : b = a
    · subst hb; rw [if_neg (by omega), if_pos rfl, if_pos (by omega), Nat.sub_self]; rfl
    · by_cases hi : a + 1 ≤ b ∧ b < a + 1 + t.length
      · rw [if_pos hi, if_pos (by omega), show b - a = (b - (a + 1)) + 1 by omega, List.getD_cons_succ]
      · rw [if_neg hi, if_neg hb, if_neg (by omega)]

theorem read_writeList_outside (h : m.wf = true) {bs : List Byte} (hb : b < a ∨ a + bs.length ≤ b) :
    (m.writeList a bs).read b = m.read b := by rw [read_writeList h, if_neg (by omega)]

theorem read_clearFrom (h : Memory.wfFrom n m = true) (lo hi b : Nat) :
    (m.clear lo hi).read b = if lo ≤ b ∧ b < hi then 0 else m.read b := by
  induction m generalizing n with
  | nil => simp [Memory.clear, Memory.read]
  | cons p t ih =>
    obtain ⟨k, x⟩ := p
    simp only [Memory.wfFrom, Bool.and_eq_true, decide_eq_true_eq] at h
    have e := ih h.2
    have low : ∀ c < k + 1, Memory.read t c = 0 := fun c hc => read_below h.2 hc
    simp only [Memory.clear] at e
    simp only [Memory.clear, List.filter_cons, decide_eq_true_eq]
    split
    · simp only [Memory.read]
      split
      · rw [if_neg (by omega)]
      · split
        · simp
        · exact e
    · rw [e]
      simp only [Memory.read]
      split
      · rfl
      · rw [if_neg (by omega)]
        split
        · exact low b (by omega)
        · rfl

theorem read_clear (h : m.wf = true) (lo hi b : Nat) : (m.clear lo hi).read b = if lo ≤ b ∧ b < hi then 0 else m.read b :=
  read_clearFrom h lo hi b

@[simp] theorem length_readList (m : Memory) (a n : Nat) : (m.readList a n).length = n := by
  induction n generalizing a with
  | zero => rfl
  | succ n ih => simp [Memory.readList, ih]

/-- Two memories in canonical form that read alike are one list. -/
theorem eq_of_read {m' : Memory} (h : Memory.wfFrom lo m = true) (h' : Memory.wfFrom lo m' = true) (e : ∀ a, m.read a = m'.read a) :
    m = m' := by
  induction m generalizing lo m' with
  | nil =>
    cases m' with
    | nil => rfl
    | cons p t =>
      simp only [Memory.wfFrom, Bool.and_eq_true, decide_eq_true_eq] at h'
      have := e p.1
      simp [Memory.read] at this
      exact absurd this.symm h'.1.2
  | cons p t ih =>
    cases m' with
    | nil =>
      simp only [Memory.wfFrom, Bool.and_eq_true, decide_eq_true_eq] at h
      have := e p.1
      simp [Memory.read] at this
      exact absurd this h.1.2
    | cons q u =>
      obtain ⟨k, x⟩ := p
      obtain ⟨k', x'⟩ := q
      simp only [Memory.wfFrom, Bool.and_eq_true, decide_eq_true_eq] at h h'
      have hk : k = k' := by
        by_contra hne
        rcases Nat.lt_or_gt_of_ne hne with hlt | hlt
        · have := e k
          simp only [Memory.read, if_true] at this
          rw [if_neg (by omega), if_pos hlt] at this
          exact h.1.2 this
        · have := e k'
          simp only [Memory.read, if_true] at this
          rw [if_neg (by omega), if_pos hlt] at this
          exact h'.1.2 this.symm
      subst hk
      have hx : x = x' := by have := e k; simpa [Memory.read] using this
      subst hx
      refine congrArg _ (ih h.2 h'.2 (fun a => ?_))
      by_cases ha : a < k + 1
      · rw [read_below h.2 ha, read_below h'.2 ha]
      · have := e a
        simp only [Memory.read] at this
        rwa [if_neg (by omega), if_neg (by omega), if_neg (by omega), if_neg (by omega)] at this

/-! ### The named operations keep the form -/

theorem wf_zeroGranules {x : MemSt} (h : x.bytes.wf = true) (lo hi : Nat) : (x.zeroGranules lo hi).bytes.wf = true :=
  wf_clear h _ _

theorem wf_settleFill {x : MemSt} (h : x.bytes.wf = true) (g : Nat) : (x.settleFill g).bytes.wf = true := by
  unfold MemSt.settleFill
  split
  · exact wf_zeroGranules h _ _
  · exact h

/-- Both on-core memories have the form. -/
def sramWf (x : SramSt) : Prop := x.spad.wf = true ∧ x.store.wf = true

theorem wf_bytesOf {x : SramSt} (h : sramWf x) (y : Sram) : (x.bytesOf y).wf = true := by
  unfold SramSt.bytesOf; split
  · exact h.2
  · exact h.1

theorem wf_setBytes {x : SramSt} (h : sramWf x) (y : Sram) {b : Memory} (hb : b.wf = true) : sramWf (x.setBytes y b) := by
  unfold SramSt.setBytes; split
  · exact ⟨h.1, hb⟩
  · exact ⟨hb, h.2⟩

theorem wf_setTags {x : SramSt} (h : sramWf x) (y : Sram) (t : AMap Nat OwnerTag) : sramWf (x.setTags y t) := by
  unfold SramSt.setTags; split <;> exact h

theorem wf_setPoison {x : SramSt} (h : sramWf x) (y : Sram) (p : List Nat) : sramWf (x.setPoison y p) := by
  unfold SramSt.setPoison; split <;> exact h

theorem wf_claim {x : SramSt} (h : sramWf x) (y : Sram) (c g o : Nat) : sramWf (x.claim y c g o) := by
  unfold SramSt.claim
  refine iteInduction (fun _ => wf_setTags h _ _) (fun _ => wf_setBytes (wf_setTags h _ _) _ (wf_clear (wf_bytesOf h y) _ _))

theorem wf_writeWord {x : SramSt} (h : sramWf x) (y : Sram) (c g o : Nat) (bs : List Byte) : sramWf (x.writeWord y c g o bs) := by
  unfold SramSt.writeWord
  have hc := wf_claim h y c g o
  have hz := wf_setBytes hc y (wf_writeList (wf_bytesOf hc y) (y.cell o) bs)
  dsimp only
  split
  · exact wf_setPoison hz _ _
  · exact hz

theorem wf_writeWords (y : Sram) (c g f : Nat) {x : SramSt} (h : sramWf x) (o : Nat) (bs : List Byte) :
    sramWf (SramSt.writeWords y c g f x o bs) := by
  induction f generalizing x o bs with
  | zero => exact h
  | succ f ih =>
    unfold SramSt.writeWords
    split
    · exact h
    · exact ih (wf_writeWord h y c g o _) _ _

theorem wf_putLine {x : SramSt} (h : sramWf x) (store : Bool) (c : Ctx) (g : Nat) (l : Nat × Nat × List Byte) :
    sramWf (x.putLine store c g l) := by
  unfold SramSt.putLine
  have ht := wf_setTags h ⟨store, 0⟩ ((x.tagsOf ⟨store, 0⟩).insert l.1 ⟨c.val, g, l.2.1⟩)
  exact wf_setBytes ht _ (wf_foldl (fun b w hb => wf_writeList hb _ _) _ (wf_bytesOf ht _))

theorem memoriesWf_reset : memoriesWf State.reset := ⟨rfl, rfl, rfl⟩

/-- A state with the same memories has their form. -/
theorem memoriesWf_of_eq {s t : State} (h : memoriesWf s) (hm : t.mem.bytes = s.mem.bytes) (hp : t.sram.spad = s.sram.spad)
    (hs : t.sram.store = s.sram.store) : memoriesWf t := by
  unfold memoriesWf; rw [hm, hp, hs]; exact h

end Sys2Proof.Machine
end

