-- ==== Sys2Proof/Laws/Keeps.lean ====
section
/-! SUPPORT. Computations that keep the canonical form of the three memories, whatever their result: how they are put together,
and the shared operations that do. -/

namespace Sys2Proof.Machine

variable {α β : Type}

/-- The state that a computation reaches, in a result and in an error. -/
def stateOf : EStateM.Result Err State α → State
  | .ok _ t => t
  | .error _ t => t

/-- The computation keeps the form of the memories. -/
def Keeps (m : M α) : Prop := ∀ s, memoriesWf s → memoriesWf (stateOf (m s))

theorem Keeps.ok {m : M α} (h : Keeps m) {s t : State} {a : α} (hs : memoriesWf s) (e : m s = .ok a t) : memoriesWf t := by
  have := h s hs; rwa [e] at this

theorem keeps_pure (a : α) : Keeps (pure a) := fun s hs => by rw [run_pure]; exact hs

theorem keeps_throw (e : Err) : Keeps (throw e : M α) := fun s hs => by rw [run_throw]; exact hs

theorem keeps_get : Keeps (get : M State) := fun s hs => by rw [run_get]; exact hs

theorem keeps_modify {f : State → State} (hf : ∀ s, memoriesWf s → memoriesWf (f s)) : Keeps (modify f : M PUnit) :=
  fun s hs => by rw [run_modify]; exact hf s hs

/-- A state put in the place of one that was read. -/
theorem keeps_set {t : State} (ht : memoriesWf t) : Keeps (set t : M PUnit) := fun s _ => by rw [run_set]; exact ht

theorem keeps_bind {m : M α} {f : α → M β} (hm : Keeps m) (hf : ∀ a, Keeps (f a)) : Keeps (m >>= f) := fun s hs => by
  have h := hm s hs
  rw [run_bind]
  cases e : m s with
  | ok a u => rw [e] at h; exact hf a u h
  | error x u => rw [e] at h; exact h

/-- A computation that goes on with the state it has read may use that state's form. -/
theorem keeps_get_bind {f : State → M β} (hf : ∀ s, memoriesWf s → memoriesWf (stateOf (f s s))) : Keeps (get >>= f) :=
  fun s hs => by rw [run_bind_ok (run_get s)]; exact hf s hs

theorem keeps_map {m : M α} (f : α → β) (hm : Keeps m) : Keeps (f <$> m) := fun s hs => by
  have h := hm s hs
  rw [run_map]
  cases e : m s with
  | ok a u => rw [e] at h; exact h
  | error x u => rw [e] at h; exact h

theorem keeps_attempt {m : M α} (hm : Keeps m) : Keeps (attempt m) := fun s hs => by
  have h := hm s hs
  unfold attempt
  cases e : m s with
  | ok a u => rw [e] at h; exact h
  | error x u => rw [e] at h; cases x <;> exact h

theorem keeps_ite {c : Prop} [Decidable c] {x y : M α} (hx : Keeps x) (hy : Keeps y) : Keeps (if c then x else y) := by
  split <;> assumption

theorem keeps_eachM (l : List α) {f : α → M Unit} (hf : ∀ a, Keeps (f a)) : Keeps (eachM l f) := by
  induction l with
  | nil => exact keeps_pure _
  | cons a t ih => exact keeps_bind (hf a) (fun _ => ih)

theorem keeps_mapM' (l : List α) {f : α → M β} (hf : ∀ a, Keeps (f a)) : Keeps (mapM' l f) := by
  induction l with
  | nil => exact keeps_pure _
  | cons a t ih => exact keeps_bind (hf a) (fun _ => keeps_bind ih (fun _ => keeps_pure _))

/-! ### Operations that reach no memory -/

theorem keeps_guardWait (b : Bool) : Keeps (guardWait b) := keeps_ite (keeps_pure _) (keeps_throw _)
theorem keeps_guardCode (b : Bool) (st f : Nat) : Keeps (guardCode b st f) := keeps_ite (keeps_pure _) (keeps_throw _)
theorem keeps_needSome (o : Option α) : Keeps (needSome o) := by cases o; exacts [keeps_throw _, keeps_pure _]
theorem keeps_orErr (o : Option α) (e : Err) : Keeps (orErr o e) := by cases o; exacts [keeps_throw _, keeps_pure _]
theorem keeps_getFld (f : Fld) : Keeps (getFld f) := keeps_bind keeps_get (fun _ => keeps_pure _)
theorem keeps_getFlag (f : Fld) : Keeps (getFlag f) := keeps_bind keeps_get (fun _ => keeps_pure _)
theorem keeps_putFld (f : Fld) (v : Nat) : Keeps (putFld f v) := keeps_modify fun _ h => h
theorem keeps_putFlag (f : Fld) (b : Bool) : Keeps (putFlag f b) := keeps_modify fun _ h => h
theorem keeps_bump (f : Fld) : Keeps (bump f) := keeps_modify fun _ h => h
theorem keeps_bumpBy (f : Fld) (n : Nat) : Keeps (bumpBy f n) := keeps_modify fun _ h => h
theorem keeps_bumpFull (f : Fld) : Keeps (bumpFull f) := keeps_modify fun _ h => h
theorem keeps_emit (o : Out) : Keeps (emit o) := keeps_modify fun _ h => h
theorem keeps_modTime (f : TimeSt → TimeSt) : Keeps (modTime f) := keeps_modify fun _ h => h
theorem keeps_modCtx (c : Ctx) (f : CtxSt → CtxSt) : Keeps (modCtx c f) := keeps_modify fun _ h => h
theorem keeps_modQueue (c : Ctx) (q : QIdx) (f : QueueSt → QueueSt) : Keeps (modQueue c q f) := keeps_modify fun _ h => h
theorem keeps_modCmd (c : Ctx) (q : QIdx) (i : W32) (f : Cmd → Cmd) : Keeps (modCmd c q i f) := keeps_modQueue _ _ _
theorem keeps_modModel (m : Model) (f : ModelSt → ModelSt) : Keeps (modModel m f) := keeps_modify fun _ h => h
theorem keeps_fresh : Keeps fresh := fun s hs => by rw [run_fresh]; exact hs

theorem keeps_modCore (n : CoreId) (f : Core → Core) : Keeps (modCore n f) :=
  keeps_modify fun s h => by unfold State.onCore; split <;> exact h

theorem keeps_modJob (c : Ctx) (f : JobSt → JobSt) : Keeps (modJob c f) := by
  refine keeps_modify fun s h => ?_
  cases s.jobs.find? c with
  | none => exact h
  | some j => exact h

/-! ### Operations on memory -/

/-- A change of the memory system that keeps the form of its bytes. -/
theorem keeps_modMem {f : MemSt → MemSt} (hf : ∀ x : MemSt, x.bytes.wf = true → (f x).bytes.wf = true) : Keeps (modMem f) :=
  keeps_modify fun s h => ⟨hf s.mem h.1, h.2⟩

theorem keeps_reachGranule (g : Nat) : Keeps (reachGranule g) :=
  keeps_bind keeps_get fun _ => keeps_bind (keeps_guardWait _) fun _ => keeps_bind (keeps_guardWait _) fun _ =>
    keeps_modMem fun _ h => wf_settleFill h g

theorem keeps_integrityFault (g : Nat) : Keeps (integrityFault g : M α) := by
  unfold integrityFault
  refine keeps_bind keeps_get fun s => ?_
  cases stackOf s.mem.partNow (g * 256) with
  | none => exact keeps_bind (keeps_pure _) fun _ => keeps_throw _
  | some j => exact keeps_bind (keeps_bump _) fun _ => keeps_throw _

theorem keeps_burstOk (g : Nat) : Keeps (burstOk g) := by
  unfold burstOk
  refine keeps_bind keeps_get fun s => ?_
  split
  · split
    · exact keeps_ite (keeps_bind keeps_fresh fun _ => keeps_pure _) (keeps_pure _)
    · exact keeps_pure _
  · exact keeps_pure _

theorem keeps_dramOk (slot g : Nat) (reads : Bool) : Keeps (dramOk slot g reads) :=
  keeps_bind (keeps_burstOk g) fun _ => keeps_bind keeps_get fun _ => keeps_pure _

theorem keeps_poolAccess (slot g : Nat) (reads : Bool) : Keeps (poolAccess slot g reads) := by
  refine keeps_bind (keeps_reachGranule g) fun _ => keeps_bind (keeps_dramOk slot g reads) fun _ =>
    keeps_bind keeps_get fun _ => keeps_bind ?_ fun _ => keeps_ite (keeps_modMem fun _ h => h) (keeps_integrityFault g)
  split
  · exact keeps_pure _
  · exact keeps_ite (keeps_pure _) (keeps_bind keeps_fresh fun _ => keeps_pure _)

theorem keeps_checkRead (slot g : Nat) : Keeps (checkRead slot g) := keeps_poolAccess slot g true

theorem keeps_checkWrite (slot g : Nat) (whole : Bool) : Keeps (checkWrite slot g whole) := keeps_poolAccess slot g _

theorem keeps_checkDram (slot g : Nat) (reads : Bool) : Keeps (checkDram slot g reads) :=
  keeps_bind (keeps_reachGranule g) fun _ => keeps_bind (keeps_dramOk slot g reads) fun _ =>
    keeps_ite (keeps_pure _) (keeps_integrityFault g)

theorem keeps_writeGranule (slot dpa : Nat) (bs : List Byte) : Keeps (writeGranule slot dpa bs) :=
  keeps_modMem fun _ h => wf_writeList h dpa bs

/-! ### From a computation to a command -/

theorem runAny_keeps {m : M Unit} (h : Keeps m) {s t : State} (hs : memoriesWf s) (e : runAny m s = .next t) : memoriesWf t := by
  unfold runAny at e
  split at e
  · cases e; exact h.ok hs ‹_›
  · cases e; exact hs

theorem run_keeps {m : M Unit} (h : Keeps m) {s t : State} (hs : memoriesWf s) (e : run m s = .next t) : memoriesWf t := by
  unfold run at e
  split at e
  · exact runAny_keeps h hs e
  · cases e; exact hs

theorem runLink_keeps {m : M Unit} (h : Keeps m) {s t : State} (hs : memoriesWf s) (e : runLink m s = .next t) : memoriesWf t := by
  unfold runLink at e
  split at e
  · exact runAny_keeps h hs e
  · cases e; exact hs

theorem runPw_keeps {m : M Unit} (h : Keeps m) {s t : State} (hs : memoriesWf s) (e : runPw m s = .next t) : memoriesWf t := by
  unfold runPw at e
  split at e
  · exact runAny_keeps h hs e
  · cases e; exact hs

end Sys2Proof.Machine
end

