-- ==== Sys2Proof/Laws/Translation.lean ====
section
/-! SUPPORT. Translation: a cached entry that the tables still hold makes no difference to a walk but for one free value (R252). -/

namespace Sys2Proof.Machine

/-- Caching again what is cached changes nothing. -/
theorem keep_cached {t : State} {k : TlbKey} {e : Nat} (h : t.mem.tlb.insert k e = t.mem.tlb) :
    ({ t with mem := { t.mem with tlb := t.mem.tlb.insert k e } } : State) = t := by rw [h]

/-- What `walkFrom` meets at one level: the entry is cached, the table in memory holds it, and it is well formed so far. -/
structure CachedAt (c : Ctx) (gen va lv sh n base e : Nat) (s : State) : Prop where
  cached : s.mem.tlb.find? ⟨c.val, gen, lv, va / 2 ^ sh⟩ = some e
  kept : s.mem.tlb.insert ⟨c.val, gen, lv, va / 2 ^ sh⟩ e = s.mem.tlb
  held : ∃ b, readDpa (s.fld F.tableSlot) (base + 8 * bitsOf va sh n) 8 { s with seed := s.seed + 1 } =
    .ok b { s with seed := s.seed + 1 } ∧ leNat b = e
  valid : bitOf e 0 = true

theorem walkFrom_table {c : Ctx} {gen va lv sh n base e : Nat} {rest : List (Nat × Nat × Nat)} {s : State}
    (h : CachedAt c gen va lv sh n base e s) (hl : bitOf e 1 = false)
    (ht : (decide (lv < 4) && tableOk e (rest.headD (0, 0, 0)).2.1) = true) :
    walkFrom c gen va ((lv, sh, n) :: rest) base s =
      walkFrom c gen va rest (bitsOf e 24 31 * 256) { s with seed := s.seed + 1 } := by
  obtain ⟨hc, hk, ⟨b, hb, he⟩, hv⟩ := h
  rw [walkFrom]
  simp only [tlbLook, run_bind, run_get, hc, run_fresh, run_pure]
  cases Config.tlbHit s.seed
  · have hf : s.fld F.tableSlot = ({ s with seed := s.seed + 1 } : State).fld F.tableSlot := rfl
    have hk' : ({ s with seed := s.seed + 1 } : State).mem.tlb.insert ⟨c.val, gen, lv, va / 2 ^ sh⟩ e =
        ({ s with seed := s.seed + 1 } : State).mem.tlb := hk
    rw [hf] at hb
    generalize ({ s with seed := s.seed + 1 } : State) = t at hb hk' ⊢
    rw [if_neg Bool.false_ne_true]
    dsimp only
    rw [run_bind_ok (run_getFld _ _), run_bind_ok hb, he, hv, hl, run_if]
    simp only [Bool.not_true, Bool.false_eq_true, if_false, if_true, ht]
    rw [run_bind_ok (run_modMem _ _), keep_cached hk']
  · simp only [if_true, hl, Bool.false_eq_true, if_false]

theorem walkFrom_leaf {c : Ctx} {gen va lv sh n base e : Nat} {rest : List (Nat × Nat × Nat)} {s : State}
    (h : CachedAt c gen va lv sh n base e s) (hl : bitOf e 1 = true)
    (ht : (decide (2 ≤ lv) && leafOk ({ s with seed := s.seed + 1 } : State).mem.partNow e sh) = true) :
    walkFrom c gen va ((lv, sh, n) :: rest) base s = .ok (e, sh) { s with seed := s.seed + 1 } := by
  obtain ⟨hc, hk, ⟨b, hb, he⟩, hv⟩ := h
  rw [walkFrom]
  simp only [tlbLook, run_bind, run_get, hc, run_fresh, run_pure]
  cases Config.tlbHit s.seed
  · have hf : s.fld F.tableSlot = ({ s with seed := s.seed + 1 } : State).fld F.tableSlot := rfl
    have hk' : ({ s with seed := s.seed + 1 } : State).mem.tlb.insert ⟨c.val, gen, lv, va / 2 ^ sh⟩ e =
        ({ s with seed := s.seed + 1 } : State).mem.tlb := hk
    rw [hf] at hb
    generalize ({ s with seed := s.seed + 1 } : State) = t at hb hk' ht ⊢
    rw [if_neg Bool.false_ne_true]
    dsimp only
    rw [run_bind_ok (run_getFld _ _), run_bind_ok hb, he, hv, hl]
    simp only [Bool.not_true, Bool.false_eq_true, if_false, if_true]
    rw [run_bind_ok (run_get _), ht, if_pos rfl, run_bind_ok (run_modMem _ _), keep_cached hk', run_pure]
  · simp only [if_true, hl, run_pure, run_if]

end Sys2Proof.Machine
end

