-- ==== Sys2Proof/WellFormed.lean ====
section
/-! DEFINITION. Well-formed commands: what the spec's layouts ask of the operands whose types hold more than a row of
the table can carry. A meaning does not rest on it: it makes the checks that the spec states itself. -/

namespace Sys2Proof

/-- A routed message's header carries the four steps of R425 (R428). -/
def MsgHdr.wf (m : MsgHdr) : Bool := m.route.length == 4

/-- A flit carries 224 bytes of payload, of which 1–224 are used, or none where it is idle (R422). -/
def Flit.wf (f : Flit) : Bool :=
  f.payload.length == 224 && (if f.idle then f.length == 0 else decide (1 ≤ f.length ∧ f.length ≤ 224))

/-- The data of a WRITE or READ: 1–4,096 bytes (R428). -/
def dataWf (n : Nat) : Bool := decide (1 ≤ n ∧ n ≤ 4096)

/-- Each core once (R24, R355). -/
def coresWf (cores : List CoreId) : Bool := decide cores.Nodup

/-- What each row's layout asks of its operands. -/
def Instr.wf : Instr → Bool
  | .kernel _ _ cores | .stageStart _ cores => coresWf cores
  | .beacon _ b => decide (b.priority ≠ 0) && decide (500 ≤ b.period.toNat ∧ b.period.toNat ≤ 250000)
  | .hello _ _ _ _ nonce => nonce.length == 32
  | .encap _ c => c.length == 1088
  | .rekey _ k => k.length == 1184
  | .flit _ f => f.wf
  | .write _ m _ _ data => m.wf && dataWf data.length
  | .read _ m _ _ n => m.wf && dataWf n
  | .readRsp _ m _ _ _ | .signal _ m _ _ _ _ | .ack _ m _ _ | .trace _ m _ | .routedForward _ _ m _ => m.wf
  | .linkTraining _ good => decide good.Nodup
  | .hostMemAccess a store n => decide (1 ≤ n ∧ a % 64 + n ≤ 64) && store.all (fun b => b.length == n)
  | .fwImage _ data => decide (data.length ≤ 1048568)
  | .attest nonce => nonce.length == 32
  | .controlInterval _ _ sensors => sensors.length == 56
  | .numvfsWrite n => decide (n ≤ 1024)
  | .registerWrite _ _ bits _ => bits == 32 || bits == 64
  | _ => true

end Sys2Proof
end

