-- ==== Sys2Proof/Tests/Slice0.lean ====
section
/-! SUPPORT. The model's own tests: the well-formedness checks refuse an ill-formed term each, and for the clauses of the
statements a concrete state and operands that meet the hypotheses, with the result there where it is plain data. Expected
results are worked out by hand from the rules that the statements cite. -/

namespace Sys2Proof.Tests

open Sys2Proof Sys2Proof.Machine

set_option Elab.async false

/-! ### Small states -/

/-- The outcome is this next state. -/
def isNext (o : Host.Outcome State Fault Refusal) (t : State) : Bool :=
  match o with
  | .next u => decide (u = t)
  | _ => false

/-- The outcome is a next state with the property. -/
def after (o : Host.Outcome State Fault Refusal) (P : State → Bool) : Bool :=
  match o with
  | .next u => P u
  | _ => false

/-- A computation succeeds with a result and a state of the property. -/
def okWith {α : Type} (r : EStateM.Result Err State α) (P : α → State → Bool) : Bool :=
  match r with
  | .ok a u => P a u
  | .error _ _ => false

/-- The low 50 bits of a word with the listed fields (lowest bit, value). -/
def w50 (fs : List (Nat × Nat)) : BitVec 50 := BitVec.ofNat 50 (fs.map (fun p => p.2 * 2 ^ p.1)).sum
/-- The low 56 bits of a word with a minor opcode and the listed fields. -/
def w56 (m : Nat) (fs : List (Nat × Nat)) : BitVec 56 := BitVec.ofNat 56 (m * 2 ^ 50 + (fs.map (fun p => p.2 * 2 ^ p.1)).sum)

/-- A core of context 0 at the second word of a code region of 32 words at 0x1000, with the word in its buffer. -/
def core (x : Nat) : Core :=
  { Core.initial 0 0 0 0 none 0 1 0x2000 0x1000 0x100 0 with pc := 0x1008, ibuf := [(0x1008, BitVec.ofNat 64 x)] }
/-- The module at reset with core 0 in a state. -/
def at0 (k : Core) : State := setCore State.reset 0 k

/-- What `Issues` asks, as a proposition that can be decided. -/
abbrev Ready (s : State) (n : CoreId) (k : Core) (x : Nat) : Prop :=
  s.works = true ∧ s.cores.find? n = some k ∧ k.wait = .running ∧ k.bar = none ∧ k.inCode k.pc.toNat = true ∧
    k.ibuf.find? k.pc.toNat = some (BitVec.ofNat 64 x) ∧ guardHolds k x = true

theorem issues_of_ready {s : State} {n : CoreId} {k : Core} {x : Nat} (h : Ready s n k x) : Issues s n k x :=
  ⟨⟨h.1, h.2.1, h.2.2.1, h.2.2.2.1, h.2.2.2.2.1, h.2.2.2.2.2.1⟩, h.2.2.2.2.2.2⟩

/-! ### Control, scalar and special registers -/

theorem met_ctlNop : let x := wordOf 1 0 0; let k := core x
    Ready (at0 k) 0 k x ∧ fieldsOnly x [] ∧ isNext (exec (.ctlNop 0 0) (at0 k)) (setCore (at0 k) 0 { k with pc := 0x1010 }) = true := by
  decide +kernel

theorem met_ctlEnd : let x := wordOf 1 1 0; let k := core x
    Ready (at0 k) 0 k x ∧ fieldsOnly x [] ∧
      isNext (exec (.ctlEnd 0 0) (at0 k)) (setCore (at0 k) 0 { k with pc := 0x1010, wait := .ending }) = true := by decide +kernel

theorem met_ctlBr : let w := w50 [(4, 2 ^ 36 - 1)]; let x := wordOf 1 2 w; let k := core x
    Ready (at0 k) 0 k x ∧ fieldsOnly x [(4, 36)] ∧ k.inCode (branchTarget k x).toNat = true ∧
      isNext (exec (.ctlBr 0 w) (at0 k)) (setCore (at0 k) 0 { k with pc := 0x1000 }) = true := by decide +kernel

theorem met_ctlCall : let w := w50 [(45, 3), (4, 30)]; let x := wordOf 1 3 w; let k := core x
    Ready (at0 k) 0 k x ∧ fieldsOnly x [(45, 5), (4, 36)] ∧ freeS k [Wd.f45 x] ∧ k.inCode (branchTarget k x).toNat = true ∧
      isNext (exec (.ctlCall 0 w) (at0 k)) (setCore (at0 k) 0 { k with pc := 0x10F8, s := [(3, 0x1010)] }) = true := by decide +kernel

theorem met_ctlJr : let w := w50 [(45, 3)]; let x := wordOf 1 4 w; let k := { core x with s := [(3, 0x10F8)] }
    Ready (at0 k) 0 k x ∧ fieldsOnly x [(45, 5)] ∧ freeS k [Wd.f45 x] ∧ (k.getS (Wd.f45 x)).toNat % 8 = 0 ∧
      k.inCode (k.getS (Wd.f45 x)).toNat = true ∧
      isNext (exec (.ctlJr 0 w) (at0 k)) (setCore (at0 k) 0 { k with pc := 0x10F8 }) = true := by decide +kernel

theorem met_ctlLoop_ends : let w := w50 [(45, 3), (4, 1)]; let x := wordOf 1 5 w; let k := { core x with s := [(3, 1)] }
    Ready (at0 k) 0 k x ∧ fieldsOnly x [(45, 5), (4, 36)] ∧ freeS k [Wd.f45 x] ∧ k.getS (Wd.f45 x) = 1 ∧
      isNext (exec (.ctlLoop 0 w) (at0 k)) (setCore (at0 k) 0 { k with pc := 0x1010, s := [(3, 0)] }) = true := by decide +kernel

theorem met_ctlLoop_goes_on : let w := w50 [(45, 3), (4, 1)]; let x := wordOf 1 5 w; let k := { core x with s := [(3, 0)] }
    Ready (at0 k) 0 k x ∧ fieldsOnly x [(45, 5), (4, 36)] ∧ freeS k [Wd.f45 x] ∧ k.getS (Wd.f45 x) ≠ 1 ∧
      k.inCode (branchTarget k x).toNat = true ∧
      isNext (exec (.ctlLoop 0 w) (at0 k)) (setCore (at0 k) 0 { k with pc := 0x1010, s := [(3, BitVec.allOnes 64)] }) = true := by
  decide +kernel

theorem met_ctlYield : let x := wordOf 1 6 0; let k := core x
    Ready (at0 k) 0 k x ∧ fieldsOnly x [] ∧ (at0 k).preemptAsked k = false ∧
      isNext (exec (.ctlYield 0 0) (at0 k)) (setCore (at0 k) 0 { k with pc := 0x1010 }) = true := by decide +kernel

/-- A preemptible command of context 1 whose grant is to leave. -/
def leaving (x : Nat) : State :=
  let cmd : Cmd := { Cmd.blank 0 with kind := 1, preemptible := true, started := true, phase := .running }
  { at0 { core x with ctx := 1 } with
    ctxs := [(1, { CtxSt.absent with phase := .live, holds := [0], preempt := true })]
    queues := [((1, 0), { QueueSt.empty with cmds := [cmd] })] }

theorem met_ctlYield_preempting : let x := wordOf 1 6 0; let k := { core x with ctx := 1 }; let s := leaving x
    Ready s 0 k x ∧ fieldsOnly x [] ∧ s.preemptAsked k = true ∧
      isNext (exec (.ctlYield 0 0) s) (setCore s 0 { k with pc := 0x1010, wait := .preempting }) = true := by decide +kernel

/-- A word whose guard is the negation of p0 fails it, for one row of each family that the statement names. -/
theorem met_guardFails : ∀ r ∈ ([(.ctlNop, 1, 0, []), (.ctlEnd, 1, 1, []), (.ctlBr, 1, 2, [(4, 36)]), (.ctlCall, 1, 3, [(45, 5), (4, 36)]),
      (.ctlJr, 1, 4, [(45, 5)]), (.ctlLoop, 1, 5, [(45, 5), (4, 36)]), (.ctlYield, 1, 6, []),
      (.dscLd, 4, 0, [(46, 4), (31, 5), (15, 1), (4, 11)]), (.dscMov, 4, 3, [(46, 4), (42, 4)]),
      (.mxZero, 5, 0, [(36, 2)]), (.mxMma, 5, 1, [(36, 2), (46, 4), (42, 4), (31, 5), (15, 3)]),
      (.stSp, 8, 1, [(45, 5), (40, 5), (34, 2), (4, 30)]), (.vstCs, 8, 0xB, [(45, 5), (40, 5), (4, 30)]),
      (.dmaCp, 0xA, 0, [(46, 4), (42, 4), (4, 3)]), (.syncBar, 0xB, 2, [(4, 5)]), (.wlPost, 0xC, 0, [(40, 5), (35, 5)]),
      (.atPv, 0xD, 2, [(36, 2), (46, 4), (42, 4)]), (.clPost, 0xE, 0, [(40, 5), (35, 5)]),
      (.enDb, 0xF, 1, [(40, 5)]), (.csrWr, 0x10, 1, [(40, 5), (4, 12)])] :
      List ((CoreId → BitVec 50 → Instr) × Nat × Nat × List (Nat × Nat))),
    let w := w50 [(0, 8)]; let x := wordOf r.2.1 r.2.2.1 w; let k := core x; let s := at0 k
    s.works = true ∧ s.cores.find? 0 = some k ∧ k.wait = .running ∧ k.bar = none ∧ k.inCode k.pc.toNat = true ∧
      k.ibuf.find? k.pc.toNat = some (BitVec.ofNat 64 x) ∧ guardHolds k x = false ∧ fieldsOnly x r.2.2.2 ∧
      isNext (exec (r.1 0 w) s) (setCore s 0 { k with pc := 0x1010 }) = true := by decide +kernel

/-- Registers s1 = 2^63, s2 = 2^64 − 1 and predicates p1, p2. -/
def alu (x : Nat) : Core :=
  { core x with s := [(1, 0x8000000000000000), (2, BitVec.allOnes 64)], p := [(1, 5), (2, 3)] }

/-- A SALU word of each minor opcode: rd 3, ra 1, and rb 2 where it is used. -/
def saluWord (m : Nat) : BitVec 56 :=
  w56 m ([(45, 3), (40, 1)] ++ (if m = 0x1A ∨ m = 0x1B ∨ m = 0x1F ∨ m = 0x21 then [] else [(35, 2)]))

theorem met_salu : ∀ m < 0x22, let x := wordOf56 2 (saluWord m); let k := alu x
    Ready (at0 k) 0 k x ∧ Wd.minor x = m ∧ saluBad x = none ∧ freeS k (saluRegs x) := by decide +kernel

/-- The register or predicate 3 that each SALU minor opcode leaves, by hand. -/
theorem test_salu : ∀ r ∈ ([(0x00, 0x7FFFFFFFFFFFFFFF), (0x01, 0x8000000000000001), (0x02, 0x8000000000000000), (0x03, 0),
      (0x04, 0x7FFFFFFFFFFFFFFF), (0x05, 0x8000000000000000), (0x06, 0), (0x07, 0), (0x08, 0x8000000000000000),
      (0x0C, 0), (0x0D, 1), (0x0E, 0xFFFFFFFFFFFFFFFF), (0x0F, 0x8000000000000000), (0x10, 0xFFFFFFFFFFFFFFFF),
      (0x11, 0x8000000000000000), (0x12, 0xFFFFFFFFFFFFFFFF), (0x19, 0x8000000000000000), (0x1A, 1), (0x1B, 0), (0x21, 5)] :
      List (Nat × Nat)), let x := wordOf56 2 (saluWord r.1); let k := alu x
    isNext (exec (.salu 0 (saluWord r.1)) (at0 k)) (setCore (at0 k) 0 { k with
      pc := 0x1010, s := k.s ++ [(3, BitVec.ofNat 64 r.2)] }) = true := by decide +kernel

theorem test_salu_predicates : ∀ r ∈ ([(0x13, 0), (0x14, 2 ^ 128 - 1), (0x15, 2 ^ 128 - 1), (0x16, 2 ^ 128 - 1), (0x17, 2 ^ 128 - 1),
      (0x1C, 1), (0x1D, 7), (0x1E, 6), (0x1F, 2 ^ 128 - 6), (0x20, 0x8000000000000000 + (2 ^ 64 - 1) * 2 ^ 64)] :
      List (Nat × Nat)), let x := wordOf56 2 (saluWord r.1); let k := alu x
    isNext (exec (.salu 0 (saluWord r.1)) (at0 k)) (setCore (at0 k) 0 { k with
      pc := 0x1010, p := k.p ++ [(3, BitVec.ofNat 128 r.2)] }) = true := by decide +kernel

/-- A division by zero, signed and unsigned, and its remainders: s3 = 0 is the divisor (R80). -/
theorem met_division_by_zero : ∀ r ∈ ([(5, 2 ^ 64 - 1), (6, 2 ^ 64 - 1), (7, 2 ^ 63), (8, 2 ^ 63)] : List (Nat × Nat)),
    let w := w56 r.1 [(45, 4), (40, 1), (35, 3)]; let x := wordOf56 2 w; let k := alu x
    Ready (at0 k) 0 k x ∧ saluBad x = none ∧ freeS k (saluRegs x) ∧ k.getS (Wd.f35 x) = 0 ∧ Wd.minor x = r.1 ∧
      isNext (exec (.salu 0 w) (at0 k)) (setCore (at0 k) 0 { k with pc := 0x1010, s := k.s ++ [(4, BitVec.ofNat 64 r.2)] }) = true := by
  decide +kernel

theorem met_division_wraps : ∀ m ∈ [5, 7], let x := wordOf56 2 (saluWord m); let k := alu x
    Ready (at0 k) 0 k x ∧ saluBad x = none ∧ (k.getS (Wd.f40 x)).toInt = -(2 ^ 63) ∧ (k.getS (Wd.f35 x)).toInt = -1 := by
  decide +kernel

/-- A SALUI word of each minor opcode with imm36 = −1. -/
def saluiWord (m : Nat) : BitVec 56 := w56 m ([(45, 3), (4, 2 ^ 36 - 1)] ++ (if m = 7 then [] else [(40, 1)]))

theorem met_salui : ∀ m < 0x0C, let x := wordOf56 3 (saluiWord m); let k := alu x
    Ready (at0 k) 0 k x ∧ Wd.minor x = m ∧ saluiBad x = none ∧
      freeS k ((if m ≤ 8 then [Wd.f45 x] else []) ++ [Wd.f40 x]) := by decide +kernel

theorem test_salui : ∀ r ∈ ([(0, 0x7FFFFFFFFFFFFFFF), (1, 0x8000000000000000), (2, 0xFFFFFFFFFFFFFFFF), (3, 0x7FFFFFFFFFFFFFFF),
      (4, 0), (5, 1), (6, 0xFFFFFFFFFFFFFFFF), (7, 0xFFFFFFFFFFFFFFFF), (8, 0xFFFFFFFFF0000000)] : List (Nat × Nat)),
    let x := wordOf56 3 (saluiWord r.1); let k := alu x
    isNext (exec (.salui 0 (saluiWord r.1)) (at0 k)) (setCore (at0 k) 0 { k with
      pc := 0x1010, s := k.s ++ [(3, BitVec.ofNat 64 r.2)] }) = true := by decide +kernel

theorem test_s0_p0 : let k := alu 0
    k.getS 0 = 0 ∧ k.getP 0 = BitVec.allOnes 128 ∧ k.setS 0 7 = k ∧ (k.setS 31 7).getS 31 = 7 ∧ (k.setP 7 9).getP 7 = 9 := by
  decide +kernel

/-- csr.rd of each readable number. -/
theorem met_csrRd : ∀ c ∈ [0x000, 0x001, 0x002, 0x003, 0x004, 0x005, 0x006, 0x008, 0x009, 0x00A, 0x010, 0x011, 0x020, 0x023],
    let w := w50 [(45, 3), (4, c)]; let x := wordOf 0x10 0 w; let k := core x
    Ready (at0 k) 0 k x ∧ fieldsOnly x [(45, 5), (4, 12)] ∧ freeS k [Wd.f45 x] ∧ bitsOf x 4 12 = c ∧
      (at0 k).nextTickAt ≤ 2 ^ 64 := by decide +kernel

theorem test_csrRd : ∀ r ∈ ([(0x001, 64), (0x008, 0x2000), (0x00A, 1)] : List (Nat × Nat)),
    let w := w50 [(45, 3), (4, r.1)]; let x := wordOf 0x10 0 w; let k := core x
    isNext (exec (.csrRd 0 w) (at0 k)) (setCore (at0 k) 0 { k with pc := 0x1010, s := [(3, BitVec.ofNat 64 r.2)] }) = true := by
  decide +kernel

theorem met_csrWr : ∀ c ∈ [0x010, 0x020, 0x023],
    let w := w50 [(40, 3), (4, c)]; let x := wordOf 0x10 1 w; let k := { core x with s := [(3, 0x1F)] }
    Ready (at0 k) 0 k x ∧ fieldsOnly x [(40, 5), (4, 12)] ∧ freeS k [Wd.f40 x] ∧ bitsOf x 4 12 = c := by decide +kernel

theorem test_csrWr : let w := w50 [(40, 3), (4, 0x010)]; let x := wordOf 0x10 1 w; let k := { core x with s := [(3, 0x1F)] }
    isNext (exec (.csrWr 0 w) (at0 k)) (setCore (at0 k) 0 { k with pc := 0x1010, cvtClass := 15 }) = true := by decide +kernel

/-! ### Descriptors -/

/-- A descriptor of rank 2, 64 × 64 elements row by row from 0x400, without scales (R132, R133). -/
def tile (etype space : Nat) : DReg :=
  ⟨BitVec.ofNat 1024 (etype + 2 * 16 + space * 2 ^ 12 + 3 * 2 ^ 16 + 0x400 * 2 ^ 64 + 64 * 2 ^ 128 + 64 * 2 ^ 160
      + (if ebits etype < 8 then 0 else ebits etype / 8) * 2 ^ 320 + 64 * ebits etype / 8 * 2 ^ 368),
    none, List.replicate 6 0, none, none, none⟩

/-- Descriptor registers 1, FP32 in the scratchpad, and 2, BF16 there. -/
def dsc (x : Nat) : Core := { core x with s := [(1, 0x40), (2, 2 ^ 32 - 3)], d := [(1, tile 1 2), (2, tile 0 2)] }

theorem met_dscMov : let w := w50 [(46, 3), (42, 1)]; let x := wordOf 4 3 w; let k := dsc x
    Ready (at0 k) 0 k x ∧ fieldsOnly x [(46, 4), (42, 4)] ∧ freeD k [Wd.dx x, Wd.dy x] ∧
      isNext (exec (.dscMov 0 w) (at0 k)) (setCore (at0 k) 0 { k with pc := 0x1010, d := k.d ++ [(3, tile 1 2)] }) = true := by
  decide +kernel

theorem met_dscOrg : let w := w50 [(46, 1), (31, 2), (4, 5)]; let x := wordOf 4 4 w; let k := dsc x
    Ready (at0 k) 0 k x ∧ dimBad x [(46, 4), (31, 5)] = none ∧ freeS k [Wd.sa x] ∧ freeD k [Wd.dx x] ∧
      isNext (exec (.dscOrg 0 w) (at0 k)) (setCore (at0 k) 0 { k with
        pc := 0x1010, d := [(1, { tile 1 2 with origin := [0, 0, 0, 0, 0, -3] }), (2, tile 0 2)] }) = true := by decide +kernel

theorem met_dscOrgadd : let w := w50 [(46, 1), (31, 2), (4, 0)]; let x := wordOf 4 5 w; let k := dsc x
    Ready (at0 k) 0 k x ∧ dimBad x [(46, 4), (31, 5)] = none ∧ freeS k [Wd.sa x] ∧ freeD k [Wd.dx x] ∧
      isNext (exec (.dscOrgadd 0 w) (at0 k)) (setCore (at0 k) 0 { k with
        pc := 0x1010, d := [(1, { tile 1 2 with origin := [-3, 0, 0, 0, 0, 0] }), (2, tile 0 2)] }) = true := by decide +kernel

theorem met_dscSize : let w := w50 [(46, 1), (26, 4), (4, 1)]; let x := wordOf 4 6 w; let k := dsc x
    Ready (at0 k) 0 k x ∧ dimBad x [(46, 4), (26, 5)] = none ∧ freeS k [Wd.sb x] ∧ freeD k [Wd.dx x] ∧
      isNext (exec (.dscSize 0 w) (at0 k)) (setCore (at0 k) 0 { k with pc := 0x1010, s := k.s ++ [(4, 64)] }) = true := by
  decide +kernel

/-- The first descriptor with 65 rows. -/
def resized : DReg := (tile 1 2).withSize 1 65

theorem met_dscResize : let w := w50 [(46, 1), (31, 1), (4, 1)]; let x := wordOf 4 7 w; let k := { dsc x with s := [(1, 65)] }
    Ready (at0 k) 0 k x ∧ dimBad x [(46, 4), (31, 5)] = none ∧ freeS k [Wd.sa x] ∧ freeD k [Wd.dx x] ∧
      (k.getD (Wd.dx x)).withSize (bitsOf x 4 3) (k.getS (Wd.sa x)).toNat = resized ∧
      resized.etype ≠ 0xF ∧ resized.staticFault = none ∧ resized.extentOk = true ∧ resized.size 1 = 65 := by decide +kernel

/-- The scratchpad of core 0 with bytes at an offset, written by context 0. -/
def padWith (s : State) (o : Nat) (bs : List Byte) : State :=
  { s with sram := SramSt.writeWords (padOf 0) 0 0 (bs.length / 64 + 2) s.sram o bs }

theorem met_dscLd : let w := w50 [(46, 3), (31, 1), (15, 1), (4, 8)]; let x := wordOf 4 0 w; let k := dsc x
    let s := padWith (at0 k) 0x80 (leBytes 128 (tile 1 2).raw.toNat); let a := dscAddress k x
    Ready s 0 k x ∧ fieldsOnly x [(46, 4), (31, 5), (15, 1), (4, 11)] ∧ bitOf x 15 = true ∧ freeS k [Wd.sa x] ∧
      freeD k [Wd.dx x] ∧ noAcquire k ∧ a = 0x80 ∧ a + 128 ≤ 2 ^ 22 ∧ cleanWords s.sram (padOf 0) a 128 ∧
      BitVec.ofNat 1024 (leNat (s.sram.readBytes (padOf 0) 0 0 a 128)) = (tile 1 2).raw := by decide +kernel

theorem met_dscLd_resolves : okWith (resolveDesc 0 (tile 1 2).raw State.reset) (fun d u => d == tile 1 2 && u == State.reset) = true := by
  decide +kernel

/-- An extension of a 64 × 64 tensor that is whole in both dimensions (R145). -/
def whole : BitVec 512 := BitVec.ofNat 512 (64 + 64 * 2 ^ 32 + 2 ^ 192 + 2 ^ 208)

theorem met_dscLdx : let w := w50 [(46, 1), (31, 1), (15, 1)]; let x := wordOf 4 1 w; let k := dsc x
    let s := padWith (at0 k) 0x40 (leBytes 64 whole.toNat); let a := dscAddress k x
    let e := BitVec.ofNat 512 (leNat (s.sram.readBytes (padOf 0) 0 0 a 64))
    Ready s 0 k x ∧ fieldsOnly x [(46, 4), (31, 5), (15, 1), (4, 11)] ∧ bitOf x 15 = true ∧ freeS k [Wd.sa x] ∧
      freeD k [Wd.dx x] ∧ noAcquire k ∧ a = 0x40 ∧ a + 64 ≤ 2 ^ 22 ∧ cleanWords s.sram (padOf 0) a 64 ∧
      extFault (k.getD 1) e = none ∧ e = whole ∧
      isNext (exec (.dscLdx 0 w) s) (setCore s 0 { k with
        pc := 0x1010, d := [(1, { tile 1 2 with ext := some whole }), (2, tile 0 2)] }) = true := by decide +kernel

theorem met_dscSt : let w := w50 [(46, 1), (31, 1), (15, 1)]; let x := wordOf 4 2 w; let k := dsc x
    let a := dscAddress k x
    Ready (at0 k) 0 k x ∧ fieldsOnly x [(46, 4), (31, 5), (15, 1), (4, 11)] ∧ bitOf x 15 = true ∧ freeS k [Wd.sa x] ∧
      freeD k [Wd.dx x] ∧ a = 0x40 ∧ a + 128 ≤ 2 ^ 22 ∧
      isNext (exec (.dscSt 0 w) (at0 k)) (padWith (setCore (at0 k) 0 { k with pc := 0x1010 }) 0x40
        (leBytes 128 (tile 1 2).raw.toNat)) = true := by decide +kernel

/-! ### The matrix engine and attention -/

/-- The core after a matrix instruction has entered the queue. -/
def queued (k : Core) (w : BitVec 50) (x op : Nat) (v : BitVec 2048) : State :=
  setCore (at0 k) 0 { k with
    pc := 0x1010, pend := [1, 0, 0, 0, 0]
    mxq := [{ op := op, w := w, sa := k.getS (Wd.sa x), sb := k.getS (Wd.sb x), dx := k.getD (Wd.dx x), dy := k.getD (Wd.dy x)
              v := v, pc := 0x1008 }] }

theorem met_mxZero : let w := w50 [(36, 3)]; let x := wordOf 5 0 w; let k := dsc x
    Ready (at0 k) 0 k x ∧ mxWaiting k.mxq < 8 ∧ nthD k.pend 0 0 < 255 ∧ fieldsOnly x [(36, 2)] ∧
      isNext (exec (.mxZero 0 w) (at0 k)) (queued k w x 0 0) = true := by decide +kernel

theorem met_mxMma : let w := w50 [(36, 1), (46, 2), (42, 2), (31, 1), (15, 1)]; let x := wordOf 5 1 w; let k := dsc x
    Ready (at0 k) 0 k x ∧ fieldsOnly x [(36, 2), (46, 4), (42, 4), (31, 5), (15, 3)] ∧ freeS k [Wd.sa x] ∧
      freeD k [Wd.dx x, Wd.dy x] ∧ noAcquire k ∧
      okWith (mmaChecks x k (setCore (at0 k) 0 (past k))) (fun _ u => u == setCore (at0 k) 0 (past k)) = true ∧
      isNext (exec (.mxMma 0 w) (at0 k)) (queued k w x 1 0) = true := by decide +kernel

theorem met_mxLd : let w := w50 [(36, 1), (46, 1)]; let x := wordOf 5 2 w; let k := dsc x; let d := k.getD (Wd.dx x)
    Ready (at0 k) 0 k x ∧ fieldsOnly x [(36, 2), (46, 4)] ∧ freeD k [Wd.dx x] ∧ noAcquire k ∧ d.etype ≤ 1 ∧ d.space = 2 ∧
      d.matrixStride = true ∧ isNext (exec (.mxLd 0 w) (at0 k)) (queued k w x 2 0) = true := by decide +kernel

theorem met_mxSt : let w := w50 [(36, 1), (46, 2)]; let x := wordOf 5 3 w; let k := dsc x; let d := k.getD (Wd.dx x)
    Ready (at0 k) 0 k x ∧ fieldsOnly x [(36, 2), (46, 4)] ∧ freeD k [Wd.dx x] ∧ noAcquire k ∧ d.etype ≤ 1 ∧
      (d.space = 2 ∨ (d.space = 3 ∧ k.markAhead (Wd.acc x) = false)) ∧ d.matrixStride = true ∧ d.view ≠ 1 ∧ d.readOnly = false ∧
      isNext (exec (.mxSt 0 w) (at0 k)) (queued k w x 3 0) = true := by decide +kernel

theorem met_mxWr : let w := w50 [(36, 2), (21, 3), (31, 1)]; let x := wordOf 5 5 w
    let k := { dsc x with s := [(1, 63)], v := [(3, 7)] }
    Ready (at0 k) 0 k x ∧ fieldsOnly x [(36, 2), (21, 5), (31, 5)] ∧ freeS k [Wd.sa x] ∧ freeV k [Wd.vaT x] ∧
      (k.getS (Wd.sa x)).toNat ≤ 63 ∧ isNext (exec (.mxWr 0 w) (at0 k)) (queued k w x 5 7) = true := by decide +kernel

theorem met_atQk : let w := w50 [(46, 2), (42, 2), (31, 1), (26, 2)]; let x := wordOf 0xD 0 w; let k := dsc x
    let q := k.getD (Wd.dx x); let len := (k.getS (Wd.sa x)).toNat
    Ready (at0 k) 0 k x ∧ fieldsOnly x [(36, 2), (46, 4), (42, 4), (31, 5), (26, 5)] ∧ freeS k [Wd.sa x, Wd.sb x] ∧
      freeD k [Wd.dx x, Wd.dy x] ∧ noAcquire k ∧ q.etype = 0 ∧ q.space = 2 ∧ q.matrixStride = true ∧
      (len = 0 ∨ ((len : Int) ≤ q.windowSize 0 ∧ (len : Int) ≤ q.windowSize 0)) ∧
      isNext (exec (.atQk 0 w) (at0 k)) (queued k w x 8 0) = true := by decide +kernel

theorem met_atSm : let w := w50 [(46, 2), (31, 1), (26, 2), (21, 4), (15, 3), (4, 2)]; let x := wordOf 0xD 1 w; let k := dsc x
    let d := k.getD (Wd.dx x)
    Ready (at0 k) 0 k x ∧ fieldsOnly x [(36, 2), (46, 4), (31, 5), (26, 5), (21, 5), (15, 2), (4, 4)] ∧ Wd.vaT x % 2 = 0 ∧
      Wd.acc x ∉ maskTiles x ∧ freeS k [Wd.sa x, Wd.sb x] ∧ freeV k [Wd.vaT x, Wd.vaT x + 1] ∧ freeD k [Wd.dx x] ∧ noAcquire k ∧
      d.etype = 0 ∧ d.space = 2 ∧ d.matrixStride = true ∧ d.view ≠ 1 ∧ d.readOnly = false ∧
      isNext (exec (.atSm 0 w) (at0 k)) (queued k w x 9 0) = true := by decide +kernel

theorem met_atPv : let w := w50 [(36, 1), (46, 2), (42, 2)]; let x := wordOf 0xD 2 w; let k := dsc x; let d := k.getD (Wd.dx x)
    Ready (at0 k) 0 k x ∧ fieldsOnly x [(36, 2), (46, 4), (42, 4)] ∧ freeD k [Wd.dx x, Wd.dy x] ∧ noAcquire k ∧
      d.etype = 0 ∧ d.space = 2 ∧ d.matrixStride = true ∧
      isNext (exec (.atPv 0 w) (at0 k)) (queued k w x 10 0) = true := by decide +kernel

theorem met_atMrg : let w := w50 [(46, 1), (21, 4), (4, 2)]; let x := wordOf 0xD 3 w; let k := dsc x; let d := k.getD (Wd.dx x)
    Ready (at0 k) 0 k x ∧ fieldsOnly x [(46, 4), (21, 5), (4, 4)] ∧ Wd.vaT x % 2 = 0 ∧ freeV k [Wd.vaT x, Wd.vaT x + 1] ∧
      freeD k [Wd.dx x] ∧ noAcquire k ∧ d.etype = 1 ∧ d.space = 2 ∧ d.matrixStride = true ∧ 2 ≤ d.size 0 ∧
      d.size 0 - 2 ≤ (maskTiles x).length * (at0 k).fld (F.mxWidth 0) ∧
      isNext (exec (.atMrg 0 w) (at0 k)) (queued k w x 11 0) = true := by decide +kernel

theorem met_atFin : let w := w50 [(46, 2), (21, 4), (4, 2)]; let x := wordOf 0xD 4 w
    let k := { dsc x with v := [(5, 9)] }; let d := k.getD (Wd.dx x)
    Ready (at0 k) 0 k x ∧ fieldsOnly x [(46, 4), (21, 5), (4, 4)] ∧ Wd.vaT x % 2 = 0 ∧ freeV k [Wd.vaT x, Wd.vaT x + 1] ∧
      freeD k [Wd.dx x] ∧ noAcquire k ∧ d.etype ≠ 0xF ∧ d.space = 2 ∧ d.matrixStride = true ∧
      d.size 0 ≤ (maskTiles x).length * (at0 k).fld (F.mxWidth 0) ∧ d.view ≠ 1 ∧ d.readOnly = false ∧
      isNext (exec (.atFin 0 w) (at0 k)) (queued k w x 12 9) = true := by decide +kernel

theorem met_atRp : let w := w50 [(36, 1), (46, 2), (31, 1), (26, 2), (21, 5), (15, 1)]; let x := wordOf 0xD 5 w
    let k := { dsc x with v := [(5, 9)] }; let d := k.getD (Wd.dx x)
    Ready (at0 k) 0 k x ∧ fieldsOnly x [(36, 2), (46, 4), (31, 5), (26, 5), (21, 5), (15, 1)] ∧ freeS k [Wd.sa x, Wd.sb x] ∧
      freeV k [Wd.vaT x] ∧ freeD k [Wd.dx x] ∧ noAcquire k ∧ d.etype = 0 ∧ d.space = 2 ∧ d.matrixStride = true ∧
      d.view ≠ 1 ∧ d.readOnly = false ∧ isNext (exec (.atRp 0 w) (at0 k)) (queued k w x 13 9) = true := by decide +kernel

/-- mx.rd of row 63 of tile 2: its first lane is there, and the lanes above a width of 62 read as zero. -/
theorem met_mxRd : let w := w50 [(36, 2), (21, 3), (31, 1)]; let x := wordOf 5 4 w
    let k := { core x with s := [(1, 63)], acc := [(191, BitVec.ofNat 2048 (5 + 6 * 2 ^ 1984))] }
    let s := (at0 k).setFld (F.mxWidth 0) 62
    Ready s 0 k x ∧ fieldsOnly x [(36, 2), (21, 5), (31, 5)] ∧ freeS k [Wd.sa x] ∧ freeV k [Wd.vaT x] ∧
      (k.getS (Wd.sa x)).toNat ≤ 63 ∧ (∀ o ∈ k.mxq, Wd.acc x ∉ o.tiles) ∧
      isNext (exec (.mxRd 0 w) s) (setCore s 0 { k with pc := 0x1010, v := [(3, 5)] }) = true := by decide +kernel

/-- mx.zero at the head of the queue: row 0 of tile 1 is cleared and its mark is gone. -/
def zeroing : Core :=
  { core 0 with
    acc := [(64, BitVec.allOnes 2048)], marks := [1], pend := [1, 0, 0, 0, 0]
    mxq := [{ op := 0, w := w50 [(36, 1)], sa := 0, sb := 0, dx := DReg.invalid, dy := DReg.invalid, v := 0, pc := 0x1000 }] }

theorem met_mxFinish : (at0 zeroing).works = true ∧ (at0 zeroing).cores.find? 0 = some zeroing ∧
    zeroing.mxq.length = 1 ∧ okWith (finishOp 0 zeroing (zeroing.mxq.headD ⟨1, 0, 0, 0, .invalid, .invalid, 0, 0⟩) (at0 zeroing))
      (fun _ _ => true) = true ∧
    after (exec (.mxFinish 0 0) (at0 zeroing)) (fun t => match t.cores.find? 0 with
      | some k => k.row 1 0 == 0 && k.marks.isEmpty && k.pend == [0, 0, 0, 0, 0] && k.mxq.isEmpty
      | none => false) = true := by decide +kernel

/-! ### Vectors -/

/-- Registers v1 of INT32 lanes 0, 3, 6, … and v2 of lanes 2 – i, predicate p1 of the even lanes. -/
def vec (x : Nat) : Core :=
  { core x with
    v := [(1, ofLanes 32 ((List.range 64).map (3 * ·))), (2, ofLanes 32 ((List.range 64).map (fun i => 2 ^ 32 + 2 - i)))]
    p := [(1, BitVec.ofNat 128 0x5555555555555555)], s := [(1, 0x100)] }

/-- What the statement on vx asks of its word (R65, R86). -/
abbrev vxForm (x : Nat) : Prop :=
  Wd.minor x ≤ 0x20 ∧ fieldsOnly x ((if 8 ≤ Wd.minor x ∧ Wd.minor x ≤ 0xA then (45, 3) else (45, 5)) :: (26, 4) :: (23, 3) :: (22, 1) ::
    vxUse (Wd.minor x)) ∧ Wd.etype x ∈ [0, 1, 2, 9] ∧ (Wd.minor x = 3 ∨ (0xE ≤ Wd.minor x ∧ Wd.minor x ≤ 0x19) → Wd.etype x ≠ 9) ∧
    (Wd.minor x = 0xD ∨ 0x1C ≤ Wd.minor x → Wd.etype x = 9)

/-- INT32 add under p1, keeping the masked lanes: lane 2 holds 6 + 0, lane 3 keeps 9. -/
theorem met_vx_add : let w := w56 0 [(45, 1), (40, 1), (35, 2), (26, 9), (23, 1)]; let x := wordOf56 6 w; let k := vec x
    Ready (at0 k) 0 k x ∧ vxForm x ∧ freeV k [Wd.f45 x, 1, 2] ∧ (vxUse (Wd.minor x)).contains (17, 5) = false ∧
      after (exec (.vx 0 w) (at0 k)) (fun t => match t.cores.find? 0 with
        | some c => laneOf (c.getV 1) 32 2 == 6 && laneOf (c.getV 1) 32 3 == 9 && laneOf (c.getV 1) 32 62 == 126 && c.pc == 0x1010
        | none => false) = true := by decide +kernel

/-- INT32 compare for equality into p2: no lane of 3i and 2 − i agrees, except none; masked lanes go to zero with zm. -/
theorem met_vx_compare : let w := w56 8 [(45, 2), (40, 1), (35, 1), (26, 9), (23, 1), (22, 1)]; let x := wordOf56 6 w; let k := vec x
    Ready (at0 k) 0 k x ∧ vxForm x ∧ freeV k [1] ∧ 8 ≤ Wd.minor x ∧ Wd.minor x ≤ 0xA ∧
      after (exec (.vx 0 w) (at0 k)) (fun t => match t.cores.find? 0 with
        | some c => c.getP 2 == BitVec.ofNat 128 0x5555555555555555
        | none => false) = true := by decide +kernel

/-- A splat of a scalar (minor 0x0C) waits for s1 to be free. -/
theorem met_vx_scalar : let w := w56 0xC [(45, 3), (17, 1), (26, 9)]; let x := wordOf56 6 w; let k := vec x
    Ready (at0 k) 0 k x ∧ vxForm x ∧ (vxUse (Wd.minor x)).contains (17, 5) = true ∧ freeS k [Wd.saV x] ∧
      after (exec (.vx 0 w) (at0 k)) (fun t => match t.cores.find? 0 with
        | some c => laneOf (c.getV 3) 32 63 == 0x100
        | none => false) = true := by decide +kernel

theorem met_reductions : ∀ r ∈ ([(.rsum, 0, 2976), (.rmax, 1, 186), (.rmin, 2, 0), (.rabsmax, 3, 186)] :
      List ((CoreId → BitVec 50 → Instr) × Nat × Nat)),
    let w := w50 [(45, 3), (40, 1), (26, 9), (23, 1)]; let x := wordOf 7 r.2.1 w; let k := vec x
    Ready (at0 k) 0 k x ∧ fieldsOnly x ((26, 4) :: [(45, 5), (40, 5), (23, 3), (22, 1)]) ∧ Wd.etype x ∈ ([0, 1, 2, 9] : List Nat) ∧ freeV k [Wd.f45 x, Wd.f40 x] ∧
      after (exec (r.1 0 w) (at0 k)) (fun t => match t.cores.find? 0 with
        | some c => c.getV 3 == BitVec.ofNat 2048 r.2.2
        | none => false) = true := by decide +kernel

/-- shuf with indices 2 − i modulo 64: lane 0 takes lane 2, lane 2 lane 0. -/
theorem met_shuf : let w := w50 [(45, 3), (40, 1), (35, 2), (26, 9)]; let x := wordOf 7 4 w; let k := vec x
    Ready (at0 k) 0 k x ∧ fieldsOnly x ((26, 4) :: [(45, 5), (40, 5), (35, 5), (23, 3), (22, 1)]) ∧ Wd.etype x ∈ ([0, 1, 2, 9] : List Nat) ∧
      freeV k [Wd.f45 x, Wd.f40 x, Wd.f35 x] ∧
      after (exec (.shuf 0 w) (at0 k)) (fun t => match t.cores.find? 0 with
        | some c => laneOf (c.getV 3) 32 0 == 6 && laneOf (c.getV 3) 32 2 == 0 && laneOf (c.getV 3) 32 3 == 189
        | none => false) = true := by decide +kernel

theorem met_rot : let w := w50 [(45, 3), (40, 1), (26, 9), (4, 1)]; let x := wordOf 7 5 w; let k := vec x
    Ready (at0 k) 0 k x ∧ fieldsOnly x ((26, 4) :: [(45, 5), (40, 5), (4, 13), (23, 3), (22, 1)]) ∧ Wd.etype x ∈ ([0, 1, 2, 9] : List Nat) ∧ freeV k [Wd.f45 x, Wd.f40 x] ∧
      after (exec (.rot 0 w) (at0 k)) (fun t => match t.cores.find? 0 with
        | some c => laneOf (c.getV 3) 32 0 == 3 && laneOf (c.getV 3) 32 63 == 0
        | none => false) = true := by decide +kernel

theorem met_tos : let w := w50 [(45, 3), (40, 1), (26, 9), (4, 63)]; let x := wordOf 7 9 w; let k := vec x
    Ready (at0 k) 0 k x ∧ fieldsOnly x ((26, 4) :: [(45, 5), (40, 5), (4, 7)]) ∧ Wd.etype x ∈ ([0, 1, 2, 9] : List Nat) ∧ bitsOf x 4 7 < laneCount (Wd.etype x) ∧
      freeS k [Wd.f45 x] ∧ freeV k [Wd.f40 x] ∧
      after (exec (.tos 0 w) (at0 k)) (fun t => match t.cores.find? 0 with
        | some c => c.getS 3 == 189
        | none => false) = true := by decide +kernel

/-- pack of FP32 1.0 and 2.0 into BF16 lanes 0 and 64, and unpack of the half that holds 2.0. -/
theorem met_pack : let w := w50 [(45, 3), (40, 1), (35, 2)]; let x := wordOf 7 0xA w
    let k := { core x with v := [(1, 0x3F800000), (2, 0x40000000)] }
    Ready (at0 k) 0 k x ∧ fieldsOnly x ((26, 4) :: [(45, 5), (40, 5), (35, 5), (23, 3), (22, 1)]) ∧ Wd.etype x ∈ ([0, 2] : List Nat) ∧
      freeV k [Wd.f45 x, Wd.f40 x, Wd.f35 x] ∧
      after (exec (.pack 0 w) (at0 k)) (fun t => match t.cores.find? 0 with
        | some c => laneOf (c.getV 3) 16 0 == 0x3F80 && laneOf (c.getV 3) 16 64 == 0x4000
        | none => false) = true := by decide +kernel

theorem met_unpack : let w := w50 [(45, 3), (40, 1), (4, 1)]; let x := wordOf 7 0xB w
    let k := { core x with v := [(1, BitVec.ofNat 2048 (0x4000 * 2 ^ 1024))] }
    Ready (at0 k) 0 k x ∧ fieldsOnly x ((26, 4) :: [(45, 5), (40, 5), (4, 1), (23, 3), (22, 1)]) ∧ Wd.etype x ∈ ([0, 2] : List Nat) ∧ freeV k [Wd.f45 x, Wd.f40 x] ∧
      after (exec (.unpack 0 w) (at0 k)) (fun t => match t.cores.find? 0 with
        | some c => laneOf (c.getV 3) 32 0 == 0x40000000
        | none => false) = true := by decide +kernel

/-- cvt of FP32 460 to FP8 E4M3 saturates at 448, and is counted (R110's example). -/
theorem met_cvt : let w := w50 [(45, 3), (40, 1), (26, 1), (23, 1), (22, 1), (4, 3)]; let x := wordOf 7 6 w
    let k := { core x with v := [(1, 0x43E60000)], p := [(1, 1)] }
    Ready (at0 k) 0 k x ∧ fieldsOnly x ([(26, 4), (45, 5), (40, 5), (4, 4)] ++ (if Wd.etype x ∈ [0, 2] ∧ bitsOf x 4 4 ∈ [1, 9] then [(8, 1)] else []) ++ [(23, 3), (22, 1)]) ∧
      bitsOf x 4 4 ∈ ([0, 1, 2, 3, 4, 5, 6, 7, 8, 9] : List Nat) ∧ Wd.etype x ∈ ([0, 1, 2, 9] : List Nat) ∧ freeV k [Wd.f45 x, Wd.f40 x] ∧
      after (exec (.cvt 0 w) (at0 k)) (fun t => match t.cores.find? 0 with
        | some c => laneOf (c.getV 3) 8 0 == 0x7E && c.satCount == 1
        | none => false) = true := by decide +kernel

theorem met_quant : let w := w50 [(45, 3), (40, 1), (30, 4), (26, 1), (17, 1), (10, 7), (4, 16)]; let x := wordOf 7 7 w
    let k := { core x with s := [(1, 0x3F800000)] }
    Ready (at0 k) 0 k x ∧ fieldsOnly x [(26, 4), (45, 5), (40, 5), (30, 5), (17, 5), (4, 10), (23, 3), (22, 1)] ∧ Wd.etype x ∈ ([0, 1, 2] : List Nat) ∧
      bitsOf x 4 6 ∈ ([16, 32] : List Nat) ∧ isType (bitsOf x 10 4) = true ∧ isNarrow (bitsOf x 10 4) = true ∧ freeV k [Wd.f45 x, Wd.f40 x, Wd.f30 x] ∧ freeS k [Wd.saV x] := by decide +kernel

/-- dequant of INT8 2 under a fine scale of 1.0 and a coarse scale of 1.0 is 2.0. -/
theorem met_dequant : let w := w50 [(45, 3), (40, 1), (30, 4), (26, 1), (17, 1), (10, 8), (4, 16)]; let x := wordOf 7 8 w
    let k := { core x with s := [(1, 0x3F800000)], v := [(1, 2), (4, 0xF0)] }
    Ready (at0 k) 0 k x ∧ fieldsOnly x [(26, 4), (45, 5), (40, 5), (30, 5), (17, 5), (4, 10), (23, 3), (22, 1)] ∧ Wd.etype x ∈ ([0, 1, 2] : List Nat) ∧
      bitsOf x 4 6 ∈ ([16, 32] : List Nat) ∧ isType (bitsOf x 10 4) = true ∧ isNarrow (bitsOf x 10 4) = true ∧ freeV k [Wd.f45 x, Wd.f40 x, Wd.f30 x] ∧ freeS k [Wd.saV x] ∧
      after (exec (.dequant 0 w) (at0 k)) (fun t => match t.cores.find? 0 with
        | some c => laneOf (c.getV 3) 32 0 == 0x40000000
        | none => false) = true := by decide +kernel

/-- vgath of lane 0 at s1 + 0x100, and vscat of it there. -/
theorem met_vgath : let w := w50 [(45, 3), (35, 2), (17, 1), (26, 9), (23, 1)]; let x := wordOf 7 0xC w
    let k := { core x with s := [(1, 0x100)], v := [(2, 0x100)], p := [(1, 1)] }
    let s := padWith (at0 k) 0x200 [1, 2, 3, 4]
    Ready s 0 k x ∧ fieldsOnly x ((26, 4) :: [(45, 5), (35, 5), (17, 5), (23, 3), (22, 1)]) ∧ Wd.etype x ∈ ([0, 1, 2, 9] : List Nat) ∧ freeV k [Wd.f45 x, Wd.f35 x] ∧
      freeS k [Wd.saV x] ∧ (∀ i ∈ selected k x, laneOffset k x i % 4 = 0 ∧ laneOffset k x i + 4 ≤ 2 ^ 22) ∧
      (∀ i ∈ selected k x, cleanWords s.sram (padOf 0) (laneOffset k x i) 4) ∧
      after (exec (.vgath 0 w) s) (fun t => match t.cores.find? 0 with
        | some c => laneOf (c.getV 3) 32 0 == 0x04030201
        | none => false) = true := by decide +kernel

theorem met_vscat : let w := w50 [(40, 3), (35, 2), (17, 1), (26, 9), (23, 1)]; let x := wordOf 7 0xD w
    let k := { core x with s := [(1, 0x100)], v := [(2, 0x100), (3, 0x04030201)], p := [(1, 1)] }
    Ready (at0 k) 0 k x ∧ fieldsOnly x ((26, 4) :: [(40, 5), (35, 5), (17, 5), (23, 3), (22, 1)]) ∧ Wd.etype x ∈ ([0, 1, 2, 9] : List Nat) ∧ freeV k [Wd.f40 x, Wd.f35 x] ∧
      freeS k [Wd.saV x] ∧ (∀ i ∈ selected k x, laneOffset k x i % 4 = 0 ∧ laneOffset k x i + 4 ≤ 2 ^ 22) ∧
      after (exec (.vscat 0 w) (at0 k)) (fun t => t.sram.readBytes (padOf 0) 0 0 0x200 4 == [1, 2, 3, 4]) = true := by decide +kernel

theorem test_int8 : decodeNum 8 0x80 = Val.ofInt (-128) ∧ (convert 8 (Val.ofInt (-128))).bits = 0x81 ∧
    fineNum 0xF0 = .fin false 8 8 ∧ isNarrow 8 = true := by decide +kernel
/-! ### Memory -/

/-- A state whose context 0 has its addresses below 1 GiB mapped to DPAs from 1 GiB, with all rights, by one leaf (R246–R248). -/
def mapped (s : State) : State :=
  let t := { s with mem := { s.mem with bytes :=
    (((s.mem.bytes.writeList 0x100000 (leBytes 8 (1 + 0x101000 * 2 ^ 16))).writeList 0x101000
      (leBytes 8 (1 + 0x102000 * 2 ^ 16))).writeList 0x102000 (leBytes 8 (0x1F + 1025 * 2 ^ 8 + 0x40000000 * 2 ^ 16))) } }
  (t.setFld (F.root 0) 0x100).setFlag (F.rootValid 0) true

/-- A core with an address of 0x200 in s1, a value in s2 and v2. -/
def acc (x : Nat) : Core := { core x with s := [(1, 0x200), (2, 0x0102030405060708)], v := [(2, 0x0102030405060708)] }

/-- Loads of 2 bytes at s1 − 0x1FE, the last place but one at the bottom of a scratchpad and of a store. -/
theorem met_loads : ∀ r ∈ ([(.ldSp, 0, padOf 0), (.ldCs, 2, storeOf 0)] : List ((CoreId → BitVec 50 → Instr) × Nat × Sram)),
    let w := w50 [(45, 3), (40, 1), (34, 1), (4, 2 ^ 30 - 0x1FE)]; let x := wordOf 8 r.2.1 w; let k := acc x; let s := at0 k
    Ready s 0 k x ∧ fieldsOnly x [(45, 5), (40, 5), (34, 2), (4, 30)] ∧ freeS k [Wd.f45 x, Wd.f40 x] ∧
      memAddress k x % memSize x = 0 ∧ memAddress k x = 2 ∧ memAddress k x + memSize x ≤ r.2.2.size ∧
      cleanWords s.sram r.2.2 (memAddress k x) (memSize x) ∧
      isNext (exec (r.1 0 w) s) (setCore s 0 { k with pc := 0x1010, s := k.s ++ [(3, 0)] }) = true := by decide +kernel

/-- A load that finds the bytes there, little-endian (R89). -/
theorem test_ldSp : let w := w50 [(45, 3), (40, 1), (34, 2)]; let x := wordOf 8 0 w; let k := acc x
    let s := padWith (at0 k) 0x200 [1, 2, 3, 4]
    after (exec (.ldSp 0 w) s) (fun t => match t.cores.find? 0 with
      | some c => c.getS 3 == 0x04030201
      | none => false) = true := by decide +kernel

theorem met_stores : ∀ r ∈ ([(.stSp, 1, padOf 0), (.stCs, 3, storeOf 0)] : List ((CoreId → BitVec 50 → Instr) × Nat × Sram)),
    let w := w50 [(45, 2), (40, 1), (34, 3)]; let x := wordOf 8 r.2.1 w; let k := acc x; let s := at0 k
    Ready s 0 k x ∧ fieldsOnly x [(45, 5), (40, 5), (34, 2), (4, 30)] ∧ freeS k [Wd.f45 x, Wd.f40 x] ∧
      memAddress k x % memSize x = 0 ∧ memAddress k x + memSize x ≤ r.2.2.size ∧
      after (exec (r.1 0 w) s) (fun t => t.sram.readBytes r.2.2 0 0 0x200 9 == [8, 7, 6, 5, 4, 3, 2, 1, 0]) = true := by
  decide +kernel

theorem met_vectorLoads : ∀ r ∈ ([(.vldSp, 8, padOf 0), (.vldCs, 0xA, storeOf 0)] :
      List ((CoreId → BitVec 50 → Instr) × Nat × Sram)),
    let w := w50 [(45, 3), (40, 1), (4, 0x40)]; let x := wordOf 8 r.2.1 w; let k := acc x; let s := at0 k
    Ready s 0 k x ∧ fieldsOnly x [(45, 5), (40, 5), (4, 30)] ∧ freeS k [Wd.f40 x] ∧ freeV k [Wd.f45 x] ∧
      memAddress k x % 64 = 0 ∧ memAddress k x + 256 ≤ r.2.2.size ∧ cleanWords s.sram r.2.2 (memAddress k x) 256 := by
  decide +kernel

theorem met_vectorStores : ∀ r ∈ ([(.vstSp, 9, padOf 0), (.vstCs, 0xB, storeOf 0)] :
      List ((CoreId → BitVec 50 → Instr) × Nat × Sram)),
    let w := w50 [(45, 2), (40, 1), (4, 0x40)]; let x := wordOf 8 r.2.1 w; let k := acc x; let s := at0 k
    Ready s 0 k x ∧ fieldsOnly x [(45, 5), (40, 5), (4, 30)] ∧ freeS k [Wd.f40 x] ∧ freeV k [Wd.f45 x] ∧
      memAddress k x % 64 = 0 ∧ memAddress k x + 256 ≤ r.2.2.size ∧
      after (exec (r.1 0 w) s) (fun t => t.sram.readBytes r.2.2 0 0 0x240 4 == [8, 7, 6, 5]) = true := by decide +kernel

/-- The last 3 bytes of a scratchpad, written and read back. -/
theorem met_sramWrite : let x := State.reset.sram; let bs : List Byte := [1, 2, 3]; let o := 2 ^ 22 - 3
    x.spad.wf = true ∧ x.store.wf = true ∧ o + bs.length ≤ (padOf 5).size ∧
      (SramSt.writeWords (padOf 5) 0 0 2 x o bs).readBytes (padOf 5) 0 0 o 3 = bs := by decide +kernel

/-- Global loads of memory that nothing has written read zero; each ord is met. -/
theorem met_ldG : ∀ o ∈ [1], let w := w50 [(45, 3), (40, 1), (36, o), (34, 3)]; let x := wordOf 8 4 w; let k := acc x
    let s := mapped (at0 k); let a := memAddress k x
    Ready s 0 k x ∧ nthD k.pend 1 0 < 255 ∧ noAcquire k ∧ ordBad x scalarUse [0, 1, 3] = none ∧ freeS k [Wd.f45 x, Wd.f40 x] ∧
      a % memSize x = 0 ∧ k.loadsOut = false ∧ inHostAperture a = false ∧
      okWith (homeRead 0 k a (memSize x) (Wd.ord x) s) (fun b _ => b == List.replicate 8 0) = true ∧
      after (exec (.ldG 0 w) s) (fun t => match t.cores.find? 0 with
        | some c => c.pend == [0, 1, 0, 0, 0] && c.gl.length == 1 && c.pc == 0x1010
        | none => false) = true := by decide +kernel

theorem met_vldG : let w := w50 [(45, 3), (40, 1), (36, 1)]; let x := wordOf 8 0xC w; let k := acc x
    let s := mapped (at0 k); let a := memAddress k x
    Ready s 0 k x ∧ noAcquire k ∧ ordBad x vectorUse [0, 1, 3] = none ∧ freeS k [Wd.f40 x] ∧ freeV k [Wd.f45 x] ∧
      a % 32 = 0 ∧ inHostAperture a = false ∧ okWith (homeRead 0 k a 256 (Wd.ord x) s) (fun _ _ => true) = true := by
  decide +kernel

theorem met_stG : ∀ o ∈ [0, 2], let w := w50 [(45, 2), (40, 1), (36, o), (34, 3)]; let x := wordOf 8 5 w; let k := acc x
    let s := mapped (at0 k); let a := memAddress k x
    Ready s 0 k x ∧ ordBad x scalarUse [0, 2] = none ∧ freeS k [Wd.f45 x, Wd.f40 x] ∧ a % memSize x = 0 ∧
      k.storesOut = false ∧ inHostAperture a = false ∧
      okWith (storeCheck (k.who 0) a (memSize x) s) (fun _ _ => true) = true ∧
      after (exec (.stG 0 w) s) (fun t => match t.cores.find? 0 with
        | some c => c.pend == [0, 1, 0, 0, 0] && c.gl.map (·.wr) == [true]
        | none => false) = true := by decide +kernel

theorem met_vstG : let w := w50 [(45, 2), (40, 1)]; let x := wordOf 8 0xD w; let k := acc x
    let s := mapped (at0 k); let a := memAddress k x
    Ready s 0 k x ∧ ordBad x vectorUse [0, 2] = none ∧ freeS k [Wd.f40 x] ∧ freeV k [Wd.f45 x] ∧ a % 32 = 0 ∧
      inHostAperture a = false ∧
      okWith (storeCheck (k.who 0) a 256 s) (fun _ _ => true) = true := by decide +kernel

/-- A handle table at 0x4000 whose entry 1 is a HOST object of 4,096 bytes at host address 0x10000 with right R (R318). -/
def hostTable (s : State) : State :=
  let e : List Byte := leBytes 1 2 ++ leBytes 1 1 ++ leBytes 6 0 ++ leBytes 8 0x10000 ++ leBytes 8 4096 ++ leBytes 8 0
  let t := mapped s
  (({ t with mem := { t.mem with bytes := t.mem.bytes.writeList 0x40004020 e } }).setFld ⟨.feHtbase 0, 12, 45⟩ 4).setFld (F.htCount 0) 2

theorem met_ldG_host : let w := w50 [(45, 3), (40, 1), (34, 3)]; let x := wordOf 8 4 w
    let k := { core x with s := [(1, BitVec.ofNat 64 (0x1FE * 2 ^ 48 + 2 ^ 28))] }
    let s := hostTable (at0 k); let a := memAddress k x
    Ready s 0 k x ∧ noAcquire k ∧ ordBad x scalarUse [0, 1, 3] = none ∧ freeS k [Wd.f45 x, Wd.f40 x] ∧ a % memSize x = 0 ∧
      inHostAperture a = true ∧
      okWith (hostAddress k.ctx a (memSize x) 1 s) (fun h u => h == 0x10000 && u.cxl.cohRead k.ctx h 8 false == none) = true := by
  decide +kernel

/-- A write of 8 bytes across a granule boundary at 0x1FC. -/

theorem met_deviceWrite_granule : let s := mapped State.reset; let bs : List Byte := [1, 2, 3, 4]
    s.mem.bytes.wf = true ∧ s.mem.fills = [] ∧ 0x1FC % 256 + bs.length ≤ 256 ∧ bs ≠ [] ∧ okWith (vaWriteAs 0 0x1FC bs .w s)
      (fun _ t => t.mem.bytes.readList 0x400001FC 5 == bs ++ [0]) = true := by decide +kernel

/-! ### Returns and synchronisation -/

/-- A core with one global access on its way. -/
def waiting (d : GlDest) : Core := { core 0 with gl := [⟨d, false, none, 0x1000, 2⟩], pend := [0, 1, 0, 0, 0], rcache := [(5, [])] }

theorem met_return : ∀ d ∈ ([.s 3 7, .v 3 7, .d 3 DReg.invalid, .none] : List GlDest), let k := waiting d; let s := at0 k
    s.works = true ∧ s.cores.find? 0 = some k ∧ k.gl[0]? = some ⟨d, false, none, 0x1000, 2⟩ ∧
      after (exec (.globalDataReturn 0 0) s) (fun t => match t.cores.find? 0 with
        | some c => c.pend == [0, 0, 0, 0, 0] && c.gl.isEmpty && c.rcache.isEmpty
        | none => false) = true := by decide +kernel

theorem met_syncFence : let w := w50 [(6, 1), (4, 2)]; let x := wordOf 0xB 0 w; let k := { core x with rcache := [(5, [])] }
    Ready (at0 k) 0 k x ∧ fieldsOnly x [(4, 4)] ∧ bitsOf x 4 2 ≠ 3 ∧ bitsOf x 6 2 ≠ 0 ∧ k.loadsOut = false ∧ k.storesOut = false ∧
      isNext (exec (.syncFence 0 w) (at0 k)) (setCore (at0 k) 0 { k with pc := 0x1010, rcache := [] }) = true := by decide +kernel

theorem met_syncWt : ∀ m ∈ [0, 4], let w := w50 [(12, m), (4, 255)]; let x := wordOf 0xB 1 w
    let k := { core x with pend := [255, 0, 0, 0, 255] }
    Ready (at0 k) 0 k x ∧ fieldsOnly x [(4, 11)] ∧ bitsOf x 12 3 ≤ 4 ∧ nthD k.pend (bitsOf x 12 3) 0 ≤ bitsOf x 4 8 ∧
      isNext (exec (.syncWt 0 w) (at0 k)) (setCore (at0 k) 0 { k with pc := 0x1010 }) = true := by decide +kernel

/-- A store on its way becomes visible when it returns (R73, R276). -/
theorem met_return_store : let k := { core 0 with gl := [⟨.st 0x200 [8, 7], true, none, 0x1000, 0⟩], pend := [0, 1, 0, 0, 0] }
    let s := mapped (at0 k)
    s.works = true ∧ s.cores.find? 0 = some k ∧ Core.storing { k with gl := k.gl.take 0 } 0x200 2 = false ∧
      okWith (accWrite (k.who 0) 0x200 [8, 7] .w s) (fun _ u => u.cores == s.cores) = true ∧
      after (exec (.globalDataReturn 0 0) s) (fun t => t.mem.bytes.readList 0x40000200 2 == [8, 7]) = true := by decide +kernel

/-- Two cores of one command: core 1 has not arrived at barrier 15 yet, or waits in it. -/
def pair (x : Nat) (there : Bool) : State :=
  let k1 := { core 0 with rank := 1, ranks := 2, arrived := if there then [(15, false)] else [], bar := if there then some (15, false) else none }
  setCore (at0 { core x with ranks := 2 }) 1 k1

theorem met_syncBar_waits : let w := w50 [(4, 15)]; let x := wordOf 0xB 2 w; let k := { core x with ranks := 2 }; let s := pair x false
    Ready s 0 k x ∧ fieldsOnly x [(4, 5)] ∧ (∃ m ∈ s.barGroup 0 k false, m ≠ 0 ∧
      ∃ c, s.cores.find? m = some c ∧ (15, false) ∉ c.arrived) ∧
      after (exec (.syncBar 0 w) s) (fun t => match t.cores.find? 0 with
        | some c => c.bar == some (15, false)
        | none => false) = true :=
  ⟨by decide +kernel, by decide +kernel, ⟨1, by decide +kernel, by decide, _, rfl, by decide⟩, by decide +kernel⟩

theorem met_syncBar_releases : let w := w50 [(4, 15)]; let x := wordOf 0xB 2 w; let k := { core x with ranks := 2 }; let s := pair x true
    Ready s 0 k x ∧ fieldsOnly x [(4, 5)] ∧ s.barGroup 0 k false = [0, 1] ∧
      (∃ c, s.cores.find? 1 = some c ∧ (15, false) ∈ c.arrived) ∧
      after (exec (.syncBar 0 w) s) (fun t => t.cores.all (fun (p : CoreId × Core) => p.2.bar == none && p.2.arrived.isEmpty)) = true :=
  ⟨by decide +kernel, by decide +kernel, by decide +kernel, ⟨_, rfl, by decide⟩, by decide +kernel⟩

/-! ### Atomics -/

/-- Each atomic on 32 bits of memory that reads zero, with 5 in s2. -/
theorem met_atomics : ∀ r ∈ ([(.atAdd, 0x10, 5), (.atAnd, 0x11, 0), (.atOr, 0x12, 5), (.atXor, 0x13, 5), (.atSwap, 0x14, 5),
      (.atMax, 0x15, 5), (.atMin, 0x16, 0), (.atMaxu, 0x17, 5), (.atMinu, 0x18, 0), (.atCas, 0x19, 0), (.atFadd, 0x1A, 5)] :
      List ((CoreId → BitVec 50 → Instr) × Nat × Nat)),
    let w := w50 [(45, 3), (40, 1), (35, 2), (24, 2), (20, 2)]; let x := wordOf 0xB r.2.1 w
    let k := { core x with s := [(1, 0x200), (2, 5)] }; let s := mapped (at0 k)
    Ready s 0 k x ∧ inHostAperture (k.getS (Wd.f40 x)).toNat = false ∧ (k.getS (Wd.f40 x)).toNat % 4 = 0 ∧ atomicBad x = none ∧ freeS k ([Wd.f45 x, Wd.f40 x, Wd.f35 x] ++ (if r.2.1 = 0x19 then [Wd.f30 x] else [])) ∧
      noAcquire k ∧ bitOf x 23 = false ∧ bitsOf x 20 2 = 2 ∧ bitsOf x 24 2 = 2 := by
  decide +kernel

theorem met_atomicNew : signOf 32 (atomicNew 0x15 32 0x80000000 1 0) = 1 ∧ atomicNew 0x10 64 (2 ^ 64 - 1) 1 0 = 0 ∧
    atomicNew 0x17 32 0x80000000 1 0 = 0x80000000 ∧ atomicNew 0x19 32 7 7 9 = 9 ∧ atomicNew 0x19 32 8 7 9 = 8 := by decide +kernel
/-! ### A second translation of one page

The walk's second look at the cached entries is decided by free values; the law of cached entries says that it makes no
difference. -/

theorem ok_of_okWith {α : Type} [DecidableEq α] {r : EStateM.Result Err State α} {a : α} {u : State}
    (h : okWith r (fun b t => decide (b = a) && decide (t = u)) = true) : r = .ok a u := by
  cases r <;> simp_all [okWith]

/-- The word of at.add of 32 bits at s1 with s2 into s3, and a core before it. -/
def addWord : BitVec 50 := w50 [(45, 3), (40, 1), (35, 2), (24, 2), (20, 2)]
def addCore : Core := { core (wordOf 0xB 0x10 addWord) with s := [(1, 0x200), (2, 5)] }
/-- The state once the page of 0x200 has been translated, with a count of free values; its own line may be cached too. -/
def warm (n : Nat) (data : Bool) : State :=
  let s := mapped (at0 addCore)
  { s with
    mem := { s.mem with
      tlb := [(⟨0, 0, 0, 0⟩, 1 + 0x101000 * 2 ^ 16), (⟨0, 0, 1, 0⟩, 1 + 0x102000 * 2 ^ 16),
        (⟨0, 0, 2, 0⟩, 0x1F + 1025 * 2 ^ 8 + 0x40000000 * 2 ^ 16)]
      lines := [(0x1000, 1025), (0x1010, 1025), (0x1020, 1025)] ++ (if data then [(0x400002, 1025)] else []) }
    seed := n }

/-- What is cached is what the tables hold, and the walk ends at the leaf. -/
theorem warm_walk (n : Nat) (d : Bool) (h : (n, d) = (0, false) ∨ (n, d) = (3, true)) : walkFrom 0 0 0x200 walkLevels 0x100000 (warm n d) =
    .ok (0x1F + 1025 * 2 ^ 8 + 0x40000000 * 2 ^ 16, 30) (warm (n + 3) d) := by
  rcases h with h | h <;> cases h <;>
  exact ((walkFrom_table (e := 1 + 0x101000 * 2 ^ 16) ⟨by decide +kernel, by decide +kernel,
      ⟨leBytes 8 (1 + 0x101000 * 2 ^ 16), ok_of_okWith (by decide +kernel), by decide +kernel⟩, by decide +kernel⟩
      (by decide +kernel) (by decide +kernel)).trans
    (walkFrom_table (e := 1 + 0x102000 * 2 ^ 16) ⟨by decide +kernel, by decide +kernel,
      ⟨leBytes 8 (1 + 0x102000 * 2 ^ 16), ok_of_okWith (by decide +kernel), by decide +kernel⟩, by decide +kernel⟩
      (by decide +kernel) (by decide +kernel))).trans
    (walkFrom_leaf ⟨by decide +kernel, by decide +kernel,
      ⟨leBytes 8 (0x1F + 1025 * 2 ^ 8 + 0x40000000 * 2 ^ 16), ok_of_okWith (by decide +kernel), by decide +kernel⟩, by decide +kernel⟩
      (by decide +kernel) (by decide +kernel))

theorem warm_translate (n : Nat) (d : Bool) (h : (n, d) = (0, false) ∨ (n, d) = (3, true)) :
    Machine.translate 0 0x200 .rw (warm n d) = .ok (0x40000200, 1025) (warm (n + 3) d) := by
  have hw := warm_walk n d h
  have h1 : walk 0 0x200 (warm n d) = .ok (0x1F + 1025 * 2 ^ 8 + 0x40000000 * 2 ^ 16, 0x40000200) (warm (n + 3) d) := by
    unfold walk
    rw [run_bind_ok (run_get _)]
    rcases h with h | h <;> cases h <;>
    · rw [if_neg (by decide +kernel), show (warm _ _).genOf 0 = 0 by decide +kernel,
        show (warm _ _).fld (F.root 0) * 4096 = 0x100000 by decide +kernel, run_bind_ok hw]
      exact ok_of_okWith (by decide +kernel)
  unfold Machine.translate
  rw [run_bind_ok (run_get _)]
  rcases h with h | h <;> cases h <;>
  · rw [show (warm _ _).poolOf 0x200 = none by decide +kernel]
    dsimp only
    rw [run_bind_ok h1]
    exact ok_of_okWith (by decide +kernel)

theorem exists_of_okWith {r : EStateM.Result Err State Unit} {p : State → Bool} (h : okWith r (fun _ u => p u) = true) :
    ∃ u, r = .ok () u ∧ p u = true := by
  cases r <;> simp_all [okWith]

/-- An atomic at its home adds 5 to memory that reads zero, and answers the old value. -/
theorem met_homeAtomic : ∃ u, homeAtomic 0 addCore 0x10 4 2 0x200 5 0 (mapped (at0 addCore)) = .ok 0 u ∧
    (u.mem.bytes.readList 0x40000200 4 == [5, 0, 0, 0]) = true := by
  have h1 : rollTouched 0 0x200 4 (mapped (at0 addCore)) = .ok () (warm 0 false) := ok_of_okWith (by decide +kernel)
  have hp : pieces 0x200 4 = [(0x200, 4)] := by decide
  have h2 : vaReadAs 0 0x200 4 .rw (warm 0 false) = .ok [0, 0, 0, 0] (warm 3 true) := by
    unfold vaReadAs translatePieces
    rw [hp]
    simp only [mapM']
    rw [run_bind_ok (a := [(0x40000200, 1025, 4)]) (t := warm 3 false)]
    · exact ok_of_okWith (by decide +kernel)
    · rw [run_bind_ok (a := (0x40000200, 1025, 4)) (t := warm 3 false)]
      · rfl
      · rw [run_bind_ok (warm_translate 0 false (.inl rfl))]
        rfl
  have h3 : ∃ u, vaWriteAs 0 0x200 (leBytes 4 (atomicNew 0x10 32 0 5 0)) .rw (warm 3 true) = .ok () u ∧
      (u.mem.bytes.readList 0x40000200 4 == [5, 0, 0, 0]) = true := by
    unfold vaWriteAs translatePieces
    rw [show (leBytes 4 (atomicNew 0x10 32 0 5 0)).length = 4 by decide +kernel, hp]
    simp only [mapM']
    rw [run_bind_ok (a := [(0x40000200, 1025, 4)]) (t := warm 6 true)]
    · exact exists_of_okWith (p := fun u => u.mem.bytes.readList 0x40000200 4 == [5, 0, 0, 0]) (by decide +kernel)
    · rw [run_bind_ok (a := (0x40000200, 1025, 4)) (t := warm 6 true)]
      · rfl
      · rw [run_bind_ok (warm_translate 3 true (.inr rfl))]
        rfl
  obtain ⟨u, h3, hb⟩ := h3
  refine ⟨u, ?_, hb⟩
  unfold homeAtomic
  dsimp only
  rw [if_pos rfl]
  unfold accAt
  rw [run_bind_ok (run_get _), show (mapped (at0 addCore)).apertureOf (addCore.who 0) 0x200 = none by decide +kernel]
  dsimp only
  rw [show (addCore.who 0).ctx = 0 by decide +kernel, run_bind_ok h1, run_bind_ok h2, show leBytes 4 (atomicNew 0x10 (8 * 4) (leNat [0, 0, 0, 0]) 5 0) = leBytes 4 (atomicNew 0x10 32 0 5 0) by decide +kernel,
    run_bind_ok h3]
  rfl
/-! ### Faults and posts -/

/-- The state with one command in queue 1 of context 0. -/
def withCmd (s : State) (x : Cmd) : State := { s with queues := [((0, 1), { QueueSt.empty with cmds := [x] })] }
/-- The KERNEL command that the cores of these tests run: entry 0 of queue 1. -/
def kernelCmd : Cmd := { Cmd.blank 0 with kind := 1, ranks := 1, phase := .running, started := true }
/-- Core 0 of that command. -/
def onQueue1 (x : Nat) : Core := { core x with q := 1, idx := 0 }

theorem met_illegalOpcode : let w : W64 := 0x3F00000000000000; let k := onQueue1 w.toNat; let s := withCmd (at0 k) kernelCmd
    s.jobs = [] ∧ k.stage = none ∧ s.cmdOf k.ctx k.q k.idx = some kernelCmd ∧ kernelCmd.ending = none ∧
      Ready s 0 k w.toNat ∧ illegalWord w.toNat = true ∧
      after (exec (.illegalOpcode 0 w) s) (fun t => t.cores.isEmpty &&
        (t.queueOf 0 1).cmds.map (fun (x : Cmd) => x.ending) == [some ⟨2, 0x01, some (0, 0x1008)⟩]) = true := by decide +kernel

theorem met_codeRegionExtent : let k := { onQueue1 0 with pc := 0x1100 }; let s := withCmd (at0 k) kernelCmd
    s.works = true ∧ s.cores.find? 0 = some k ∧ k.wait = .running ∧ k.bar = none ∧ k.inCode k.pc.toNat = false ∧
      after (exec (.codeRegionExtent 0) s) (fun t => t.cores.isEmpty &&
        (t.queueOf 0 1).cmds.map (fun (x : Cmd) => x.ending) == [some ⟨2, 0x05, some (0, 0x1100)⟩]) = true := by decide +kernel

theorem met_reservedBit : let w := w50 [(4, 1)]; let x := wordOf 1 0 w; let k := onQueue1 x; let s := withCmd (at0 k) kernelCmd
    Ready s 0 k x ∧ ¬fieldsOnly x [] ∧
      after (exec (.ctlNop 0 w) s) (fun t => t.cores.isEmpty &&
        (t.queueOf 0 1).cmds.map (fun (x : Cmd) => x.ending) == [some ⟨2, 0x02, some (0, 0x1008)⟩]) = true := by decide +kernel

theorem met_dmaCp : let w := w50 [(46, 2), (42, 2), (4, 7)]; let x := wordOf 0xA 0 w; let k := { dsc x with pend := [0, 0, 254, 0, 0] }
    let d := k.getD (Wd.dx x); let s := at0 k
    Ready s 0 k x ∧ fieldsOnly x [(46, 4), (42, 4), (4, 3)] ∧ freeD k [Wd.dx x, Wd.dy x] ∧ noAcquire k ∧ d.etype ≠ 0xF ∧
      (k.getD (Wd.dy x)).etype = d.etype ∧ d.seenRank = (k.getD (Wd.dy x)).seenRank ∧ d.view ≠ 1 ∧ d.readOnly = false ∧
      (s.chanOf (.core 0) 7).reqs.length < 4 ∧ nthD k.pend 2 0 < 255 ∧
      after (exec (.dmaCp 0 w) s) (fun t => (t.chanOf (.core 0) 7).reqs.length == 1 &&
        t.cores.all (fun (p : CoreId × Core) => p.2.pend == [0, 0, 255, 0, 0] && p.2.pc == 0x1010)) = true := by decide +kernel

/-- A FILL of 64 bytes of the scratchpad, as a record at 0x200 (R295, R296). -/
def fillRec : List Byte :=
  leBytes 4 2 ++ leBytes 4 64 ++ leBytes 4 1 ++ leBytes 4 1 ++ leBytes 4 1 ++ leBytes 108 0

theorem met_dmaRun : let w := w50 [(40, 1), (20, 7)]; let x := wordOf 0xA 1 w; let k := acc x
    let s := padWith (at0 k) 0x200 fillRec; let a := (k.getS (Wd.f40 x)).toNat
    Ready s 0 k x ∧ fieldsOnly x [(40, 5), (20, 3)] ∧ freeS k [Wd.f40 x] ∧ noAcquire k ∧ a % 64 = 0 ∧ a + 128 ≤ 2 ^ 22 ∧
      cleanWords s.sram (padOf 0) a 128 ∧ recReserved (s.sram.readBytes (padOf 0) 0 0 a 128) = false ∧
      (s.chanOf (.core 0) 7).reqs.length < 4 ∧
      after (exec (.dmaRun 0 w) s) (fun t => (t.chanOf (.core 0) 7).reqs.map (fun (r : DmaReq) => (r.op, r.run)) == [(2, 64)]) = true := by
  decide +kernel

theorem met_dmaPoll : let w := w50 [(45, 3), (20, 7)]; let x := wordOf 0xA 2 w; let k := core x
    Ready (at0 k) 0 k x ∧ fieldsOnly x [(45, 3), (20, 3)] ∧
      isNext (exec (.dmaPoll 0 w) (at0 k)) (setCore (at0 k) 0 { k with pc := 0x1010, p := [(3, BitVec.allOnes 128)] }) = true := by
  decide +kernel

/-- A well command with one row at the end of a scratchpad, and the post of it to the last well. -/
def wellCore (x ra : Nat) : Core := { core x with s := [(1, BitVec.ofNat 64 ra), (2, 2 ^ 22 - 128)] }
def wellPad (k : Core) : State := padWith (at0 k) (2 ^ 22 - 128) [1, 1]

theorem met_wlPost : let w := w50 [(40, 1), (35, 2)]; let x := wordOf 0xC 0 w; let k := wellCore x 63; let s := wellPad k
    Ready s 0 k x ∧ fieldsOnly x [(40, 5), (35, 5)] ∧ freeS k [Wd.f40 x, Wd.f35 x] ∧ noAcquire k ∧
      (k.getS (Wd.f40 x)).toNat = (63 : WellId).val ∧ (s.sram.readByte (padOf 0) 0 0 (2 ^ 22 - 127)).toNat = 1 ∧
      (2 ^ 22 - 128) % 64 = 0 ∧ 2 ^ 22 - 128 + 80 ≤ 2 ^ 22 ∧ cleanWords s.sram (padOf 0) (2 ^ 22 - 128) 80 ∧
      s.wellThere 63 = true ∧ s.postsOf 0 63 < 16 ∧
      after (exec (.wlPost 0 w) s) (fun t => t.wells.queue.map (fun (p : WellCmd) => (p.named, p.slot, p.bytes.length)) == [(63, 0, 80)] &&
        t.cores.all (fun (p : CoreId × Core) => p.2.pend == [0, 0, 0, 1, 0])) = true := by decide +kernel

theorem met_wlPostm : let w := w50 [(40, 1), (35, 2)]; let x := wordOf 0xC 1 w; let k := wellCore x (1 + 2 ^ 63); let s := wellPad k
    Ready s 0 k x ∧ fieldsOnly x [(40, 5), (35, 5)] ∧ k.getS (Wd.f40 x) ≠ 0 ∧
      (List.finRange 64).filter (fun y => (k.getS (Wd.f40 x)).getLsbD y.val) = [0, 63] ∧
      after (exec (.wlPostm 0 w) s) (fun t => t.wells.queue.map (fun (p : WellCmd) => (p.named, p.slot)) == [(0, 0), (63, 1)] &&
        t.cores.all (fun (p : CoreId × Core) => p.2.pend == [0, 0, 0, 2, 0])) = true := by decide +kernel

theorem met_wlPostm_none : let w := w50 [(40, 1), (35, 2)]; let x := wordOf 0xC 1 w; let k := wellCore x 0; let s := wellPad k
    Ready s 0 k x ∧ k.getS (Wd.f40 x) = 0 ∧ (k.getS (Wd.f35 x)).toNat % 64 = 0 ∧
      isNext (exec (.wlPostm 0 w) s) (setCore s 0 { k with pc := 0x1010 }) = true := by decide +kernel

/-- Queue 5 of context 0 is ACTIVE and written by the device, of 64 entries with its ring at 0x8000. -/
def devQueue (s : State) (head : Nat) : State :=
  let t := ((s.setFld (F.qState 0 5) 2).setFlag (F.qWriter 0 5) true).setFld (F.qSizeLog2 0 5) 6
  { t.setFld (F.qHead 0 5) head with queues := t.queues.insert (0, 5) { QueueSt.empty with push := 64, ring := 0x8000 } }
def pushCore (x : Nat) : Core := { core x with s := [(1, 5), (2, 0x200)] }

theorem met_enPush_full : let w := w50 [(45, 3), (40, 1), (35, 2)]; let x := wordOf 0xF 0 w; let k := pushCore x
    let s := devQueue (at0 k) 0
    s.ctxLive k.ctx = true ∧ s.fld (F.qState k.ctx 5) = 2 ∧ s.flag (F.qWriter k.ctx 5) = true ∧ Ready s 0 k x ∧
      fieldsOnly x [(45, 3), (40, 5), (35, 5), (20, 1)] ∧ (k.getS (Wd.f40 x)).toNat = (5 : QIdx).val ∧
      2 ^ s.fld (F.qSizeLog2 k.ctx 5) ≤ ((64 : W32).toNat + 2 ^ 32 - s.fld (F.qHead k.ctx 5)) % 2 ^ 32 ∧
      isNext (exec (.enPush 0 w) s) (setCore s 0 { k with pc := 0x1010, p := [(3, 0)] }) = true := by decide +kernel

theorem met_enPush : let w := w50 [(45, 3), (40, 1), (35, 2)]; let x := wordOf 0xF 0 w; let k := pushCore x
    let s := devQueue (mapped (at0 k)) 1
    Ready s 0 k x ∧ bitOf x 20 = false ∧ ((64 : W32).toNat + 2 ^ 32 - s.fld (F.qHead k.ctx 5)) % 2 ^ 32 < 64 ∧
      cleanWords s.sram (padOf 0) 0x200 64 ∧ okWith (vaWrite 0 0x8000 (List.replicate 64 0) s) (fun _ _ => true) = true ∧
      after (exec (.enPush 0 w) s) (fun t => (t.queueOf 0 5).push == 65) = true := by decide +kernel

theorem met_enDb : let w := w50 [(40, 1)]; let x := wordOf 0xF 1 w; let k := pushCore x; let s := devQueue (at0 k) 0
    Ready s 0 k x ∧ fieldsOnly x [(40, 5)] ∧ freeS k [Wd.f40 x] ∧ k.storesOut = false ∧
      isNext (exec (.enDb 0 w) s) ((setCore s 0 { k with pc := 0x1010 }).setFld (F.qTail 0 5) 64) = true := by decide +kernel

/-! ### The front end -/

/-- Queue 1 of context 0 is ACTIVE and written by the host, of 64 entries. -/
def hostQueue (s : State) (head tail : Nat) : State :=
  (((s.setFld (F.qState 0 1) 2).setFld (F.qSizeLog2 0 1) 6).setFld (F.qHead 0 1) head).setFld (F.qTail 0 1) tail

/-- A doorbell may fill the ring and not overfill it (R311). -/
theorem met_doorbell : let s := hostQueue State.reset 7 9
    s.works = true ∧ s.ctxLive 0 = true ∧ s.fld (F.qState 0 1) = 2 ∧ s.flag (F.qWriter 0 1) = false ∧
      isNext (exec (.feQdbWrite 0 1 .lo 71) s) (s.setFld (F.qTail 0 1) 71) = true ∧
      isNext (exec (.feQdbWrite 0 1 .lo 72) s) (s.setFlag (F.qDbReject 0 1) true) = true ∧
      isNext (exec (.feQdbWrite 0 1 .lo 8) s) (s.setFlag (F.qDbReject 0 1) true) = true := by decide +kernel

theorem met_consumer : let s := ((State.reset.setFld (F.qChead 0 1) (2 ^ 32 - 1)).setFld (F.qCtail 0 1) 3).setFld (F.evTail 0) 2
    s.works = true ∧ s.ctxLive 0 = true ∧
      isNext (exec (.feQcptrWrite 0 1 .full 3) s) (s.setFld (F.qChead 0 1) 3) = true ∧
      isNext (exec (.feQcptrWrite 0 1 .full 4) s) (s.setFlag (F.qPtrReject 0 1) true) = true ∧
      isNext (exec (.feEvptrWrite 0 .lo 2) s) (s.setFld (F.evHead 0) 2) = true ∧
      isNext (exec (.feEvptrWrite 0 .lo 3) s) (s.setFlag (F.evPtrReject 0) true) = true ∧
      isNext (exec (.obTrptrWrite .lo 1) s) s = true ∧ isNext (exec (.obTrptrWrite .hi 0) s) s = true := by decide +kernel

theorem met_fences : let s := State.reset.setFld (F.fence 0 255) 5
    s.works = true ∧ s.ctxLive 0 = true ∧ s.flag (F.fencePoison 0 255) = false ∧
      after (exec (.feFvalWrite 0 255 .full 9) s) (fun t => t.fld (F.fence 0 255) == 9) = true ∧
      after (exec (.feFvalWrite 0 255 .full 4) s) (fun t => t.fld (F.fence 0 255) == 5) = true ∧
      isNext (exec (.feFvalWrite 0 255 .full 9) (s.setFlag (F.fencePoison 0 255) true)) (s.setFlag (F.fencePoison 0 255) true) = true ∧
      after (exec (.fenceReset 0 255 .full 0x200) (s.setFlag (F.fencePoison 0 255) true)) (fun t => t.fld (F.fence 0 255) == 0 &&
        !t.flag (F.fencePoison 0 255)) = true := by decide +kernel

/-- Vector 1 of context 0 in a state. -/
def vecIn (v : VecSt) : State := { State.reset with cxl := { State.reset.cxl with vecs := [((0, 1), v)] } }

theorem met_vectors :
    after (exec (.msixIntervalExpiry 0 1) (vecIn ⟨false, true, true⟩)) (fun t => t.out == [.msix 0 1] &&
      t.cxl.vecs == [((0, 1), ⟨false, false, true⟩)]) = true ∧
    after (exec (.msixIntervalExpiry 0 1) (vecIn ⟨true, true, true⟩)) (fun t => t.out == [] &&
      t.cxl.vecs == [((0, 1), ⟨true, true, false⟩)]) = true ∧
    after (exec (.msixVectorUnmask 0 1) (vecIn ⟨true, true, false⟩)) (fun t => t.out == [.msix 0 1] &&
      t.cxl.vecs == [((0, 1), ⟨false, false, true⟩)]) = true ∧
    after (exec (.msixVectorUnmask 0 1) (vecIn ⟨true, true, true⟩)) (fun t => t.out == [] &&
      t.cxl.vecs == [((0, 1), ⟨false, true, true⟩)]) = true := by decide +kernel

/-- A FREE queue with bases, enabled with a size of 64 entries, and of 32 entries. -/
def freeQueue : State := (State.reset.setFld ⟨.feQring 0 1, 12, 45⟩ 8).setFld ⟨.feQcring 0 1, 12, 45⟩ 9

theorem met_queueEnable : let s := freeQueue
    s.works = true ∧ s.ctxLive 0 = true ∧ s.fld (F.qState 0 1) = 0 ∧ (0x601 : W64).getLsbD 0 = true ∧
      after (exec (.feQcfgEnableSet 0 1 .full 0x601) s) (fun t => t.fld (F.qState 0 1) == 1 && t.fld (F.qGen 0 1) == 1 &&
        (t.queueOf 0 1).ring == 0x8000 && t.rep.drains.length == 1) = true ∧
      after (exec (.feQcfgEnableSet 0 1 .full 0x501) s) (fun t => t.fld (F.qState 0 1) == 0 && t.flag (F.qCfgReject 0 1)) = true := by
  decide +kernel

theorem met_queueDisable : let s := ((hostQueue State.reset 0 0).setFlag (F.qEnable 0 1) true).setFld (F.qGen 0 1) 255
    s.works = true ∧ s.ctxLive 0 = true ∧ s.fld (F.qState 0 1) = 2 ∧ (s.queueOf 0 1).cmds = [] ∧
      after (exec (.feQcfgEnableClear 0 1 .full 0) s) (fun t => t.fld (F.qState 0 1) == 3 && t.fld (F.qGen 0 1) == 0) = true := by
  decide +kernel

theorem met_queueDrained : let s := State.reset.setFld (F.qState 0 1) 1; let r := State.reset.setFld (F.qState 0 1) 3
    s.fld (F.qState 0 1) = 1 ∧ s.queueDrains 0 1 = false ∧ r.queueDrains 0 1 = false ∧
      after (exec (.queueActive 0 1) s) (fun t => t.fld (F.qState 0 1) == 2) = true ∧
      after (exec (.queueFree 0 1) r) (fun t => t.fld (F.qState 0 1) == 0) = true := by decide +kernel

/-- A second page, at 2^48 of context 0, mapped to DPAs from 2 GiB through tables of its own. -/
def mapped2 (s : State) : State :=
  let t := mapped s
  { t with mem := { t.mem with bytes :=
    ((t.mem.bytes.writeList 0x100008 (leBytes 8 (1 + 0x103000 * 2 ^ 16))).writeList 0x103000
      (leBytes 8 (1 + 0x104000 * 2 ^ 16))).writeList 0x104000 (leBytes 8 (0x1F + 1025 * 2 ^ 8 + 0x80000000 * 2 ^ 16)) } }

/-- Queue 1 with one entry to read; its ring at 0x8000 holds zeros, or an entry that names 64 zero bytes at 2^48. -/
def toFetch (good : Bool) : State :=
  let s := mapped2 (hostQueue State.reset 0 1)
  let t := { s with queues := [((0, 1), { QueueSt.empty with ring := 0x8000 })] }
  if good then { t with mem := { t.mem with
    bytes := t.mem.bytes.writeList 0x40008000 (leBytes 8 (2 ^ 48) ++ leBytes 4 64 ++ leBytes 4 77) } } else t

theorem met_prefetch : let s := toFetch false
    s.works = true ∧ s.fld (F.qState 0 1) = 2 ∧ s.fld (F.qHead 0 1) ≠ s.fld (F.qTail 0 1) ∧ (s.queueOf 0 1).cmds = [] ∧
      okWith (readCommand 0 1 0 s) (fun x _ => x.ending == some ⟨2, 0x40, none⟩) = true ∧
      okWith (vaRead 0 0x8000 64 s) (fun e _ => !entryOk e) = true ∧
      after (exec (.prefetch 0 1) s) (fun t => t.fld (F.qHead 0 1) == 1 && t.fld F.fePrefetchFaults == 1 &&
        (t.queueOf 0 1).cmds.length == 1) = true := by decide +kernel

theorem met_prefetch_header : let s := toFetch true
    okWith (vaRead 0 0x8000 64 s) (fun e u => entryOk e && okWith (vaRead 0 (2 ^ 48) 64 u) (fun b v =>
      okWith (recordsFault 0 b v) (fun r z => r.isNone && (parseHeader z 0 { Cmd.blank 0 with tag := 77 } b).isNone))) = true ∧
    okWith (readCommand 0 1 0 s) (fun x _ => x.ending == some ⟨2, 0x41, none⟩ && x.tag == 77) = true := by decide +kernel

/-- A command of queue 1 that waits for fence 3 to reach 5. -/
def waitCmd : Cmd := { Cmd.blank 0 with kind := 3, waits := [⟨3, 5⟩] }
def waitState (x : Cmd) : State := withCmd (hostQueue State.reset 0 1) x

theorem met_registerWaits : let s := waitState waitCmd
    s.works = true ∧ s.nextCmd 0 1 = some waitCmd ∧ s.fld (F.qState 0 1) = 2 ∧ waitCmd.phase = .fetched ∧
      s.inTurn 0 1 waitCmd = true ∧ s.waitPoisoned 0 waitCmd = false ∧
      after (exec (.registerWaits 0 1) s) (fun t => (t.queueOf 0 1).cmds.map (fun (x : Cmd) => x.phase) == [.waiting]) = true := by
  decide +kernel

theorem met_registerWaits_poisoned : let s := (waitState waitCmd).setFlag (F.fencePoison 0 3) true
    s.nextCmd 0 1 = some waitCmd ∧ s.inTurn 0 1 waitCmd = true ∧ s.waitPoisoned 0 waitCmd = true ∧
      after (exec (.registerWaits 0 1) s) (fun t => (t.queueOf 0 1).cmds.map (fun (x : Cmd) => x.ending) == [some ⟨1, 0, none⟩]) = true := by
  decide +kernel

/-- The command waits for a fence that only it signals: a cycle of one (R333). -/
theorem met_deadlock : let x := { waitCmd with signals := [⟨1, false, false, 3, 0, 0, 5⟩] }
    let s := ((waitState x).setFld (F.fenceOwner 0 3) 1).setFlag (F.fenceOwned 0 3) true
    s.nextCmd 0 1 = some x ∧ s.inTurn 0 1 x = true ∧ s.waitPoisoned 0 x = false ∧
      (setCmd s 0 1 x.idx (fun y => { y with phase := .waiting, ticks := 0 })).closed 0 1 = true ∧
      after (exec (.registerWaits 0 1) s) (fun t => (t.queueOf 0 1).cmds.map (fun (x : Cmd) => x.ending) == [some ⟨8, 0, none⟩]) = true := by
  decide +kernel

theorem met_waitTimeout : let x := { waitCmd with phase := .waiting, ticks := 7, waitTicks := 7 }; let s := waitState x
    s.nextCmd 0 1 = some x ∧ x.waitTicks ≤ x.ticks ∧ s.waitMet 0 ⟨3, 5⟩ = false ∧
      after (exec (.waitTimeout 0 1) s) (fun t => (t.queueOf 0 1).cmds.map (fun (x : Cmd) => x.ending) == [some ⟨7, 0, none⟩]) = true := by
  decide +kernel

theorem met_commandStart : ∀ k ∈ [1, 2, 3, 4], let x := { waitCmd with kind := k, phase := .waiting }
    let s := (waitState x).setFld (F.fence 0 3) 5
    s.works = true ∧ s.flag F.trEnable = false ∧ s.nextCmd 0 1 = some x ∧ s.cmdOf 0 1 x.idx = some x ∧
      s.waitMet 0 ⟨3, 5⟩ = true ∧ s.kindStarts x = true ∧ s.ringRoom 0 1 (s.startedCount 0 1 + 1) = true := by decide +kernel

theorem met_kernel : let o : HandleObj := ⟨1, 7, 0, 0, 0x1000, 0x100⟩
    let x := { Cmd.blank 0 with kind := 1, phase := .started, ranks := 2, code := some o }; let s := waitState x
    s.works = true ∧ s.flag F.trEnable = false ∧ s.nextCmd 0 1 = some x ∧ s.cmdOf 0 1 0 = some x ∧ s.kernelsRun 0 = true ∧
      s.kindStarts x = true ∧ (∀ n ∈ ([8, 3] : List CoreId), n ∈ s.kernelCores 0) ∧
      s.kernelFirst 0 1 x (s.kernelCores 0).length = true ∧ s.rep.pendCols = [] := by decide +kernel

theorem met_kinds : let x := { Cmd.blank 0 with phase := .started, started := true }
    after (exec (.marker 0 1) (waitState { x with kind := 3 })) (fun t =>
      (t.queueOf 0 1).cmds.map (fun (y : Cmd) => y.ending) == [some ⟨0, 0, none⟩]) = true ∧
    after (exec (.dma 0 1) (waitState { x with kind := 2 })) (fun t =>
      (t.queueOf 0 1).cmds.map (fun (y : Cmd) => y.ending) == [some ⟨0, 0, none⟩]) = true ∧
    after (exec (.dma 0 1) (waitState { x with kind := 2, count := 2, die := 3, recLeft := [] })) (fun t =>
      (t.dmaOf (.die 3)).next == 2) = true ∧
    after (exec (.request 0 1) (waitState { x with kind := 4 })) (fun t => t.sched.reqs.length == 1) = true := by decide +kernel

/-- A MARKER that has ended, in a queue whose completion ring lies at 0x9000. -/
def toComplete : State :=
  let x := { Cmd.blank 63 with kind := 3, tag := 5, started := true, phase := .ended, ending := some ⟨0, 0, none⟩ }
  let s := mapped (hostQueue State.reset 0 1)
  { ((s.setFld (F.qCtail 0 1) 63).setFld (F.qChead 0 1) 63).setFld (F.qRunning 0 1) 1 with
    queues := [((0, 1), { QueueSt.empty with cmds := [x], cring := 0x9000 })] }

theorem met_commandComplete : let s := toComplete
    let x := { Cmd.blank 63 with kind := 3, tag := 5, started := true, phase := .ended, ending := some ⟨0, 0, none⟩ }
    s.works = true ∧ s.flag F.trEnable = false ∧ s.flag F.tapValid = false ∧ s.cmdOf 0 1 63 = some x ∧ x.counters = none ∧
      x.signals = [] ∧ s.ringRoom 0 1 1 = true ∧
      okWith (vaWrite 0 (0x9000 + 32 * 63) (completionRecord s 0 1 x ⟨0, 0, none⟩ false) s) (fun _ _ => true) = true ∧
      after (exec (.commandComplete 0 1 63) s) (fun t => t.fld (F.qCtail 0 1) == 64 && t.fld (F.qRunning 0 1) == 0 &&
        (t.queueOf 0 1).cmds.isEmpty && t.mem.bytes.readList (0x400097E0) 12 == [0, 1, 0, 0, 5, 0, 0, 0, 63, 0, 0, 0]) = true := by
  decide +kernel
/-! ### Contexts and the scheduler -/

/-- A SYSTEM command that has started, with a body, in queue 1 of context 0. -/
def sysCmd (body : List Byte) : Cmd := { Cmd.blank 0 with kind := 5, phase := .started, started := true, body := body }
def sysState (s : State) (body : List Byte) : State := withCmd s (sysCmd body)
/-- How the SYSTEM command of the queue stands after a command. -/
def sysEnds (o : Host.Outcome State Fault Refusal) (e : Ending) : Bool :=
  after o (fun t => (t.queueOf 0 1).cmds.map (fun (x : Cmd) => x.ending) == [some e])
/-- Context 1024 exists. -/
def tenant (s : State) (x : CtxSt) : State := { s with ctxs := s.ctxs ++ [(1024, { x with phase := .live })] }

theorem started_of {s : State} {q : QIdx} {op : Nat} {x : Cmd} (h : s.works = true ∧
    (s.queueOf 0 q).cmds.find? (fun x => x.kind == 5 && x.phase == .started && x.ending.isNone && recField x.body 0 2 == op) = some x ∧
    s.cmdOf 0 q x.idx = some x ∧ x.ending = none) : SysStarted s q op x := ⟨h.1, h.2.1, h.2.2.1, h.2.2.2⟩

/-- What `SysStarted` asks, as a proposition that can be decided. -/
abbrev Sys (s : State) (op : Nat) (x : Cmd) : Prop := s.works = true ∧
  (s.queueOf 0 1).cmds.find? (fun x => x.kind == 5 && x.phase == .started && x.ending.isNone && recField x.body 0 2 == op) = some x ∧
  s.cmdOf 0 1 x.idx = some x ∧ x.ending = none

/-- CTX_CREATE of context 1024 without a save area, which waits where there is no entropy. -/
theorem met_ctxCreate : let b : List Byte := leBytes 2 1 ++ leBytes 2 1024 ++ leBytes 2 0xF ++ leBytes 2 0 ++ leBytes 8 0
    let s := sysState (State.reset.setFlag (F.rootValid 1024) true) b
    Sys s 1 (sysCmd b) ∧ recField b 2 2 = (1024 : Ctx).val ∧ recField b 7 1 = 0 ∧ zeroFrom b 0x10 = true ∧ recField b 6 1 ≤ 48 ∧
      (s.ctxs.getD 1024 .absent).phase = .absent ∧ s.flag (F.rootValid 1024) = true ∧ s.ownerState = true ∧
      s.ctxDrains 1024 = false ∧ s.mem.rekey = none ∧ 1024 ∉ s.sec.rekeyWait ∧
      okWith (saveAreaOk 1024 0 0 s) (fun _ u => u == s) = true ∧ s.flag F.entropyFail = false ∧
      after (exec (.ctxCreate 1) s) (fun t => t.ctxLive 1024 && (t.mem.slotKeys 1024).key0 == some 2048) = true ∧
      after (exec (.ctxCreate 1) (s.setFlag F.entropyFail true)) (fun t => !t.ctxLive 1024) = true := by decide +kernel

/-- A reclaim of context 1024, posted before the last tick, with its deadline at step 5. -/
def reclaim1024 : ReclaimSt :=
  { q := (1, 0, 0), posted := 0, deadline := 5, qp := 0, rkey := 0, base := 0, slotBytes := 0, ctxs := [1024] }
def reclaimed (s : State) : State :=
  { s with sched := { s.sched with reclaims := [reclaim1024] }, time := { s.time with ticks := 1 } }

theorem met_sysRefused : let b (op : Nat) : List Byte := leBytes 2 op ++ leBytes 2 1024
    let s := sysState State.reset; let t := sysState (tenant State.reset .absent)
    Sys (t (b 1)) 1 (sysCmd (b 1)) ∧ (t (b 1)).ctxLive 1024 = true ∧ sysEnds (exec (.ctxCreate 1) (t (b 1))) ⟨2, 0x51, none⟩ = true ∧
    Sys (s (b 2)) 2 (sysCmd (b 2)) ∧ sysEnds (exec (.ctxDestroy 1) (s (b 2))) ⟨2, 0x51, none⟩ = true ∧
    Sys (s (b 3)) 3 (sysCmd (b 3)) ∧ sysEnds (exec (.partition 1) (s (b 3))) ⟨2, 0x51, none⟩ = true ∧
    zeroFrom (b 3) 0xC = true ∧ (let u := reclaimed (t (b 3))
      u.reclaiming 1024 = true ∧ sysEnds (exec (.partition 1) u) ⟨2, 0x53, none⟩ = true) := by decide +kernel

/-- PARTITION of 0, 1, 10 and 0 clusters, priority 3. -/
theorem met_partition : let b : List Byte := leBytes 2 3 ++ leBytes 2 1024 ++ [0, 1, 10, 0] ++ [3, 0] ++ leBytes 2 500
    let s := sysState (tenant State.reset .absent) b
    Sys s 3 (sysCmd b) ∧ s.ctxLive 1024 = true ∧ recField b 9 1 = 0 ∧ zeroFrom b 0xC = true ∧ recField b 8 1 = 3 ∧
      s.reclaiming 1024 = false ∧ (∀ d < 4, recField b (4 + d) 1 ≤ 12 - s.fld F.serveMin) ∧
      (s.ctxs.getD 1024 .absent).saveClusters = 0 ∧
      after (exec (.partition 1) s) (fun t => t.fld (F.partClusters 1024) == 0x0A10 && t.fld (F.partPriority 1024) == 3 &&
        t.fld (F.partSlice 1024) == 500) = true := by decide +kernel

/-- RECLAIM of context 1024 by 90 ms, with a drain region in device memory at 0x4000. -/
theorem met_reclaim : let b : List Byte := leBytes 2 4 ++ leBytes 2 1 ++ leBytes 4 90 ++ leBytes 4 5 ++ leBytes 4 0 ++ leBytes 2 1024
    let o : HandleObj := ⟨1, 3, 0, 0, 0x4000, 64⟩
    let r : List Byte := leBytes 1 1 ++ leBytes 1 0 ++ leBytes 2 7 ++ leBytes 4 9 ++ leBytes 8 0 ++ leBytes 8 65536
    let m := ((mapped2 (tenant State.reset .absent)).setFld ⟨.jlQpbase, 12, 45⟩ (2 ^ 36)).setFlag F.qpValid true
    let m := m.setFld (F.portMode 0) 1
    let x := { sysCmd b with objs := [(8, some o)] }
    let s := withCmd { m with mem := { m.mem with bytes := m.mem.bytes.writeList 0x40004000 r } } x
    Sys s 4 x ∧ s.flag F.trEnable = false ∧ (∀ c ∈ [0, 1024], s.flag (F.evEnable c) = false) ∧ recField b 2 2 = 1 ∧
      recField b 0xC 4 = 0 ∧ zeroFrom b 0x12 = true ∧ recField b 0x10 2 = (1024 : Ctx).val ∧ s.ctxLive 1024 = true ∧
      x.handleAt 8 = some o ∧ bitOf o.rights 0 = true ∧
      okWith (vaRead 0 o.address 64 s) (fun rb u => drainRegion rb == some (7, 9, 0, 65536) && u.qpEthernet 7 && u.queues == s.queues &&
        u.regs == s.regs && u.ctxs == s.ctxs && u.time == s.time && u.sched == s.sched) = true ∧
      after (exec (.reclaim 1) s) (fun t => t.sched.reclaims.map (fun (r : ReclaimSt) => r.ctxs) == [[1024]] &&
        (t.ctxs.getD 1024 .absent).reclaimAt == some 5) = true := by decide +kernel

theorem met_sliceEnd : let s := ((tenant State.reset .absent).setFlag (F.partRunning 1024) true).setFld (F.partSlice 1024) 7
    let t := { s with time := { s.time with ticks := 9 } }
    t.works = true ∧ t.sliceOver 1024 = true ∧ (t.ctxs.getD 1024 .absent).lastRan < t.time.ticks := by decide +kernel

theorem met_budgetExpiry : let x := { kernelCmd with preemptible := true, ticks := 3, bound := 2 }; let s := withCmd (at0 (onQueue1 0)) x
    s.works = true ∧ s.cmdOf 0 1 0 = some x ∧ x.started = true ∧ x.ending = none ∧ s.jobs = [] ∧ x.bound < x.ticks ∧
      s.coresOf (.cmd 0 1 0) = [0] ∧ sysEnds (exec (.budgetExpiry 0 1 0) s) ⟨0xE, 0xB1, none⟩ = true := by decide +kernel

theorem met_nonpreemptOverrun : let x := { kernelCmd with ticks := 2, bound := 2 }; let s := withCmd (at0 (onQueue1 0)) x
    s.works = true ∧ s.cmdOf 0 1 0 = some x ∧ x.preemptible = false ∧ x.bound ≤ x.ticks ∧
      sysEnds (exec (.nonpreemptOverrun 0 1 0) s) ⟨0xB, 0xB6, none⟩ = true := by decide +kernel

theorem met_contextReset : let s := tenant State.reset { CtxSt.absent with gen := 4095, holds := [3] }
    s.works = true ∧ s.flag F.trEnable = false ∧ s.jobs = [] ∧ s.queues = [] ∧ s.ctxLive 1024 = true ∧
      after (exec (.contextReset 1024 .hardFault) s) (fun t => (t.ctxs.getD 1024 .absent).phase == .teardown &&
        (t.ctxs.getD 1024 .absent).gen == 0 && (t.ctxs.getD 1024 .absent).holds == []) = true ∧
      isNext (exec (.contextReset 0 .hardFault) s) s = true := by decide +kernel

theorem met_ctxDestroy : let b : List Byte := leBytes 2 2 ++ leBytes 2 1024; let s := sysState (tenant State.reset .absent) b
    Sys s 2 (sysCmd b) ∧ recField b 2 2 = (1024 : Ctx).val ∧ zeroFrom b 4 = true ∧ s.ctxLive 1024 = true := by decide +kernel

theorem met_reclaimDeadline : let s := reclaimed ((tenant State.reset .absent).setFld F.tkStep 5)
    s.works = true ∧ s.sched.reclaims = [reclaim1024] ∧ reclaim1024.deadline ≤ s.fld F.tkStep ∧
      after (exec .reclaimDeadline s) (fun t => (t.ctxs.getD 1024 .absent).phase == .teardown) = true := by decide +kernel

/-- Instance 7 with a step open whose first stage asks for two cores. -/
def staged : State :=
  let m : ModelSt := { ModelSt.idle with plan := [⟨0x3000, 0x4000, 2, 0, 0, 0, 0⟩], stepOpen := true, step := 3 }
  { State.reset with sched := { State.reset.sched with models := [(7, m)] } }

theorem met_stageStart : let s := staged; let x := s.modelOf 7
    s.works = true ∧ s.flag F.trEnable = false ∧ x.plan[x.nextStage]? = some ⟨0x3000, 0x4000, 2, 0, 0, 0, 0⟩ ∧ x.stepOpen = true ∧
      x.stageRuns = false ∧ s.quiet = false ∧ (∀ n ∈ ([383, 0] : List CoreId), s.coreReady n = true ∧ s.serves (clusterOf n) = true) ∧
      (∀ k : Model, k.val < 7 → (s.modelOf k).stepOpen = false) ∧ s.fld (F.wMode 7) ≠ 1 ∧ (s.wtOf 7).copyDue = false ∧
      (s.wtOf 7).copying = false ∧ s.rep.pendCols = [] ∧
      after (exec (.stageStart 7 [383, 0]) s) (fun t => (t.modelOf 7).stageRuns && t.cores.map (fun (p : CoreId × Core) =>
        (p.1, p.2.rank, p.2.parity)) == [(383, 0, 1), (0, 1, 1)]) = true := by decide +kernel

theorem met_coreStop : let k := { onQueue1 0 with wait := .ending, ranks := 2 }; let s := withCmd (setCore (at0 k) 1 { k with rank := 1 }) kernelCmd
    s.works = true ∧ s.cores.find? 0 = some k ∧ (∀ p ∈ k.pend, p = 0) ∧ s.stopOf k = some .stopped ∧ s.coresOf k.work = [0, 1] := by
  decide +kernel

theorem met_coreStop_last : let k := { onQueue1 0 with wait := .ending, ranks := 2 }
    let s := withCmd (setCore (at0 k) 1 { k with rank := 1, wait := .stopped }) kernelCmd
    s.works = true ∧ s.cores.find? 0 = some k ∧ k.stage = none ∧ s.coresOf k.work = [0, 1] ∧ s.cmdOf 0 1 0 = some kernelCmd ∧
      sysEnds (exec (.coreStop 0) s) ⟨0, 0, none⟩ = true := by decide +kernel

/-- A core of context 1024 that stopped at a preemption point. -/
def preempted : Core := { core 0 with ctx := 1024, wait := .preempted }

theorem met_imageSave : let s := { tenant (at0 preempted) { CtxSt.absent with preempt := true } with out := [] }
    s.works = true ∧ s.flag F.trEnable = false ∧ (s.ctxs.getD 1024 .absent).preempt = true ∧ (s.ctxs.getD 1024 .absent).saving = false ∧
      s.cores = [(0, preempted)] ∧ preempted.ctx = 1024 ∧ preempted.stage = none ∧ preempted.wait = .preempted := by decide +kernel

/-- The image of that core. -/
def image : Image := { q := 0, idx := 0, held := [0], base := 0, lineBase := 0, cores := [(0, preempted, 64)], spad := [], store := [], cnts := [] }

theorem met_imageSaveComplete : let i := { image with cores := [], spad := [(0, 1, List.replicate 256 (7 : Byte))] }
    let s := mapped { State.reset with ctxs := [(0, { CtxSt.absent with phase := .live, saving := true, saveArea := 0x4000, images := [i] })] }
    s.works = true ∧ (s.ctxs.getD 0 .absent).saving = true ∧ (imageBytesOf [i]).length = 256 ∧
      okWith (vaWriteAs 0 0x4000 (imageBytesOf [i]) .rw s) (fun _ u => u.ctxs == s.ctxs && u.regs == s.regs) = true ∧
      after (exec (.imageSaveComplete 0) s) (fun t => !(t.ctxs.getD 0 .absent).saving && t.mem.bytes.readList 0x400040FC 5 == [7, 7, 7, 7, 0]) =
        true := by decide +kernel

theorem met_imageRestore : let s := (tenant State.reset { CtxSt.absent with images := [image] }).setFlag (F.partRunning 1024) true
    let x := s.ctxs.getD 1024 .absent
    s.works = true ∧ s.flag (F.partRunning 1024) = true ∧ x.images = [image] ∧ x.images ≠ [] ∧ x.preempt = false ∧ x.saving = false ∧
      x.restoring = false ∧ s.coreReady 0 = true ∧ s.fld (F.mxWidth 0) = 64 ∧ s.rep.pendCols = [] := by decide +kernel

theorem leBytes_length (n x : Nat) : (leBytes n x).length = n := by
  induction n generalizing x with
  | zero => rfl
  | succ n ih => simp [leBytes, ih]

theorem rows_length (l : List Nat) (f : Nat → Nat) : (l.flatMap (fun r => leBytes 256 (f r))).length = l.length * 256 := by
  induction l with
  | nil => rfl
  | cons a l ih => rw [List.flatMap_cons, List.length_append, ih, leBytes_length, List.length_cons, Nat.succ_mul, Nat.add_comm]

theorem block_length (k : Core) (cnt : List Nat × Nat × Nat) : (k.block cnt).length = 81920 := by
  rw [Core.block, List.length_append, List.length_append, rows_length, rows_length, List.length_map]
  simp only [upTo, List.length_range]

/-- Bytes that cannot be read back are as they were saved (R358). -/
theorem readSaved_unread {s : State} {c : Ctx} {a : Nat} {b : List Byte} {e : Err}
    (h : attempt (vaRead c a b.length) s = .ok (.error e) s) : readSaved c a b s = .ok b s := by
  unfold readSaved
  rw [run_bind_ok h]
  exact run_pure _ _

/-- The save area of a context without tables cannot be read: the image is as it was saved. -/
theorem met_imageRestoreComplete : let s := tenant State.reset { CtxSt.absent with images := [image], restoring := true, gen := 6 }
    s.works = true ∧ (s.ctxs.getD 1024 .absent).restoring = true ∧ (image.cores.map (·.1)).Nodup ∧
      readImage 1024 0 image s = .ok { image with cnts := [(0, [], 0, 0)] } s := by
  refine ⟨by decide +kernel, by decide +kernel, by decide +kernel, ?_⟩
  have h : ∀ s : State, s = tenant State.reset { CtxSt.absent with images := [image], restoring := true, gen := 6 } →
      attempt (vaRead 1024 0 (preempted.block ([], 0, 0)).length) s = .ok (.error .translation) s := fun s hs => by
    subst hs; rw [block_length]; exact ok_of_okWith (by decide +kernel)
  have hr := readSaved_unread (h _ rfl)
  dsimp only
  simp only [readImage, readLines, image, mapM', List.zipIdx_cons, List.zipIdx_nil, Image.cntOf]
  simp only [bind_assoc, pure_bind]
  refine (run_bind_ok hr).trans ?_
  simp [Core.ofBlock, run_pure]
  rfl

/-! ### Engines -/

/-- A command for well 63 with one row and nothing to do, posted by core 0. -/
def wellCmd (bytes : List Byte) : WellCmd :=
  { core := 0, ctx := 0, gen := 0, q := 1, idx := 0, pc := 0x1008, named := 63, slot := 0, bytes := bytes, order := 0 }
/-- GEMV of one row of no columns, and one with a reserved op (R194). -/
def idleBytes : List Byte := leBytes 2 0x101 ++ leBytes 78 0
def badBytes : List Byte := leBytes 80 0
def wellState (b : List Byte) : State :=
  { withCmd (at0 { onQueue1 0 with pend := [0, 0, 0, 1, 0] }) kernelCmd with wells := { queue := [wellCmd b], run := [], order := 1 } }

theorem met_wellCommandStart : let s := wellState idleBytes; let w := wellCmd idleBytes
    s.works = true ∧ s.wells.run.find? 63 = none ∧ s.wellServes 63 = true ∧ s.rep.needTest = [] ∧ s.rep.testing = [] ∧
      s.nextWellCmd 63 = some w ∧ w.fault = none ∧ w.idle = true ∧
      after (exec (.wellCommandStart 63) s) (fun t => t.wells.queue.isEmpty && t.wells.run.map (fun (p : WellId × WellRun) =>
        (p.1, p.2.passes, p.2.rowStatus)) == [(63, 0, [0])]) = true := by decide +kernel

theorem met_wellCommandStart_bad : let s := wellState badBytes; let w := wellCmd badBytes
    s.nextWellCmd 63 = some w ∧ w.fault = some (2, 0x20) ∧ s.jobs = [] ∧ s.cores.find? w.core = some { onQueue1 0 with pend := [0, 0, 0, 1, 0] } ∧
      s.cmdOf 0 1 0 = some kernelCmd ∧
      sysEnds (exec (.wellCommandStart 63) s) ⟨2, 0x20, some (0, 0x1008)⟩ = true := by decide +kernel

/-- GEMV of one row, 1 × 1, BF16, with 2.0 as input and a weight at 0x100 of a page in stack 15 (R198). -/
def gemvBytes : List Byte :=
  leBytes 1 1 ++ leBytes 1 1 ++ leBytes 2 0 ++ leBytes 4 0 ++ leBytes 4 64 ++ leBytes 4 0x400 ++ leBytes 4 64 ++ leBytes 4 0 ++
    leBytes 8 0x100 ++ leBytes 8 0 ++ leBytes 4 1 ++ leBytes 4 1 ++ leBytes 4 32 ++ leBytes 4 0x3F800000 ++ leBytes 24 0
def gemvRun (done : Nat) : WellRun :=
  { cmd := wellCmd gemvBytes, rowStatus := [0], inputs := [[0x00, 0x40]], passes := 1, passesDone := done, out := [], counts := [], bytes := 0 }
/-- The page of context 0 at 0 lies in stack 15. -/
def stack15 (s : State) : State :=
  let a := (128 + 64 + 15 * 19) * 2 ^ 30
  let t := { s with mem := { s.mem with bytes :=
    (((s.mem.bytes.writeList 0x100000 (leBytes 8 (1 + 0x101000 * 2 ^ 16))).writeList 0x101000
      (leBytes 8 (1 + 0x102000 * 2 ^ 16))).writeList 0x102000 (leBytes 8 (0x5F + 1025 * 2 ^ 8 + a * 2 ^ 16))).writeList (a + 0x100) [0x40, 0x40] } }
  (t.setFld (F.root 0) 0x100).setFlag (F.rootValid 0) true
def gemvState (done : Nat) : State :=
  let s := stack15 (wellState [])
  { s with wells := { queue := [], run := [(63, gemvRun done)], order := 1 } }

theorem met_wellPass : let s := gemvState 0; let r0 := gemvRun 0; let r := r0.recheck s (r0.cmd.accessed r0.passesDone); let w := r0.cmd
    let begun : State := { s with wells := { s.wells with run := s.wells.run.insert 63 { r with passesDone := r.passesDone + 1 } } }
    s.works = true ∧ s.wells.run.find? 63 = some r0 ∧ r0.passesDone < r0.passes ∧ w.op = 1 ∧ w.fault = none ∧
      okWith (shared (weightBlock 63 w ((w.src : Int) + w.slot * w.step) 0 1) begun) (fun m u => m.map (fun (r : List Val) => r.map toFp32) == [[0x40400000]] &&
        (u.wells.run.find? 63).isSome) = true := by decide +kernel

theorem met_wellCommandComplete : let r0 := { gemvRun 1 with out := [(0, [0x40C00000])] }
    let s := { gemvState 1 with wells := { queue := [], run := [(63, r0)], order := 1 } }
    s.works = true ∧ s.wells.run.find? 63 = some r0 ∧ r0.passesDone = r0.passes ∧ (s.cores.find? r0.cmd.core).isSome ∧
      (s.rep.wellCols.getD 63 []).length < 3 ∧ 63 ∉ s.rep.markedWells ∧ r0.cmd.idle = false := by decide +kernel

/-- A FILL of 64 bytes of core 0's scratchpad from 0x80 on channel 31, checked. -/
def fillReq : DmaReq := { parseRec (leBytes 4 0x202 ++ leBytes 4 64 ++ leBytes 4 1 ++ leBytes 4 1 ++ leBytes 4 1 ++ leBytes 4 256 ++
  leBytes 8 0 ++ leBytes 8 0x80 ++ leBytes 48 0 ++ leBytes 8 0x0807060504030201) 0 0 1 0 (some 0) with checked := true }
def dmaState (e : DmaEng) (r : DmaReq) : State :=
  { withCmd (at0 { onQueue1 0 with pend := [0, 0, 1, 0, 0] }) { kernelCmd with kind := 2, count := 1 } with
    dma := [(e, { DmaEngSt.idle with chans := [(31, { DmaCh.empty with reqs := [r], credit := 16384 })] })] }

theorem met_dmaBurst : let s := dmaState (.core 0) fillReq; let x := s.dmaOf (.core 0)
    s.works = true ∧ x.mode = 0 ∧ x.turn = [] ∧ (∀ p ∈ x.chans, p.1 = 31) ∧ s.unitHeld (engUnit (.core 0)) = false ∧ (x.chan 31).ready = some fillReq ∧
      fillReq.core = some 0 ∧ fillReq.checked = true ∧ fillReq.op = 2 ∧ fillReq.dstSpace = 2 ∧ fillReq.dstObj = none ∧
      fillReq.sum = 0 ∧ fillReq.stored = false ∧ (x.chan 31).reqs.find? (fun y => y.order == fillReq.order) = some fillReq ∧
      fillReq.burstLen 0 * 256 ≤ (x.chan 31).credit ∧ fillReq.at' fillReq.dst fillReq.dstStep 0 = 0x80 := by decide +kernel

/-- An engine with that request alone on channel 31 and credit for its burst. -/
def dmaReady (credit : Nat) (passed : AMap Nat Nat) : DmaEngSt :=
  { DmaEngSt.idle with chans := [(31, { DmaCh.empty with reqs := [fillReq], credit := credit })], passed := passed }

theorem dmaReady_serves {credit : Nat} {passed : AMap Nat Nat} (h : 64 * 256 ≤ credit) : (dmaReady credit passed).serves 256 31 = true := by
  have hd : ({ DmaCh.empty with reqs := [fillReq], credit := credit } : DmaCh).eligible = true := by
    rw [DmaCh.eligible, show ({ DmaCh.empty with reqs := [fillReq], credit := credit } : DmaCh).due = some 64 by rfl]
    exact decide_eq_true h
  simp [dmaReady, DmaEngSt.serves, DmaEngSt.idle, DmaEngSt.chan, AMap.getD, AMap.find?, hd]

/-- Whatever cycles have passed, the engine serves its one channel. -/
theorem met_dmaBurst_served (c : Nat) : let y := (dmaState (.core 0) fillReq).dmaOf (.core 0); let x := y.wait (dmaBus (.core 0)) c
    (y.chan 31).ready.isSome = true ∧ x.serves (dmaBus (.core 0)) 31 = true ∧ (x.chan 31).ready = some fillReq := by
  have hy : (dmaState (.core 0) fillReq).dmaOf (.core 0) = dmaReady 16384 [] := by decide +kernel
  dsimp only
  rw [hy]
  refine ⟨by decide +kernel, ?_⟩
  obtain ⟨cr, ps, hc, hx⟩ : ∃ cr ps, 64 * 256 ≤ cr ∧ (dmaReady 16384 []).wait (dmaBus (.core 0)) c = dmaReady cr ps := by
    unfold DmaEngSt.wait
    split
    · exact ⟨16384, [], by decide, rfl⟩
    · exact ⟨min (4096 * 256) (16384 + c * _), _, by omega, rfl⟩
  rw [hx]
  exact ⟨dmaReady_serves hc, rfl⟩

/-- RUN_TO_COMPLETION: whatever cycles have passed, channel 31 waits for the request begun on channel 30. -/
theorem met_dmaBurst_waits (c : Nat) : let y : DmaEngSt := { DmaEngSt.idle with
      mode := 1, last := 30, chans := [(30, { DmaCh.empty with reqs := [{ fillReq with done := 8 }] }), (31, { DmaCh.empty with reqs := [fillReq] })] }
    (y.chan 31).ready.isSome = true ∧ (y.wait 256 c).serves 256 31 = false := by
  refine ⟨by decide +kernel, ?_⟩
  unfold DmaEngSt.wait
  split
  · decide +kernel
  · rfl

theorem met_dmaRequestComplete : let r := { fillReq with done := 64 }; let s := dmaState (.core 0) r
    s.works = true ∧ ((s.dmaOf (.core 0)).chan 31).reqs.head? = some r ∧ r.total ≤ r.done ∧ r.waits = [] ∧ r.checked = true ∧
      r.sum = 0 ∧ (s.cores.find? 0).isSome ∧
      after (exec (.dmaRequestComplete (.core 0) 31) s) (fun t => (t.chanOf (.core 0) 31).reqs.isEmpty &&
        t.cores.all (fun (p : CoreId × Core) => p.2.pend == [0, 0, 0, 0, 0])) = true := by decide +kernel

theorem met_dmaCommandComplete : let r := { fillReq with done := 64, core := none }; let s := dmaState (.die 3) r
    s.works = true ∧ ((s.dmaOf (.die 3)).chan 31).reqs.head? = some r ∧ r.total ≤ r.done ∧
      (s.cmdOf r.ctx r.q r.idx).map (fun (c : Cmd) => (c.ending, c.count, c.recDone)) = some (none, 1, 0) ∧
      sysEnds (exec (.dmaRequestComplete (.die 3) 31) s) ⟨0, 0, none⟩ = true := by decide +kernel

/-! ### Weights -/

/-- A package of two layers of one shard of 64 bytes (with its tag) each. -/
def package : Package :=
  { version := 7, setId := 9, wrapped := [], key := some 0, layers := [(64, 0, 1), (64, 1, 1)], shards := [(0, 64, 0, 0, 0), (1, 64, 0, 0, 0)] }
/-- Instance 15 with that package, two sources of queue pairs and shard 0 in flight from the first. -/
def weights : WtSt :=
  { WtSt.none with pkg := some package, sources := [⟨1, 5, 0, 0, none⟩, ⟨1, 6, 0, 0, none⟩], flight := [⟨0, 0, 0, []⟩]
                   staging := some ⟨1, 7, 0, 0, 0x4000, 64⟩, distance := 2 }
def wtState (s : State) (w : WtSt) (state : Nat) : State := { s.setFld (F.wState 15) state with wts := [(15, w)] }

/-- WT_RESUME, where the content key unwraps (a free value: the key store's answer is the module's). -/
theorem met_wtResume : let b : List Byte := leBytes 2 0x12 ++ leBytes 1 15
    let s := { wtState (sysState State.reset b) { weights with layer := 1, flight := [] } 5 with
      sec := { State.reset.sec with sets := [(3, 9, 0x55)] } }
    Sys s 0x12 (sysCmd b) ∧ recField b 2 1 = (15 : Model).val ∧ zeroFrom b 3 = true ∧ s.fld (F.wState 15) = 5 ∧ (s.wtOf 15).q = none ∧
      (s.wtOf 15).pkg = some package ∧ s.sec.sets.any (fun k => k.2.1 == package.setId) = true := by decide +kernel

theorem met_shardArrival : let s := wtState State.reset weights 4
    s.works = true ∧ (s.wtOf 15).pkg = some package ∧ (s.wtOf 15).flight.find? (fun f => f.k == 0) = some ⟨0, 0, 0, []⟩ ∧
      package.shards[0]? = some (0, 64, 0, 0, 0) ∧ (s.wtOf 15).sources[0 + 1]? = some ⟨1, 6, 0, 0, none⟩ ∧
      after (exec (.shardArrival 15 0 none) s) (fun t => (t.wtOf 15).flight == [⟨0, 1, 0, []⟩] && t.out == [] &&
        t.fld (F.wRefetch 15) == 1) = true := by decide +kernel

theorem met_shardTimeout : let s := wtState (withCmd State.reset (sysCmd [])) { weights with q := some (1, 0, 0) } 1
    s.works = true ∧ s.flag (F.wMode 15) = false ∧ (s.wtOf 15).q = some (1, 0, 0) ∧ s.sysCmd (1, 0, 0) = some (sysCmd []) ∧
      after (exec (.shardTimeout 15 0) s) (fun t => t.fld (F.wState 15) == 6 && (t.wtOf 15).flight == []) = true := by
  decide +kernel

theorem met_shardTimeout_streamed : let s := (wtState State.reset weights 3).setFlag (F.wMode 15) true
    s.works = true ∧ s.flag (F.wMode 15) = true ∧ s.flag F.trEnable = false ∧
      after (exec (.shardTimeout 15 0) s) (fun t => !t.flag (F.mEnable 15) && t.fld (F.mFault 15) == 0x64) = true := by decide +kernel

theorem met_layerCopy : let w := { weights with ready := true, flight := [] }; let s := wtState State.reset w 4
    s.works = true ∧ w.ready = true ∧ w.copying = false ∧ s.flag (F.mEnable 15) = false := by decide +kernel

theorem met_layerCopyComplete : let w := { weights with copying := true, flight := [], map := 2 ^ 48 }
    let s := wtState (mapped2 State.reset) w 4
    s.works = true ∧ w.copying = true ∧ w.reverting = false ∧ w.nextLayer (w.layer + 1) = some (w.layer + 1) ∧
      okWith (layerEntry 15 0 s) (fun e u => e.length == 32 && u.mem.bytes == s.mem.bytes) = true := by decide +kernel

theorem met_streamFetchStart : let w := { weights with lastFetch := some (3, 0), flight := [] }
    let s := { ((wtState State.reset w 3).setFlag (F.wMode 15) true).setFlag (F.mEnable 15) true with
      sched := { State.reset.sched with models := [(15, { ModelSt.idle with stepOpen := true })] } }
    s.works = true ∧ s.flag (F.wMode 15) = true ∧ s.fld (F.wState 15) = 3 ∧ s.flag (F.mEnable 15) = true ∧ w.ahead < w.distance ∧
      w.pkg = some package ∧ w.stream = [] ∧ w.lastFetch = some (3, 0) ∧ 0 + 1 < package.layers.length := by decide +kernel

/-! ### Collectives -/

/-- A job of context 0 on die 2 with three channels; this module is rank 1 of 2. -/
def job : JobSt :=
  { job := 77, die := 2, channels := 3, kind := 2, rank := 1, table := [(9, 4), (0, 0)], cistern := 0x2180000000, cisternBytes := 65536
    creator := none, destroyer := [], waited := 0, filled := true, joins := [], aborted := false, dying := false, ops := []
    nextOp := [], drain := none, noOpt := false }
/-- An operation BROADCAST of four FP32 elements from rank 0 to 0x300 (R394), and one of none. -/
def bcast (count : Nat) : List Byte := leBytes 1 3 ++ leBytes 1 0 ++ leBytes 1 1 ++ leBytes 1 1 ++ leBytes 4 count ++ leBytes 8 0 ++
  leBytes 8 0x300 ++ leBytes 104 0
def clOp : ClOp := { core := 0, pc := 0x1008, q := 1, idx := 0, opNum := 0, bytes := bcast 4, prog := [], headerOk := true, headerSent := true
                     partialsIn := 0, valuesIn := 0, silent := 0, ownDone := 0 }
def jobState (s : State) (ops : List ClOp) : State := { s with jobs := [(0, { job with ops := [(2, ops)], nextOp := [(2, ops.length)] })] }
def clCore (x : Nat) : Core := { core x with s := [(1, 2), (2, 0x200)] }

theorem met_clPost : ∀ n ∈ [0, 4], let w := w50 [(40, 1), (35, 2)]; let x := wordOf 0xE 0 w; let k := clCore x
    let s := jobState (padWith (at0 k) 0x200 (bcast n)) [clOp]
    let o0 : ClOp := { clOp with bytes := bcast n, q := 0, opNum := 1, headerOk := false, headerSent := false }
    Ready s 0 k x ∧ fieldsOnly x [(40, 5), (35, 5)] ∧ freeS k [Wd.f40 x, Wd.f35 x] ∧ noAcquire k ∧ 0x200 % 64 = 0 ∧
      cleanWords s.sram (padOf 0) 0x200 128 ∧ (k.getS (Wd.f40 x)).toNat = (2 : Fin 64).val ∧
      okWith (checkCl 0 { job with ops := [(2, [clOp])], nextOp := [(2, 1)] } o0 (setCore s 0 (past k))) (fun o u =>
        o == o0 && u == setCore s 0 (past k)) = true ∧
      after (exec (.clPost 0 w) s) (fun t => t.cores.all (fun (p : CoreId × Core) => p.2.pend == [0, 0, 0, 0, min n 1]) &&
        t.jobs.all (fun (p : Ctx × JobSt) => (p.2.ops.getD 2 []).length == 1 + min n 1)) = true := by decide +kernel

theorem met_collective_header : let o := { clOp with headerOk := false, silent := 3 }; let s := jobState State.reset [o]
    s.works = true ∧ s.jobCtx 77 = some 0 ∧ s.unitHeld (.coll 2) = false ∧ 2 ≤ job.members ∧
      (nthD job.table job.before (0, 0)).1 = (9 : BitVec 16).toNat ∧ o.headerSent = true ∧
      after (exec (.collective 9 77 2 (.header (BitVec.ofNat 64 o.crc)) 0 0 []) s) (fun t => t.jobs.all (fun (p : Ctx × JobSt) =>
        (p.2.ops.getD 2 []).map (fun (y : ClOp) => (y.headerOk, y.silent)) == [(true, 0)])) = true := by decide +kernel

theorem met_collective_value : let o := { clOp with opNum := 0 }; let s := jobState (mapped State.reset) [o]
    (0 : W32).toNat = o.opNum ∧ o.headerOk = true ∧ job.after = o.root ∧
      okWith (vaWriteAs 0 (o.dst + 0 * o.dstBytes) [1, 2, 3, 4] .w s) (fun _ _ => true) = true ∧
      after (exec (.collective 9 77 2 .value 0 0 [1, 2, 3, 4]) s) (fun t => t.mem.bytes.readList 0x40000300 4 == [1, 2, 3, 4] &&
        t.fld (F.digRbytes 0 2) == 4) = true := by decide +kernel

theorem met_collectiveComplete : let o := { clOp with valuesIn := 4 }
    let s := jobState (at0 { core 0 with pend := [0, 0, 0, 0, 1] }) [o]
    s.works = true ∧ opDone job o = true ∧ (s.cores.find? o.core).isSome ∧
      after (exec (.collectiveComplete 0 2) s) (fun t => t.cores.all (fun (p : CoreId × Core) => p.2.pend == [0, 0, 0, 0, 0]) &&
        t.jobs.all (fun (p : Ctx × JobSt) => p.2.ops.getD 2 [] == [])) = true := by decide +kernel

/-- JOB_CREATE of context 1024 on die 2, one channel of one member, with its table at 0x4000 and a cistern of 64 KiB. -/
theorem met_jobCreate :
    let b : List Byte := leBytes 2 0x20 ++ leBytes 2 1024 ++ leBytes 4 77 ++ [2, 1, 1, 0] ++ leBytes 2 1 ++ leBytes 2 0 ++
      leBytes 8 0x4000 ++ leBytes 8 0x2800000000 ++ leBytes 8 65536
    let m := tenant (mapped State.reset) .absent
    let s := withCmd { m with mem := { m.mem with bytes := m.mem.bytes.writeList 0x40004002 (leBytes 2 1024) } } (sysCmd b)
    Sys s 0x20 (sysCmd b) ∧ recField b 2 2 = (1024 : Ctx).val ∧ recField b 8 1 = (2 : Die).val ∧ recField b 9 1 = 1 ∧
      recField b 0xC 2 = 1 ∧ recField b 0xE 2 = 0 ∧ recField b 0xB 1 = 0 ∧ zeroFrom b 0x28 = true ∧ s.ctxLive 1024 = true ∧
      s.jobs = [] ∧ recField b 0xA 1 = 1 ∧ s.fld F.deviceId = 0 ∧
      okWith (vaRead 0 0x4000 4 s) (fun tb _ => recField tb 0 2 == 0 && recField tb 2 2 == 1024) = true ∧
      windowOf s.mem.partNow 0x2800000000 = some ⟨1, 2, 0x2800000000, 0x400000000⟩ ∧ s.ownerState = true ∧
      s.mem.selfRefresh = [] ∧ s.mem.retrain = [] ∧ s.cxl.held = [] ∧
      after (exec (.jobCreate 1) s) (fun t => t.fld (F.clState 1024) == 1 && t.fld (F.clJobId 1024) == 77) = true := by decide +kernel

theorem met_jobDestroy : let b : List Byte := leBytes 2 0x21 ++ leBytes 2 0; let s := { sysState State.reset b with jobs := [(0, job)] }
    Sys s 0x21 (sysCmd b) ∧ recField b 2 2 = (0 : Ctx).val ∧ zeroFrom b 4 = true ∧ job.ops = [] ∧ job.dying = false ∧ job.creator = none ∧
      after (exec (.jobDestroy 1) s) (fun t => t.mem.fills == [⟨.job 0, [(0x21800000, 0x21800100)]⟩]) = true := by decide +kernel

theorem met_joinTimeout : let j := { job with creator := some (1, 0, 0), waited := 65535 }
    let s := { (sysState State.reset []).setFld (F.clState 0) 1 with jobs := [(0, j)] }
    s.works = true ∧ s.fld (F.clState 0) = 1 ∧ s.fld F.joinTicks ≤ j.waited ∧ s.sysCmd (1, 0, 0) = some (sysCmd []) ∧
      sysEnds (exec (.joinTimeout 0) s) ⟨7, 0, none⟩ = true := by decide +kernel

theorem met_clStall : let o := { clOp with silent := 65535 }; let s := jobState (withCmd (at0 (onQueue1 0)) kernelCmd) [o]
    s.works = true ∧ s.flag F.trEnable = false ∧ s.mem.fills = [] ∧ opWaits { job with ops := [(2, [o])] } o = true ∧
      s.fld F.stallTicks < o.silent ∧ s.cmdOf 0 1 0 = some kernelCmd := by decide +kernel

theorem met_abort : let s := (jobState (withCmd (at0 (onQueue1 0)) kernelCmd) [clOp]).setFld (F.clState 0) 2
    s.works = true ∧ s.jobCtx 77 = some 0 ∧ (1 : BitVec 16).toNat < job.members ∧ s.fld (F.clState 0) = 2 ∧
      after (exec (.abort 77 1 0x76) s) (fun t => t.fld (F.clState 0) == 3 && t.fld F.clAborts == 1 && t.cores.isEmpty) = true := by
  decide +kernel

/-- Queue pair 0 of an Ethernet-mode port is READY with its entry at 0x4000, and with a receive ring of one slot at 0x6000 or
without one (R436–R438). -/
def queuePair (ring tail : Nat) : State :=
  let t := ((mapped State.reset).setFld ⟨.jlQpbase, 12, 45⟩ 4).setFld (F.portMode 0) 1
  { t.setFlag F.qpValid true with
    mem := { t.mem with bytes := t.mem.bytes.writeList 0x40004000 (leBytes 1 1 ++ leBytes 57 0 ++ leBytes 1 1 ++ leBytes 1 7 ++ leBytes 4 0 ++
      leBytes 8 ring ++ leBytes 4 0 ++ leBytes 4 0 ++ leBytes 4 tail ++ leBytes 44 0) }
    jobs := [(0, { job with drain := some (0, 0, 0, 0, 128) })] }

theorem met_drains : let j := { job with drain := some (1, 0, 6, 0x1000, 128) }
    let s := { (queuePair 0 0).setFld (F.drainState 0) 1 with jobs := [(0, j)] }; let t := s.setFld (F.drainState 0) 2
    let b : List Byte := List.replicate 64 0
    s.works = true ∧ s.fld (F.drainState 0) = 1 ∧ t.fld (F.drainState 0) = 2 ∧ j.optRuns = false ∧ s.qpReady 0 = true ∧ s.qpReady 1 = false ∧
      okWith (readDpa (cisternSlot 0) j.cistern 64 s) (fun x u => x == b && u.regs == s.regs) = true ∧
      okWith (advancePsn 0 (.write 6 (0x1000 + 128 + 64) b) t) (fun _ _ => true) = true ∧
      okWith (endOwn (.drain 0) (fun _ => 64) t) (fun _ u => u == t) = true := by decide +kernel

/-- A frame is sent or held wherever the send PSN of its queue pair can be advanced. -/
theorem sendRoce_ok {qp : Nat} {f : Roce} {s : State} (h : okWith (advancePsn qp f s) (fun _ _ => true) = true) :
    okWith (sendRoce qp f s) (fun _ _ => true) = true := by
  unfold sendRoce
  cases hr : advancePsn qp f s with
  | error e t => rw [hr] at h; cases h
  | ok a t =>
    rw [run_bind_ok hr, run_bind_ok (run_get t)]
    cases t.qpPaused qp <;> cases t.qpPrio qp <;> rfl

/-! ### The memory system -/

theorem met_invalidate : ∀ r ∈ ([(.trInvLeaf, 0), (.trInvContext, 1), (.trInvAll, 2)] : List ((Half → W64 → Instr) × Nat)),
    let v : W64 := BitVec.ofNat 64 (1024 + r.2 * 4096); let s := State.reset
    s.works = true ∧ bitsOf (halfPlace .lo v) 12 2 = r.2 ∧ bitsOf (halfPlace .lo v) 0 11 = 1024 ∧ s.flag F.invBusy = false ∧
      after (exec (r.1 .lo v) s) (fun t => t.flag F.invBusy && t.mem.inv == some (r.2, 1024, 0)) = true ∧
      isNext (exec (r.1 .lo (v + 1)) s) (s.setFlag F.invReject true) = true := by decide +kernel

theorem met_invalidationComplete :
    let s := { State.reset with mem := { State.reset.mem with inv := some (1, 5, 0), tlb := [(⟨5, 0, 2, 0⟩, 9), (⟨6, 0, 2, 0⟩, 9)] } }
    after (exec .invalidationComplete s) (fun t => t.mem.tlb == [(⟨6, 0, 2, 0⟩, 9)] && !t.flag F.invBusy) = true := by decide +kernel

theorem met_rekey : let s := State.reset
    s.works = true ∧ s.flag F.rekeyBusy = false ∧ s.flag F.entropyFail = false ∧
      after (exec (.trRekeyWrite .full 1040) s) (fun t => t.flag F.rekeyBusy && t.fld F.rekeySlot == 1040 && t.mem.currentKey 1040 == 2048) = true ∧
      isNext (exec (.trRekeyWrite .full 1041) s) (s.setFlag F.rekeyReject true) = true ∧
      isNext (exec (.trRekeyWrite .full 0) s) (s.setFlag F.rekeyReject true) = true := by decide +kernel

theorem met_rekeyComplete : let s := { State.reset with mem := { (State.reset.mem.rekeySlot 1025) with tags := [(7, ⟨1025, false, 1025, true⟩)] } }
    s.works = true ∧ s.mem.rekey = some ⟨1025, some 1025⟩ ∧ s.mem.fills = [] ∧ s.mem.slotKeys 1025 = ⟨true, some 1025, some 2048⟩ ∧
      s.mem.granuleOk 1025 7 = true ∧
      after (exec .rekeyComplete s) (fun t => t.mem.slotKeys 1025 == ⟨true, none, some 2048⟩ && t.mem.granuleOk 1025 7 &&
        t.fld F.rekeyDone == 1) = true := by decide +kernel

/-- The last page below the top of allocatable memory, and one page too many. -/
theorem met_msZero : let s := State.reset; let base := allocTop / 65536 - 1
    s.works = true ∧ s.flag F.zeroBusy = false ∧
      after (exec (.msZeroWrite .full (BitVec.ofNat 64 (base + 2 ^ 32))) s) (fun t => t.flag F.zeroBusy &&
        t.mem.fills == [⟨.msZero, [(base * 256, allocTop / 256)]⟩]) = true ∧
      isNext (exec (.msZeroWrite .full (BitVec.ofNat 64 (base + 2 * 2 ^ 32))) s) (s.setFlag F.zeroReject true) = true := by decide +kernel

theorem met_zeroFill :
    let s := { State.reset with mem := { State.reset.mem with fills := [⟨.msZero, [(1, 2)]⟩], bytes := [(255, 1), (256, 2), (511, 3), (512, 4)] } }
    s.works = true ∧ s.rangeAsleep (1, 2) = false ∧ s.mem.bytes.wf = true ∧
      after (exec .zeroFillComplete s) (fun t => t.mem.bytes == [(255, 1), (512, 4)] && t.mem.fills == [] && t.fld F.zeroDone == 1) = true := by
  decide +kernel

theorem met_msPart : let s := State.reset
    s.works = true ∧ s.flag F.msChanging = false ∧ (31, 0, 0) ≠ s.mem.partNow ∧
      after (exec (.msPartWrite .full 31) s) (fun t => t.flag F.msChanging && t.mem.pendPart == some (31, 0, 0)) = true ∧
      isNext (exec (.msPartWrite .full 30) s) s = true := by decide +kernel

theorem met_retrain : let s := State.reset; let r : Retrain := ⟨15, 31, some 79, none⟩
    let t := { s with mem := { s.mem with retrain := [r] } }
    s.works = true ∧ s.mem.retrain = [] ∧ s.mem.selfRefresh = [] ∧
      isNext (exec (.channelRetrain 15 31 (some 79)) s) t = true ∧
      t.mem.retrain.find? (fun r => r.stack == 15 && r.ch == 31) = some r ∧ (15, 31, spareLane 79) ∉ t.mem.lanes ∧
      t.flag F.trEnable = false ∧
      after (exec (.channelRetrainComplete 15 31) t) (fun u => u.mem.lanes == [(15, 31, spareLane 79)] && u.mem.retrain == [] &&
        bitOf (u.fld (F.chSpared 15)) 31) = true := by decide +kernel

theorem met_retrain_exhausted : let r : Retrain := ⟨15, 31, some 80, none⟩; let s := State.reset
    let t := { s with mem := { s.mem with retrain := [r] } }; let u := { s with mem := { s.mem with retrain := [{ r with lane := none }] } }
    after (exec (.channelRetrainComplete 15 31) t) (fun v => v.mem.lanes == [] && bitOf (v.fld (F.chExhausted 15)) 31) = true ∧
      u.mem.retrain.find? (fun r => r.stack == 15 && r.ch == 31) = some { r with lane := none } := by decide +kernel

theorem met_selfRefreshExit : let s := { State.reset with mem := { State.reset.mem with selfRefresh := [15] } }
    s.works = true ∧ bitOf (s.fld F.pwParked) 3 = false ∧ isNext (exec (.selfRefreshExit 15) s) State.reset = true := by decide +kernel

/-! ### Repair -/

theorem met_patrolBank : let s := State.reset; let n := s.fld F.bankCe
    s.works = true ∧ 0 < n ∧ s.sram.bankRemap = [] ∧ s.flag (F.mxBankSpared 383) = false ∧
      after (exec (.patrolScrub (.corrected 383 15 (n - 1))) s) (fun t => t.sram.bankRemap == [] &&
        t.sram.bankErrs == [((false, 383 * 16 + 15), n - 1)]) = true ∧
      after (exec (.patrolScrub (.corrected 383 15 n)) s) (fun t => t.sram.bankRemap == [(383, 15)]) = true := by decide +kernel

theorem met_patrol : let s := { State.reset with
      sram := { State.reset.sram with spad := [(1023, 1), (1024, 2), (2048, 3)], spadTags := [(1, ⟨0, 0, 1⟩)] }
      mem := { State.reset.mem with dirty := [(7, ⟨[], none, false⟩)] } }
    s.works = true ∧
      after (exec (.patrolScrub (.scratchWord 383 65535)) s) (fun t => t.sram.spadPoison == [383 * 65536 + 65535]) = true ∧
      after (exec (.patrolScrub (.scratchTag 0 1)) s) (fun t => t.sram.spad == [(1023, 1), (2048, 3)] && t.sram.spadTags == []) = true ∧
      isNext (exec (.patrolScrub (.poolLine 8)) s) s = true ∧
      s.mem.dirty.find? 8 = none ∧ s.mem.dirty.find? 7 ≠ none ∧
      after (exec (.patrolScrub (.poolLine 7)) s) (fun t => t.mem.dirty == [] && !t.mem.granuleOk 1025 7) = true ∧
      after (exec (.patrolScrub (.onDie 15 2 3)) s) (fun t => t.fld (F.msCorrected 15) == 2 && t.fld (F.msUncorrected 15) == 3) = true := by
  decide +kernel

theorem met_clusterSpare : let s := { State.reset with rep := { State.reset.rep with markedClusters := [(3, 11)] } }
    s.works = true ∧ (3, 11) ∈ s.rep.markedClusters ∧ s.cores = [] ∧ s.rep.copies = [] ∧ s.rep.spareClustersUsed.getD 3 0 < 2 ∧
      isNext (exec (.clusterSpare 3 11) s) { s with rep := { s.rep with spareClustersUsed := [(3, 1)], copies := [.cluster 3 11 12] } } = true := by
  decide +kernel

theorem met_spareCopy : let s := { State.reset with sram := { State.reset.sram with bankRemap := [(383, 15)] } }
    s.works = true ∧ s.rep.copies = [] ∧ s.cores.find? 383 = none ∧ s.flag F.trEnable = false ∧
      after (exec .spareCopyComplete s) (fun t => t.sram.bankRemap == [] && t.flag (F.mxBankSpared 383) && t.fld F.repairs == 1) = true := by
  decide +kernel

theorem met_rpRetire : let b : List Byte := leBytes 2 0x50 ++ [3, 3, 11, 7]; let s := sysState State.reset b
    Sys s 0x50 (sysCmd b) ∧ zeroFrom b 6 = true ∧ (383 : CoreId).val = recField b 3 1 * 96 + recField b 4 1 * 8 + recField b 5 1 ∧
      s.flag (F.mxRetired 383) = false ∧ s.rep.spareCoreUsed = [] ∧ s.rep.marked = [] ∧
      after (exec (.rpRetire 1) s) (fun t => t.rep.marked == [383] && t.rep.retireWait.length == 1) = true := by decide +kernel

theorem met_selfTest : let s := State.reset; let t := { s with rep := { s.rep with testing := [(.core 383, true)], needTest := [.core 383] } }
    s.works = true ∧ s.unitIdle (.core 383) = true ∧ s.testAllowed (.core 383) = true ∧ s.rep.testing = [] ∧
      isNext (exec (.rollingSelfTest (.core 383)) s) { s with rep := { s.rep with testing := [(.core 383, false)] } } = true ∧
      isNext (exec (.selfTestComplete (.core 383) .pass) t) ((s.bump (F.testRun 3)).setFld (F.mxLastTest 383) 0) = true ∧
      t.newColumns (.core 383) [64] = [64] ∧ 48 ≤ widthOf 1 ∧
      after (exec (.selfTestComplete (.core 383) (.columns [64])) t) (fun u => u.rep.pendCols == [(383, [64])] &&
        u.fld (F.mxNextWidth 383) == widthOf 1 && u.fld (F.mxWidth 383) == 64) = true := by decide +kernel

theorem met_parityError : let k := onQueue1 0; let s := withCmd (at0 k) kernelCmd
    s.works = true ∧ s.jobs = [] ∧ s.cores.find? 0 = some k ∧ k.stage = none ∧ s.cmdOf 0 1 0 = some kernelCmd ∧
      sysEnds (exec (.parityError (.core 0)) s) ⟨5, 0xB3, none⟩ = true ∧
      after (exec (.parityError (.core 0)) s) (fun t => t.rep.needTest.contains (.core 0) && t.cores.isEmpty) = true := by decide +kernel

theorem met_unitStuck : let s := { wellState idleBytes with wells := { queue := [], run := [(63, gemvRun 0)], order := 1 } }
    s.works = true ∧ s.jobs = [] ∧ s.wells.run.find? 63 = some (gemvRun 0) ∧ (gemvRun 0).cmd.core = 0 ∧ s.noHold = true ∧
      s.rep.unitResets.find? (.well 63) = none ∧ sysEnds (exec (.unitStuck (.well 63)) s) ⟨0xE, 0xB2, none⟩ = true ∧
      after (exec (.unitStuck (.well 63)) s) (fun t => t.wells.run == [] && t.fld F.hung == 1) = true := by decide +kernel

theorem met_drainMarkers : ∀ es ∈ [[6], [5, 6]], let d : Drain := ⟨0, some 1, 0, es⟩
    let s := { State.reset with rep := { State.reset.rep with drains := [⟨0, some 2, 0, [5]⟩, d] } }
    let left := if es = [6] then [⟨0, some 2, 0, [5]⟩] else [⟨0, some 2, 0, [5]⟩, { d with endpoints := [5] }]
    let t := State.setFld { s with rep := { s.rep with drains := left } } F.drainPending left.length
    s.works = true ∧ s.rep.drains.find? (fun d => d.endpoints.contains 6) = some d ∧ (s.ctxs.getD 0 .absent).phase ≠ .teardown ∧
      isNext (exec (.drainMarkerAck 6) s) t = true ∧ isNext (exec (.drainMarkerStuck 6) s) ((t.bump F.drainStuck).bump F.hung) = true := by
  decide +kernel

/-! ### Plinth cores, firmware and configuration -/

theorem met_heartbeat : let s := State.reset
    s.works = true ∧ s.flag F.trEnable = false ∧ s.standbyReady 3 = true ∧ s.fld (F.roleActive 3) ≠ s.fld (F.roleStandby 3) ∧
      s.updating 3 = false ∧
      after (exec (.heartbeatMiss 3 false) s) (fun t => t.rep.takeover == [3] && t.fld (F.roleActive 3) == s.fld (F.roleStandby 3)) = true ∧
      after (exec (.heartbeatMiss 3 true) s) (fun t => t.flag (F.roleNoStandby 3)) = true := by decide +kernel

theorem met_noStandby : let s := State.reset.setFlag (F.roleNoStandby 3) true
    s.works = true ∧ s.standbyReady 3 = false ∧ s.updating 3 = false := by decide +kernel

theorem met_takeover : let s := { State.reset with rep := { State.reset.rep with takeover := [3] } }
    s.works = true ∧ 3 ∈ s.rep.takeover ∧
      isNext (exec (.takeoverComplete 3 true) s) (State.reset.setFld (F.plinth (s.fld (F.roleStandby 3))) 1) = true := by decide +kernel

theorem met_moduleFault : let s := { State.reset with rep := { State.reset.rep with moduleFault := true } }
    s.rep.moduleFault = true ∧ isNext (exec .tick s) s = true ∧ isNext (exec (.trRekeyWrite .full 7) s) s = true := by decide +kernel

/-- An update in its last role. -/
def updating (reload : Bool) : State :=
  { sysState State.reset [] with pow := { State.reset.pow with upd := some ⟨(1, 0, 0), 3, reload, 5, 6, 7⟩ } }

theorem met_roleHandover : let s := updating false
    s.works = true ∧ s.flag F.trEnable = false ∧ s.standbyReady 3 = true ∧ s.fld (F.roleActive 3) ≠ s.fld (F.roleStandby 3) ∧
      s.pow.roleFw.length = 4 ∧
      after (exec .roleHandover s) (fun t => nthD t.pow.roleFw 3 (0, 0) == (5, 7) && t.fld (F.roleActive 3) == s.fld (F.roleStandby 3)) = true := by
  decide +kernel

theorem met_roleReload : let s := updating true
    s.works = true ∧ s.sysCmd (1, 0, 0) = some (sysCmd []) ∧ sysEnds (exec (.roleReloadComplete true) s) ⟨0, 0, none⟩ = true ∧
      sysEnds (exec (.roleReloadComplete false) s) ⟨1, 0xC3, none⟩ = true := by decide +kernel

theorem met_restoreFactory : let b (k a c : Byte) : List Byte := leBytes 2 0x41 ++ [k, a, c]; let s (k a c : Byte) := { sysState State.reset (b k a c) with
      pow := { State.reset.pow with fieldCal := [((1, 7, 8), 1), ((3, 55, 0), 2)] } }
    Sys (s 1 7 8) 0x41 (sysCmd (b 1 7 8)) ∧ zeroFrom (b 1 7 8) 5 = true ∧ (s 1 7 8).fld (F.portMode 7) = 0 ∧
      ((s 1 7 8).portOf 7).lanes = [] ∧ isNext (exec (.restoreFactory 1) (s 1 7 8)) { setCmd (s 1 7 8) 0 1 0 (ends 0 0) with
        pow := { State.reset.pow with fieldCal := [((3, 55, 0), 2)] } } = true ∧
      Sys (s 3 55 0) 0x41 (sysCmd (b 3 55 0)) ∧ isNext (exec (.restoreFactory 1) (s 3 55 0)) { setCmd (s 3 55 0) 0 1 0 (ends 0 0) with
        pow := { State.reset.pow with fieldCal := [((1, 7, 8), 1)] } } = true ∧
      Sys (s 2 15 31) 0x41 (sysCmd (b 2 15 31)) ∧
      after (exec (.restoreFactory 1) (s 2 15 31)) (fun t => t.mem.retrain == [⟨15, 31, none, some (1, 0, 0)⟩]) = true := by decide +kernel

/-- Port 7 is UP, and its peer has been told CONFIG. -/
def upPort (x : PortSt) : State := { State.reset.setFld (F.portState 7) 4 with fab := { State.reset.fab with ports := [(7, x)] } }

theorem met_config : let s := upPort { PortSt.down with mismatch := 1, transition := some 3 }
    s.linksRun = true ∧ s.fld (F.portMode 7) = 0 ∧ s.fld (F.portState 7) = 4 ∧ (s.portOf 7).flagSent = false := by decide +kernel

theorem met_config_differs : let s := upPort { PortSt.down with flagSent := true }
    s.linksRun = true ∧ (s.portOf 7).flagSent = true ∧ (s.portOf 7).mismatch ≠ 1 ∧ s.flag F.trEnable = false := by decide +kernel

theorem met_graceExpiry : let s := { upPort { PortSt.down with flagSent := true, transition := some 0 } with
      time := { State.reset.time with ticks := 2 ^ 32 } }
    s.linksRun = true ∧ (s.portOf 7).transition = some 0 ∧ s.fld F.graceTicks < s.time.ticks - 0 ∧ (s.portOf 7).mismatch ≠ 3 ∧
      after (exec (.graceExpiry 7) s) (fun t => (t.portOf 7).mismatch == 3) = true := by decide +kernel
/-! ### The optical fabric -/

/-- Port 7 with trained lanes, and with a spare or none. -/
def trained (n : Nat) (spare : Option (Fin 9)) : State :=
  (upPort { PortSt.down with trained := true, lanes := ([0, 1, 2, 3, 4, 5, 6, 7] : List (Fin 9)).take n, spare := spare }).setFld (F.portWidth 7) n

theorem met_laneFailure : let s := trained 8 (some 8); let x := s.portOf 7
    s.linksRun = true ∧ s.flag F.trEnable = false ∧ s.fld (F.portMode 7) = 0 ∧ x.trained = true ∧ 7 ∉ x.failed ∧ 7 ∈ x.lanes ∧
      x.spare = some 8 ∧ s.laneFails 7 (.symbols (s.fld (F.serLimit 7))) = false ∧ s.laneFails 7 (.symbols (s.fld (F.serLimit 7) + 1)) = true ∧
      after (exec (.laneFailure 7 7 .lost) s) (fun t => (t.portOf 7).lanes == [0, 1, 2, 3, 4, 5, 6, 8] && (t.portOf 7).spare == none) = true := by
  decide +kernel

theorem met_laneFailure_width : let s := trained 8 none; let t := trained 4 none
    (s.portOf 7).spare = none ∧ (t.portOf 7).spare = none ∧ 4 ≤ (((s.portOf 7).lanes).filter (· ≠ 0)).length ∧
      (((t.portOf 7).lanes).filter (· ≠ 0)).length < 4 ∧
      after (exec (.laneFailure 7 0 .lost) s) (fun u => u.fld (F.portWidth 7) == 4 && u.fld (F.portState 7) == 4) = true ∧
      after (exec (.laneFailure 7 0 .lost) t) (fun u => u.fld (F.portWidth 7) == 0 && u.fld (F.portState 7) == 0) = true := by decide +kernel

/-- A lane past SER_LIMIT without a spare is reported once (R415). -/
theorem met_laneFailure_worn : let s := trained 8 none; let n := s.fld (F.serLimit 7) + 1
    s.linksRun = true ∧ s.flag F.trEnable = false ∧ (0 : Fin 9) ∉ (s.portOf 7).worn ∧
      after (exec (.laneFailure 7 0 (.symbols n)) s) (fun t => (t.portOf 7).worn == [0] && t.fld (F.portWidth 7) == 8 &&
        isNext (exec (.laneFailure 7 0 (.symbols n)) t) t) = true := by decide +kernel

theorem met_spillway : let s := { (upPort PortSt.down).setFlag (F.portBypass (evenPort 3)) true with
      fab := { State.reset.fab with moving := [(3, true)] } }
    s.linksRun = true ∧ pairOf 7 = 3 ∧ s.fab.moving.find? (fun m => m.1 == 3) = some (3, true) ∧ s.spillCause 3 = true ∧
      after (exec (.spillwaySwitch ⟨3, true, true⟩) s) (fun t => t.fab.closed == [3] && t.fab.moving == [] && t.fld (F.portState 7) == 0) = true := by
  decide +kernel

/-- A spillway opens where both engines have calibrated, and not else (R416). -/
theorem met_spillway_opens : let s := { State.reset.setFlag (F.portEnable 7) true with
      fab := { State.reset.fab with closed := [3], moving := [(3, false)], calibrated := [6] } }
    s.linksRun = true ∧ s.fab.moving.find? (fun m => m.1 == 3) = some (3, false) ∧ s.spillCause 3 = false ∧
      after (exec (.spillwaySwitch ⟨3, true, false⟩) s) (fun t => t.fab.closed == [3] && t.fab.moving == []) = true := by decide +kernel

theorem met_linkTraining : let s := State.reset.setFlag (F.portEnable 7) true; let u := s.setFld (F.portState 7) 2
    s.linksRun = true ∧ s.mayTrain 7 = true ∧ (s.portOf 7).trained = false ∧ (s.portOf 7).retryAt = false ∧ s.fld (F.portState 7) ≤ 1 ∧
      ([8, 7, 6, 5, 4, 3, 2, 1, 0] : List (Fin 9)).Nodup ∧ ([1, 2, 3] : List (Fin 9)).Nodup ∧
      isNext (exec (.linkTraining 7 [1, 2, 3]) s) u = true ∧ u.linksRun = true ∧ u.mayTrain 7 = true ∧ (u.portOf 7).trained = false ∧
      (u.portOf 7).retryAt = false ∧ u.fld (F.portState 7) = 2 ∧
      after (exec (.linkTraining 7 [1, 2, 3]) u) (fun t => t.fld (F.portState 7) == 0 && t.out == []) = true := by decide +kernel

/-- Port 7 in a state of its bring-up. -/
def port7 (state : Nat) (x : PortSt) : State := (upPort x).setFld (F.portState 7) state

theorem met_hello : let s := (port7 2 { PortSt.down with trained := true }).setFlag F.entropyFail true; let nonce : List Byte := List.replicate 32 9
    s.linksRun = true ∧ s.fld (F.portState 7) = 2 ∧ (s.portOf 7).trained = true ∧ nonce.length = 32 ∧
      after (exec (.hello 7 5 6 4 nonce) s) (fun t => t.fld (F.portState 7) == 3 && t.fld (F.peerDevice 7) == 5) = true := by decide +kernel

theorem met_reports : let s := port7 3 PortSt.down
    s.linksRun = true ∧ s.fld (F.portState 7) = 3 ∧ (s.portOf 7).keys = [] ∧ s.fld F.lcState = 2 ∧ (s.portOf 7).peerKey = none ∧
      s.acceptsReport (s.portOf 7) [] = false ∧ s.flag F.entropyFail = false ∧ (s.portOf 7).encapIn = none ∧
      after (exec (.keyAgreementTimeout 7) s) (fun t => t.fld (F.portState 7) == 0 && t.flag (F.attestFail 7)) = true := by decide +kernel

theorem met_encap : let ct : List Byte := List.replicate 1088 0; let s := port7 3 PortSt.down
    let t := port7 3 { PortSt.down with eseed := some 1, peerKey := some [], sealed := some (2, []) }
    s.linksRun = true ∧ ct.length = 1088 ∧ (s.portOf 7).sealed = none ∧ (t.portOf 7).encapIn = none ∧ (t.portOf 7).keys = [] ∧
      after (exec (.encap 7 ct) s) (fun u => (u.portOf 7).encapIn == some ct) = true := by decide +kernel

theorem met_attestRetry : let s := (port7 0 { PortSt.down with retryAt := true }).setFlag (F.portEnable 7) true
    s.linksRun = true ∧ (s.portOf 7).retryAt = true ∧ s.mayTrain 7 = true ∧
      after (exec (.attestRetry 7) s) (fun t => t.fld (F.portState 7) == 2 && !(t.portOf 7).retryAt) = true := by decide +kernel

theorem met_rekeys : let s := upPort { PortSt.down with txFrame := 2 ^ 31 + 1 }; let key : List Byte := List.replicate 1184 0
    s.linksRun = true ∧ s.fld (F.portMode 7) = 0 ∧ s.fld (F.portState 7) = 4 ∧ (s.portOf 7).rekeying = false ∧
      s.flag F.entropyFail = false ∧ (s.portOf 7).keyGen * 2 ^ 32 + 2 ^ 31 < max (s.portOf 7).txFrame (s.portOf 7).rxFrame ∧
      key.length = 1184 ∧ (s.portOf 7).peerKey = none ∧ (s.portOf 7).encapIn = none := by decide +kernel

theorem met_keyHold : let s := (upPort { PortSt.down with keys := [(0, (1, 2))] }).setFlag (F.keyHold 7) true
    s.linksRun = true ∧ s.flag (F.keyHold 7) = true ∧
      after (exec (.keyHoldTimeout 7) s) (fun t => t.fld (F.portState 7) == (if s.mayTrain 7 then 2 else 0) && (t.portOf 7).keys == []) = true := by decide +kernel

/-- A flit of a LINK-free type on channel 1. -/
def flitOf (good : Bool) (seq : BitVec 12) : Flit :=
  { vc := 1, som := true, eom := false, epoch := false, idle := false, type := 1, seq := seq, ack := 4095, nak := false, credit := 0
    creditVc := 0, frame := 0, length := 0, payload := [], good := good, tag := 0, corrected := 0 }

/-- A flit with the tag that the link's key gives it. -/
def tagged (x : PortSt) (f : Flit) : Flit :=
  { f with tag := BitVec.ofNat 128 (Config.gcmTag 2 ((upPort x).flitNonce 7 (fullFrame x.rxFrame f.frame.toNat)) (natBytes (headerOf f)) (natBytes f.payload)) }

/-- A link with keys of generation 0, about to take sequence number 4095. -/
def keyed : PortSt := { PortSt.down with rxSeq := 4095, credits := [9, 9, 9, 9], keys := [(0, (1, 2))] }

/-- A tag that the receiver's key gives checks, whatever the function of the tag is (R420). -/
theorem tagged_ok {seq : BitVec 12} : (upPort keyed).tagOk 7 (tagged keyed (flitOf true seq)) = true := by
  have hx : (upPort keyed).portOf 7 = keyed := by decide +kernel
  unfold State.tagOk
  rw [hx]
  have hk : AMap.find? keyed.keys (frameGen (fullFrame keyed.rxFrame (tagged keyed (flitOf true seq)).frame.toNat)) = some (1, 2) := by
    rw [show (tagged keyed (flitOf true seq)).frame = 0 from rfl]; decide +kernel
  have he : ((tagged keyed (flitOf true seq)).epoch == frameEpoch (fullFrame keyed.rxFrame (tagged keyed (flitOf true seq)).frame.toNat)) = true := by
    rw [show (tagged keyed (flitOf true seq)).frame = 0 from rfl, show (tagged keyed (flitOf true seq)).epoch = false from rfl]; decide +kernel
  dsimp only
  simp only [hk, he, Bool.true_and]
  exact beq_self_eq_true _

/-- A flit in order at the wrap of the sequence numbers, one that comes after a gap of one, and one whose FEC fails. -/
theorem met_flits : let s := upPort keyed
    s.linksRun = true ∧ s.fld (F.portMode 7) = 0 ∧ s.fld (F.portState 7) = 4 ∧ (s.portOf 7).nakked = false ∧ (s.portOf 7).wait = [] ∧
      (s.portOf 7).keys ≠ [] ∧ (flitOf true 4095).seq.toNat = (s.portOf 7).rxSeq ∧ 0 < ((flitOf true 0).seq.toNat + 4096 - 4095) % 4096 ∧
      after (exec (.flit 7 (flitOf false 0)) s) (fun t => t.fld (F.fecUncorr 7) == 1 && t.out == [.nak 7 4094]) = true := by decide +kernel

/-- A flit whose EPOCH is not that of its generation does not check (R421). -/
theorem met_flits_tag : let f := { flitOf true 4095 with epoch := true }; let s := upPort keyed; let t := upPort { keyed with tagFails := 16 }
    s.tagOk 7 f = false ∧ t.tagOk 7 f = false ∧
      after (exec (.flit 7 f) s) (fun u => (u.portOf 7).tagFails == 1 && u.out == [.nak 7 4094]) = true ∧
      after (exec (.flit 7 f) t) (fun u => u.fld (F.portState 7) == 0) = true := by decide +kernel

theorem met_retryTimeout : let s := upPort { PortSt.down with retry := [⟨some 3, 1, 1, true, true, []⟩], credits := [9, 9, 9, 9], keys := [(0, (1, 2))] }
    s.linksRun = true ∧ (s.portOf 7).retry ≠ [] := by decide +kernel

/-- A message from this module to itself, and one from device 9 to device 8. -/
def hdr (src dst : BitVec 16) : MsgHdr := { dst := dst, src := src, dstCtx := 0, srcCtx := 4, id := 77, hops := 0, step := 0, route := [0, 0, 0, 0] }

theorem met_duplicate : let s := { State.reset with fab := { State.reset.fab with peers := [(0, ⟨[(77, 5, 2, [])]⟩)] } }; let m := hdr 0 0
    s.linksRun = true ∧ s.flag F.trEnable = false ∧ m.dst.toNat = s.fld F.deviceId ∧
      ((s.fab.peers.getD 0 ⟨[]⟩).seen.find? (fun e => e.1 == m.id.toNat)) = some (77, 5, 2, []) ∧
      okWith (sendReply m 5 2 [] s) (fun _ _ => true) = true := by decide +kernel

/-- Window 0 of device 0, context 4: 256 bytes of context 0 at 0x5000, in a table at 0x4000 (R430). -/
def windows (s : State) : State :=
  let t := (mapped2 s).setFld ⟨.jlWtbase, 12, 45⟩ 4
  let w := t.setFld F.wtCount 1
  { w with mem := { w.mem with bytes := w.mem.bytes.writeList 0x40004000 <|
    (leBytes 1 7 ++ leBytes 1 0 ++ leBytes 2 0 ++ leBytes 2 4 ++ leBytes 2 0 ++ leBytes 8 (2 ^ 48) ++ leBytes 8 256 ++ leBytes 8 0) } }

theorem met_write : let s := windows State.reset; let m := hdr 0 0
    (s.fab.peers.getD 0 ⟨[]⟩).seen = [] ∧ okWith (findWindow m 0 255 1 true s) (fun r u => (match r with | .ok x => x == (0, 2 ^ 48) | .error _ => false) &&
      okWith (vaWrite 0 (2 ^ 48 + 255) [9] u) (fun _ _ => true) && okWith (vaRead 0 (2 ^ 48 + 255) 1 u) (fun _ _ => true)) = true ∧
    okWith (findWindow m 1 0 1 true s) (fun r _ => match r with | .ok _ => false | .error e => e == 1) = true := by decide +kernel

theorem met_signal : let s := State.reset; let m := hdr 0 0
    m.dstCtx.toNat = (0 : Ctx).val ∧ okWith (remoteSignal 0 4 0 3 1 5 false s) (fun _ u => okWith (sendReply m 5 0 [] u) (fun _ _ => true)) = true ∧
      after (exec (.trace 7 m 0) s) (fun t => (t.fab.peers.getD 0 ⟨[]⟩).seen == [(77, 0, 0, [])]) = true := by decide +kernel

/-- A request without an answer: a signal, and a READ of a DMA request. -/
def sentState (type : Nat) (resent : Bool) (eng : Option (DmaEng × Nat × Nat × Nat)) : State :=
  { dmaState (.core 0) { fillReq with waits := [9] } with
    fab := { State.reset.fab with sent := [⟨4, type, hdr 0 0, resent, eng, [], none⟩] } }

theorem met_replies : let s := sentState 2 false (some (.core 0, 31, 0, 0)); let m := hdr 0 0
    s.linksRun = true ∧ m.dst.toNat = s.fld F.deviceId ∧ m.src.toNat = s.fld F.deviceId ∧ (1 : Byte).toNat ≤ 5 ∧
      s.sentMsg 5 = none ∧ (s.sentMsg 4).map (·.hdr.dst) = some 0 ∧
      (s.sentMsg 4).bind (·.eng) = some (.core 0, 31, 0, 0) ∧ (s.sentMsg 4).map (·.type) = some 2 ∧
      isNext (exec (.readRsp 7 m 5 1 []) s) s = true ∧ isNext (exec (.ack 7 m 5 1) s) s = true ∧
      okWith (dataIn (.core 0) 31 0 0 9 (List.replicate 64 7) { s with fab := { s.fab with sent := [] } }) (fun _ _ => true) = true ∧
      okWith (writeDone (.core 0) 31 0 9 { s with fab := { s.fab with sent := [] } }) (fun _ _ => true) = true := by decide +kernel

theorem met_e2eTimeout : let s := sentState 4 true none
    s.linksRun = true ∧ (s.sentMsg 4).isSome ∧
      isNext (exec (.e2eTimeout 4) s) (State.bump { s.bump F.e2eFail with fab := { s.fab with sent := [] } } F.feSignalLost) = true := by
  decide +kernel

/-- A route table at 0x4000 whose entry for device 8 names a route (R425, R426). -/
theorem met_forward : let s := (upPort { PortSt.down with credits := [9, 9, 9, 9], keys := [(0, (1, 2))] }).setFld F.deviceId 3
    s.linksRun = true ∧ s.fld (F.portState 7) = 4 ∧ (hdr 9 8).dst.toNat ≠ s.fld F.deviceId ∧ routedType 1 = true ∧
      forwardStep s 7 (hdr 3 8) = none ∧ (forwardStep s 7 (hdr 9 8)).isSome ∧ s.trunkUp 6 = none ∧ s.trunkUp 7 = some 7 ∧
      isNext (exec (.routedForward 7 1 (hdr 3 8) []) s) (s.bump F.misroute) = true ∧
      isNext (exec (.routedForward 7 1 (hdr 9 8) []) s) (s.bump F.misroute) = true := by decide +kernel

theorem met_send : let s := queuePair 0 0; let t := queuePair 0x6000 1
    s.linksRun = true ∧ s.flag F.qpValid = true ∧
      okWith (vaRead 0 (s.qpAddr 0) 128 s) (fun b _ => recField b 0 1 == 1 && recField b 0x40 8 == 0) = true ∧
      okWith (vaRead 0 (t.qpAddr 0) 128 t) (fun b _ => recField b 0x40 8 == 0x6000 && recField b 0x4C 4 == 0 && recField b 0x50 4 == 1 &&
        recField b 0x48 1 == 0) = true ∧
      (s.qpEntry 0).any qpOk = true ∧ (t.qpEntry 0).any qpOk = true ∧ s.fld (F.portMode 0) ≠ 0 ∧ t.fab.rheads = [] := by decide +kernel

/-- An acknowledgement, or a request sent again, takes no PSN, and so is sent or held in any state. -/
theorem sendRoce_short {qp : Nat} {f : Roce} {s : State} (h : f.packets = 0) : ∃ t, sendRoce qp f s = .ok () t := by
  have ha : okWith (advancePsn qp f s) (fun _ _ => true) = true := by
    unfold advancePsn
    rw [run_bind_ok (run_get s)]
    cases s.qpEntry qp with
    | none => rfl
    | some b => dsimp only; rw [if_pos h]; rfl
  have hs := sendRoce_ok ha
  cases hr : sendRoce qp f s with
  | ok a t => exact ⟨t, rfl⟩
  | error e t => rw [hr] at hs; cases hs

theorem met_qpTimeouts : let s := (queuePair 0 0).setFld (F.drainState 0) 2
    s.linksRun = true ∧ s.qpBusy 0 = true ∧ s.fab.qpRetry.getD 0 0 < 7 ∧ s.shardsOn 0 = [] ∧ s.mem.selfRefresh = [] ∧ s.cxl.held = [] ∧
      okWith (vaRead 0 (s.qpAddr 0) 128 s) (fun b _ => recField b 0x3B 1 % 8 == 7) = true ∧
      Roce.retry.packets = 0 := by decide +kernel

theorem met_ethernet : let s := (State.reset.setFlag (F.portEnable 7) true).setFld (F.portMode 7) 1
    let t := (s.setFld (F.portState 7) 5).setFld (F.portSubUp 7) 1
    s.linksRun = true ∧ pairOf 7 ∉ s.fab.closed ∧ s.fab.moving = [] ∧ s.fld F.lcState ≠ 4 ∧ s.fld (F.portSubUp 7) = 0 ∧
      t.fld (F.portState 7) = 5 ∧ t.fld (F.portSubUp 7) = 1 ∧ t.fld (F.portMode 7) = 1 ∧
      after (exec (.ethLinkUp 7 0) s) (fun u => u.fld (F.portState 7) == 5 && u.fld (F.portWidth 7) == 8) = true ∧
      after (exec (.ethLinkDown 7 0) t) (fun u => u.fld (F.portState 7) == 0) = true ∧
      after (exec (.pfcPause 7 2 true) t) (fun u => (u.portOf 7).paused == [2]) = true := by decide +kernel

/-! ### The host attachment -/

/-- The window admits its first segment under slot 1025, whose DPAs start at 0. -/
def hdmState : State := (((State.reset.setFld F.hdmSize 1).setFlag F.hdmValid true).setFlag (F.segValid 0) true).setFld (F.segSlot 0) 1025

theorem met_hostMem : let s := { hdmState with cxl := { State.reset.cxl with hdm := (0, 2 ^ 28, true) } }
    s.works = true ∧ s.windowSlot 0x1000 64 = some (1025, 0x1000) ∧ s.windowSlot (2 ^ 28) 1 = none ∧
      after (exec (.hostMemAccess 0x1000 none 64) s) (fun t => t.cxl.held == [64] && t.out == [.hostReply (List.replicate 64 0) false]) = true ∧
      after (exec (.hostMemAccess 0x1001 (some [5]) 0) s) (fun t => t.mem.bytes == [(0x1001, 5)]) = true ∧
      isNext (exec (.hostMemAccess (2 ^ 28) (some [5]) 0) s) (s.bump F.hdmErr) = true := by decide +kernel

theorem met_hostLines : let s := { State.reset with cxl := { State.reset.cxl with held := [3, 4], coh := [((0, 5), (true, [1])), ((0, 6), (true, [2]))] } }
    s.works = true ∧ after (exec (.backInvalidate 3) s) (fun t => t.cxl.held == [4] && t.out == [.snoop 3]) = true ∧
      after (exec (.hostSnoop 5) s) (fun t => t.cxl.coh == [((0, 6), (true, [2]))] && t.out == [.hostWrite 0 320 [1]]) = true ∧
      s.cxl.reqs = [] ∧ after (exec (.atsInvalidation 0) s) (fun t => t.cxl.ats == []) = true := by decide +kernel

theorem met_hdmValid : let v : W64 := 1 + 2 ^ 32; let s := State.reset; let t := s.checkedWrite .cxHdm .full v (fun _ _ => true)
    s.works = true ∧ s.flag F.hdmValid = false ∧ (t.flag F.hdmValid = true ∨ t.flag F.hdmValid = false) ∧
      after (exec (.hdmDecoderCommit 0 (2 ^ 28)) s) (fun u => u.cxl.hdm.1 == 0) = true := by decide +kernel

/-- A core whose load waits for host request 3. -/
theorem met_hostPoison : let k := { onQueue1 0 with gl := [⟨.s 3 0, false, some 3, 0x1000, 0⟩], pend := [0, 1, 0, 0, 0] }
    let r : HostReq := ⟨3, 0, 0x10000, 8, [], .load 0⟩
    let s := { withCmd (at0 k) kernelCmd with cxl := { State.reset.cxl with reqs := [r] } }
    s.works = true ∧ s.cxl.reqs.find? (fun r => r.id == 3) = some r ∧ s.jobs = [] ∧ k.stage = none ∧
      s.cmdOf 0 1 0 = some kernelCmd ∧ r.use.aperture = true ∧
      okWith (apertureData r (List.replicate r.answer 0) { s with cxl := { s.cxl with reqs := [] } }) (fun _ _ => true) = true ∧
      sysEnds (exec (.hostRequestCompletion 3 .poison) s) ⟨5, 0x91, some (0, 0x1000)⟩ = true := by decide +kernel

theorem met_hostDma : let r : HostReq := ⟨4, 0, 0x10000, 64, [], .dmaRead (.core 0) 31 0 0⟩
    let s := { dmaState (.core 0) { fillReq with waits := [8] } with cxl := { State.reset.cxl with reqs := [r] } }
    s.cxl.reqs.find? (fun r => r.id == 4) = some r ∧
      okWith (dataIn (.core 0) 31 0 0 8 (List.replicate 64 7) { s with cxl := { s.cxl with reqs := [] } }) (fun _ _ => true) = true := by
  decide +kernel

theorem met_cxl : let s := State.reset
    s.works = true ∧ after (exec (.cxlLinkTrained 8 6) s) (fun t => t.fld F.cxWidth == 8 && !t.flag F.cxDegraded) = true ∧
      after (exec (.cxlLinkTrained 8 5) s) (fun t => t.flag F.cxDegraded) = true ∧
      after (exec (.numvfsWrite 1024) s) (fun t => t.cxl.numVfs == 1024) = true ∧
      (doeProtocols[2]?).isSome ∧ doeProtocols[3]? = none := by decide +kernel

theorem met_flr : let s := { tenant State.reset .absent with cxl := { State.reset.cxl with numVfs := 1024, vecs := [((1024, 1), ⟨false, false, false⟩)] } }
    s.works = true ∧ (1024 : Ctx).val ≤ s.cxl.numVfs ∧ s.jobs = [] ∧ s.queues = [] ∧ s.ctxLive 1024 = true := by decide +kernel

theorem met_uio : let s := { State.reset with cxl := { State.reset.cxl with uio := [⟨3⟩] } }
    s.works = true ∧ okWith (findPeer 9 s) (fun r _ => r == none) = true ∧
      isNext (exec (.uioSignal 1 true (leBytes 2 9)) s) (s.bump F.uioReject) = true ∧
      isNext (exec (.uioCompletion 3 true) s) State.reset = true ∧
      isNext (exec (.uioCompletion 3 false) s) (State.reset.bump F.feSignalLost) = true := by decide +kernel

/-- A peer table of one entry at 0x4000: device 9, requester 5 (R455). -/
theorem met_uioSignal : let t := (mapped2 State.reset).setFlag F.peerValid true
    let w := (t.setFld ⟨.cxPeerbase, 12, 45⟩ 4).setFld F.peerCount 1
    let s := { w with mem := { w.mem with bytes := w.mem.bytes.writeList 0x40004000 <|
      (leBytes 2 9 ++ leBytes 2 5 ++ leBytes 4 1 ++ leBytes 8 0x8000) } }
    okWith (findPeer 9 s) (fun r _ => r.isSome) = true := by decide +kernel
/-! ### Security -/

theorem met_seRegister : let b : List Byte := leBytes 2 0x30 ++ [31, 3] ++ leBytes 4 0 ++ leBytes 32 77; let s := sysState State.reset b
    s.sec.lcJob = none ∧ Sys s 0x30 (sysCmd b) ∧ recField b 2 1 = (31 : Fin 32).val ∧ recField b 3 1 ≤ 3 ∧ recField b 4 4 = 0 ∧
      zeroFrom b 0x28 = true ∧ sysEnds (exec (.seRegister 1) s) ⟨0, 0, none⟩ = true ∧
      after (exec (.seRegister 1) s) (fun t => t.sec.registry == [(31, (3, 77))] && t.fld F.regUsed == 2 ^ 31) = true := by decide +kernel

theorem met_seSetLeave : let b : List Byte := leBytes 2 0x32 ++ [15]
    let s := { sysState State.reset b with sec := { State.reset.sec with sets := [(15, (9, 8))] } }
    s.sec.lcJob = none ∧ Sys s 0x32 (sysCmd b) ∧ recField b 2 1 = (15 : Fin 16).val ∧ zeroFrom b 3 = true ∧
      s.sec.sets.find? 15 = some (9, 8) ∧ s.setBusy 9 = false ∧
      after (exec (.seSetLeave 1) s) (fun t => t.sec.sets == []) = true := by decide +kernel

/-- SE_LC whose writes are done: from DEPLOYED to DECOMMISSIONED. -/
theorem met_seLc : let b : List Byte := leBytes 2 0x34
    let s := { sysState State.reset b with sec := { State.reset.sec with lcJob := some ⟨(1, 0), 3, 0, 0, []⟩ } }
    s.works = true ∧ s.sec.lcJob = some ⟨(1, 0), 3, 0, 0, []⟩ ∧
      ({ s with queues := [] } : State).sysCmd (1, 0) = none ∧
      after (exec (.seLc 1) { s with queues := [] }) (fun t => t.fld F.lcState == 3 && t.sec.lcRows == 3 && t.pow.booting &&
        !t.flag F.pwReady) = true := by decide +kernel

theorem met_entropy : let s := { State.reset.setFlag F.entropyFail true with sec := { State.reset.sec with rekeyWait := [1025] } }
    s.works = true ∧ s.flag F.entropyFail = true ∧ s.sec.joinWait = [] ∧ s.sec.rekeyWait = [1025] ∧ (∀ p, s.fld (F.portState p) ≠ 3) ∧
      after (exec .entropyRecovery s) (fun t => t.sec.rekeyWait == [] && !t.flag F.entropyFail) = true ∧
      isNext (exec .entropyFail State.reset) (State.reset.setFlag F.entropyFail true) = true := by decide +kernel

/-! ### Firmware, power and start-up -/

/-- Each request is refused or not, at reset and where QUIET or a park has been asked for. -/
theorem met_power : let s := State.reset; let quiet := s.setFld F.pwReqMode 1; let parked := s.setFld F.pwReqPark 2
    s.flag F.pwReady = true ∧ s.rep.moduleFault = false ∧ s.asksPw .full 1 = (1, 0) ∧ s.pwRefusal 1 0 = none ∧
      s.asksPw .lo 0x10 = (0, 1) ∧ parkChange 0 1 true ≠ [] ∧ s.pwRefusal 0 1 = some 3 ∧
      quiet.asksPw .full 0 = (0, 0) ∧ quiet.fld F.pwReqMode = 1 ∧ quiet.pwRefusal 0 0 = none ∧
      parked.asksPw .full 0 = (0, 0) ∧ parkChange 2 0 false ≠ [] ∧ parked.pwRefusal 0 0 = none ∧
      s.asksPw .full 0x20 = (0, 2) ∧ parkChange 0 2 true ≠ [] ∧ s.pwRefusal 0 2 = none ∧
      after (exec (.activeToQuiet .full 1) s) (fun t => t.pow.trans == some .toQuiet && t.flag F.pwBusy) = true ∧
      after (exec (.quietToActive .full 0) quiet) (fun t => t.pow.trans == some .toActive) = true ∧
      after (exec (.park .lo 0x10) s) (fun t => t.flag F.pwReject && t.fld F.pwReason == 3 && t.pow.trans == none) = true ∧
      after (exec (.park .full 0x20) s) (fun t => t.pow.trans == some (.park 1)) = true ∧
      after (exec (.unpark .full 0) parked) (fun t => t.pow.trans == some (.unpark 1)) = true := by decide +kernel

theorem met_transitions : let s (tr : PwTrans) := { State.reset with pow := { State.reset.pow with trans := some tr, transTick := true } }
    (s .toQuiet).quietReady = true ∧ (s (.park 3)).parkReady 3 = true ∧ (∀ j ∈ (s (.unpark 3)).mem.selfRefresh, onStackOf 3 j.val = false) ∧
      after (exec .powerTransitionComplete (s .toQuiet)) (fun t => t.fld F.pwMode == 1 && t.pow.trans == none) = true ∧
      after (exec .powerTransitionComplete (s .toActive)) (fun t => t.fld F.pwMode == 0) = true ∧
      after (exec .powerTransitionComplete (s (.park 3))) (fun t => t.fld F.pwParked == 8 && t.mem.selfRefresh == [12, 13, 14, 15]) = true ∧
      after (exec .powerTransitionComplete (s (.unpark 3))) (fun t => t.fld F.pwParked == 0) = true := by decide +kernel

/-- 56 readings: sensor 3 as given, 54 V at the input, and everything else at 40. -/
def sensors (hot volts : Int) : List Int := List.replicate 3 640 ++ [hot] ++ List.replicate 50 640 ++ [volts, 640]

theorem met_control : let s := State.reset.setFld F.capPace 60; let ok := sensors 640 864; let hot := sensors (s.threshold 3) 864
    let boil := sensors (s.tripAt 3) 864
    s.works = true ∧ ok.length = 56 ∧ hot.length = 56 ∧ s.flag F.pwInputLow = false ∧ 768 ≤ nthD ok 54 0 ∧
      (∀ i < 32, nthD ok i 0 < s.threshold i) ∧ s.pow.throttleBy = none ∧ s.threshold 3 ≤ nthD hot 3 0 ∧ s.fld F.capW = 3000 ∧
      s.flag F.trEnable = false ∧ s.trips ok = false ∧ s.trips hot = false ∧ boil.length = 56 ∧ s.tripAt 3 ≤ nthD boil 3 0 ∧
      after (exec (.controlInterval 2939 2939 boil) s) (fun t => t.pins.thermtrip && !t.works && t.fab.closed.length == 8) = true ∧
      after (exec (.controlInterval 2939 2939 ok) s) (fun t => t.fld F.capPace == 61 && t.fld F.pace == 61) = true ∧
      after (exec (.controlInterval 2940 2940 ok) s) (fun t => t.fld F.capPace == 60) = true ∧
      after (exec (.controlInterval 2939 2939 hot) s) (fun t => t.fld F.throttlePace == 56 && t.flag F.pwThrottle && t.fld F.pace == 56) = true ∧
      isNext (exec (.inputLow 767 1000) s) (s.setFlag F.pwInputLow true) = true ∧
      after (exec (.thermalTrip 31) s) (fun t => t.pins.thermtrip && !t.works && t.fab.closed.length == 8) = true := by decide +kernel

theorem met_input : let s := { State.reset with mem := { State.reset.mem with bytes := [(5, 6)] } }
    let held := { State.reset with pins := { State.reset.pins with perst := true } }
    let off := { State.reset with pow := { State.reset.pow with powered := false } }
    s.pins.perst = false ∧ s.pow.powered = true ∧ s.sec.lcJob = none ∧ held.pins.perst = true ∧ off.pow.powered = false ∧
      after (exec .perstAssert s) (fun t => t.pins.perst && t.mem.bytes == [] && !t.flag F.pwReady) = true ∧
      after (exec (.perstDeassert 0xABC) held) (fun t => !t.pins.perst && t.fld F.deviceId == 0xABC && t.pow.booting) = true ∧
      after (exec .powerRemoval s) (fun t => t.mem.bytes == [] && !t.pow.powered && !t.pins.pwrGood) = true ∧
      after (exec .powerApply off) (fun t => t.pow.powered && t.pins.pwrGood) = true := by decide +kernel

/-- Start-up stands in a stage. -/
def booting (n : Nat) : State :=
  { (State.reset.setFlag F.pwReady false).setFld F.bootStage n with pow := { State.reset.pow with booting := true } }

theorem met_stages : (∀ n ∈ [0, 1, 5, 7], (booting n).pow.booting = true ∧ (booting n).unstopped = true ∧ (booting n).fld F.bootStage = n) ∧
    (booting 7).fld F.tkState ≤ 2 ∧
    after (exec (.startUpStage .ok) (booting 5)) (fun t => t.fld F.bootStage == 6) = true ∧
    after (exec (.startUpStage .hbmFail) (booting 5)) (fun t => t.fld F.bootStage == 15 && t.fld F.bootError == 3 && t.pins.alert) = true := by
  decide +kernel

/-- WIPE_BIST finds three columns of core 383 faulty (R12). -/
theorem met_found : let s := booting 1; let cols : List (Fin 66) := [0, 1, 65]
    s.pow.booting = true ∧ s.unstopped = true ∧ s.fld F.bootStage = 1 ∧ s.flag F.pwReady = false ∧
      (∀ i : CoreId, s.coreFit (s.physOf (clusterOf i) (i.val % 8)) = true) ∧ s.rep.marked = [] ∧ s.rep.markedClusters = [] ∧
      s.rep.retiredClusters = [] ∧ 48 ≤ widthOf cols.eraseDups.length ∧
      after (exec (.startUpStage (.found [.array 3 11 7 cols])) s) (fun t => t.fld F.bootStage == 2 && t.fld (F.mxWidth 383) == 62 &&
        t.fld (F.mxFaulty 383) == 3 && t.fld (F.mxWidth 382) == 64) = true := by decide +kernel

theorem met_image : let s := booting 2; let t := { s with cxl := { s.cxl with fwHeld := [1, 2] } }
    s.unstopped = true ∧ s.pow.powered = true ∧ s.pins.perst = false ∧ s.pow.booting = true ∧ s.fld F.bootStage = 2 ∧ s.cxl.fwHeld = [] ∧
      s.fld F.lcState = 2 ∧ s.pow.peerFetch = none ∧ s.fld (F.portState 0) ≠ 4 ∧ s.fld (F.portState 1) ≠ 4 ∧
      State.reset.fld F.bootStage ≠ 2 ∧ (t.cxl.fwHeld ++ [3]).length < 0x20 ∧
      (t.cxl.fwHeld ++ [3]).length < imageLength (t.cxl.fwHeld ++ [3]) ∧
      after (exec (.fwImage 2 [3]) t) (fun u => u.cxl.fwHeld == [1, 2, 3] && u.out == [.doe (leBytes 4 0 ++ leBytes 8 3)]) = true ∧
      after (exec (.fwImage 1 [3]) t) (fun u => u.cxl.fwHeld == [1, 2] && u.out == [.doe (leBytes 4 2 ++ leBytes 8 2)]) = true ∧
      after (exec (.fwImage 0 []) State.reset) (fun u => u.out == [.doe (leBytes 4 1 ++ leBytes 8 0)]) = true ∧
      after (exec .peerFetchTimeout s) (fun u => u.pow.peerFetch == some []) = true := by decide +kernel

theorem met_management : let s := State.reset.setFld F.bootStage 8
    4 ≤ s.fld F.bootStage ∧ s.fld F.bootStage ≤ 8 ∧ s.unstopped = true ∧
      after (exec (.mctpMessage (.setEffecter 1250)) s) (fun t => t.fld F.capW == 1250) = true ∧
      isNext (exec (.mctpMessage (.setEffecter 1225)) s) s = true := by decide +kernel

/-! ### Registers -/

theorem met_registerWrite : accessHalf 0x100008 16 = none ∧ accessHalf 0x100004 64 = none ∧ accessHalf 0x10000C 32 = some .hi ∧
    regAt .pf0 0x28 = none ∧ regAt .pf0 0x20000 = some .feCtrl ∧ regAt .pf0 0x10000 = some .tkCtrl ∧
    isNext (exec (.registerWrite .pf0 0x28 64 5) State.reset) State.reset = true ∧
    isNext (exec (.registerWrite .pf0 0x100008 16 5) State.reset) { State.reset with out := [.unsupported] } = true ∧
    after (exec (.registerWrite .pf0 0x20000 32 9) State.reset) (fun t => t.fld F.feWaitTicks == 9 || t.fld F.feWaitTicks == 64) = true := by
  decide +kernel

theorem met_registerRead : let s := State.reset; let reads (off bits : Nat) (b : W64) := okWith (readAccess .pf0 off bits s) (fun _ t => t.out == [.readData b])
    accessHalf 0x28 64 = some .full ∧ s.pageGone .feCtrl = false ∧ s.answersRead .feCtrl = true ∧ Reg.latch .feCtrl = none ∧
      reads 0x28 64 0 = true ∧ reads 0x20000 64 (s.reg .feCtrl) = true ∧ reads 0x20004 32 (halfRead .hi (s.reg .feCtrl)) = true ∧
      okWith (readAccess .pf0 0x20000 16 s) (fun _ t => t.out == [.unsupported]) = true := by decide +kernel

/-- A BF16 cache of 64 KiB pages; and a model instance that is enabled. -/
theorem met_enables : let on : W64 := 1 + 10 * 2 ^ 24 + 20 * 2 ^ 32; let s := State.reset; let t := s.setFlag (F.mEnable 3) true
    let c := s.setFlag (F.kvEnable 3) true
    bitOf (Reg.written (.kvInst 3) (s.reg (.kvInst 3)) .full (halfPlace .full on)) 0 = true ∧ bitOf (s.reg (.kvInst 3)) 0 = false ∧
      bitOf (c.reg (.kvInst 3)) 0 = true ∧ (∀ j, c.fld (F.poolPages j 3) = 0) ∧
      after (exec (.kvInstEnable 3 .full on) s) (fun u => u.flag (F.kvEnable 3) == u.kvCanEnable 3) = true ∧
      after (exec (.kvInstEnable 3 .full 0) c) (fun u => !u.flag (F.kvEnable 3)) = true ∧
      s.flag (F.mEnable 3) = false ∧ t.flag (F.mEnable 3) = true ∧
      okWith (enabledPlan 3 (s.checkedWrite (.ssModelCfg 3) .full 1 (modelCfgOk false))) (fun r _ => r.isNone) = true ∧
      after (exec (.ssModelEnable 3 .full 1) s) (fun u => !u.flag (F.mEnable 3)) = true ∧
      after (exec (.ssModelEnable 3 .full 0) t) (fun u => !u.flag (F.mEnable 3)) = true := by decide +kernel

theorem met_portCfg : let s := (upPort PortSt.down).setFlag (F.portEnable 7) true
    let t := s.checkedWrite (.jlPortCfg 7) .full 0 (portCfgOk 7 true)
    s.flag (F.portEnable 7) = true ∧ t.flag (F.portEnable 7) = false ∧
      after (exec (.jlPortCfgWrite 7 .full 0) s) (fun u => u.fld (F.portState 7) == 0) = true := by decide +kernel

theorem met_trmark : let s := State.reset
    s.flag F.trEnable = false ∧ s.flag F.trmarkSend = false ∧
      okWith (trace (some 3) 9 (Config.traceDie s.seed % 4) 0 0 5 (s.fld F.deviceId) { s with seed := 1 }) (fun _ _ => true) = true ∧
      after (exec (.obTrmarkWrite .lo 5) s) (fun t => t.obs.markLow == 5) = true := by decide +kernel

theorem met_latches : let s := State.reset
    s.latchReach .pf0 (.ctxCnt 0 15) = true ∧ s.latchReach .pf0 .time = true ∧
      okWith (liveValue .pf0 (.ctxCnt 0 15) s) (fun v _ => v == 0) = true ∧
      after (exec (.lowHalfReadLatch .pf0 (.ctxCnt 0 15)) s) (fun t => t.out == [.readData 0] && t.time.latches.length == 1) = true := by
  decide +kernel

/-! ### Time -/

theorem quiet_reset : Silent State.reset := ⟨by decide +kernel, by decide +kernel⟩

theorem still_reset : Still State.reset :=
  ⟨by decide +kernel, quiet_reset, by decide +kernel, rfl, by decide +kernel, fun p h r n => by cases List.mem_singleton.mp h; nofun, rfl, rfl, rfl, rfl,
    rfl, rfl, by decide +kernel, by decide +kernel⟩

theorem met_ticks : let s := State.reset; let u := s.setFld F.tkPhaseSrc 1; let v := s.setFld F.tkPhaseSrc 2
    s.stepNo + s.time.pendAdvance + 1 < 2 ^ 48 ∧ s.nextTickAt < 2 ^ 63 ∧ u.fld F.tkPhaseSrc = 1 ∧ v.fld F.tkPhaseSrc = 2 ∧
      v.fld F.tkTime ≤ (5 : BitVec 64).toNat ∧ (5 : BitVec 64).toNat < v.nextTickAt ∧ v.fld F.tkPpsSeconds * 10 ^ 9 < (5 : BitVec 64).toNat ∧
      isNext (exec (.tickInEdge 1001) u) (u.setFlag F.tkTickInMiss true) = true ∧
      isNext (exec (.ppsInEdge 5) v) (((v.setFld F.tkTime 5).setFlag F.tkPpsFault true).setFld F.tkPpsSeconds 1) = true ∧
      after (exec (.ppsInEdge 5) (v.setFld F.tkPpsSeconds 1)) (fun t => t.fld F.tkTime == 10 ^ 9 && t.fld F.tkPpsSeconds == 2 &&
        t.time.ppsLocked && t.flag F.tkJumped) = true ∧
      s.time.marks = 0 ∧ after (exec (.deadlineMark false) s) (fun t => t.fld F.tkTime == 10000000 && t.time.marks == 1) = true := by
  decide +kernel

/-- A second is over far from its mark, and only PPS_FAULT is set (R51). -/
theorem met_ppsFar : let s := State.reset.setFld F.tkPhaseSrc 2; let v := { s with time := { s.time with ppsLocked := true } }
    1000 < min ((5001 : BitVec 64).toNat % 10 ^ 9) (10 ^ 9 - (5001 : BitVec 64).toNat % 10 ^ 9) ∧
      isNext (exec (.ppsInEdge 5001) v) ((v.setFld F.tkTime 5001).setFlag F.tkPpsFault true) = true := by decide +kernel

/-- A step with a stage of 30 ms is not projected to fit at the 80 % mark, and only OVERRUN is enabled (R352). -/
theorem met_mark_overrun : let m : ModelSt := { ModelSt.idle with
      plan := [⟨0x3000, 0x4000, 2, 30000000, 0, 0, 0⟩], stepOpen := true, step := 3, planTime := 30000000 * 1024 }
    let s := (State.reset.setFld (F.mPolicy 7) 0b100000).setFlag (F.mEnable 7) true
    let u := { s with sched := { s.sched with models := [(7, m)] }, time := { s.time with marks := 1 } }
    u.works = true ∧ u.flag F.trEnable = false ∧ u.time.marks = 1 ∧ (u.modelOf 7).stepOpen = true ∧
      u.fits 7 (u.time.tickTime + u.fld F.tkMark80 * 1000 - (u.modelOf 7).startTime) (u.modelOf 7) = false ∧ (u.modelOf 7).declared = false ∧
      bitOf (u.fld (F.mPolicy 7)) 1 = false ∧ bitOf (u.fld (F.mPolicy 7)) 3 = false ∧ bitOf (u.fld (F.mPolicy 7)) 5 = true ∧
      after (exec (.deadlineMark true) u) (fun t => (t.modelOf 7).declared && (t.modelOf 7).skipBuild && t.fld (F.mDeclared 7) == 1) = true := by
  decide +kernel

theorem met_expiries : let s := { State.reset.setFld F.tkState 3 with time := { State.reset.time with missed := 8 } }
    let t := State.reset.setFld F.tkState 5
    s.works = true ∧ s.fld F.tkState = 3 ∧ s.fld F.tkHoldoverTicks ≤ s.time.missed ∧ t.fld F.tkState = 5 ∧ t.time.masterPort = none ∧ t.linksSettled = true ∧
      after (exec .holdoverExpiry s) (fun u => u.ownTick && u.time.missed == 0) = true ∧
      after (exec .acquireTimeout t) (fun u => u.ownTick) = true := by decide +kernel

/-- TK_CTRL keeps a PHASE_SRC of 0b11 out; a period change is armed from eight steps ahead; an advance of 0 is none. -/
theorem met_tkWrites : let s := State.reset; let f := s.setFld F.tkState 2; let v : W64 := 500 + 8 * 2 ^ 18
    s.ownTick = true ∧ f.ownTick = false ∧ s.fld F.tkHoldoverTicks ≠ 0 ∧
      after (exec (.tkCtrlWrite .full 0x300) s) (fun t => t.fld F.tkPhaseSrc == 0 && t.fld F.tkHoldoverTicks == 8) = true ∧
      isNext (exec (.tkAdvanceWrite .full 0) s) s = true ∧ isNext (exec (.tkAdvanceWrite .hi 5) s) s = true ∧
      isNext (exec (.tkAdvanceWrite .lo 0xFFFFFFFF) f) f = true ∧
      isNext (exec (.tkAdvanceWrite .lo 0) f) (f.setFlag F.tkAdvanceReject true) = true ∧
      after (exec (.tkAdvanceWrite .lo 7) s) (fun t => t.time.pendAdvance == 7) = true ∧
      after (exec (.tkPeriodStepWrite .full v) s) (fun t => t.time.pendPeriod.isSome != t.flag F.tkPeriodReject) = true := by decide +kernel

/-- The module itself as master, a worse master, and a better one. -/
def beaconOf (id : BitVec 16) (prio : BitVec 8) : Beacon :=
  { step := 1, tickTime := 0, masterId := id, priority := prio, hops := 255, period := 20000, nextPeriod := 0, nextStep := 0, digest := 0
    epoch := 0, pathPs := 0 }

theorem met_beacons : let s := upPort PortSt.down
    s.works = true ∧ s.fld (F.portMode 7) = 0 ∧ s.fld (F.portState 7) = 4 ∧ (0 : BitVec 16).toNat = s.fld F.deviceId ∧
      (5 : BitVec 16).toNat ≠ s.fld F.deviceId ∧ s.time.adopted = none ∧ s.time.conflictWith = none ∧ s.ownTick = true ∧
      isNext (exec (.beacon 7 (beaconOf 0 1)) s) s = true ∧
      masterBetter (masterOf (beaconOf 5 255)) (254, 0) = true ∧ masterBetter (masterOf (beaconOf 5 1)) (2, 0) = false ∧
      masterBetter (masterOf (beaconOf 5 2)) (2, 4) = false := by decide +kernel

theorem met_delays : let s := port7 3 { PortSt.down with keys := [(0, (1, 2))] }; let x := { PortSt.down with keys := [(0, (1, 2))], delayReq := some 100 }
    s.works = true ∧ s.fld (F.portState 7) = 3 ∧ (s.portOf 7).keys ≠ [] ∧ ((port7 3 x).portOf 7).delayReq = some 100 ∧
      after (exec (.delayRsp 7 150 160 210) (port7 3 x)) (fun t => t.fld (F.delayPs 7) == 500 && t.fld (F.portState 7) == 4) = true ∧
      after (exec (.delayRsp 7 150 160 210) (upPort x)) (fun t => t.fld (F.delayPs 7) == 500) = true := by decide +kernel

/-! ### The block as a whole -/

theorem met_step : let s := { State.reset with pending := [.thermalTrip 31, .powerApply] }
    after (step s) (fun t => t.pending == [.powerApply] && t.flag F.pwTripped) = true ∧ isNext (step State.reset) State.reset = true := by
  decide +kernel

/-- Two steps of a run from a state whose memories have their form. -/
theorem met_reaches : memoriesWf State.reset ∧ Reaches State.reset State.reset :=
  ⟨by unfold memoriesWf; decide +kernel, .tail (.refl _) rfl⟩

/-! ### Well-formedness: each check refuses an ill-formed term -/

theorem wf_cores : Instr.wf (.kernel 0 1 [3, 5, 3]) = false ∧ Instr.wf (.stageStart 0 [1, 1]) = false ∧ Instr.wf (.kernel 0 1 [3, 5]) = true := by decide
theorem wf_beacon : Instr.wf (.beacon 0 (beaconOf 1 0)) = false ∧ Instr.wf (.beacon 0 { beaconOf 1 1 with period := 499 }) = false ∧
    Instr.wf (.beacon 0 (beaconOf 1 1)) = true := by decide
theorem wf_keys : Instr.wf (.hello 0 1 1 1 [0]) = false ∧ Instr.wf (.encap 0 []) = false ∧ Instr.wf (.rekey 0 []) = false ∧
    Instr.wf (.attest []) = false := by decide
theorem wf_flit : let f := { flitOf true 0 with length := 2, payload := List.replicate 224 0 }
    Flit.wf f = true ∧ Flit.wf (flitOf true 0) = false ∧ Flit.wf { f with idle := true } = false ∧
      Flit.wf { f with idle := true, length := 0 } = true ∧ Flit.wf { f with length := 225 } = false := by decide +kernel
theorem wf_route : MsgHdr.wf { hdr 0 0 with route := [1] } = false ∧ MsgHdr.wf (hdr 0 0) = true := by decide
theorem wf_data : Instr.wf (.write 0 (hdr 0 0) 0 0 []) = false ∧ Instr.wf (.read 0 (hdr 0 0) 0 0 4097) = false ∧
    Instr.wf (.read 0 (hdr 0 0) 0 0 4096) = true := by decide
theorem wf_lists : Instr.wf (.linkTraining 0 [1, 1]) = false ∧ Instr.wf (.controlInterval 0 0 []) = false ∧
    Instr.wf (.numvfsWrite 1025) = false := by decide
theorem wf_access : Instr.wf (.hostMemAccess 63 none 2) = false ∧ Instr.wf (.hostMemAccess 0 (some [1]) 2) = false ∧
    Instr.wf (.registerWrite .pf0 0 16 0) = false ∧ Instr.wf (.registerWrite .pf0 0 32 0) = true := by decide

end Sys2Proof.Tests
end

section
/-! SUPPORT. What the module holds at reset, by register. -/

namespace Sys2Proof.Machine

/-- No register has been written at reset: each holds the value of its table (R7). -/
theorem reg_reset (r : Reg) : State.reset.reg r = r.reset % 2 ^ 64 := BitVec.toNat_ofNat r.reset 64

theorem fld_reset (f : Fld) : State.reset.fld f = bitsOf (f.reg.reset % 2 ^ 64) f.lo f.width := by
  rw [State.fld, reg_reset]

theorem flag_reset (f : Fld) : State.reset.flag f = (bitsOf (f.reg.reset % 2 ^ 64) f.lo f.width == 1) := by
  rw [State.flag, fld_reset]

theorem works_reset : State.reset.works = true := by
  rw [State.works, State.unstopped, flag_reset, flag_reset]; decide

/-- Context 0 alone is listed at reset (R338). -/
theorem ctxLive_reset_other {c : Ctx} (h : c ≠ 0) : State.reset.ctxLive c = false := by
  have hc : State.reset.ctxs.find? c = none := if_neg h.symm
  rw [State.ctxLive, AMap.getD, hc]; rfl

theorem evEnable_reset (c : Ctx) : State.reset.flag (F.evEnable c) = false := by
  simp only [flag_reset, F.evEnable, Reg.reset]; decide

theorem qEnable_reset (c : Ctx) (q : QIdx) : State.reset.flag (F.qEnable c q) = false := by
  simp only [flag_reset, F.qEnable, Reg.reset]; decide

theorem qState_reset (c : Ctx) (q : QIdx) : State.reset.fld (F.qState c q) = 0 := by
  simp only [fld_reset, F.qState, Reg.reset]; decide

theorem kvEnable_reset (i : CacheInst) : State.reset.flag (F.kvEnable i) = false := by
  simp only [flag_reset, F.kvEnable, Reg.reset]; decide

theorem mEnable_reset (m : Model) : State.reset.flag (F.mEnable m) = false := by
  simp only [flag_reset, F.mEnable, Reg.reset]; decide

theorem feFval_reset (c : Ctx) (f : FenceId) : State.reset.reg (.feFval c f) = 0 := by
  rw [reg_reset]; rfl

end Sys2Proof.Machine

namespace Sys2Proof

open Sys2Proof.Machine

/-- Settles O59: each register holds the value of its table, since none has been written. -/
theorem resetValues : Obligations.ResetValues := by
  unfold Obligations.ResetValues
  refine ⟨rfl, works_reset, rfl, fun _ => ctxLive_reset_other, rfl, rfl, rfl, ?_, ?_, ?_, ?_, ?_, ?_, ?_, ?_, ?_, ?_, ?_,
    evEnable_reset, fun c q => ⟨qEnable_reset c q, qState_reset c q⟩, kvEnable_reset, mEnable_reset, feFval_reset,
    memoriesWf_reset⟩
  all_goals simp only [fld_reset, flag_reset]; decide

end Sys2Proof
end

section
/-! SUPPORT. The rows of the register writes: what each computation answers, as one equation. -/

namespace Sys2Proof.Machine

variable {s t u : State} {α β : Type}

/-! ### Computations -/

theorem runAny_ok {m : M Unit} {a : Unit} (h : m s = .ok a t) : runAny m s = .next t := by rw [runAny, h]

theorem runAny_congr {m n : M Unit} (h : m s = n s) : runAny m s = runAny n s := by rw [runAny, runAny, h]

theorem run_eq_runAny (hw : s.works = true) (m : M Unit) : run m s = runAny m s := by rw [run, hw, if_pos rfl]

/-- A command of a module that works answers `t` of which `P` holds, where its computation ends well in such a state. -/
theorem completes_of_run {i : Instr} {m : M Unit} {P : State → Prop} (hw : s.works = true) (hi : exec i s = run m s)
    (h : ∃ t, m s = .ok () t ∧ P t) : completes i s P := by
  obtain ⟨t, ht, hp⟩ := h
  exact ⟨t, by rw [hi, run_next hw ht], hp⟩

/-- A condition that each element's computation keeps holds after all of them. -/
theorem eachM_ok {P : State → Prop} {f : α → M Unit} (l : List α)
    (hf : ∀ a ∈ l, ∀ t, P t → ∃ u, f a t = .ok () u ∧ P u) (hs : P s) : ∃ u, eachM l f s = .ok () u ∧ P u := by
  induction l generalizing s with
  | nil => exact ⟨s, run_pure _ _, hs⟩
  | cons a l ih =>
    obtain ⟨t, ht, hp⟩ := hf a List.mem_cons_self s hs
    obtain ⟨u, hu, hq⟩ := ih (fun b hb => hf b (List.mem_cons_of_mem a hb)) hp
    exact ⟨u, by rw [eachM, run_bind_ok ht, hu], hq⟩

/-- Computations that only look at the state leave it, each with its own result. -/
theorem mapM'_ok {f : α → M β} {g : α → β} (l : List α) (hf : ∀ a ∈ l, f a s = .ok (g a) s) :
    mapM' l f s = .ok (l.map g) s := by
  induction l with
  | nil => exact run_pure _ _
  | cons a l ih =>
    rw [mapM', run_bind_ok (hf a List.mem_cons_self), run_bind_ok (ih fun b hb => hf b (List.mem_cons_of_mem a hb)), run_pure]; rfl

/-! ### A write by offset -/

section ByOffset

variable {off bits : Nat} {v : W64} {h : Half} {r : Reg}

/-- The write that an offset and a width of PF0 BAR0 select (R8, R444). -/
def pf0Write (off bits : Nat) (v : W64) (s : State) : M Unit :=
  match accessHalf off bits with
  | none => emit .unsupported
  | some h => match regAt .pf0 off with
    | none => pure ()
    | some r => if s.answers r && !s.pageGone r then writeReg r h v else pure ()

theorem registerWrite_eq (hoff : off < 2 ^ 26) : exec (.registerWrite .pf0 off bits v) s = runAny (pf0Write off bits v s) s := by
  change execRegisterWrite .pf0 off bits v s = _
  unfold execRegisterWrite pf0Write
  refine runAny_congr ?_
  dsimp only
  rw [decide_eq_true hoff, run_bind_ok (run_guardWait_true s)]
  cases accessHalf off bits with
  | none => rfl
  | some h =>
    cases regAt .pf0 off with
    | none => rfl
    | some r => simp

theorem registerWrite_unsupported (hoff : off < 2 ^ 26) (ha : accessHalf off bits = none) :
    exec (.registerWrite .pf0 off bits v) s = .next { s with out := s.out ++ [.unsupported] } := by
  rw [registerWrite_eq hoff, pf0Write, ha]; exact runAny_ok (run_emit _ _)

theorem registerWrite_unmapped (hoff : off < 2 ^ 26) (ha : accessHalf off bits = some h) (hr : regAt .pf0 off = none) :
    exec (.registerWrite .pf0 off bits v) s = .next s := by
  rw [registerWrite_eq hoff, pf0Write, ha, hr]; exact runAny_ok (run_pure _ _)

/-- A register outside the context pages takes the write that its own meaning gives. -/
theorem registerWrite_mapped (hw : s.works = true) (hoff : off < 2 ^ 26) (ha : accessHalf off bits = some h)
    (hr : regAt .pf0 off = some r) (hp : r.page = none) :
    exec (.registerWrite .pf0 off bits v) s = run (writeReg r h v) s := by
  have hg : (s.answers r && !s.pageGone r) = true := by simp [State.answers, State.pageGone, hw, hp]
  rw [registerWrite_eq hoff, pf0Write, ha, hr, run_eq_runAny hw]
  exact congrArg (runAny · s) (if_pos hg)

end ByOffset

/-! ### Registers without a row of their own -/

/-- Registers of PF0 whose writes are the checked writes of their tables. -/
def checkedRegs : List Reg :=
  [.feCtrl, .ssCtrl, .ssWctrl, .msSweep, .msRetrain, .trCtrl, .jlCtrl, .cxCtrl, .pwCap, .pwTherm, .rpCtrl,
    .rpCfgCtrl, .obCoreSel, .obTapcount, .clCtrl]

/-- Registers of PF0 whose writes have a row of their own, with that row. -/
def rowRegs (h : Half) (v : W64) : List (Reg × Instr) :=
  [(.msPart, .msPartWrite h v), (.tkCtrl, .tkCtrlWrite h v), (.tkAdvance, .tkAdvanceWrite h v),
    (.tkPeriodStep, .tkPeriodStepWrite h v), (.obTrmark, .obTrmarkWrite h v), (.obTrptr, .obTrptrWrite h v),
    (.msZero, .msZeroWrite h v)]

theorem checkedRegs_apart : ∀ r ∈ checkedRegs, r.page = none ∧ r ≠ .pwSensorData ∧ r ≠ .rpMapData ∧ r ≠ .tkMaster := by decide

theorem rowRegs_page {h : Half} {v : W64} : ∀ p ∈ rowRegs h v, p.1.page = none := by simp [rowRegs, Reg.page]

theorem exec_rowRegs {h : Half} {v : W64} {p : Reg × Instr} (hp : p ∈ rowRegs h v) (s : State) :
    exec p.2 s = run (writeReg p.1 h v) s := by
  simp only [rowRegs, List.mem_cons, List.not_mem_nil, or_false] at hp
  rcases hp with rfl | rfl | rfl | rfl | rfl | rfl | rfl <;> rfl

/-- A later whole write of a register replaces an earlier one. -/
theorem setReg_setReg (s : State) (r : Reg) (a b : Nat) : (s.setReg r a).setReg r b = s.setReg r b := by
  simp [State.setReg]

/-- A field set in a register that two states hold alike leaves it alike. -/
theorem reg_setFld_congr {f : Fld} (v : Nat) (h : t.reg f.reg = u.reg f.reg) :
    (t.setFld f v).reg f.reg = (u.setFld f v).reg f.reg := by
  rw [State.setFld, State.setFld, reg_setReg_same, reg_setReg_same, h]

theorem refreshSensor_ok (s : State) : ∃ a, refreshSensor s = .ok () (s.setReg .pwSensorData a) :=
  ⟨_, (run_modify _ s).trans (congrArg _ (setReg_setReg s .pwSensorData _ _))⟩

theorem refreshMapData_ok (s : State) : ∃ a, refreshMapData s = .ok () (s.setReg .rpMapData a) := ⟨_, run_modify _ s⟩

theorem reg_checkedWrite_other {r r' : Reg} {h : Half} {v : W64} {ok : Nat → Nat → Bool} (hr : r ≠ r') :
    (s.checkedWrite r h v ok).reg r' = s.reg r' := reg_setReg_other hr

/-- The checked write of a register, and what shows through a window or follows the device's identity. -/
theorem writeReg_checked {r : Reg} (hr : r ∈ checkedRegs) (h : Half) (v : W64) (s : State) :
    ∃ a b, let u := ((s.checkedWrite r h v (s.fieldOk r)).setReg .pwSensorData a).setReg .rpMapData b
      writeReg r h v s = .ok () (if r = .jlCtrl ∧ s.ownTick = true then u.setFld F.tkMasterId (u.fld F.deviceId) else u) := by
  obtain ⟨a, ha⟩ := refreshSensor_ok (s.checkedWrite r h v (s.fieldOk r))
  obtain ⟨b, hb⟩ := refreshMapData_ok ((s.checkedWrite r h v (s.fieldOk r)).setReg .pwSensorData a)
  refine ⟨a, b, ?_⟩
  have hm : writeReg r h v = (do
      let s ← get
      set (s.checkedWrite r h v (s.fieldOk r))
      refreshSensor
      refreshMapData
      if r = .jlCtrl ∧ s.ownTick = true then putFld F.tkMasterId (← getFld F.deviceId) else pure ()) := by
    simp only [checkedRegs, List.mem_cons, List.not_mem_nil, or_false] at hr
    rcases hr with rfl | rfl | rfl | rfl | rfl | rfl | rfl | rfl | rfl | rfl | rfl | rfl | rfl | rfl | rfl <;> rfl
  rw [hm, run_bind_ok (run_get s), run_bind_ok (run_set _ _), run_bind_ok ha, run_bind_ok hb]
  split
  · rw [run_bind_ok (run_getFld _ _), run_putFld]
  · exact run_pure _ _

/-- The register takes its checked write; every other one but the two windows and the master's identity keeps its value. -/
theorem writeReg_checked_effect {r : Reg} (hr : r ∈ checkedRegs) (h : Half) (v : W64) (s : State) :
    ∃ t, writeReg r h v s = .ok () t ∧ t.reg r = (s.checkedWrite r h v (s.fieldOk r)).reg r ∧
      (∀ r', r' ≠ r → r' ≠ .pwSensorData → r' ≠ .rpMapData → ¬(r = .jlCtrl ∧ r' = .tkMaster) → t.reg r' = s.reg r') ∧
      (r = .jlCtrl → t.reg .tkMaster =
        (if s.ownTick = true then s.setFld F.tkMasterId (t.fld F.deviceId) else s).reg .tkMaster) ∧
      t = { s with regs := t.regs } := by
  obtain ⟨-, hS, hM, hT⟩ := checkedRegs_apart r hr
  obtain ⟨a, b, hu⟩ := writeReg_checked hr h v s
  generalize hdef : ((s.checkedWrite r h v (s.fieldOk r)).setReg .pwSensorData a).setReg .rpMapData b = u at hu
  have hsame : u.reg r = (s.checkedWrite r h v (s.fieldOk r)).reg r := by
    rw [← hdef, reg_setReg_other hM.symm, reg_setReg_other hS.symm]
  have hother : ∀ r', r' ≠ r → r' ≠ .pwSensorData → r' ≠ .rpMapData → u.reg r' = s.reg r' := fun r' h1 h2 h3 => by
    rw [← hdef, reg_setReg_other h3.symm, reg_setReg_other h2.symm, reg_checkedWrite_other h1.symm]
  have hrest : u = { s with regs := u.regs } := by rw [← hdef]; rfl
  refine ⟨_, hu, ?_⟩
  by_cases hj : r = .jlCtrl ∧ s.ownTick = true
  · have hm : u.reg .tkMaster = s.reg .tkMaster := hother _ hT.symm nofun nofun
    rw [if_pos hj, if_pos hj.2]
    refine ⟨(reg_setFld_other hT.symm).trans hsame, fun r' h1 h2 h3 h4 => ?_, fun _ => ?_, ?_⟩
    · rw [reg_setFld_other (fun e => h4 ⟨hj.1, e.symm⟩), hother r' h1 h2 h3]
    · rw [fld_setFld_other (by decide)]; exact reg_setFld_congr (f := F.tkMasterId) _ hm
    · rw [hrest]; rfl
  · rw [if_neg hj]
    refine ⟨hsame, fun r' h1 h2 h3 _ => hother r' h1 h2 h3, fun e => ?_, hrest⟩
    rw [if_neg (fun ho => hj ⟨e, ho⟩), hother _ hT.symm nofun nofun]

/-! ### ENABLE of a cache (R236) -/

/-- A cache whose pools have no pages has none granted. -/
theorem pagesGranted_none {i : CacheInst} (h : ∀ j, s.fld (F.poolPages j i) = 0) : pagesGranted i s = .ok false s := by
  unfold pagesGranted
  rw [run_bind_ok (mapM'_ok (g := fun _ => false) _ fun j _ => ?_), run_pure]
  · rfl
  · rw [run_bind_ok (run_getFld _ _), run_if, if_pos (h j), run_pure]

section CacheEnable

variable (s : State) (i : CacheInst) (h : Half) (v : W64)

/-- The value of KV_INSTi that a write asks for. -/
def kvAsked : Nat := Reg.written (.kvInst i) (s.reg (.kvInst i)) h (halfPlace h v)

/-- The state after a write of KV_INSTi, ENABLE apart. -/
def kvWritten : State := s.setReg (.kvInst i) (kvInstNext (s.reg (.kvInst i)) (kvAsked s i h v))

variable {s i h v}

theorem writeKvInst_unchanged (he : bitOf (kvAsked s i h v) 0 = bitOf (s.reg (.kvInst i)) 0) :
    writeKvInst i h v s = .ok () (kvWritten s i h v) := by
  unfold kvAsked at he
  unfold writeKvInst
  rw [run_bind_ok (run_get s), run_bind_ok (run_set _ _), run_bind_ok (run_get _), he, if_neg (by simp), if_neg (by simp), run_pure]
  rfl

theorem writeKvInst_sets (hn : bitOf (kvAsked s i h v) 0 = true) (ho : bitOf (s.reg (.kvInst i)) 0 = false) :
    writeKvInst i h v s =
      .ok () ((kvWritten s i h v).setFlag (F.kvEnable i) ((kvWritten s i h v).kvCanEnable i)) := by
  unfold kvAsked at hn
  unfold writeKvInst
  rw [run_bind_ok (run_get s), run_bind_ok (run_set _ _), run_bind_ok (run_get _), hn, ho, if_pos (by simp), run_putFlag]
  rfl

theorem writeKvInst_clears (hn : bitOf (kvAsked s i h v) 0 = false) (ho : bitOf (s.reg (.kvInst i)) 0 = true)
    (hp : ∀ j, s.fld (F.poolPages j i) = 0) :
    writeKvInst i h v s = .ok () ((kvWritten s i h v).setFlag (F.kvEnable i) false) := by
  have hg : pagesGranted i (kvWritten s i h v) = .ok false (kvWritten s i h v) :=
    pagesGranted_none fun j => by rw [State.fld, kvWritten, reg_setReg_other (by simp [F.poolPages])]; exact hp j
  unfold kvAsked at hn
  unfold writeKvInst
  rw [run_bind_ok (run_get s), run_bind_ok (run_set _ _), run_bind_ok (run_get _), hn, ho, if_neg (by simp), if_pos (by simp)]
  exact (run_bind_ok (run_attempt_ok hg)).trans (run_putFlag _ _ _)

end CacheEnable

/-! ### ENABLE of a model (R341, R363) -/

section ModelEnable

variable (s : State) (m : Model) (h : Half) (v : W64)

/-- The value of SS_MODELm_CFG.ENABLE that a write asks for. -/
def modelAsked : Bool := bitOf (Reg.written (.ssModelCfg m) (s.reg (.ssModelCfg m)) h (halfPlace h v)) 0

/-- The state after a write of SS_MODELm_CFG, ENABLE apart. -/
def modelWritten : State := s.checkedWrite (.ssModelCfg m) h v (modelCfgOk (s.flag (F.mEnable m)))

variable {s m h v}

theorem writeModelCfg_unchanged (hn : modelAsked s m h v = s.flag (F.mEnable m)) :
    writeModelCfg m h v s = .ok () (modelWritten s m h v) := by
  unfold modelAsked at hn
  unfold writeModelCfg
  rw [run_bind_ok (run_get s), run_bind_ok (run_set _ _), hn, if_neg (by simp), if_neg (by simp), run_pure]
  rfl

theorem writeModelCfg_clears (hn : modelAsked s m h v = false) (ho : s.flag (F.mEnable m) = true) :
    writeModelCfg m h v s = .ok () ((modelWritten s m h v).setFlag (F.mEnable m) false) := by
  unfold modelAsked at hn
  unfold writeModelCfg modelWritten
  rw [run_bind_ok (run_get s), run_bind_ok (run_set _ _), hn, ho, if_neg (by simp), if_pos (by simp), run_putFlag]

/-- Where a model is to be enabled, the checks of its plan decide. -/
theorem writeModelCfg_asks (hn : modelAsked s m h v = true) (ho : s.flag (F.mEnable m) = false) :
    writeModelCfg m h v s = (do
      match ← enabledPlan m with
      | none => pure ()
      | some p => do
        modModel m (fun x => { x with plan := p })
        putFlag (F.mEnable m) true) (modelWritten s m h v) := by
  unfold modelAsked at hn
  unfold writeModelCfg modelWritten
  rw [run_bind_ok (run_get s), run_bind_ok (run_set _ _), hn, ho]
  exact congrFun (if_pos (by simp)) _

theorem writeModelCfg_refused (hn : modelAsked s m h v = true) (ho : s.flag (F.mEnable m) = false)
    (hp : enabledPlan m (modelWritten s m h v) = .ok none u) : writeModelCfg m h v s = .ok () u := by
  rw [writeModelCfg_asks hn ho, run_bind_ok hp]; exact run_pure _ _

theorem writeModelCfg_enables {p : List StagePlan} (hn : modelAsked s m h v = true) (ho : s.flag (F.mEnable m) = false)
    (hp : enabledPlan m (modelWritten s m h v) = .ok (some p) u) :
    ∃ w, writeModelCfg m h v s = .ok () w ∧ w.flag (F.mEnable m) = true ∧ (w.modelOf m).plan = p ∧ w.mem = u.mem ∧
      w.cores = u.cores := by
  rw [writeModelCfg_asks hn ho, run_bind_ok hp]
  dsimp only [modModel]
  rw [run_bind_ok (run_modify _ _), run_putFlag]
  refine ⟨_, rfl, flag_setFlag_same _ _ (Nat.one_le_two_pow (n := 6)) rfl, ?_, rfl, rfl⟩
  simp [State.modelOf]

end ModelEnable

/-! ### Ports (R415-R417) -/

/-- Two states that differ in the status of ports, in what is listed for them, and in which spillways move. -/
structure PortsOnly (s u : State) : Prop where
  reg : ∀ r, (∀ p, r ≠ .jlPortStat p) → u.reg r = s.reg r
  closed : u.fab.closed = s.fab.closed
  mem : u.mem = s.mem
  cores : u.cores = s.cores
  out : u.out = s.out
  pins : u.pins = s.pins
  pow : u.pow = s.pow
  rep : u.rep = s.rep

theorem PortsOnly.refl (s : State) : PortsOnly s s := ⟨fun _ _ => rfl, rfl, rfl, rfl, rfl, rfl, rfl, rfl⟩

theorem PortsOnly.trans (a : PortsOnly s t) (b : PortsOnly t u) : PortsOnly s u :=
  ⟨fun r hr => (b.reg r hr).trans (a.reg r hr), b.closed.trans a.closed, b.mem.trans a.mem, b.cores.trans a.cores,
    b.out.trans a.out, b.pins.trans a.pins, b.pow.trans a.pow, b.rep.trans a.rep⟩

theorem PortsOnly.setFld (s : State) {f : Fld} {p : Port} (hf : f.reg = .jlPortStat p) (v : Nat) : PortsOnly s (s.setFld f v) :=
  ⟨fun r hr => reg_setFld_other (by rw [hf]; exact (hr p).symm), rfl, rfl, rfl, rfl, rfl, rfl, rfl⟩

theorem PortsOnly.flag (a : PortsOnly s u) {f : Fld} (hf : ∀ p, f.reg ≠ .jlPortStat p) : u.flag f = s.flag f := by
  rw [State.flag, State.fld, a.reg _ hf]; rfl

theorem PortsOnly.portEnable (a : PortsOnly s u) (p : Port) : u.flag (F.portEnable p) = s.flag (F.portEnable p) :=
  a.flag nofun

/-- The causes that hold a spillway closed are none of what such states differ in. -/
theorem PortsOnly.spillCause (a : PortsOnly s u) (k : Fin 8) : u.spillCause k = s.spillCause k := by
  have ht : u.flag F.pwTripped = s.flag F.pwTripped := a.flag nofun
  have hb : u.flag (F.portBypass (evenPort k)) = s.flag (F.portBypass (evenPort k)) := a.flag nofun
  simp only [State.spillCause, a.pins, a.pow, a.rep, ht, hb, a.portEnable]

/-- The status of a port whose link has ended. -/
def linkOff (p : Port) (s : State) : State :=
  ((((s.setFld (F.portState p) 0).setFld (F.portWidth p) 0).setFld (F.portSubUp p) 0).setFlag (F.portSpareFree p) false).setFlag
    (F.keyHold p) false

theorem linkOff_only (p : Port) (s : State) : PortsOnly s (linkOff p s) :=
  ((((PortsOnly.setFld s (p := p) rfl _).trans (.setFld _ (p := p) rfl _)).trans (.setFld _ (p := p) rfl _)).trans
    (.setFld _ (p := p) rfl _)).trans (.setFld _ (p := p) rfl _)

/-- Bits of a register beside those that are set keep their value. -/
theorem fld_bits_apart (s : State) (r : Reg) {lo n lo' n' v : Nat} (h : lo + n ≤ 64) (ha : lo + n ≤ lo' ∨ lo' + n' ≤ lo) :
    (s.setFld ⟨r, lo, n⟩ v).fld ⟨r, lo', n'⟩ = s.fld ⟨r, lo', n'⟩ := fld_setFld_apart s v rfl h ha

theorem fld_bits_same (s : State) (r : Reg) {lo n v : Nat} (h : lo + n ≤ 64) :
    (s.setFld ⟨r, lo, n⟩ v).fld ⟨r, lo, n⟩ = v % 2 ^ n := fld_setFld_same s v h

theorem linkOff_state (p : Port) (s : State) : (linkOff p s).fld (F.portState p) = 0 := by
  simp (disch := omega) only [linkOff, State.setFlag, F.portState, F.portWidth, F.portSubUp, F.portSpareFree, F.keyHold,
    fld_bits_apart, fld_bits_same, Nat.zero_mod]

theorem linkOff_width (p : Port) (s : State) : (linkOff p s).fld (F.portWidth p) = 0 := by
  simp (disch := omega) only [linkOff, State.setFlag, F.portWidth, F.portSubUp, F.portSpareFree, F.keyHold,
    fld_bits_apart, fld_bits_same, Nat.zero_mod]

theorem portDown_ok (p : Port) (s : State) : ∃ u, portDown p s = .ok () u ∧ PortsOnly s u ∧ u.fld (F.portState p) = 0 ∧
    u.fld (F.portWidth p) = 0 ∧ (u.portOf p).keys = [] := by
  unfold portDown modPort
  rw [run_bind_ok (run_modify _ s), run_bind_ok (run_putFld _ _ _), run_bind_ok (run_putFld _ _ _),
    run_bind_ok (run_putFld _ _ _), run_bind_ok (run_putFlag _ _ _), run_putFlag]
  refine ⟨linkOff p _, rfl, .trans ?_ (linkOff_only p _), linkOff_state p _, linkOff_width p _, ?_⟩
  · exact ⟨fun _ _ => rfl, rfl, rfl, rfl, rfl, rfl, rfl, rfl⟩
  · simp [linkOff, State.portOf, PortSt.down]

/-- The port's status, and what is listed for it, are the same in both states. -/
structure Stays (p : Port) (s u : State) : Prop where
  stat : u.reg (.jlPortStat p) = s.reg (.jlPortStat p)
  link : u.portOf p = s.portOf p

theorem Stays.trans {p : Port} (a : Stays p s t) (b : Stays p t u) : Stays p s u :=
  ⟨b.stat.trans a.stat, b.link.trans a.link⟩

theorem Stays.refl (p : Port) (s : State) : Stays p s s := ⟨rfl, rfl⟩

/-- Engines that calibrate first: the status of enabled ports alone shows it. -/
theorem beginCalibration_ok (s t : State) (l : List Port) :
    ∃ u, eachM l (fun p => if s.flag (F.portEnable p) && !s.fab.calibrated.contains p then putFld (F.portState p) 1 else pure ()) t
      = .ok () u ∧ PortsOnly t u ∧ u.fab = t.fab ∧ ∀ p, s.flag (F.portEnable p) = false → Stays p t u := by
  refine eachM_ok (P := fun u => PortsOnly t u ∧ u.fab = t.fab ∧ ∀ p, s.flag (F.portEnable p) = false → Stays p t u) l
    (fun p _ u ⟨ho, hf, hk⟩ => ?_) ⟨.refl t, rfl, fun p _ => .refl p t⟩
  by_cases hp : (s.flag (F.portEnable p) && !s.fab.calibrated.contains p) = true
  · rw [if_pos hp]
    refine ⟨_, run_putFld _ _ u, ho.trans (.setFld u (p := p) rfl 1), hf, fun q hq => (hk q hq).trans ⟨?_, rfl⟩⟩
    have hne : p ≠ q := fun e => by simp [e, hq] at hp
    exact reg_setFld_other fun e => hne (by simpa [F.portState] using e)
  · rw [if_neg hp]
    exact ⟨u, run_pure _ _, ho, hf, hk⟩

/-- The state with the spillways that move listed anew, and nothing else changed. -/
def setMoving (s : State) (l : List (Fin 8 × Bool)) : State := { s with fab := { s.fab with moving := l } }

theorem setMoving_only (s : State) (l : List (Fin 8 × Bool)) : PortsOnly s (setMoving s l) :=
  ⟨fun _ _ => rfl, rfl, rfl, rfl, rfl, rfl, rfl, rfl⟩

theorem setMoving_stays (p : Port) (s : State) (l : List (Fin 8 × Bool)) : Stays p s (setMoving s l) := ⟨rfl, rfl⟩

/-- A spillway that stands as its causes say does not move; of a disabled port nothing changes. -/
theorem requestSpillway_ok (k : Fin 8) (s : State) : ∃ u, requestSpillway k s = .ok () u ∧ PortsOnly s u ∧
    (s.spillCause k = s.fab.closed.contains k → ∀ m ∈ u.fab.moving, m.1 ≠ k) ∧
    ∀ p, s.flag (F.portEnable p) = false → Stays p s u := by
  unfold requestSpillway
  rw [run_bind_ok (run_get s), run_bind_ok (run_modify _ _)]
  by_cases hw : s.spillCause k = s.fab.closed.contains k
  · rw [if_pos hw]
    refine ⟨_, run_pure _ _, setMoving_only s _, fun _ m hm => ?_, fun p _ => setMoving_stays p s _⟩
    simpa using (List.mem_filter.mp hm).2
  · rw [if_neg hw, run_bind_ok (run_modify _ _)]
    cases hc : s.spillCause k with
    | true => exact ⟨_, run_pure _ _, setMoving_only s _, fun h => absurd (hc.trans h) hw,
        fun p _ => setMoving_stays p s _⟩
    | false =>
      obtain ⟨u, hu, ho, -, hk⟩ := beginCalibration_ok s
        (setMoving s ((k, false) :: s.fab.moving.filter (fun m => m.1 ≠ k))) [evenPort k, oddPort k]
      exact ⟨u, hu, (setMoving_only s _).trans ho, fun h => absurd (hc.trans h) hw,
        fun p hp => (setMoving_stays p s _).trans (hk p hp)⟩

/-- A port that is not enabled does not begin to train. -/
theorem beginTraining_ok (p : Port) (s : State) : ∃ u, beginTraining p s = .ok () u ∧ PortsOnly s u ∧ u.fab = s.fab ∧
    (s.flag (F.portEnable p) = false → u = s) := by
  unfold beginTraining
  rw [run_bind_ok (run_get s)]
  split
  case isTrue h =>
    refine ⟨_, run_putFld _ _ s, .setFld s (p := p) rfl 2, rfl, fun hp => ?_⟩
    simp [State.mayTrain, hp] at h
  case isFalse => exact ⟨s, run_pure _ _, .refl s, rfl, fun _ => rfl⟩

section PortWrite

variable (s : State) (p : Port) (h : Half) (v : W64)

/-- The state after the checked write of JL_PORTp_CFG, before the port follows it. -/
def portWritten : State := s.checkedWrite (.jlPortCfg p) h v (portCfgOk p (s.flag (F.portEnable p)))

/-- A port that the write disables goes DOWN; then its spillway and its training follow. -/
theorem writePortCfg_begins : ∃ d, writePortCfg p h v s = (requestSpillway (pairOf p) >>= fun _ => beginTraining p) d ∧
    PortsOnly (portWritten s p h v) d ∧
    (s.flag (F.portEnable p) = true → (portWritten s p h v).flag (F.portEnable p) = false →
      d.fld (F.portState p) = 0 ∧ d.fld (F.portWidth p) = 0 ∧ (d.portOf p).keys = []) := by
  obtain ⟨d, hd, ho, hz⟩ := portDown_ok p (portWritten s p h v)
  unfold writePortCfg
  rw [run_bind_ok (run_get s), run_bind_ok (run_set _ _), run_bind_ok (run_get _)]
  split
  case isTrue => exact ⟨d, run_bind_ok hd, ho, fun _ _ => hz⟩
  case isFalse hn => exact ⟨_, rfl, .refl _, fun a b => absurd ⟨a, congrArg (!·) b⟩ hn⟩

theorem writePortCfg_ok : ∃ u, writePortCfg p h v s = .ok () u ∧ PortsOnly (portWritten s p h v) u ∧
    (s.flag (F.portEnable p) = true → (portWritten s p h v).flag (F.portEnable p) = false →
      u.fld (F.portState p) = 0 ∧ u.fld (F.portWidth p) = 0 ∧ (u.portOf p).keys = []) ∧
    ((portWritten s p h v).spillCause (pairOf p) = s.fab.closed.contains (pairOf p) → ∀ m ∈ u.fab.moving, m.1 ≠ pairOf p) := by
  obtain ⟨d, hd, hod, hzero⟩ := writePortCfg_begins s p h v
  obtain ⟨e, he, hoe, hmove, hstay⟩ := requestSpillway_ok (pairOf p) d
  obtain ⟨u, hu, hou, hfab, hidle⟩ := beginTraining_ok p e
  refine ⟨u, by rw [hd, run_bind_ok he, hu], (hod.trans hoe).trans hou, fun hon hoff => ?_, fun hc => ?_⟩
  · obtain ⟨hstate, hwidth, hkeys⟩ := hzero hon hoff
    have hde : d.flag (F.portEnable p) = false := (hod.portEnable p).trans hoff
    obtain ⟨hstat, hlink⟩ := hstay p hde
    rw [hidle ((hoe.portEnable p).trans hde), hlink]
    exact ⟨(congrArg (bitsOf · 0 3) hstat).trans hstate, (congrArg (bitsOf · 8 4) hstat).trans hwidth, hkeys⟩
  · rw [hfab]
    exact hmove (by rw [hod.spillCause, hod.closed]; exact hc)

end PortWrite

/-! ### Markers (R554, R555) -/

theorem halfPlace_lo (v : W64) : BitVec.ofNat 32 (halfPlace .lo v) = BitVec.ofNat 32 v.toNat :=
  BitVec.eq_of_toNat_eq (by simp [halfPlace])

theorem writeTrmark_low (v : W64) (s : State) :
    writeTrmark .lo v s = .ok () { s with obs := { s.obs with markLow := BitVec.ofNat 32 v.toNat } } := by
  unfold writeTrmark
  rw [if_pos rfl, run_modify, halfPlace_lo]

/-- The marker that a write presents: a write of the high half takes the low half written before. -/
def markValue (h : Half) (v : W64) (s : State) : Nat :=
  if h = .hi then halfPlace h v + s.obs.markLow.toNat else v.toNat

/-- The state in which a marker is written: the held low half is spent. -/
def markTaken (s : State) : State := { s with obs := { s.obs with markLow := 0 }, seed := s.seed + 1 }

/-- A marker that is not sent is what the trace writes of it. -/
theorem writeTrmark_traces {h : Half} (hh : h ≠ .lo) (v : W64) (hs : s.flag F.trmarkSend = false)
    (ht : trace (some 3) 9 (Config.traceDie s.seed % 4) 0 0 (markValue h v s) (s.fld F.deviceId) (markTaken s) = .ok () u) :
    writeTrmark h v s = .ok () u := by
  have hv : (if h = .hi then halfPlace h v + s.obs.markLow.toNat else halfPlace h v) = markValue h v s := by
    cases h with
    | lo => exact absurd rfl hh
    | hi => rfl
    | full => rfl
  unfold writeTrmark
  dsimp only
  rw [if_neg hh, run_bind_ok (run_get s), run_bind_ok (run_modify _ s), run_bind_ok (run_fresh _), hv]
  refine (run_bind_ok ht).trans ?_
  rw [hs, if_neg (by simp), run_pure]

/-- A disabled trace takes no record (R551). -/
theorem trace_off (ht : s.flag F.trEnable = false) (cls : Option Nat) (kind die ctx id arg0 arg1 : Nat) :
    trace cls kind die ctx id arg0 arg1 s = .ok () s := by
  unfold trace
  rw [run_bind_ok (run_get s), ht, Bool.false_and, Bool.not_false, if_pos rfl, run_pure]

/-! ### Reads (R8, R63, R556) -/

section Reads

variable {via : Via} {off bits : Nat} {h : Half} {r : Reg} {l : LatchReg}

theorem readAccess_unsupported (ha : accessHalf off bits = none) :
    readAccess via off bits s = .ok ⟨⟩ { s with out := s.out ++ [.unsupported] } := by
  unfold readAccess; rw [ha]; exact run_emit _ _

theorem readAccess_unmapped (ha : accessHalf off bits = some h) (hr : regAt via off = none) :
    readAccess via off bits s = .ok ⟨⟩ { s with out := s.out ++ [.readData 0] } := by
  unfold readAccess; rw [ha]; dsimp only; rw [hr]; exact run_emit _ _

theorem readAccess_gone (ha : accessHalf off bits = some h) (hr : regAt via off = some r) (hg : s.pageGone r = true) :
    readAccess via off bits s = .ok ⟨⟩ { s with out := s.out ++ [.readData 0] } := by
  unfold readAccess; rw [ha]; dsimp only; rw [hr]; dsimp only
  rw [run_bind_ok (run_get s), hg, if_neg (by simp)]; exact run_emit _ _

/-- A register whose reads have no effect answers what it holds. -/
theorem readReg_plain (hl : r.latch = none) (ht : r ≠ .tkStep) : readReg via r h s = .ok (halfRead h (s.reg r)) s := by
  unfold readReg; rw [hl]; dsimp only
  rw [run_bind_ok (run_get s), if_neg ht]; exact run_pure _ _

theorem readAccess_answers (ha : accessHalf off bits = some h) (hr : regAt via off = some r) (hg : s.pageGone r = false)
    (hs : s.answersRead r = true) (hl : r.latch = none) (ht : r ≠ .tkStep) :
    readAccess via off bits s = .ok ⟨⟩ { s with out := s.out ++ [.readData (halfRead h (s.reg r))] } := by
  unfold readAccess; rw [ha]; dsimp only; rw [hr]; dsimp only
  rw [run_bind_ok (run_get s), hg, hs, if_pos (by simp), run_bind_ok (readReg_plain hl ht)]; exact run_emit _ _

theorem readLatched_low {v : Nat} (hv : liveValue via l s = .ok v u) : readLatched via l .lo s = .ok (halfRead .lo v)
    { u with time := { u.time with latches := u.time.latches.insert l (BitVec.ofNat 32 (v / 2 ^ 32)) } } := by
  unfold readLatched modTime; dsimp only
  rw [run_bind_ok hv, run_bind_ok (run_modify _ _), run_pure]

theorem readLatched_full {v : Nat} (hv : liveValue via l s = .ok v u) : readLatched via l .full s = .ok (halfRead .full v)
    { u with time := { u.time with latches := u.time.latches.erase l } } := by
  unfold readLatched modTime; dsimp only
  rw [run_bind_ok hv, run_bind_ok (run_modify _ _), run_pure]

theorem exec_lowHalfReadLatch {b : W64} (hw : s.works = true) (hr : s.latchReach via l = true)
    (hb : readLatched via l .lo s = .ok b u) :
    exec (.lowHalfReadLatch via l) s = .next { u with out := u.out ++ [.readData b] } := by
  refine run_next hw (u := ()) ?_
  rw [run_bind_ok (run_get s), hr, run_bind_ok (run_guardWait_true s), run_bind_ok hb, run_emit]

theorem exec_latchDiscardRead {b : W64} (hw : s.works = true) (hr : s.latchReach via l = true)
    (hb : readLatched via l .full s = .ok b u) :
    exec (.latchDiscardRead via l) s = .next { u with out := u.out ++ [.readData b] } := by
  refine run_next hw (u := ()) ?_
  rw [run_bind_ok (run_get s), hr, run_bind_ok (run_guardWait_true s), run_bind_ok hb, run_emit]

end Reads

end Sys2Proof.Machine

namespace Sys2Proof

open Sys2Proof.Machine

/-- Settles O54: each write and read of a register is the computation of its own meaning, whose result the lemmas above give. -/
theorem registerWrites : Obligations.RegisterWrites := by
  unfold Obligations.RegisterWrites
  intro s hw
  refine ⟨fun off bits v hoff => ⟨registerWrite_unsupported hoff, fun h ha => ⟨registerWrite_unmapped hoff ha, ?_, ?_⟩⟩,
    ?_, ?_, ?_, ?_, ?_, ?_, ?_⟩
  · intro r hr hat
    exact completes_of_run hw (registerWrite_mapped hw hoff ha hat (checkedRegs_apart r hr).1) (writeReg_checked_effect hr h v s)
  · intro p hp hat
    rw [registerWrite_mapped hw hoff ha hat (rowRegs_page p hp), exec_rowRegs hp]
  · intro i h v
    exact ⟨fun he => run_next hw (writeKvInst_unchanged he), fun hn ho => run_next hw (writeKvInst_sets hn ho),
      fun hn ho hp => run_next hw (writeKvInst_clears hn ho hp)⟩
  · intro m h v
    refine ⟨fun hn => run_next hw (writeModelCfg_unchanged hn), fun hn ho => run_next hw (writeModelCfg_clears hn ho),
      fun hn ho => ⟨fun u hp => run_next hw (writeModelCfg_refused hn ho hp), fun p u hp hu => ?_⟩⟩
    obtain ⟨w, hrun, hon, hplan, hmem, hcores⟩ := writeModelCfg_enables hn ho hp
    exact ⟨w, run_next hw hrun, hon, hplan, hmem, by rw [hcores, hu]; rfl⟩
  · intro p h v
    obtain ⟨u, hrun, ho, hdown, hmove⟩ := writePortCfg_ok s p h v
    exact ⟨u, run_next hw hrun, ho.reg _ nofun, hdown, hmove, ho.mem, ho.cores, ho.out⟩
  · intro h v hoff hsend
    by_cases hh : h = .lo
    · subst hh
      exact run_next hw (writeTrmark_low v s)
    · rw [if_neg hh]
      exact run_next hw (writeTrmark_traces hh v hsend (trace_off (s := markTaken s) hoff _ _ _ _ _ _ _))
  · intro h v u hh hsend ht
    exact run_next hw (writeTrmark_traces hh v hsend ht)
  · intro via off bits
    exact ⟨readAccess_unsupported, fun h ha => ⟨readAccess_unmapped ha, fun r hr => ⟨readAccess_gone ha hr,
      readAccess_answers ha hr⟩⟩⟩
  · intro via l v u hr hv
    exact ⟨exec_lowHalfReadLatch hw hr (readLatched_low hv), exec_latchDiscardRead hw hr (readLatched_full hv)⟩

end Sys2Proof
end

section
/-! SUPPORT. The read of TK_STEP: what it answers, and a state where that is not the step number. -/

namespace Sys2Proof.Machine

variable {s : State}

/-- A read of TK_STEP answers the whole register, and latches the tick time. -/
theorem exec_tkStepRead (hw : s.works = true) (h : Half) :
    exec (.tkStepRead h) s = .next { s.setFld F.tkTickTime s.time.tickTime with
      out := s.out ++ [.readData (halfRead h (s.reg .tkStep))] } := by
  refine run_next hw (u := ()) ?_
  have hr : readReg .pf0 .tkStep h s = .ok (halfRead h (s.reg .tkStep)) (s.setFld F.tkTickTime s.time.tickTime) := by
    unfold readReg
    dsimp only [Reg.latch]
    rw [run_bind_ok (run_get s), if_pos rfl, run_bind_ok (run_putFld _ _ s), run_pure]
  rw [run_bind_ok hr, run_emit, setFld_out]

/-- A module that has just reported ready, but with a bit of TK_STEP set above the 48 of its field. -/
def wideStep : State := State.reset.setReg .tkStep (2 ^ 48)

theorem reg_wideStep : wideStep.reg .tkStep = 2 ^ 48 := by rw [wideStep, reg_setReg_same]; norm_num

theorem stepNo_wideStep : wideStep.stepNo = 0 := by
  rw [State.stepNo, State.fld]
  exact (congrArg (bitsOf · 0 48) reg_wideStep).trans (by decide)

theorem works_wideStep : wideStep.works = true := by
  have hr : wideStep.reg .pwStatus = State.reset.reg .pwStatus := reg_setReg_other nofun
  have hs : ∀ f : Fld, f.reg = .pwStatus → wideStep.flag f = State.reset.flag f := fun f hf => by
    rw [State.flag, State.flag, State.fld, State.fld, hf, hr]
  have hu := works_reset
  rw [State.works, State.unstopped] at hu ⊢
  rw [hs F.pwReady rfl, hs F.pwTripped rfl]
  exact hu

end Sys2Proof.Machine

namespace Sys2Proof

open Sys2Proof.Machine

/-- Refutes O55: a 64-bit read of TK_STEP answers the register, not the step number in its low 48 bits, and a state whose
register has bit 48 set, which the statement does not shut out, tells the two apart. -/
theorem not_ticks : ¬ Obligations.Ticks := by
  unfold Obligations.Ticks
  rintro ⟨-, writes⟩
  obtain ⟨-, -, -, hread⟩ := writes wideStep .full 0 works_wideStep
  rw [exec_tkStepRead works_wideStep, reg_wideStep, stepNo_wideStep] at hread
  have hout := congrArg State.out (Host.Outcome.next.inj hread)
  have hdata : halfRead .full (2 ^ 48) = halfRead .full 0 := by simpa using hout
  exact absurd hdata (by decide)

end Sys2Proof
end

section
/-! SUPPORT. Computations that end well and keep a condition on the state: how they are put together. -/

namespace Sys2Proof.Machine

variable {s t : State} {α β : Type} {P : State → Prop}

theorem run_eachM_nil (f : α → M Unit) (s : State) : eachM [] f s = .ok () s := run_pure () s

/-- From each state of which `P` holds the computation ends well, and `P` holds of the state it reaches. -/
def Preserves (P : State → Prop) (m : M α) : Prop := ∀ s, P s → ∃ a t, m s = .ok a t ∧ P t

theorem Preserves.unit {m : M Unit} (h : Preserves P m) (hs : P s) : ∃ t, m s = .ok () t ∧ P t := by
  obtain ⟨a, t, e, ht⟩ := h s hs
  exact ⟨t, e, ht⟩

theorem Preserves.pure (a : α) : Preserves P (pure a) := fun s hs => ⟨a, s, run_pure a s, hs⟩

theorem Preserves.read : Preserves P (get : M State) := fun s hs => ⟨s, s, run_get s, hs⟩

theorem Preserves.modify {f : State → State} (hf : ∀ s, P s → P (f s)) : Preserves P (modify f : M PUnit) :=
  fun s hs => ⟨⟨⟩, f s, run_modify f s, hf s hs⟩

theorem Preserves.bind {m : M α} {f : α → M β} (hm : Preserves P m) (hf : ∀ a, Preserves P (f a)) :
    Preserves P (m >>= f) := fun s hs => by
  obtain ⟨a, t, e, ht⟩ := hm s hs
  rw [run_bind_ok e]
  exact hf a t ht

/-- A computation that goes on with the state it has read may use what holds of it. -/
theorem Preserves.get_bind {f : State → M β} (hf : ∀ s, P s → ∃ b t, f s s = .ok b t ∧ P t) : Preserves P (get >>= f) :=
  fun s hs => by rw [run_bind_ok (run_get s)]; exact hf s hs

theorem Preserves.ite {c : Prop} [Decidable c] {x y : M α} (hx : Preserves P x) (hy : Preserves P y) :
    Preserves P (if c then x else y) := by
  split <;> assumption

theorem Preserves.eachM (l : List α) {f : α → M Unit} (hf : ∀ a, Preserves P (f a)) : Preserves P (eachM l f) :=
  fun s hs => by
    obtain ⟨t, e, ht⟩ := eachM_ok (P := P) l (fun a _ t ht => (hf a).unit ht) hs
    exact ⟨(), t, e, ht⟩

theorem Preserves.fresh (hf : ∀ s, P s → P { s with seed := s.seed + 1 }) : Preserves P fresh :=
  fun s hs => ⟨s.seed, _, run_fresh s, hf s hs⟩

end Sys2Proof.Machine
end

section
/-! SUPPORT. The life of a queue (R308, R309, R335): its configuration is written, and what cancels its work leaves the queue
itself, device memory and the cores alone. -/

namespace Sys2Proof.Machine

variable {s t : State} {c : Ctx} {q : QIdx} {h : Half} {v : W64}

theorem bitOf_toNat {n : Nat} (v : BitVec n) (i : Nat) : bitOf v.toNat i = v.getLsbD i := by
  rw [bitOf, BitVec.getLsbD, Nat.testBit_eq_decide_div_mod_eq, beq_eq_decide]

theorem run_modQueue (c : Ctx) (q : QIdx) (f : QueueSt → QueueSt) (s : State) :
    modQueue c q f s = .ok ⟨⟩ { s with queues := s.queues.insert (c, q) (f (s.queueOf c q)) } := run_modify _ s

/-! ### A generation goes into drain -/

/-- The state with a generation value of a queue in drain. -/
def withDrain (s : State) (c : Ctx) (q : QIdx) (value : Nat) : State :=
  { s with rep := { s.rep with drains := s.rep.drains ++ [⟨c, some q, value, upTo 7⟩] } }

@[simp] theorem fld_withDrain (s : State) (value : Nat) (f : Fld) : (withDrain s c q value).fld f = s.fld f := rfl

@[simp] theorem flag_withDrain (s : State) (value : Nat) (f : Fld) : (withDrain s c q value).flag f = s.flag f := rfl

/-- The generation advances and the old one is in drain (R61); `n` is what RP_DRAIN counts. -/
theorem advanceQueue_run (c : Ctx) (q : QIdx) (s : State) : ∃ n, advanceQueue c q s = .ok () (State.setFld
    (withDrain (s.setFld (F.qGen c q) ((s.fld (F.qGen c q) + 1) % 256)) c q (s.fld (F.qGen c q))) F.drainPending n) := by
  unfold advanceQueue startDrain refreshDrains
  rw [run_bind_ok (run_getFld _ s), run_bind_ok (run_putFld _ _ s), run_bind_ok (run_modify _ _), run_modify]
  exact ⟨_, rfl⟩

/-- Of the queue itself nothing but its generation changes. -/
theorem advanceQueue_ok (c : Ctx) (q : QIdx) (s : State) : ∃ t, advanceQueue c q s = .ok () t ∧
    t.fld (F.qGen c q) = (s.fld (F.qGen c q) + 1) % 256 ∧ t.fld (F.qState c q) = s.fld (F.qState c q) ∧
    t.flag (F.qEnable c q) = s.flag (F.qEnable c q) ∧
    t.rep.drains = s.rep.drains ++ [⟨c, some q, s.fld (F.qGen c q), upTo 7⟩] ∧
    t.queues = s.queues ∧ t.mem = s.mem ∧ t.cores = s.cores := by
  obtain ⟨n, hn⟩ := advanceQueue_run c q s
  let w := s.setFld (F.qGen c q) ((s.fld (F.qGen c q) + 1) % 256)
  have hgen : w.fld (F.qGen c q) = (s.fld (F.qGen c q) + 1) % 256 :=
    (fld_bits_same s (.feQstat c q) (lo := 8) (n := 8) (by decide)).trans (Nat.mod_mod _ _)
  have hstate : w.fld (F.qState c q) = s.fld (F.qState c q) := fld_bits_apart s (.feQstat c q) (by decide) (by decide)
  have henable : w.flag (F.qEnable c q) = s.flag (F.qEnable c q) := flag_setFld_other nofun
  refine ⟨_, hn, ?_, ?_, ?_, rfl, rfl, rfl, rfl⟩
  · rw [fld_setFld_other (by simp [F.drainPending, F.qGen]), fld_withDrain, hgen]
  · rw [fld_setFld_other (by simp [F.drainPending, F.qState]), fld_withDrain, hstate]
  · rw [flag_setFld_other (by simp [F.drainPending, F.qEnable]), flag_withDrain, henable]

/-! ### Setting ENABLE -/

section Enable

variable (s : State) (c : Ctx) (q : QIdx) (h : Half) (v : W64)

/-- The state after FE_QCFGq of a FREE queue is written, ENABLE apart. -/
def qcfgWritten : State := s.checkedWrite (.feQcfg c q) h v (fun lo _ => lo ≠ 0)

/-- The bases of the ring and of the completion ring. -/
def ringBase : Nat := bitsOf (s.reg (.feQring c q)) 12 45
def cringBase : Nat := bitsOf (s.reg (.feQcring c q)) 12 45

/-- The state once the queue is CREATING, before its generation advances. -/
def queueCreating : State :=
  let w := ((qcfgWritten s c q h v).setFlag (F.qEnable c q) true).setFld (F.qState c q) 1
  let x : QueueSt := { cmds := [], push := 0, ring := ringBase s c q * 4096, cring := cringBase s c q * 4096 }
  { w with queues := w.queues.insert (c, q) x }

variable {s c q h v}

/-- What a write of FE_QCFGq comes to where it sets ENABLE on a FREE queue. -/
theorem writeQcfg_sets (hl : s.ctxLive c = true) (hh : h ≠ .hi) (hv : v.getLsbD 0 = true) (h0 : s.fld (F.qState c q) = 0) :
    writeQcfg c q h v s = (if (qcfgWritten s c q h v).fld (F.qSizeLog2 c q) < 6 ∨
        16 < (qcfgWritten s c q h v).fld (F.qSizeLog2 c q) ∨ ringBase s c q = 0 ∨ cringBase s c q = 0
      then .ok () ((qcfgWritten s c q h v).setFlag (F.qCfgReject c q) true)
      else advanceQueue c q (queueCreating s c q h v)) := by
  unfold writeQcfg queueCreating ringBase cringBase qcfgWritten
  have hring : (s.checkedWrite (.feQcfg c q) h v (fun lo _ => lo ≠ 0)).reg (.feQring c q) = s.reg (.feQring c q) :=
    reg_checkedWrite_other nofun
  have hcring : (s.checkedWrite (.feQcfg c q) h v (fun lo _ => lo ≠ 0)).reg (.feQcring c q) = s.reg (.feQcring c q) :=
    reg_checkedWrite_other nofun
  rw [run_bind_ok (run_get s), hl, if_neg (by simp), bitOf_toNat, hv]
  dsimp only
  rw [if_neg hh, if_pos h0, run_bind_ok (run_set _ s), if_pos rfl, run_bind_ok (run_get _), hring, hcring]
  split
  case isTrue => exact run_putFlag _ _ _
  case isFalse =>
    rw [run_bind_ok (run_putFlag _ _ _), run_bind_ok (run_putFld _ _ _), run_bind_ok (run_modQueue _ _ _ _)]
    rfl

theorem queueCreating_effect : (queueCreating s c q h v).fld (F.qState c q) = 1 ∧
    (queueCreating s c q h v).flag (F.qEnable c q) = true ∧
    (queueCreating s c q h v).fld (F.qGen c q) = s.fld (F.qGen c q) ∧
    (queueCreating s c q h v).queueOf c q =
      { cmds := [], push := 0, ring := ringBase s c q * 4096, cring := cringBase s c q * 4096 } := by
  let w := (qcfgWritten s c q h v).setFlag (F.qEnable c q) true
  have hstat : w.reg (.feQstat c q) = s.reg (.feQstat c q) :=
    (reg_setFld_other (f := F.qEnable c q) (r := .feQstat c q) nofun).trans (reg_checkedWrite_other (r' := .feQstat c q) nofun)
  refine ⟨?_, ?_, ?_, AMap.getD_insert_same _ _ _ _⟩
  · exact fld_bits_same w (.feQstat c q) (lo := 0) (n := 2) (v := 1) (by decide)
  · exact (flag_setFld_other (f := F.qState c q) (g := F.qEnable c q) nofun).trans
      (flag_setFlag_same _ true (by decide : 0 + 1 ≤ 64) rfl)
  · exact (fld_bits_apart w (.feQstat c q) (lo := 0) (n := 2) (v := 1) (by decide) (by decide : 0 + 2 ≤ 8 ∨ 8 + 8 ≤ 0)).trans
      (congrArg (bitsOf · 8 8) hstat)

/-- A configuration that is not allowed leaves the queue FREE, and sets CFG_REJECT. -/
theorem writeQcfg_rejects (hl : s.ctxLive c = true) (hh : h ≠ .hi) (hv : v.getLsbD 0 = true) (h0 : s.fld (F.qState c q) = 0)
    (hbad : (qcfgWritten s c q h v).fld (F.qSizeLog2 c q) < 6 ∨ ringBase s c q = 0 ∨ cringBase s c q = 0) :
    writeQcfg c q h v s = .ok () ((qcfgWritten s c q h v).setFlag (F.qCfgReject c q) true) := by
  rw [writeQcfg_sets hl hh hv h0, if_pos]
  rcases hbad with h | h | h
  exacts [.inl h, .inr (.inr (.inl h)), .inr (.inr (.inr h))]

theorem writeQcfg_creates (hl : s.ctxLive c = true) (hh : h ≠ .hi) (hv : v.getLsbD 0 = true) (h0 : s.fld (F.qState c q) = 0)
    (hsize : 6 ≤ (qcfgWritten s c q h v).fld (F.qSizeLog2 c q)) (hring : ringBase s c q ≠ 0) (hcring : cringBase s c q ≠ 0) :
    ∃ t, writeQcfg c q h v s = .ok () t ∧ t.fld (F.qState c q) = 1 ∧ t.flag (F.qEnable c q) = true ∧
      t.fld (F.qGen c q) = (s.fld (F.qGen c q) + 1) % 256 ∧
      t.queueOf c q = { cmds := [], push := 0, ring := ringBase s c q * 4096, cring := cringBase s c q * 4096 } ∧
      t.rep.drains = s.rep.drains ++ [⟨c, some q, s.fld (F.qGen c q), upTo 7⟩] ∧ t.mem = s.mem ∧ t.cores = s.cores := by
  obtain ⟨hstate, henable, hgen, hqueue⟩ := queueCreating_effect (s := s) (c := c) (q := q) (h := h) (v := v)
  obtain ⟨t, ht, hgen', hstate', henable', hdrains, hqueues, hmem, hcores⟩ := advanceQueue_ok c q (queueCreating s c q h v)
  have hmax : (qcfgWritten s c q h v).fld (F.qSizeLog2 c q) < 16 := Nat.mod_lt _ (Nat.two_pow_pos 4)
  refine ⟨t, ?_, hstate'.trans hstate, henable'.trans henable, by rw [hgen', hgen], ?_, ?_, hmem, hcores⟩
  · rw [writeQcfg_sets hl hh hv h0, if_neg, ht]
    rintro (h | h | h | h)
    exacts [by omega, by omega, hring h, hcring h]
  · rw [State.queueOf, hqueues]; exact hqueue
  · rw [hdrains, hgen]; rfl

end Enable

/-! ### What cancels a queue's work leaves alone -/

/-- The queue has no command; its state, its configuration, the drains, memory and the cores are as they were in `s`. -/
structure QueueStands (c : Ctx) (q : QIdx) (s t : State) : Prop where
  cmds : (t.queueOf c q).cmds = []
  stat : t.reg (.feQstat c q) = s.reg (.feQstat c q)
  cfg : t.reg (.feQcfg c q) = s.reg (.feQcfg c q)
  rep : t.rep = s.rep
  mem : t.mem = s.mem
  cores : t.cores = s.cores

namespace QueueStands

theorem refl (h : (s.queueOf c q).cmds = []) : QueueStands c q s s := ⟨h, rfl, rfl, rfl, rfl, rfl⟩

theorem setFld (h : QueueStands c q s t) (f : Fld) (v : Nat) (hs : f.reg ≠ .feQstat c q) (hc : f.reg ≠ .feQcfg c q) :
    QueueStands c q s (t.setFld f v) :=
  ⟨h.cmds, (reg_setFld_other hs).trans h.stat, (reg_setFld_other hc).trans h.cfg, h.rep, h.mem, h.cores⟩

/-- A change of commands, whichever queue holds them. -/
theorem modCmd (c' : Ctx) (q' : QIdx) (i : W32) (f : Cmd → Cmd) : Preserves (QueueStands c q s) (modCmd c' q' i f) :=
  .modify fun t h => by
    refine ⟨?_, h.stat, h.cfg, h.rep, h.mem, h.cores⟩
    by_cases e : (c', q') = (c, q)
    · cases e
      simp [State.queueOf, show (t.queues.getD (c, q) .empty).cmds = [] from h.cmds]
    · simp only [State.queueOf, AMap.getD_insert_other e]
      exact h.cmds

theorem putFld (f : Fld) (v : Nat) (hs : f.reg ≠ .feQstat c q) (hc : f.reg ≠ .feQcfg c q) :
    Preserves (QueueStands c q s) (putFld f v) := .modify fun _ h => h.setFld f v hs hc

theorem refreshSets : Preserves (QueueStands c q s) refreshSets :=
  .modify fun _ h => (h.setFld F.setsHeld _ nofun nofun).setFld F.setsInUse _ nofun nofun

theorem modWt (m : Model) (f : WtSt → WtSt) : Preserves (QueueStands c q s) (modWt m f) :=
  .bind (.modify fun _ h => ⟨h.cmds, h.stat, h.cfg, h.rep, h.mem, h.cores⟩) fun _ => refreshSets

theorem endSys (r : SysRef) (st fault : Nat) : Preserves (QueueStands c q s) (endSys r st fault) := by
  unfold Machine.endSys
  refine .bind .read fun t => ?_
  split
  · exact .ite (modCmd _ _ _ _) (.pure _)
  · exact .pure _

theorem refreshChan (e : DmaEng) (ch : Nat) : Preserves (QueueStands c q s) (refreshChan e ch) :=
  .modify fun t h => by
    split
    · exact (h.setFld (F.dmQueued _ _) _ nofun nofun).setFld (F.dmBusy _ _) _ nofun nofun
    · exact h

theorem endOwn (use : OwnUse) (bytes : Die → Nat) : Preserves (QueueStands c q s) (endOwn use bytes) := by
  refine .eachM _ fun d => .bind .read fun t => ?_
  dsimp only
  split
  · exact .bind (.modify fun _ h => ⟨h.cmds, h.stat, h.cfg, h.rep, h.mem, h.cores⟩) fun _ =>
      .bind (.modify fun _ h => h.setFld (F.dmBytes d) _ nofun nofun) fun _ =>
      .bind (.modify fun _ h => ⟨h.cmds, h.stat, h.cfg, h.rep, h.mem, h.cores⟩) fun _ => refreshChan _ _
  · exact .pure _

theorem dropFlight (m : Model) (p : ShardSt → Bool) : Preserves (QueueStands c q s) (dropFlight m p) :=
  .bind .read fun _ => .bind (.eachM _ fun _ => .bind (endOwn _ _) fun _ =>
    .modify fun _ h => ⟨h.cmds, h.stat, h.cfg, h.rep, h.mem, h.cores⟩) fun _ => modWt _ _

theorem putWtState (m : Model) (st : Nat) : Preserves (QueueStands c q s) (putWtState m st) :=
  .bind (putFld (F.wState m) _ nofun nofun) fun _ => .bind refreshSets fun _ => .bind .read fun _ =>
    putFld (F.wLayer m) _ nofun nofun

theorem endWt (m : Model) (st status fault : Nat) : Preserves (QueueStands c q s) (endWt m st status fault) := by
  have hlast : ∀ f, Preserves (QueueStands c q s) (Machine.modWt m f >>= fun _ => Machine.putWtState m st) := fun f =>
    .bind (modWt _ _) fun _ => putWtState _ _
  have hrest : Preserves (QueueStands c q s) (do
      let streamed ← getFlag (F.wMode m)
      if streamed then Pure.pure () else Machine.dropFlight m (fun _ => true)
      Machine.modWt m (fun w => { w.keep streamed with q := none })
      Machine.putWtState m st) := by
    refine .bind (.bind .read fun _ => .pure _) fun streamed => ?_
    dsimp only
    split
    · exact hlast _
    · exact .bind (dropFlight _ _) fun _ => hlast _
  unfold Machine.endWt
  refine .bind .read fun t => ?_
  dsimp only
  split
  · exact .bind (endSys _ _ _) fun _ => hrest
  · exact hrest

theorem cancelWt (c' : Ctx) (q' : QIdx) : Preserves (QueueStands c q s) (cancelWt c' q') :=
  .bind .read fun _ => .eachM _ fun _ => endWt _ _ _ _

theorem refreshSaved : Preserves (QueueStands c q s) refreshSaved :=
  .bind .read fun _ => .bind (.eachM _ fun d => putFld (F.saved d) _ nofun nofun) fun _ =>
    .eachM _ fun p => putFld (F.partSaved p.1) _ nofun nofun

/-- A queue without commands has no work to leave the engines. -/
theorem cancelQueue (status fault : Nat) : Preserves (QueueStands c q s) (cancelQueue c q status fault) :=
  .get_bind fun t h => by
    dsimp only
    rw [h.cmds]
    rw [run_bind_ok (run_eachM_nil _ t)]
    refine Preserves.bind (cancelWt c q) (fun _ => ?_) t h
    refine Preserves.bind ?_ fun _ => refreshSaved
    refine .modify fun t h => ?_
    exact ⟨h.cmds, h.stat, h.cfg, h.rep, h.mem, h.cores⟩

/-- A queue without commands has no records to write. -/
theorem recordQueue : Preserves (QueueStands c q s) (recordQueue c q) :=
  .get_bind fun t h => by
    dsimp only
    rw [h.cmds]
    exact ⟨(), _, (run_bind_ok (run_modify _ t)).trans (run_pure () _), h.cmds, h.stat, h.cfg, h.rep, h.mem, h.cores⟩

theorem poisonFence (c' : Ctx) (f : FenceId) : Preserves (QueueStands c q s) (poisonFence c' f) :=
  .bind (putFld (F.fencePoison c' f) _ nofun nofun) fun _ => .bind .read fun _ => .eachM _ fun _ => .eachM _ fun _ =>
    modCmd _ _ _ _

theorem poisonOwned (c' : Ctx) (q' : QIdx) : Preserves (QueueStands c q s) (poisonOwned c' q') :=
  .bind .read fun _ => .eachM _ fun _ => poisonFence _ _

end QueueStands

/-! ### Clearing ENABLE -/

/-- The state in which the queue is DESTROYING and its work is still to be cancelled. -/
def queueDestroying (s : State) (c : Ctx) (q : QIdx) : State := (s.setFlag (F.qEnable c q) false).setFld (F.qState c q) 3

theorem queueDestroying_effect (s : State) (c : Ctx) (q : QIdx) : (queueDestroying s c q).fld (F.qState c q) = 3 ∧
    (queueDestroying s c q).flag (F.qEnable c q) = false ∧ (queueDestroying s c q).fld (F.qGen c q) = s.fld (F.qGen c q) := by
  let w := s.setFlag (F.qEnable c q) false
  have hstat : w.reg (.feQstat c q) = s.reg (.feQstat c q) := reg_setFld_other (f := F.qEnable c q) (r := .feQstat c q) nofun
  refine ⟨?_, ?_, ?_⟩
  · exact fld_bits_same w (.feQstat c q) (lo := 0) (n := 2) (v := 3) (by decide)
  · exact (flag_setFld_other (f := F.qState c q) (g := F.qEnable c q) nofun).trans
      (flag_setFlag_same s false (by decide : 0 + 1 ≤ 64) rfl)
  · exact (fld_bits_apart w (.feQstat c q) (lo := 0) (n := 2) (v := 3) (by decide) (by decide : 0 + 2 ≤ 8 ∨ 8 + 8 ≤ 0)).trans
      (congrArg (bitsOf · 8 8) hstat)

/-- A write that clears ENABLE on an ACTIVE queue. -/
theorem writeQcfg_clears (hl : s.ctxLive c = true) (hh : h ≠ .hi) (hv : v.getLsbD 0 = false) (h2 : s.fld (F.qState c q) = 2) :
    writeQcfg c q h v s = (cancelQueue c q 1 0 >>= fun _ => advanceQueue c q >>= fun _ => recordQueue c q >>= fun _ =>
      poisonOwned c q) (queueDestroying s c q) := by
  unfold writeQcfg
  rw [run_bind_ok (run_get s), hl, if_neg (by simp), bitOf_toNat, hv]
  dsimp only
  rw [if_neg hh, h2, if_neg (by simp), if_pos (by simp), run_bind_ok (run_putFlag _ _ _), run_bind_ok (run_putFld _ _ _)]
  rfl

theorem writeQcfg_destroys (hl : s.ctxLive c = true) (hh : h ≠ .hi) (hv : v.getLsbD 0 = false) (h2 : s.fld (F.qState c q) = 2)
    (he : (s.queueOf c q).cmds = []) : ∃ t, writeQcfg c q h v s = .ok () t ∧
      t.fld (F.qState c q) = 3 ∧ t.flag (F.qEnable c q) = false ∧ t.fld (F.qGen c q) = (s.fld (F.qGen c q) + 1) % 256 ∧
      t.rep.drains = s.rep.drains ++ [⟨c, some q, s.fld (F.qGen c q), upTo 7⟩] ∧ t.mem = s.mem ∧ t.cores = s.cores := by
  obtain ⟨hstate, henable, hgen⟩ := queueDestroying_effect s c q
  obtain ⟨t, ht, a⟩ := (QueueStands.cancelQueue 1 0).unit (.refl (s := queueDestroying s c q) he)
  obtain ⟨u, hu, hgen', hstate', henable', hdrains, hqueues, hmem, hcores⟩ := advanceQueue_ok c q t
  have hcmds : (u.queueOf c q).cmds = [] := by rw [State.queueOf, hqueues]; exact a.cmds
  obtain ⟨w, hw, b⟩ := (QueueStands.recordQueue.bind fun _ => QueueStands.poisonOwned c q).unit (.refl hcmds)
  have hfld : ∀ f : Fld, f.reg = .feQstat c q → w.fld f = u.fld f ∧ t.fld f = (queueDestroying s c q).fld f := fun f hf => by
    simp only [State.fld, hf, a.stat, b.stat, and_self]
  have hflag : w.flag (F.qEnable c q) = u.flag (F.qEnable c q) ∧
      t.flag (F.qEnable c q) = (queueDestroying s c q).flag (F.qEnable c q) := by
    simp only [State.flag, State.fld, F.qEnable, a.cfg, b.cfg, and_self]
  refine ⟨w, ?_, ?_, ?_, ?_, ?_, ?_, ?_⟩
  · rw [writeQcfg_clears hl hh hv h2, run_bind_ok ht, run_bind_ok hu, hw]
  · rw [(hfld _ rfl).1, hstate', (hfld _ rfl).2, hstate]
  · rw [hflag.1, henable', hflag.2, henable]
  · rw [(hfld _ rfl).1, hgen', (hfld _ rfl).2, hgen]
  · rw [b.rep, hdrains, a.rep, (hfld _ rfl).2, hgen]; rfl
  · rw [b.mem, hmem, a.mem]; rfl
  · rw [b.cores, hcores, a.cores]; rfl

/-! ### The drain -/

theorem exec_queueActive (hw : s.works = true) (h1 : s.fld (F.qState c q) = 1) (hd : s.queueDrains c q = false) :
    exec (.queueActive c q) s = .next (((((s.setFld (F.qHead c q) 0).setFld (F.qTail c q) 0).setFld
      (F.qChead c q) 0).setFld (F.qCtail c q) 0).setFld (F.qState c q) 2) := by
  refine run_next hw (u := ()) ?_
  rw [run_bind_ok (run_get s), h1, hd]
  exact run_bind_ok (run_guardWait_true s)

theorem exec_queueFree (hw : s.works = true) (h3 : s.fld (F.qState c q) = 3) (hd : s.queueDrains c q = false) :
    exec (.queueFree c q) s = .next (s.setFld (F.qState c q) 0) := by
  refine run_next hw (u := ()) ?_
  rw [run_bind_ok (run_get s), h3, hd]
  exact run_bind_ok (run_guardWait_true s)

/-! ### The two writes as commands -/

theorem exec_feQcfgEnableSet (hw : s.works = true) (hv : v.getLsbD 0 = true) (ht : writeQcfg c q h v s = .ok () t) :
    exec (.feQcfgEnableSet c q h v) s = .next t := by
  refine run_next hw (u := ()) ?_
  rw [bitOf_toNat, hv, run_bind_ok (run_guardWait_true s), ht]

theorem exec_feQcfgEnableClear (hw : s.works = true) (hv : v.getLsbD 0 = false) (ht : writeQcfg c q h v s = .ok () t) :
    exec (.feQcfgEnableClear c q h v) s = .next t := by
  refine run_next hw (u := ()) ?_
  rw [bitOf_toNat, hv, Bool.not_false, run_bind_ok (run_guardWait_true s), ht]

end Sys2Proof.Machine

namespace Sys2Proof

open Sys2Proof.Machine

/-- Settles O22: a write judges the configuration that it leaves, or cancels the queue's work, which leaves the queue's own
registers alone; then the generation advances. -/
theorem queueLife : Obligations.QueueLife := by
  unfold Obligations.QueueLife
  intro s c q h v hw hl hh
  refine ⟨fun hv h0 => ⟨fun hsize hring hcring => ?_, fun hbad => ?_⟩, fun hv h2 he => ?_, exec_queueActive hw,
    exec_queueFree hw⟩
  · obtain ⟨t, ht, hp⟩ := writeQcfg_creates hl hh hv h0 hsize hring hcring
    exact ⟨t, exec_feQcfgEnableSet hw hv ht, hp⟩
  · exact exec_feQcfgEnableSet hw hv (writeQcfg_rejects hl hh hv h0 hbad)
  · obtain ⟨t, ht, hp⟩ := writeQcfg_destroys hl hh hv h2 he
    exact ⟨t, exec_feQcfgEnableClear hw hv ht, hp⟩

end Sys2Proof
end

section
/-! SUPPORT. What sending on the links changes: the ports, the registers of links and of the configuration, what has been sent, and
the count of free values. -/

namespace Sys2Proof.Machine

variable {s t u : State} {p : Port}

/-! ### States that differ in their links -/

/-- The registers that sending on the links, and the check of the configuration, write. -/
def Reg.ofLinks : Reg → Bool
  | .jlPortTx _ | .jlPortStat _ | .rpCfgDigest _ | .rpCfgStat => true
  | _ => false

/-- The state without registers, fabric, outputs and the count of free values. -/
def State.sansLinks (s : State) : State := { s with regs := [], fab := State.reset.fab, out := [], seed := 0 }

/-- Sending on the links leads from `s` to `t`: no port changes its state, or what it keeps of the measurement of its delay. -/
structure LinksOnly (s t : State) : Prop where
  rest : t.sansLinks = s.sansLinks
  reg : ∀ r, r.ofLinks = false → t.reg r = s.reg r
  portState : ∀ p, t.fld (F.portState p) = s.fld (F.portState p)
  delay : ∀ p, (t.portOf p).delayReq = (s.portOf p).delayReq ∧ (t.portOf p).stepsToDelay = (s.portOf p).stepsToDelay

namespace LinksOnly

theorem refl (s : State) : LinksOnly s s := ⟨rfl, fun _ _ => rfl, fun _ => rfl, fun _ => ⟨rfl, rfl⟩⟩

theorem trans (a : LinksOnly s t) (b : LinksOnly t u) : LinksOnly s u :=
  ⟨b.rest.trans a.rest, fun r hr => (b.reg r hr).trans (a.reg r hr), fun p => (b.portState p).trans (a.portState p),
    fun p => ⟨(b.delay p).1.trans (a.delay p).1, (b.delay p).2.trans (a.delay p).2⟩⟩

theorem mem (h : LinksOnly s t) : t.mem = s.mem := (congrArg State.mem h.rest :)
theorem cores (h : LinksOnly s t) : t.cores = s.cores := (congrArg State.cores h.rest :)
theorem time (h : LinksOnly s t) : t.time = s.time := (congrArg State.time h.rest :)

theorem fld (h : LinksOnly s t) {f : Fld} (hf : f.reg.ofLinks = false) : t.fld f = s.fld f := by
  rw [State.fld, h.reg _ hf]; rfl

theorem flag (h : LinksOnly s t) {f : Fld} (hf : f.reg.ofLinks = false) : t.flag f = s.flag f := by
  rw [State.flag, h.fld hf]; rfl

/-- A field of the links' registers beside the state of a port. -/
theorem setFld (h : LinksOnly s t) (f : Fld) (v : Nat) (hf : f.reg.ofLinks = true)
    (hp : (∀ p, f.reg ≠ .jlPortStat p) ∨ 3 ≤ f.lo ∧ f.lo + f.width ≤ 64) : LinksOnly s (t.setFld f v) := by
  refine ⟨h.rest, fun r hr => (reg_setFld_other fun e => ?_).trans (h.reg r hr), fun p => ?_, h.delay⟩
  · rw [e, hr] at hf; cases hf
  · refine Eq.trans ?_ (h.portState p)
    by_cases e : f.reg = .jlPortStat p
    · obtain ⟨hlo, hw⟩ := hp.resolve_left fun a => a p e
      exact fld_setFld_apart t v e hw (.inr hlo)
    · exact fld_setFld_other e

/-- A change of a port that keeps what it holds of the measurement of its delay. -/
theorem setPort (h : LinksOnly s t) (p : Port) (f : PortSt → PortSt)
    (hf : ∀ x, (f x).delayReq = x.delayReq ∧ (f x).stepsToDelay = x.stepsToDelay) :
    LinksOnly s { t with fab := { t.fab with ports := t.fab.ports.insert p (f (t.portOf p)) } } := by
  refine ⟨h.rest, h.reg, h.portState, fun q => ?_⟩
  by_cases e : p = q
  · subst e
    rw [State.portOf, AMap.getD_insert_same]
    exact ⟨(hf _).1.trans (h.delay p).1, (hf _).2.trans (h.delay p).2⟩
  · rw [State.portOf, AMap.getD_insert_other e]
    exact h.delay q

end LinksOnly

/-! ### Flits -/

/-- Nothing has been sent but flits of a port. -/
structure FlitsOnly (p : Port) (s t : State) : Prop extends LinksOnly s t where
  out : ∃ l, t.out = s.out ++ l ∧ ∀ o ∈ l, ∃ f h k, o = Out.flit p f h k

namespace FlitsOnly

theorem refl (p : Port) (s : State) : FlitsOnly p s s := ⟨.refl s, [], by simp, by simp⟩

/-- A change that sends nothing. -/
theorem silent (h : FlitsOnly p s t) (hu : LinksOnly s u) (ho : u.out = t.out) : FlitsOnly p s u := ⟨hu, ho ▸ h.out⟩

theorem fresh : Preserves (FlitsOnly p s) fresh := .fresh fun _ h => h.silent ⟨h.rest, h.reg, h.portState, h.delay⟩ rfl

theorem modPort {f : PortSt → PortSt} (hf : ∀ x, (f x).delayReq = x.delayReq ∧ (f x).stepsToDelay = x.stepsToDelay) :
    Preserves (FlitsOnly p s) (modPort p f) := .modify fun _ h => h.silent (h.setPort p f hf) rfl

theorem noteFrame (frame : Nat) : Preserves (FlitsOnly p s) (noteFrame p frame) :=
  .bind .read fun _ => .bind (modPort fun _ => ⟨rfl, rfl⟩) fun _ =>
    .bind (.modify fun _ h => h.silent (h.setFld (F.txFrames p) _ rfl (.inl nofun)) rfl) fun _ =>
      .ite (.modify fun _ h => h.silent (h.setFld (F.keyHold p) _ rfl (.inr (by simp [F.keyHold]))) rfl) (.pure _)

theorem passIdle : Preserves (FlitsOnly p s) (passIdle p) :=
  .bind .read fun _ => .bind fresh fun _ => .bind (noteFrame _) fun _ => .pure _

theorem emitFlit (f : SentFlit) (h : List Byte) (k : Option Nat) : Preserves (FlitsOnly p s) (emit (.flit p f h k)) :=
  .modify fun t a => by
    obtain ⟨l, hl, hf⟩ := a.out
    refine ⟨⟨a.rest, a.reg, a.portState, a.delay⟩, l ++ [.flit p f h k], by simp [hl], fun o ho => ?_⟩
    rcases List.mem_append.mp ho with ho | ho
    · exact hf o ho
    · exact ⟨f, h, k, List.mem_singleton.mp ho⟩

theorem sendFlit (f : SentFlit) (frame : Nat) : Preserves (FlitsOnly p s) (sendFlit p f frame) :=
  .bind .read fun _ => .bind (modPort fun _ => ⟨rfl, rfl⟩) fun _ => emitFlit _ _ _

theorem sendFlits (n : Nat) : Preserves (FlitsOnly p s) (sendFlits p n) := by
  induction n with
  | zero => exact .pure _
  | succ k ih =>
    unfold Machine.sendFlits
    refine .bind .read fun t => ?_
    dsimp only
    split
    · exact .pure _
    · refine .ite (.bind (sendFlit _ _) fun _ => ih) (.bind passIdle fun frame => .ite (.pure _) ?_)
      exact .bind (sendFlit _ _) fun _ => .bind (noteFrame _) fun _ => ih

theorem transmit (type : Nat) (bytes : List Byte) : Preserves (FlitsOnly p s) (transmit p type bytes) :=
  .bind (modPort fun _ => ⟨rfl, rfl⟩) fun _ => .bind .read fun _ => sendFlits _

end FlitsOnly

/-! ### Messages -/

namespace LinksOnly

/-- What holds from any state holds after a change of the links. -/
theorem preserves {m : M α} (h : ∀ t, ∃ a u, m t = .ok a u ∧ LinksOnly t u) : Preserves (LinksOnly s) m := fun t ht => by
  obtain ⟨a, u, e, hu⟩ := h t
  exact ⟨a, u, e, ht.trans hu⟩

theorem transmit (p : Port) (type : Nat) (bytes : List Byte) : Preserves (LinksOnly s) (transmit p type bytes) :=
  preserves fun t => by
    obtain ⟨a, u, e, hu⟩ := FlitsOnly.transmit type bytes t (.refl p t)
    exact ⟨a, u, e, hu.toLinksOnly⟩

theorem emit (o : Out) : Preserves (LinksOnly s) (emit o) := .modify fun _ h => ⟨h.rest, h.reg, h.portState, h.delay⟩

theorem modPort (p : Port) {f : PortSt → PortSt}
    (hf : ∀ x, (f x).delayReq = x.delayReq ∧ (f x).stepsToDelay = x.stepsToDelay) :
    Preserves (LinksOnly s) (modPort p f) := .modify fun _ h => h.setPort p f hf

theorem sendConfig (p : Port) : Preserves (LinksOnly s) (sendConfig p) :=
  .bind .read fun _ => .ite (.bind (modPort p fun _ => ⟨rfl, rfl⟩) fun _ => .bind (emit _) fun _ => transmit _ _ _) (.pure _)

theorem sendBeacon (b : Beacon) (p : Port) : Preserves (LinksOnly s) (sendBeacon b p) :=
  .bind (.fresh fun _ h => ⟨h.rest, h.reg, h.portState, h.delay⟩) fun _ => .bind (emit _) fun _ => transmit _ _ _

theorem forwardBeacon (p : Port) (b : Beacon) : Preserves (LinksOnly s) (forwardBeacon p b) :=
  .ite (.pure _) (.bind .read fun _ => .eachM _ fun _ => sendBeacon _ _)

theorem fetchRead (p : Port) (held : List Byte) : Preserves (LinksOnly s) (fetchRead p held) :=
  .get_bind fun t h => by
    dsimp only
    rw [run_bind_ok (run_set _ t)]
    exact Preserves.bind (emit _) (fun _ => transmit _ _ _) _ ⟨h.rest, h.reg, h.portState, h.delay⟩

theorem fetchStart (p : Port) : Preserves (LinksOnly s) (fetchStart p) :=
  .bind .read fun _ => .ite (fetchRead p []) (.pure _)

theorem refreshDigest (h : LinksOnly s t) : LinksOnly s t.refreshDigest := by
  have hreg : ∀ r, (∀ k, Reg.rpCfgDigest k ≠ r) → t.refreshDigest.reg r = t.reg r := fun r hr =>
    (reg_setReg_other (hr 1)).trans (reg_setReg_other (hr 0))
  refine ⟨h.rest, fun r hr => (hreg r fun k e => ?_).trans (h.reg r hr), fun p => ?_, h.delay⟩
  · rw [← e] at hr; cases hr
  · exact (congrArg (bitsOf · 0 3) (hreg (.jlPortStat p) nofun)).trans (h.portState p)

theorem refreshConfig (epoch : W32) : Preserves (LinksOnly s) (refreshConfig epoch) :=
  .get_bind fun t h => by
    rw [run_bind_ok (run_set _ t), run_bind_ok (run_get _)]
    exact Preserves.ite (.pure _) (.eachM _ sendConfig) _ h.refreshDigest

/-! ### The check of the configuration (R515) -/

/-- A context whose ring is disabled takes no event (R32). -/
theorem raiseEvent_off {c : Ctx} (he : s.flag (F.evEnable c) = false) (code about detail : Nat) :
    raiseEvent c code about detail s = .ok () s := by
  unfold Machine.raiseEvent
  rw [run_bind_ok (run_get s), he, Bool.and_false, Bool.not_false, if_pos rfl, run_pure]

theorem configMismatch (hs : s.flag (F.evEnable 0) = false) (p : Port) (reason : Nat) :
    Preserves (LinksOnly s) (configMismatch p reason) := by
  have hevent : ∀ a b d, Preserves (LinksOnly s) (systemEvent a b d) := fun a b d t h =>
    ⟨(), t, raiseEvent_off ((h.flag (f := F.evEnable 0) rfl).trans hs) a b d, h⟩
  unfold Machine.configMismatch
  refine .bind .read fun t => .ite (.pure _) ?_
  refine .bind (modPort p fun _ => ⟨rfl, rfl⟩) fun _ => ?_
  refine .bind (.modify fun _ h => h.setFld F.cfgPorts _ rfl (.inl nofun)) fun _ => ?_
  exact .bind (.modify fun _ h => h.setFld F.cfgEvents _ rfl (.inl nofun)) fun _ => .bind (hevent _ _ _) fun _ =>
    .ite (.pure _) (sendConfig p)

theorem configConsistent (p : Port) : Preserves (LinksOnly s) (configConsistent p) :=
  .bind .read fun _ => .bind (modPort p fun _ => ⟨rfl, rfl⟩) fun _ =>
    .bind (.modify fun _ h => h.setFld F.cfgPorts _ rfl (.inl nofun)) fun _ => .ite (sendConfig p) (.pure _)

theorem checkConfig (hs : s.flag (F.evEnable 0) = false) (p : Port) (source : Nat) (digest : BitVec 128) (epoch : W32)
    (mismatch : Bool) : Preserves (LinksOnly s) (checkConfig p source digest epoch mismatch) := by
  unfold Machine.checkConfig
  refine .bind .read fun t => .bind (modPort p fun _ => ⟨rfl, rfl⟩) fun _ => .ite ?_ ?_
  · exact .ite (configMismatch hs p 1) (.ite (configMismatch hs p 4) (configConsistent p))
  · split
    · exact configMismatch hs p 2
    · exact .bind (modPort p fun _ => ⟨rfl, rfl⟩) fun _ =>
        .ite (configMismatch hs p 3) (.ite (configMismatch hs p 4) (.pure _))

end LinksOnly

end Sys2Proof.Machine
end

section
/-! SUPPORT. The delay of a link (R433): the timed exchange, and the port that enters UP with its first answer. -/

namespace Sys2Proof.Machine

variable {s t u : State} {p : Port}

theorem linksRun_of_works (hw : s.works = true) : s.linksRun = true := by rw [State.linksRun, hw, Bool.true_or]

/-- A command of a link whose computation ends well answers the state it reaches. -/
theorem runLink_next {m : M Unit} (hw : s.works = true) (h : m s = .ok () t) : runLink m s = .next t := by
  rw [runLink, linksRun_of_works hw, if_pos rfl, runAny_ok h]

theorem run_modPort (p : Port) (f : PortSt → PortSt) (s : State) :
    modPort p f s = .ok ⟨⟩ { s with fab := { s.fab with ports := s.fab.ports.insert p (f (s.portOf p)) } } := run_modify _ s

/-- A LINK message goes out, and then flits of its port. -/
theorem sendLink_ok (p : Port) (subtype : Nat) (bs : List Byte) (s : State) : ∃ t, sendLink p subtype bs s = .ok () t ∧
    LinksOnly s t ∧ ∃ flits, t.out = s.out ++ .link p subtype bs :: flits ∧ ∀ o ∈ flits, ∃ f h k, o = .flit p f h k := by
  obtain ⟨t, ht, hl⟩ := (FlitsOnly.transmit 11 (leBytes 1 subtype ++ bs)).unit
    (.refl p { s with out := s.out ++ [.link p subtype bs] })
  obtain ⟨flits, hout, hf⟩ := hl.out
  refine ⟨t, (run_bind_ok (run_emit _ s)).trans ht, ⟨hl.rest, hl.reg, hl.portState, hl.delay⟩, flits, ?_, hf⟩
  rw [hout, List.append_assoc, List.singleton_append]

section Delay

variable {t1 t2 t3 t4 : BitVec 64}

/-- The measurement is under way: the time of the request is kept, and the next one is 1,024 steps ahead. -/
def measuring (s : State) (p : Port) (t1 : BitVec 64) : State :=
  let x : PortSt := { s.portOf p with delayReq := some t1.toNat, stepsToDelay := 1024 }
  { s with fab := { s.fab with ports := s.fab.ports.insert p x } }

theorem exec_linkDelayMeasure (hw : s.works = true) (h3 : s.fld (F.portState p) = 3) (hk : (s.portOf p).keys ≠ [])
    (ht : sendLink p 4 (leBytes 8 t1.toNat) (measuring s p t1) = .ok () t) : exec (.linkDelayMeasure p t1) s = .next t := by
  have hg : ((s.fld (F.portState p) == 3 && !(s.portOf p).keys.isEmpty)
      || (s.fld (F.portState p) == 4 && (s.portOf p).stepsToDelay == 0)) = true := by simpa [h3] using hk
  refine runLink_next hw ?_
  rw [run_bind_ok (run_get s), hg, run_bind_ok (run_guardWait_true s), run_bind_ok (run_modPort _ _ s)]
  exact ht

theorem exec_delayReq (hw : s.works = true) (h3 : s.fld (F.portState p) = 3) (hk : (s.portOf p).keys ≠ [])
    (ht : sendLink p 5 (leBytes 8 t2.toNat ++ leBytes 8 t3.toNat) s = .ok () t) : exec (.delayReq p t1 t2 t3) s = .next t := by
  refine runLink_next hw ?_
  have hg : (decide (3 ≤ s.fld (F.portState p) ∧ s.fld (F.portState p) ≤ 4) && !(s.portOf p).keys.isEmpty
      && decide (t1.toNat < 2 ^ 64)) = true := by simpa [h3, t1.isLt] using hk
  rw [run_bind_ok (run_get s), hg, run_bind_ok (run_guardWait_true s)]
  exact ht

/-- The answer has come: the delay is noted. -/
def delayNoted (s : State) (p : Port) (t1 : Nat) (t2 t3 t4 : BitVec 64) : State :=
  State.setFld { s with fab := { s.fab with ports := s.fab.ports.insert p { s.portOf p with delayReq := none } } }
    (F.delayPs p) (linkDelay (BitVec.ofNat 64 t1) t2 t3 t4)

/-- The port stands UP, and has sent nothing yet. -/
def enteredUp (s : State) (p : Port) : State :=
  let w := s.setFld (F.portState p) 4
  { w with fab := { w.fab with ports := w.fab.ports.insert p { w.portOf p with entered := true, stepsToDelay := 1024 } } }

theorem portUp_ok (p : Port) (s : State) : ∃ t, portUp p s = .ok () t ∧ LinksOnly (enteredUp s p) t := by
  have hsend : Preserves (LinksOnly (enteredUp s p)) (do
      eachM (upTo 4) (fun vc => emit (.credit p vc 1024))
      sendConfig p
      fetchStart p) :=
    .bind (.eachM _ fun _ => LinksOnly.emit _) fun _ => .bind (LinksOnly.sendConfig p) fun _ => LinksOnly.fetchStart p
  obtain ⟨t, ht, hl⟩ := hsend.unit (.refl _)
  exact ⟨t, (run_bind_ok (run_putFld _ _ s)).trans ((run_bind_ok (run_modPort _ _ _)).trans ht), hl⟩

theorem exec_delayRsp {t1 : Nat} (hw : s.works = true) (hs : s.fld (F.portState p) = 3 ∨ s.fld (F.portState p) = 4)
    (hr : (s.portOf p).delayReq = some t1)
    (ht : (if s.fld (F.portState p) = 3 then portUp p else pure ()) (delayNoted s p t1 t2 t3 t4) = .ok () t) :
    exec (.delayRsp p t2 t3 t4) s = .next t := by
  have hg : decide (3 ≤ s.fld (F.portState p) ∧ s.fld (F.portState p) ≤ 4) = true := by
    rcases hs with e | e <;> rw [e] <;> rfl
  refine runLink_next hw ?_
  rw [run_bind_ok (run_get s), hr, run_bind_ok (run_needSome t1 s), hg, run_bind_ok (run_guardWait_true s),
    run_bind_ok (run_modPort _ _ s), run_bind_ok (run_putFld _ _ _)]
  exact ht

theorem enteredUp_delayNoted (s : State) (p : Port) (t1 : Nat) (t2 t3 t4 : BitVec 64) :
    (enteredUp (delayNoted s p t1 t2 t3 t4) p).fld (F.delayPs p) = linkDelay (BitVec.ofNat 64 t1) t2 t3 t4 % 2 ^ 32 ∧
    (enteredUp (delayNoted s p t1 t2 t3 t4) p).fld (F.portState p) = 4 ∧
    ((enteredUp (delayNoted s p t1 t2 t3 t4) p).portOf p).delayReq = none := by
  refine ⟨?_, fld_bits_same (delayNoted s p t1 t2 t3 t4) (.jlPortStat p) (lo := 0) (n := 3) (v := 4) (by decide), ?_⟩
  · exact (fld_setFld_other (s := delayNoted s p t1 t2 t3 t4) (f := F.portState p) (g := F.delayPs p) nofun).trans
      (fld_setFld_same _ _ (by decide : 0 + 32 ≤ 64))
  · simp [enteredUp, delayNoted, State.portOf]

end Delay

end Sys2Proof.Machine
end

section
/-! SUPPORT. Beacons (R39-R43, R46, R47): which one is adopted, refused, or puts the module in CONFLICT, and what a follower does
with one that it adopts. -/

namespace Sys2Proof.Machine

variable {s t u : State} {p : Port} {b : Beacon} {now : Nat}

/-! ### Device time looked at -/

/-- The state after a look at device time. -/
def sampled (s : State) (now : Nat) : State := { s.setFld F.tkTime now with seed := s.seed + 1 }

theorem sampleTime_run (h : sampleTime s = .ok now u) : u = sampled s now := by
  unfold sampleTime at h
  rw [run_bind_ok (run_get s)] at h
  dsimp only at h
  rw [run_bind_ok (run_set _ s), run_pure] at h
  cases h; rfl

theorem fld_sampled {f : Fld} (hf : f.reg ≠ .tkTime) : (sampled s now).fld f = s.fld f :=
  fld_setFld_other (f := F.tkTime) (Ne.symm hf)

/-! ### The judgement of a beacon -/

/-- Device time less the master's when the beacon arrives (R432). -/
def leadOf (s : State) (p : Port) (b : Beacon) (now : Nat) : Int := (now : Int) - s.masterTime p b

/-- The beacon is of the master that the module has (R42). -/
def ofMaster (s : State) (b : Beacon) : Bool := b.masterId.toNat == s.fld F.tkMasterId

/-- The beacon's master is better than the module's, as TK_MASTER shows it (R42). -/
def ofBetter (s : State) (b : Beacon) : Bool := masterBetter (masterOf b) (s.fld F.tkMasterPrio, s.fld F.tkMasterId)

/-- No beacon has been adopted that this one may not replace (R39). -/
def replacesHeard (s : State) (p : Port) (b : Beacon) : Bool := s.time.heard.all (replacedBy · p b)

/-- What a module does with a beacon that it adopts. -/
def adoptBeacon (p : Port) (b : Beacon) (a : Adopt) (d : Int) : M Unit := do
  let s ← get
  modTime (fun t => { t with adopted := some a, heard := some (b, p) })
  putOffset d
  if s.ownTick then pure ()
  else do
    followMaster a
    if a.ofNext then pure () else followStep a
    setTkState (s.lockState d)
    forwardBeacon p b

/-- The state in which the module shows the conflict with a better master (R43). -/
def inConflict (s : State) (b : Beacon) : State :=
  (State.setFld { s with time := { s.time with conflictWith := some b.masterId, adopted := none } } F.tkState 4).refreshAlert

section Judgement

variable (hs : sampleTime s = .ok now u) (ha : s.time.adopted = none) (hc : s.time.conflictWith = none)

include hs ha hc

/-- What a beacon comes to, where none has been adopted since the tick and no conflict stands. -/
theorem receiveBeacon_eq : receiveBeacon p b s =
    (if ((ofMaster s b || ofBetter s b) && replacesHeard s p b) = false then .ok () u
    else if u.backwards (u.place p b now (leadOf s p b now)) (leadOf s p b now) = true then
      (if ofMaster s b = true then .ok () u else .ok () (inConflict u b))
    else adoptBeacon p b (u.place p b now (leadOf s p b now)) (leadOf s p b now) u) := by
  obtain rfl := sampleTime_run hs
  have hd : (now : Int) - (sampled s now).masterTime p b = leadOf s p b now := by
    rw [leadOf, State.masterTime, State.masterTime, fld_sampled (f := F.delayPs p) nofun]
  have hm : (sampled s now).masterNow = (s.fld F.tkMasterPrio, s.fld F.tkMasterId) := by
    rw [State.masterNow, show (sampled s now).time.adopted = none from ha]
    exact Prod.ext (fld_sampled (f := F.tkMasterPrio) nofun) (fld_sampled (f := F.tkMasterId) nofun)
  have hsame : (masterOf b == (s.fld F.tkMasterPrio, s.fld F.tkMasterId) || b.masterId.toNat == s.fld F.tkMasterId)
      = ofMaster s b := by
    rw [ofMaster, Bool.or_eq_right_iff_imp]
    intro h
    exact beq_of_eq (congrArg Prod.snd (eq_of_beq h) :)
  have hbetter : masterBetter (masterOf b) (s.fld F.tkMasterPrio, s.fld F.tkMasterId) = ofBetter s b := rfl
  unfold receiveBeacon
  rw [run_bind_ok hs, run_bind_ok (run_get _), hd, hm]
  dsimp only
  rw [hsame, hbetter, show (sampled s now).time.conflictWith = none from hc,
    show (sampled s now).time.heard = s.time.heard from rfl, replacesHeard]
  cases s.time.heard
  all_goals
    simp only [Option.all, Bool.and_true, Bool.not_eq_true', run_if, run_pure]
    rfl

/-- A beacon that may not replace the one adopted last is refused, and so is one of a worse master. -/
theorem receiveBeacon_refuses (hno : replacesHeard s p b = false ∨ ofMaster s b = false ∧ ofBetter s b = false) :
    receiveBeacon p b s = .ok () u := by
  rw [receiveBeacon_eq hs ha hc, if_pos]
  rcases hno with h | ⟨h, h'⟩
  · rw [h, Bool.and_false]
  · rw [h, h']; rfl

section Allowed

variable (hr : replacesHeard s p b = true)

include hr

/-- A better master's beacon that would move step or time backwards puts the module in CONFLICT. -/
theorem receiveBeacon_conflicts (hb : ofBetter s b = true) (hm : ofMaster s b = false)
    (hk : u.backwards (u.place p b now (leadOf s p b now)) (leadOf s p b now) = true) :
    receiveBeacon p b s = .ok () (inConflict u b) := by
  rw [receiveBeacon_eq hs ha hc, hr, hb, hm, if_neg (by decide), if_pos hk, if_neg (by decide)]

/-- Any other one of the module's master or of a better one is adopted. -/
theorem receiveBeacon_adopts (hb : ofMaster s b = true ∨ ofBetter s b = true)
    (hk : u.backwards (u.place p b now (leadOf s p b now)) (leadOf s p b now) = false) :
    receiveBeacon p b s = adoptBeacon p b (u.place p b now (leadOf s p b now)) (leadOf s p b now) u := by
  rw [receiveBeacon_eq hs ha hc, hr, hk, Bool.and_true, if_neg (by rcases hb with h | h <;> simp [h]), if_neg (by decide)]

end Allowed

end Judgement

theorem replacesHeard_false {x : Beacon × Port} (hx : s.time.heard = some x) (h : replacedBy x p b = false) :
    replacesHeard s p b = false := by rw [replacesHeard, hx, Option.all, h]

theorem replacesHeard_true (h : ∀ x, s.time.heard = some x → replacedBy x p b = true) : replacesHeard s p b = true := by
  rw [replacesHeard, Option.all_eq_true]; exact h

theorem ofBetter_eq (ha : s.time.adopted = none) : ofBetter s b = masterBetter (masterOf b) s.masterNow := by
  rw [ofBetter, State.masterNow, ha]

/-! ### A beacon as a command -/

theorem exec_beacon (hw : s.works = true) (hm : s.fld (F.portMode p) = 0) (h4 : s.fld (F.portState p) = 4)
    (ht : (if b.masterId.toNat = s.fld F.deviceId then pure () else receiveBeacon p b) s = .ok () t) :
    exec (.beacon p b) s = .next t := by
  refine runLink_next hw ?_
  rw [run_bind_ok (run_get s), State.ticks, hw, hm, h4]
  exact (run_bind_ok (run_guardWait_true s)).trans ht

theorem exec_beacon_other (hw : s.works = true) (hm : s.fld (F.portMode p) = 0) (h4 : s.fld (F.portState p) = 4)
    (hid : b.masterId.toNat ≠ s.fld F.deviceId) (ht : receiveBeacon p b s = .ok () t) : exec (.beacon p b) s = .next t :=
  exec_beacon hw hm h4 (by rw [if_neg hid, ht])

theorem inConflict_effect (s : State) (b : Beacon) : (inConflict s b).fld F.tkState = 4 ∧
    (inConflict s b).stepNo = s.stepNo ∧
    (inConflict s b).time = { s.time with conflictWith := some b.masterId, adopted := none } ∧
    (inConflict s b).mem = s.mem ∧ (inConflict s b).cores = s.cores := by
  let w : State := { s with time := { s.time with conflictWith := some b.masterId, adopted := none } }
  exact ⟨fld_bits_same w .tkStatus (lo := 0) (n := 3) (v := 4) (by decide),
    fld_setFld_other (s := w) (f := F.tkState) (g := F.tkStep) nofun, rfl, rfl, rfl⟩

/-! ### The adoption of a beacon -/

section Adoption

variable (s : State) (p : Port) (b : Beacon) (a : Adopt) (d : Int)

/-- The beacon is adopted, and TK_OFFSET shows what it finds. -/
def adopting : State :=
  let w : State := { s with time := { s.time with adopted := some a, heard := some (b, p) }, seed := s.seed + 1 }
  w.setFld F.tkOffset (if -(2 ^ 31) ≤ d ∧ d < 2 ^ 31 then toUnsigned 32 d else Config.wideOffset s.seed)

/-- TK_MASTER names the beacon's master (R39, R42). -/
def followed : State :=
  let w := ((s.setFld F.tkMasterId a.beacon.masterId.toNat).setFld F.tkMasterPrio a.beacon.priority.toNat).setFld F.tkHops
    (min 255 (a.beacon.hops.toNat + 1))
  { w with time := { w.time with masterPort := some a.port, missed := 0, conflictWith := none } }

/-- The step of the beacon has its period and marks, and what is pending (R52, R53, R57). -/
def stepBegun : State :=
  let w := ((s.setFld F.tkPeriod b.period.toNat).setFld F.tkMark50 (b.period.toNat / 2)).setFld F.tkMark80 (4 * b.period.toNat / 5)
  let x := if b.nextPeriod = 0 then none else some (b.nextPeriod.toNat, b.nextStep.toNat)
  State.setFlag { w with time := { w.time with pendPeriod := x } } F.tkPending x.isSome

/-- The step of the beacon has begun, unless it is that of the tick that comes next. -/
def begunUnlessNext : State := if a.ofNext then s else stepBegun s a.beacon

variable {s p b a d} {f : Fld}

theorem fld_adopting_other (hf : .tkOffset ≠ f.reg) : (adopting s p b a d).fld f = s.fld f :=
  fld_setFld_other (f := F.tkOffset) hf

theorem fld_adopting_offset (hl : -(2 ^ 31) ≤ d) (hh : d < 2 ^ 31) : (adopting s p b a d).fld F.tkOffset = toUnsigned 32 d := by
  have hlt : toUnsigned 32 d < 2 ^ 32 := by unfold toUnsigned; omega
  refine (fld_setFld_same _ _ (by decide : 0 + 32 ≤ 64)).trans ?_
  rw [if_pos ⟨hl, hh⟩]
  exact Nat.mod_eq_of_lt hlt

theorem fld_followed_other (hf : .tkMaster ≠ f.reg) : (followed s a).fld f = s.fld f :=
  (fld_setFld_other (f := F.tkHops) hf).trans
    ((fld_setFld_other (f := F.tkMasterPrio) hf).trans (fld_setFld_other (f := F.tkMasterId) hf))

theorem fld_followed_prio : (followed s a).fld F.tkMasterPrio = a.beacon.priority.toNat :=
  (fld_bits_apart _ .tkMaster (lo := 24) (n := 8) (by decide) (by decide)).trans
    ((fld_bits_same _ .tkMaster (lo := 16) (n := 8) (by decide)).trans (Nat.mod_eq_of_lt a.beacon.priority.isLt))

theorem fld_followed_hops : (followed s a).fld F.tkHops = min 255 (a.beacon.hops.toNat + 1) :=
  (fld_bits_same _ .tkMaster (lo := 24) (n := 8) (by decide)).trans (Nat.mod_eq_of_lt (by omega))

theorem fld_stepBegun_other (hp : .tkPeriod ≠ f.reg) (hm : .tkMarks ≠ f.reg) (hs : .tkStatus ≠ f.reg) :
    (stepBegun s b).fld f = s.fld f :=
  (fld_setFld_other (f := F.tkPending) hs).trans ((fld_setFld_other (f := F.tkMark80) hm).trans
    ((fld_setFld_other (f := F.tkMark50) hm).trans (fld_setFld_other (f := F.tkPeriod) hp)))

theorem fld_stepBegun_period : (stepBegun s b).fld F.tkPeriod = b.period.toNat :=
  (fld_setFld_other (f := F.tkPending) (g := F.tkPeriod) nofun).trans
    ((fld_setFld_other (f := F.tkMark80) (g := F.tkPeriod) nofun).trans
      ((fld_setFld_other (f := F.tkMark50) (g := F.tkPeriod) nofun).trans
        ((fld_bits_same s .tkPeriod (lo := 0) (n := 18) (by decide)).trans (Nat.mod_eq_of_lt b.period.isLt))))

theorem run_putOffset (d : Int) (s : State) : putOffset d s = .ok () (State.setFld { s with seed := s.seed + 1 } F.tkOffset
    (if -(2 ^ 31) ≤ d ∧ d < 2 ^ 31 then toUnsigned 32 d else Config.wideOffset s.seed)) := by
  unfold putOffset
  rw [run_bind_ok (run_fresh s), run_putFld]

theorem run_modTime (f : TimeSt → TimeSt) (s : State) : modTime f s = .ok ⟨⟩ { s with time := f s.time } := run_modify _ s

theorem run_followMaster (a : Adopt) (s : State) : followMaster a s = .ok () (followed s a) := by
  unfold followMaster
  rw [run_bind_ok (run_putFld _ _ s), run_bind_ok (run_putFld _ _ _), run_bind_ok (run_putFld _ _ _), run_modTime]
  rfl

theorem run_setPeriod (us : Nat) (s : State) : setPeriod us s =
    .ok ⟨⟩ (((s.setFld F.tkPeriod us).setFld F.tkMark50 (us / 2)).setFld F.tkMark80 (4 * us / 5)) := by
  unfold setPeriod
  rw [run_bind_ok (run_putFld _ _ s), run_bind_ok (run_putFld _ _ _), run_putFld]

theorem run_setPendPeriod (x : Option (Nat × Nat)) (s : State) : setPendPeriod x s =
    .ok ⟨⟩ (State.setFlag { s with time := { s.time with pendPeriod := x } } F.tkPending x.isSome) := by
  unfold setPendPeriod
  rw [run_bind_ok (run_modTime _ s), run_putFlag]

theorem run_setTkState (n : Nat) (s : State) : setTkState n s = .ok ⟨⟩ (s.setFld F.tkState n).refreshAlert := run_modify _ s

/-- A module that ticks by itself only notes the beacon. -/
theorem adoptBeacon_own (ho : s.ownTick = true) : adoptBeacon p b a d s = .ok () (adopting s p b a d) := by
  unfold adoptBeacon
  rw [run_bind_ok (run_get s), run_bind_ok (run_modTime _ s), run_bind_ok (run_putOffset d _), if_pos ho, run_pure]
  rfl

/-- The step of an adopted beacon begins at once; what follows on the links leaves the rest alone. -/
theorem followStep_ok (hs : s.flag (F.evEnable 0) = false) :
    ∃ t, followStep a s = .ok () t ∧ LinksOnly (stepBegun s a.beacon) t := by
  have he : (stepBegun s a.beacon).flag (F.evEnable 0) = false := by
    rw [State.flag, fld_stepBegun_other (f := F.evEnable 0) nofun nofun nofun]; exact hs
  have hsend : Preserves (LinksOnly (stepBegun s a.beacon)) (do
      refreshConfig (← get).rep.epochNow
      checkConfig a.port 0 a.beacon.digest a.beacon.epoch false) :=
    .bind .read fun _ => .bind (LinksOnly.refreshConfig _) fun _ => LinksOnly.checkConfig he _ _ _ _ _
  obtain ⟨t, ht, hl⟩ := hsend.unit (.refl _)
  refine ⟨t, ?_, hl⟩
  unfold followStep
  rw [run_bind_ok (run_setPeriod _ s), run_bind_ok (run_setPendPeriod _ _)]
  exact ht

/-- The step begins at once where the beacon is not that of the tick that comes next. -/
theorem followOrWait_ok (hs : s.flag (F.evEnable 0) = false) : ∃ t, (if a.ofNext then pure () else followStep a) s = .ok () t ∧
    LinksOnly (begunUnlessNext s a) t := by
  unfold begunUnlessNext
  split
  · exact ⟨s, run_pure _ s, .refl s⟩
  · exact followStep_ok hs

/-- The state of a follower before it forwards the beacon. -/
def locked (s t : State) (d : Int) : State := (t.setFld F.tkState (s.lockState d)).refreshAlert

/-- A follower follows the beacon that it adopts. -/
theorem adoptBeacon_follows (ho : s.ownTick = false) (hs : s.flag (F.evEnable 0) = false) :
    ∃ t v, adoptBeacon p b a d s = .ok () t ∧
    LinksOnly (begunUnlessNext (followed (adopting s p b a d) a) a) v ∧
    LinksOnly (locked s v d) t := by
  have he : (followed (adopting s p b a d) a).flag (F.evEnable 0) = false := by
    rw [State.flag, fld_followed_other (f := F.evEnable 0) nofun, fld_adopting_other (f := F.evEnable 0) nofun]; exact hs
  obtain ⟨v, hv, hlv⟩ := followOrWait_ok (a := a) he
  obtain ⟨t, ht, hlt⟩ := (LinksOnly.forwardBeacon p b).unit (.refl (locked s v d))
  refine ⟨t, v, ?_, hlv, hlt⟩
  have hlast : (setTkState (s.lockState d) >>= fun _ => forwardBeacon p b) v = .ok () t :=
    (run_bind_ok (run_setTkState _ v)).trans ht
  unfold adoptBeacon
  rw [run_bind_ok (run_get s), run_bind_ok (run_modTime _ s), run_bind_ok (run_putOffset d _), if_neg (by simp [ho])]
  refine (run_bind_ok (run_followMaster a _)).trans ?_
  dsimp only
  by_cases hn : a.ofNext = true
  · rw [if_pos hn, run_pure] at hv
    cases hv
    rw [if_pos hn]
    exact hlast
  · rw [if_neg hn] at hv ⊢
    exact (run_bind_ok hv).trans hlast

section Effect

variable {v : State}
    (hv : LinksOnly (begunUnlessNext (followed (adopting s p b a d) a) a) v)
    (ht : LinksOnly (locked s v d) t)

include hv ht

/-- What a follower keeps of a field that neither the start of a step nor its state is about. -/
theorem fld_follows (hl : f.reg.ofLinks = false) (hp : .tkPeriod ≠ f.reg) (hm : .tkMarks ≠ f.reg) (hs : .tkStatus ≠ f.reg) :
    t.fld f = (followed (adopting s p b a d) a).fld f := by
  rw [ht.fld hl]
  refine (fld_setFld_other (s := v) (f := F.tkState) hs).trans ?_
  rw [hv.fld hl, begunUnlessNext]
  split
  · rfl
  · exact fld_stepBegun_other hp hm hs

omit hv in
theorem fld_follows_state : t.fld F.tkState = s.lockState d % 8 :=
  (ht.fld (f := F.tkState) rfl).trans (fld_bits_same v .tkStatus (lo := 0) (n := 3) (by decide))

theorem fld_follows_period : t.fld F.tkPeriod = if a.ofNext then s.fld F.tkPeriod else a.beacon.period.toNat := by
  rw [ht.fld (f := F.tkPeriod) rfl]
  refine (fld_setFld_other (s := v) (f := F.tkState) (g := F.tkPeriod) nofun).trans ?_
  rw [hv.fld (f := F.tkPeriod) rfl, begunUnlessNext]
  split
  · exact (fld_followed_other (f := F.tkPeriod) nofun).trans (fld_adopting_other (f := F.tkPeriod) nofun)
  · exact fld_stepBegun_period

theorem time_follows : t.time.adopted = some a ∧ t.time.missed = 0 ∧ t.time.heard = some (b, p) ∧ t.mem = s.mem ∧
    t.cores = s.cores := by
  rw [ht.time, ht.mem, ht.cores]
  change v.time.adopted = _ ∧ v.time.missed = _ ∧ v.time.heard = _ ∧ v.mem = _ ∧ v.cores = _
  rw [hv.time, hv.mem, hv.cores, begunUnlessNext]
  split <;> exact ⟨rfl, rfl, rfl, rfl, rfl⟩

end Effect

/-- A LOCKED follower that is within 1 µs of the master stays LOCKED, and has the beacon's values (R39, R40, R46). -/
theorem adoptBeacon_locks (h2 : s.fld F.tkState = 2) (hlo : -1000 ≤ d) (hhi : d ≤ 1000) (hs : s.flag (F.evEnable 0) = false) :
    ∃ t, adoptBeacon p b a d s = .ok () t ∧ t.time.adopted = some a ∧ t.fld F.tkState = 2 ∧
      t.fld F.tkMasterPrio = a.beacon.priority.toNat ∧ t.fld F.tkHops = min 255 (a.beacon.hops.toNat + 1) ∧
      t.fld F.tkPeriod = (if a.ofNext then s.fld F.tkPeriod else a.beacon.period.toNat) ∧ t.fld F.tkOffset = toUnsigned 32 d ∧
      t.time.missed = 0 ∧ t.time.heard = some (b, p) ∧ t.mem = s.mem ∧ t.cores = s.cores := by
  have ho : s.ownTick = false := by rw [State.ownTick, h2]; rfl
  have hlock : s.lockState d = 2 := by rw [State.lockState, if_neg (by omega), h2, if_neg (by omega)]
  obtain ⟨t, v, ht, hv, hl⟩ := adoptBeacon_follows (p := p) (b := b) (a := a) (d := d) ho hs
  obtain ⟨hadopted, hmissed, hheard, hmem, hcores⟩ := time_follows hv hl
  refine ⟨t, ht, hadopted, ?_, ?_, ?_, fld_follows_period hv hl, ?_, hmissed, hheard, hmem, hcores⟩
  · rw [fld_follows_state hl, hlock]
  · exact (fld_follows (f := F.tkMasterPrio) hv hl rfl nofun nofun nofun).trans fld_followed_prio
  · exact (fld_follows (f := F.tkHops) hv hl rfl nofun nofun nofun).trans fld_followed_hops
  · exact (fld_follows (f := F.tkOffset) hv hl rfl nofun nofun nofun).trans
      ((fld_followed_other (f := F.tkOffset) nofun).trans (fld_adopting_offset (by omega) (by omega)))

end Adoption

end Sys2Proof.Machine

namespace Sys2Proof

open Sys2Proof.Machine

/-- Settles O56: the judgement of a beacon picks one of four outcomes, and a link's exchange sends its message and then flits. -/
theorem beaconsAndDelays : Obligations.BeaconsAndDelays := by
  unfold Obligations.BeaconsAndDelays
  intro s p hw hq
  refine ⟨fun b hm h4 => ⟨fun hown => exec_beacon hw hm h4 (by rw [if_pos hown, run_pure]), fun now u hid hs ha hc => ?_⟩,
    fun h3 hk => ⟨fun t1 => ?_, fun t1 t2 t3 => ?_, fun t1 t2 t3 t4 hr => ?_⟩, fun t1 t2 t3 t4 h4 hr => ?_⟩
  · have hgo : ∀ {t}, receiveBeacon p b s = .ok () t → exec (.beacon p b) s = .next t := exec_beacon_other hw hm h4 hid
    refine ⟨fun x hx hno => hgo (receiveBeacon_refuses hs ha hc (.inl (replacesHeard_false hx hno))), fun hall => ?_⟩
    have hr := replacesHeard_true hall
    intro d a better same
    have hbetter : ofBetter s b = better := ofBetter_eq ha
    have hsame : ofMaster s b = true ↔ same := beq_iff_eq
    have hother : ¬same → ofMaster s b = false := fun hn => Bool.eq_false_iff.mpr fun e => hn (hsame.mp e)
    obtain rfl := sampleTime_run hs
    refine ⟨fun hb hn => ?_, fun hb hn hk => ?_, fun hb hk ho => ?_, fun hn hk h2 hlo hhi => ?_⟩
    · exact hgo (receiveBeacon_refuses hs ha hc (.inr ⟨hother hn, hbetter.trans hb⟩))
    · obtain ⟨hstate, hstep, htime, hmem, hcores⟩ := inConflict_effect (sampled s now) b
      refine ⟨_, hgo (receiveBeacon_conflicts hs ha hc hr (hbetter.trans hb) (hother hn) hk), hstate, ?_, ?_, ?_, hmem, hcores⟩
      · rw [htime]
      · rw [htime]
      · exact hstep.trans (fld_sampled (f := F.tkStep) nofun)
    · refine ⟨_, hgo ((receiveBeacon_adopts hs ha hc hr (.inr (hbetter.trans hb)) hk).trans (adoptBeacon_own ?_)), rfl, ?_,
        fld_adopting_offset, rfl, rfl⟩
      · rw [State.ownTick, fld_sampled (f := F.tkState) nofun]; exact ho
      · exact (fld_adopting_other (f := F.tkState) nofun).trans (fld_sampled (f := F.tkState) nofun)
    · have he : (sampled s now).flag (F.evEnable 0) = false := by
        rw [State.flag, fld_sampled (f := F.evEnable 0) nofun]; exact hq.events 0
      obtain ⟨t, ht, hadopted, hstate, hprio, hhops, hperiod, hoffset, hlast⟩ := adoptBeacon_locks (p := p) (b := b) (a := a)
        ((fld_sampled (f := F.tkState) nofun).trans h2) hlo hhi he
      refine ⟨t, hgo ((receiveBeacon_adopts hs ha hc hr (.inl (hsame.mpr hn)) hk).trans ht), hadopted, hstate, hprio, hhops,
        fun hnext => ?_, fun hnext => ?_, hoffset, hlast⟩
      · rw [hperiod, hnext]; rfl
      · rw [hperiod, hnext]; exact fld_sampled (f := F.tkPeriod) nofun
  · obtain ⟨t, ht, hl, hout⟩ := sendLink_ok p 4 (leBytes 8 t1.toNat) (measuring s p t1)
    obtain ⟨hreq, hsteps⟩ := hl.delay p
    refine ⟨t, exec_linkDelayMeasure hw h3 hk ht, hreq.trans ?_, hsteps.trans ?_, hout, hl.mem, hl.cores⟩
    all_goals rw [State.portOf, measuring, AMap.getD_insert_same]
  · obtain ⟨t, ht, hl, hout⟩ := sendLink_ok p 5 (leBytes 8 t2.toNat ++ leBytes 8 t3.toNat) s
    exact ⟨t, exec_delayReq hw h3 hk ht, hout, hl.mem, hl.cores⟩
  · obtain ⟨t, ht, hl⟩ := portUp_ok p (delayNoted s p t1 t2 t3 t4)
    obtain ⟨hdelay, hstate, hreq⟩ := enteredUp_delayNoted s p t1 t2 t3 t4
    exact ⟨t, exec_delayRsp hw (.inl h3) hr (by rw [if_pos h3, ht]), (hl.fld (f := F.delayPs p) rfl).trans hdelay,
      (hl.portState p).trans hstate, (hl.delay p).1.trans hreq, hl.mem, hl.cores⟩
  · exact exec_delayRsp hw (.inr h4) hr (by rw [if_neg (by omega), run_pure]; rfl)

end Sys2Proof
end

section
/-! SUPPORT. INT8 (R108): the integer that an encoding reads as, and the range of a conversion. -/

namespace Sys2Proof.Machine

/-- Two's complement of `n` bits reads back each integer of its range. -/
theorem signOf_toUnsigned {n : Nat} {x : Int} (hn : 0 < n) (hlo : -2 ^ (n - 1) ≤ x) (hhi : x < 2 ^ (n - 1)) :
    signOf n (toUnsigned n x) = x := by
  obtain ⟨m, rfl⟩ := Nat.exists_eq_add_of_lt hn
  simp only [Nat.zero_add, Nat.add_sub_cancel] at hlo hhi
  have hpow : (2 : Nat) ^ (m + 1) = 2 * 2 ^ m := Nat.pow_succ'
  have hcast : ((2 ^ m : Nat) : Int) = 2 ^ m := by push_cast; rfl
  rw [← hcast] at hlo hhi
  rw [Nat.zero_add, signOf, toUnsigned, Nat.add_sub_cancel, hpow]
  generalize 2 ^ m = p at *
  have hmod : x % (2 * p : Nat) = if 0 ≤ x then x else x + (2 * p : Nat) := by
    split
    · exact Int.emod_eq_of_lt (by omega) (by omega)
    · rw [← Int.add_emod_right]; exact Int.emod_eq_of_lt (by omega) (by omega)
  rw [hmod]
  have hlt : (if 0 ≤ x then x else x + (2 * p : Nat)).toNat < 2 * p := by split <;> omega
  rw [Nat.mod_eq_of_lt hlt]
  split <;> omega

theorem decodeNum_int8 (x : Nat) : decodeNum 8 x = Val.ofInt (signOf 8 x) := rfl

/-- A magnitude within a whole limit rounds to a number within it: a tie goes up, but not past the limit. -/
theorem roundNat_le {n d lim : Nat} (h : n ≤ lim * d) : roundNat n d ≤ lim := by
  rw [roundNat]
  obtain rfl | hd := Nat.eq_zero_or_pos d
  · simp
  · refine Nat.lt_succ_iff.mp ((Nat.div_lt_iff_lt_mul (by omega)).mpr ?_)
    calc 2 * n + d < 2 * (lim * d) + 2 * d := by omega
      _ = lim.succ * (2 * d) := by rw [Nat.succ_eq_add_one]; ring

/-- A fraction past the limit of INT8 gives the limit and counts a saturation; any other is rounded. -/
theorem convert_int8_fin (s : Bool) (n d : Nat) : convert 8 (.fin s n d) =
    if 127 * d < n then ⟨toUnsigned 8 (if s then -127 else 127), 1, 0⟩
    else ⟨toUnsigned 8 (if s then -(roundNat n d : Int) else roundNat n d), 0, 0⟩ := rfl

/-- A conversion to INT8 gives 0 for a NaN, the limit of its sign, or the rounded magnitude with its sign (R108, R111). -/
theorem convert_int8_bits (v : Val) :
    ∃ (s : Bool) (r : Nat), r ≤ 127 ∧ (convert 8 v).bits = toUnsigned 8 (if s then -(r : Int) else r) := by
  cases v with
  | nan => exact ⟨false, 0, by omega, rfl⟩
  | inf s => exact ⟨s, 127, le_rfl, rfl⟩
  | fin s n d =>
    rw [convert_int8_fin]
    split
    next => exact ⟨s, 127, le_rfl, rfl⟩
    next h => exact ⟨s, roundNat n d, roundNat_le (Nat.le_of_not_lt h), rfl⟩

end Sys2Proof.Machine

namespace Sys2Proof

open Sys2Proof.Machine

/-- Settles O12: an encoding is read by its sign, and a conversion puts a sign to a magnitude of at most 127. -/
theorem int8Range : Obligations.Int8Range := by
  unfold Obligations.Int8Range
  refine ⟨fun x hlo hhi => ?_, fun v => ?_⟩
  · rw [decodeNum_int8, signOf_toUnsigned] <;> omega
  · obtain ⟨s, r, hr, hbits⟩ := convert_int8_bits v
    exact ⟨_, by split <;> omega, by split <;> omega, hbits⟩

end Sys2Proof
end

section
/-! SUPPORT. The E5M3 fine scales (R118) as fractions, and the NaN that a scale brings to a block. -/

namespace Sys2Proof.Machine

variable {b m : Nat} {k : Int}

theorem Val.scaled_neg (hk : k < 0) : Val.scaled m k = (m, 2 ^ (-k).toNat) := if_neg (by omega)

theorem fineNum_nan : fineNum 255 = .nan := rfl

/-- With exponent field 0 the mantissa field counts units of 2^-32. -/
theorem fineNum_subnormal (h : b < 8) : fineNum b = .fin false b (2 ^ 32) := by
  have he : b / 2 ^ 3 = 0 := by omega
  have hm : b % 2 ^ 3 = b := by omega
  simp only [fineNum, FFmt.magnitude, if_neg (show b ≠ 0xFF by omega), he, hm, if_true]
  rw [Val.scaled_neg (by omega)]
  rfl

/-- With another exponent field e the value is (8 + m) ÷ 2^(33 - e), so that the power never turns positive. -/
theorem fineNum_normal (hlo : 8 ≤ b) (hhi : b < 255) : fineNum b = .fin false (8 + b % 8) (2 ^ (33 - b / 8)) := by
  have he : b / 2 ^ 3 ≠ 0 := by omega
  simp only [fineNum, FFmt.magnitude, if_neg (show b ≠ 0xFF by omega), if_neg he]
  rw [Val.scaled_neg (by omega)]
  have hk : (-(((b / 2 ^ 3 : Nat) : Int) - 30 - (3 : Nat))).toNat = 33 - b / 8 := by omega
  rw [hk]
  rfl

@[simp] theorem Val.mul_nan (v : Val) : Val.mul v .nan = .nan := by cases v <;> rfl

@[simp] theorem Val.nan_mul (v : Val) : Val.mul .nan v = .nan := rfl

/-- Under a fine scale that is NaN each element of a narrow type reads as NaN, whatever the coarse scale. -/
theorem widen_nan {t : Nat} (x : Nat) (c : Val) (ht : isNarrow t = true) : widen t x .nan c = .nan := by
  rw [widen, if_pos ht, Val.mul_nan, Val.nan_mul, ite_self]

end Sys2Proof.Machine

namespace Sys2Proof

open Sys2Proof.Machine

/-- Settles O13: the fraction of a subnormal and of a normal encoding, each against the power of two of its unit. -/
theorem fineScales : Obligations.FineScales := by
  unfold Obligations.FineScales
  refine ⟨fun b hb => ?_, fineNum_nan, fun t x c ht => widen_nan x c ht⟩
  by_cases h8 : b < 8
  · exact ⟨b, 2 ^ 32, fineNum_subnormal h8, by decide, fun _ => rfl, fun h => absurd h8 (by omega)⟩
  · have hpow : 2 ^ (b / 8) * 2 ^ (33 - b / 8) = 2 ^ 33 := by rw [← Nat.pow_add]; congr 1; omega
    refine ⟨8 + b % 8, 2 ^ (33 - b / 8), fineNum_normal (by omega) hb, by positivity, fun h => absurd h h8, fun _ => ?_⟩
    rw [Nat.mul_assoc, hpow]

end Sys2Proof
end


section
/-! SUPPORT. Computations that keep the form of the memories: the remaining ways to put them together, and the accesses of
device memory that the engines share. -/

namespace Sys2Proof.Machine

variable {α β : Type}

/-- A computation that reads the state goes on with one whose memories have the form. -/
theorem keeps_get_of {f : State → M β} (hf : ∀ s, memoriesWf s → Keeps (f s)) : Keeps (get >>= f) :=
  keeps_get_bind fun s hs => hf s hs s hs

theorem keeps_foldM' {f : β → α → M β} (hf : ∀ b a, Keeps (f b a)) (l : List α) (b : β) : Keeps (foldM' l b f) := by
  induction l generalizing b with
  | nil => exact keeps_pure _
  | cons a t ih => exact keeps_bind (hf b a) ih

theorem keeps_orLater {m : M Unit} (hm : Keeps m) : Keeps (orLater m) := fun s hs => by
  have h := hm s hs
  unfold orLater
  cases e : m s with
  | ok a u => rw [e] at h; exact h
  | error x u => exact hs

/-- Go on with the result of a try: a value in one way, an error in another. -/
theorem keeps_attempt_bind {m : M α} {f : Except Err α → M β} (hm : Keeps m) (hok : ∀ a, Keeps (f (.ok a)))
    (herr : ∀ e, Keeps (f (.error e))) : Keeps (attempt m >>= f) :=
  keeps_bind (keeps_attempt hm) fun r => match r with
    | .ok a => hok a
    | .error e => herr e

/-! ### An error under another name -/

theorem keeps_shared {m : M α} (hm : Keeps m) : Keeps (shared m) := keeps_attempt_bind hm keeps_pure fun _ => keeps_throw _
theorem keeps_asCl {m : M α} (hm : Keeps m) : Keeps (asCl m) := keeps_attempt_bind hm keeps_pure fun _ => keeps_throw _
theorem keeps_asDma {m : M α} (hm : Keeps m) : Keeps (asDma m) := keeps_attempt_bind hm keeps_pure fun _ => keeps_throw _
theorem keeps_feRead {m : M α} (hm : Keeps m) : Keeps (feRead m) := keeps_attempt_bind hm keeps_pure fun _ => keeps_throw _
theorem keeps_readAs (fault : Nat) {m : M α} (hm : Keeps m) : Keeps (readAs fault m) :=
  keeps_attempt_bind hm keeps_pure fun _ => keeps_throw _

theorem keeps_withoutCores {m : M α} (hm : Keeps m) : Keeps (withoutCores m) :=
  keeps_get_of fun _ _ => keeps_bind (keeps_modify fun _ h => h) fun _ => keeps_attempt_bind hm
    (fun _ => keeps_bind (keeps_modify fun _ h => h) fun _ => keeps_pure _)
    (fun _ => keeps_bind (keeps_modify fun _ h => h) fun _ => keeps_throw _)

theorem keeps_ignoringHeld {m : M α} (hm : Keeps m) : Keeps (ignoringHeld m) :=
  keeps_get_of fun _ _ => keeps_bind (keeps_modify fun _ h => h) fun _ => keeps_attempt_bind hm
    (fun _ => keeps_bind (keeps_modify fun _ h => h) fun _ => keeps_pure _)
    (fun _ => keeps_bind (keeps_modify fun _ h => h) fun _ => keeps_throw _)

/-! ### Reads by DPA, and translation (R246–R252) -/

theorem keeps_readDpa (slot dpa n : Nat) : Keeps (readDpa slot dpa n) :=
  keeps_bind (keeps_eachM _ fun _ => keeps_checkRead _ _) fun _ => keeps_get_of fun _ _ => keeps_pure _

theorem keeps_tlbLook (k : TlbKey) : Keeps (tlbLook k) := keeps_get_of fun s _ => by
  split
  · exact keeps_pure _
  · exact keeps_bind keeps_fresh fun _ => keeps_pure _

/-- At each level the entry comes from the cache or from the table, and what the table gave may be cached. -/
theorem keeps_walkFrom (c : Ctx) (gen va : Nat) (ls : List (Nat × Nat × Nat)) (base : Nat) :
    Keeps (walkFrom c gen va ls base) := by
  have cached (x : MemSt) (h : x.bytes.wf = true) (k : TlbKey) (e : Nat) :
      ({ x with tlb := x.tlb.insert k e } : MemSt).bytes.wf = true := h
  induction ls generalizing base with
  | nil => exact keeps_throw _
  | cons l rest ih =>
    unfold walkFrom
    refine keeps_bind (keeps_tlbLook _) fun hit => ?_
    split
    · exact keeps_ite (keeps_pure _) (ih _)
    · refine keeps_bind (keeps_getFld _) fun _ => keeps_bind (keeps_readDpa _ _ _) fun _ =>
        keeps_ite (keeps_throw _) (keeps_ite (keeps_get_of fun _ _ => keeps_ite ?_ (keeps_throw _)) (keeps_ite ?_ (keeps_throw _)))
      · exact keeps_bind (keeps_modMem fun x h => cached x h _ _) fun _ => keeps_pure _
      · exact keeps_bind (keeps_modMem fun x h => cached x h _ _) fun _ => ih _

theorem keeps_walk (c : Ctx) (va : Nat) : Keeps (walk c va) :=
  keeps_get_of fun _ _ => keeps_ite (keeps_throw _) <| keeps_bind (keeps_walkFrom _ _ _ _ _) fun _ =>
    keeps_ite (keeps_throw _) (keeps_pure _)

theorem keeps_recordDpa (j : Stack) (i : CacheInst) (x : Nat) : Keeps (recordDpa j i x) :=
  keeps_bind (keeps_getFld _) fun _ => keeps_bind (keeps_walk _ _) fun _ => keeps_pure _

theorem keeps_readRecord (j : Stack) (i : CacheInst) (x : Nat) : Keeps (readRecord j i x) :=
  keeps_bind (keeps_getFld _) fun _ => keeps_bind (keeps_recordDpa j i x) fun _ => keeps_readDpa _ _ _

/-- An address of a page pool is translated by its record, any other one by its leaf. -/
theorem keeps_translate (c : Ctx) (va : Nat) (need : Right) : Keeps (translate c va need) := by
  unfold translate
  refine keeps_get_of fun s _ => ?_
  split
  · refine keeps_bind (keeps_readRecord _ _ _) fun _ => ?_
    extract_lets _owner onward
    have honward : ∀ a, Keeps (onward a) := fun _ => by
      refine keeps_bind (keeps_walk _ _) fun _ => ?_
      split
      refine keeps_get_of fun t _ => ?_
      split
      · exact keeps_ite (keeps_ite (keeps_throw _) (keeps_pure _)) (keeps_throw _)
      · exact keeps_throw _
    split
    · exact keeps_bind (keeps_throw _) honward
    · exact honward ()
  · exact keeps_bind (keeps_walk _ _) fun _ => keeps_ite (keeps_pure _) (keeps_throw _)

theorem keeps_translatePieces (c : Ctx) (va n : Nat) (need : Right) : Keeps (translatePieces c va n need) :=
  keeps_mapM' _ fun _ => keeps_bind (keeps_translate _ _ _) fun _ => keeps_pure _

/-! ### Accesses at a device virtual address -/

theorem keeps_vaReadAs (c : Ctx) (va n : Nat) (need : Right) : Keeps (vaReadAs c va n need) :=
  keeps_bind (keeps_translatePieces _ _ _ _) fun _ => keeps_bind (keeps_eachM _ fun _ => keeps_checkRead _ _) fun _ =>
    keeps_get_of fun _ _ => keeps_pure _

theorem keeps_vaRead (c : Ctx) (va n : Nat) : Keeps (vaRead c va n) := keeps_vaReadAs c va n .r

theorem keeps_writePieces (ps : List (Nat × Nat × Nat)) (bs : List Byte) : Keeps (writePieces ps bs) := by
  induction ps generalizing bs with
  | nil => exact keeps_pure _
  | cons p t ih => exact keeps_bind (keeps_writeGranule _ _ _) fun _ => ih _

theorem keeps_vaWriteAs (c : Ctx) (va : Nat) (bs : List Byte) (need : Right) : Keeps (vaWriteAs c va bs need) :=
  keeps_bind (keeps_translatePieces _ _ _ _) fun _ => keeps_bind (keeps_eachM _ fun _ => keeps_checkWrite _ _ _) fun _ =>
    keeps_writePieces _ _

theorem keeps_vaWrite (c : Ctx) (va : Nat) (bs : List Byte) : Keeps (vaWrite c va bs) := keeps_vaWriteAs c va bs .w

theorem keeps_recordRow (entry status : Nat) : Keeps (recordRow entry status) :=
  keeps_attempt_bind (keeps_bind (keeps_vaRead _ _ _) fun _ => keeps_ite (keeps_vaWrite _ _ _) (keeps_pure _))
    (fun _ => keeps_pure _) (fun _ => keeps_pure _)

/-- An access through a row aperture is one in the row's context, with a record of the row's fault (R350). -/
theorem keeps_accAt (w : Who) (va : Nat) (dflt : α) {f : Ctx → Nat → M α} (hf : ∀ c a, Keeps (f c a)) :
    Keeps (accAt w va dflt f) := by
  have noted (e st : Nat) : Keeps (do recordRow e st; pure dflt) := keeps_bind (keeps_recordRow e st) fun _ => keeps_pure _
  refine keeps_get_of fun s _ => ?_
  split
  · exact hf _ _
  · refine keeps_bind (keeps_vaRead _ _ _) fun _ => keeps_ite (keeps_pure _) (keeps_bind (keeps_vaRead _ _ _) fun _ => ?_)
    split
    · exact keeps_get_of fun _ _ => keeps_get_of fun _ _ => keeps_ite
        (keeps_attempt_bind (hf _ _) keeps_pure fun _ => noted _ _) (keeps_bind keeps_fresh fun _ => noted _ _)
    · exact keeps_pure _

/-! ### Changes of a whole memory -/

theorem wf_putLines {x : SramSt} (h : sramWf x) (store : Bool) (c : Ctx) (g : Nat) (ls : List (Nat × Nat × List Byte)) :
    sramWf (ls.foldl (fun z l => z.putLine store c g l) x) := by
  induction ls generalizing x with
  | nil => exact h
  | cons l t ih => exact ih (wf_putLine h store c g l)

theorem wf_zeroRanges {x : MemSt} (h : x.bytes.wf = true) (rs : List (Nat × Nat)) :
    (rs.foldl (fun m r => m.zeroGranules r.1 r.2) x).bytes.wf = true := by
  induction rs generalizing x with
  | nil => exact h
  | cons r t ih => exact ih (wf_zeroGranules h r.1 r.2)

theorem bytes_poisonLine (m : MemSt) (g : Nat) : (m.poisonLine g).bytes = m.bytes := by
  unfold MemSt.poisonLine; split <;> rfl

theorem memoriesWf_setFld {s : State} (h : memoriesWf s) (f : Fld) (v : Nat) : memoriesWf (s.setFld f v) := h
theorem memoriesWf_setFlag {s : State} (h : memoriesWf s) (f : Fld) (b : Bool) : memoriesWf (s.setFlag f b) := h
theorem memoriesWf_showOtp {s : State} (h : memoriesWf s) : memoriesWf s.showOtp := h

theorem memoriesWf_closedSpillways {t : State} (h : memoriesWf t) (l : List Port) :
    memoriesWf (l.foldl (fun x p => x.setFlag (F.portSpill p) true) t) := by
  induction l generalizing t with
  | nil => exact h
  | cons p l ih => exact ih (memoriesWf_setFlag h _ _)

/-- A restart leaves every memory empty (R478). -/
theorem memoriesWf_restart (s : State) : memoriesWf s.restart := by
  unfold State.restart
  refine memoriesWf_showOtp (memoriesWf_setFld (memoriesWf_setFld (memoriesWf_setFlag (memoriesWf_setFld
    (memoriesWf_setFlag (memoriesWf_closedSpillways ?_ _) _ _) _ _) _ _) _ _) _ _)
  exact ⟨rfl, rfl, rfl⟩

theorem keeps_restart : Keeps (modify State.restart : M PUnit) := keeps_modify fun s _ => memoriesWf_restart s

end Sys2Proof.Machine
end

section
/-! SUPPORT. The walk through a computation that keeps the form of the memories. -/

namespace Sys2Proof.Machine

variable {α β : Type}

theorem keeps_self {m : M α} (h : Keeps m) : Keeps m := h

/-- Every value of a family of computations keeps the form. -/
theorem keeps_at {f : β → M α} (h : ∀ b, Keeps (f b)) (b : β) : Keeps (f b) := h b
theorem keeps_at₂ {γ : Type} {f : β → γ → M α} (h : ∀ b c, Keeps (f b c)) (b : β) (c : γ) : Keeps (f b c) := h b c
theorem keeps_at₃ {γ δ : Type} {f : β → γ → δ → M α} (h : ∀ b c d, Keeps (f b c d)) (b : β) (c : γ) (d : δ) :
    Keeps (f b c d) := h b c d

/-- A computation keeps the form when its parts do. The proof that stands for the argument goes through the parts:
a continuation that the computation names is proved once, before what uses it; a combination goes by its own rule (those
of the operations with a body, `issue` to `rowTry`, are proved below, by this same walk); a branch splits; and what is
left is a call, whose own lemma `simp` finds. -/
theorem keeps_of_parts {m : M α} (h : Keeps m := by
    repeat' first
      | (fail_if_no_progress extract_lets -underBinder +onlyGivenNames jp
         change _ → M _ at jp; have hjp : ∀ a, Keeps (jp a) := ?_
         rotate_left; (intro _; unfold jp; clear jp); rotate_left; clear_value jp)
      | (fail_if_no_progress extract_lets -underBinder +onlyGivenNames jp
         change _ → _ → M _ at jp; have hjp : ∀ a b, Keeps (jp a b) := ?_
         rotate_left; (intro _ _; unfold jp; clear jp); rotate_left; clear_value jp)
      | (fail_if_no_progress extract_lets -underBinder +onlyGivenNames m
         change M _ at m; have hm : Keeps m := ?_
         rotate_left; (unfold m; clear m); rotate_left; clear_value m)
      | fail_if_no_progress extract_lets -underBinder +onlyGivenNames x
      | with_reducible first
        | exact keeps_pure _
        | exact keeps_throw _
        | exact keeps_get
        | refine keeps_get_of fun _ _ => ?_
        | apply keeps_bind
        | intro _
        | apply keeps_ite
        | exact keeps_modCore _ _
        | exact keeps_modCmd _ _ _ _
        | exact keeps_modQueue _ _ _
        | exact keeps_modCtx _ _
        | exact keeps_modModel _ _
        | exact keeps_modJob _ _
        | exact keeps_modTime _
        | exact keeps_restart
        | apply keeps_modMem
        | apply keeps_modify
        | apply keeps_set
        | apply keeps_map
        | apply keeps_eachM
        | apply keeps_mapM'
        | apply keeps_foldM'
        | apply keeps_attempt
        | apply keeps_orLater
        | apply keeps_shared
        | apply keeps_asCl
        | apply keeps_asDma
        | apply keeps_feRead
        | apply keeps_readAs
        | apply keeps_withoutCores
        | apply keeps_ignoringHeld
        | apply keeps_accAt
        | apply keeps_issue
        | apply keeps_sysRun
        | apply keeps_onceOnly
        | apply keeps_rowTry
      | split
      | (clear_value *; split)
      | (with_reducible apply keeps_self
         simp [-bind_pure_comp, keeps_guardWait, keeps_guardCode, keeps_needSome, keeps_orErr, keeps_getFld, keeps_getFlag,
          keeps_putFld, keeps_putFlag, keeps_bump, keeps_bumpBy, keeps_bumpFull, keeps_emit, keeps_fresh, keeps_reachGranule,
          keeps_integrityFault, keeps_burstOk, keeps_dramOk, keeps_checkRead, keeps_checkWrite, keeps_checkDram,
          keeps_writeGranule, keeps_readDpa, keeps_walk, keeps_recordDpa, keeps_readRecord, keeps_translate,
          keeps_translatePieces, keeps_vaReadAs, keeps_vaRead, keeps_writePieces, keeps_vaWriteAs, keeps_vaWrite]
         done)
      | with_reducible exact keeps_at (by assumption) _
      | with_reducible exact keeps_at₂ (by assumption) _ _
      | with_reducible exact keeps_at₃ (by assumption) _ _ _
      | assumption) : Keeps m := h

end Sys2Proof.Machine
end

section
/-! SUPPORT. The operations of the model, in its order: each keeps the form of the memories, for it is built of operations
that do. -/

namespace Sys2Proof.Machine

variable {α : Type}

-- One theorem after the other: hundreds of them at work at once would each hold a thread of their own.
set_option Elab.async false

/-! ### Ops -/

@[simp] theorem keeps_sampleTime : Keeps sampleTime := by unfold sampleTime; exact keeps_of_parts

theorem wf_discardLine {x : MemSt} (h : x.bytes.wf = true) (g : Nat) (u : Under) : (x.discardLine g u).bytes.wf = true :=
  wf_writeList h _ _

/-- A dirty line that is dropped brings back the bytes that DRAM held (R263). -/
@[simp] theorem keeps_discardSlot (slot) : Keeps (discardSlot slot) := by
  refine keeps_get_of fun _ _ => keeps_bind (keeps_eachM _ fun p => keeps_get_of fun s _ => ?_) fun _ =>
    keeps_modMem fun _ h => h
  exact keeps_ite
    (keeps_bind keeps_fresh fun _ => keeps_ite (keeps_modMem fun _ h => wf_discardLine h _ _) (keeps_modMem fun _ h => h))
    (keeps_pure _)

@[simp] theorem keeps_writeRecord (j i x bs) : Keeps (writeRecord j i x bs) := by unfold writeRecord; exact keeps_of_parts

@[simp] theorem keeps_fireMsix (c v) : Keeps (fireMsix c v) := by unfold fireMsix; exact keeps_of_parts

@[simp] theorem keeps_raiseEvent (c code about detail) : Keeps (raiseEvent c code about detail) := by
  unfold raiseEvent; exact keeps_of_parts

@[simp] theorem keeps_systemEvent (code about detail) : Keeps (systemEvent code about detail) := by
  unfold systemEvent; exact keeps_of_parts

@[simp] theorem keeps_trace (cls kind die ctx id arg0 arg1) : Keeps (trace cls kind die ctx id arg0 arg1) := by
  unfold trace; exact keeps_of_parts

/-! ### Flags -/

@[simp] theorem keeps_eventBoth (c code detail) : Keeps (eventBoth c code detail) := by
  unfold eventBoth; exact keeps_of_parts

@[simp] theorem keeps_addCounts (c cls sat nanc) : Keeps (addCounts c cls sat nanc) := by
  unfold addCounts; exact keeps_of_parts

/-! ### Operands -/

@[simp] theorem keeps_handleLookup (c h) : Keeps (handleLookup c h) := by unfold handleLookup; exact keeps_of_parts

@[simp] theorem keeps_sramRead (w m o n) : Keeps (sramRead w m o n) := by unfold sramRead; exact keeps_of_parts

@[simp] theorem keeps_sramWrite (w m o bs) : Keeps (sramWrite w m o bs) :=
  keeps_modify fun _ h => ⟨h.1, wf_writeWords _ _ _ _ h.2 _ _⟩

@[simp] theorem keeps_resolvePtr (c p) : Keeps (resolvePtr c p) := by unfold resolvePtr; exact keeps_of_parts

@[simp] theorem keeps_resolveDesc (c raw) : Keeps (resolveDesc c raw) := by unfold resolveDesc; exact keeps_of_parts

@[simp] theorem keeps_accRead (w va n need) : Keeps (accRead w va n need) := by unfold accRead; exact keeps_of_parts

@[simp] theorem keeps_accWrite (w va bs need) : Keeps (accWrite w va bs need) := by unfold accWrite; exact keeps_of_parts

@[simp] theorem keeps_placedAs (c va n cls need) : Keeps (placedAs c va n cls need) := by
  unfold placedAs; exact keeps_of_parts

@[simp] theorem keeps_objAllows (d obj right) : Keeps (objAllows d obj right) := by unfold objAllows; exact keeps_of_parts

@[simp] theorem keeps_dscReadIn (w d obj o n data) : Keeps (dscReadIn w d obj o n data) := by
  unfold dscReadIn; exact keeps_of_parts

@[simp] theorem keeps_dscRead (w d o n) : Keeps (dscRead w d o n) := by unfold dscRead; exact keeps_of_parts

@[simp] theorem keeps_dscWrite (w d o bs) : Keeps (dscWrite w d o bs) := by unfold dscWrite; exact keeps_of_parts

@[simp] theorem keeps_writeRuns (w d bs rs) : Keeps (writeRuns w d bs rs) := by
  induction rs generalizing bs with
  | nil => exact keeps_pure _
  | cons r t ih => exact keeps_bind (keeps_dscWrite _ _ _ _) fun _ => ih _

@[simp] theorem keeps_readAt (w d p) : Keeps (readAt w d p) := by unfold readAt; exact keeps_of_parts

@[simp] theorem keeps_mergeBase (w d o n) : Keeps (mergeBase w d o n) := by unfold mergeBase; exact keeps_of_parts

@[simp] theorem keeps_writeAt (w d p x) : Keeps (writeAt w d p x) := by unfold writeAt; exact keeps_of_parts

@[simp] theorem keeps_readElem (w d l) : Keeps (readElem w d l) := by unfold readElem; exact keeps_of_parts

@[simp] theorem keeps_writePlaces (w d done l) : Keeps (writePlaces w d done l) := by
  unfold writePlaces; exact keeps_of_parts

@[simp] theorem keeps_writeElems (w d done l) : Keeps (writeElems w d done l) := by unfold writeElems; exact keeps_of_parts

@[simp] theorem keeps_useTracker (c va) : Keeps (useTracker c va) := by unfold useTracker; exact keeps_of_parts

@[simp] theorem keeps_raiseStepMax (c va x) : Keeps (raiseStepMax c va x) := by unfold raiseStepMax; exact keeps_of_parts

@[simp] theorem keeps_rollTouched (c va len) : Keeps (rollTouched c va len) := by unfold rollTouched; exact keeps_of_parts

@[simp] theorem keeps_coarseOf (w d) : Keeps (coarseOf w d) := by unfold coarseOf; exact keeps_of_parts

@[simp] theorem keeps_fineOf (w d c) : Keeps (fineOf w d c) := by unfold fineOf; exact keeps_of_parts

/-! ### Routing -/

@[simp] theorem keeps_modPort (p f) : Keeps (modPort p f) := by unfold modPort; exact keeps_of_parts

@[simp] theorem keeps_noteFrame (p frame) : Keeps (noteFrame p frame) := by unfold noteFrame; exact keeps_of_parts

@[simp] theorem keeps_passIdle (p) : Keeps (passIdle p) := by unfold passIdle; exact keeps_of_parts

@[simp] theorem keeps_sendFlit (p f frame) : Keeps (sendFlit p f frame) := by unfold sendFlit; exact keeps_of_parts

@[simp] theorem keeps_sendFlits (p n) : Keeps (sendFlits p n) := by
  induction n with
  | zero => exact keeps_pure _
  | succ k ih => unfold sendFlits; exact keeps_of_parts

@[simp] theorem keeps_drainPort (p) : Keeps (drainPort p) := by unfold drainPort; exact keeps_of_parts

@[simp] theorem keeps_transmit (p type bytes) : Keeps (transmit p type bytes) := by unfold transmit; exact keeps_of_parts

@[simp] theorem keeps_routeTo (dst) : Keeps (routeTo dst) := by unfold routeTo; exact keeps_of_parts

@[simp] theorem keeps_traceMsg (kind type p id dev own other again) :
    Keeps (traceMsg kind type p id dev own other again) := by
  unfold traceMsg; exact keeps_of_parts

@[simp] theorem keeps_launch (type h body again) : Keeps (launch type h body again) := by
  unfold launch; exact keeps_of_parts

@[simp] theorem keeps_sendRouted (type dst dstCtx srcCtx body eng) :
    Keeps (sendRouted type dst dstCtx srcCtx body eng) := by
  unfold sendRouted; exact keeps_of_parts

/-! ### Commands -/

@[simp] theorem keeps_recalibrate (kind a b) : Keeps (recalibrate kind a b) := by unfold recalibrate; exact keeps_of_parts

@[simp] theorem keeps_toFactory (kind a b) : Keeps (toFactory kind a b) := by unfold toFactory; exact keeps_of_parts

@[simp] theorem keeps_endSys (r status fault) : Keeps (endSys r status fault) := by unfold endSys; exact keeps_of_parts

@[simp] theorem keeps_modChan (e ch f) : Keeps (modChan e ch f) := by unfold modChan; exact keeps_of_parts

@[simp] theorem keeps_countCore (n k amount) : Keeps (countCore n k amount) := by unfold countCore; exact keeps_of_parts

@[simp] theorem keeps_countChan (d ch k amount) : Keeps (countChan d ch k amount) := by
  unfold countChan; exact keeps_of_parts

@[simp] theorem keeps_latchCore (n) : Keeps (latchCore n) := by unfold latchCore; exact keeps_of_parts

@[simp] theorem keeps_refreshWell (x) : Keeps (refreshWell x) := by unfold refreshWell; exact keeps_of_parts

@[simp] theorem keeps_refreshEng (d) : Keeps (refreshEng d) := by unfold refreshEng; exact keeps_of_parts

@[simp] theorem keeps_refreshChan (e ch) : Keeps (refreshChan e ch) := by unfold refreshChan; exact keeps_of_parts

@[simp] theorem keeps_beginOwn (d use) : Keeps (beginOwn d use) := by unfold beginOwn; exact keeps_of_parts

@[simp] theorem keeps_endOwn (use bytes) : Keeps (endOwn use bytes) := by unfold endOwn; exact keeps_of_parts

@[simp] theorem keeps_startOnChannel (d ch) : Keeps (startOnChannel d ch) := by unfold startOnChannel; exact keeps_of_parts

@[simp] theorem keeps_enterRecords (d ch n) : Keeps (enterRecords d ch n) := by
  induction n with
  | zero => exact keeps_pure _
  | succ f ih => unfold enterRecords; exact keeps_of_parts

@[simp] theorem keeps_oweWrites (rs) : Keeps (oweWrites rs) := by unfold oweWrites; exact keeps_of_parts

@[simp] theorem keeps_dropCores (ns) : Keeps (dropCores ns) := by unfold dropCores; exact keeps_of_parts

@[simp] theorem keeps_latchChan (d ch c q idx) : Keeps (latchChan d ch c q idx) := by unfold latchChan; exact keeps_of_parts

@[simp] theorem keeps_dropDma (c q idx) : Keeps (dropDma c q idx) := by unfold dropDma; exact keeps_of_parts

@[simp] theorem keeps_raiseOverrun (m detail) : Keeps (raiseOverrun m detail) := by
  unfold raiseOverrun; exact keeps_of_parts

@[simp] theorem keeps_faultStage (m fault) : Keeps (faultStage m fault) := by unfold faultStage; exact keeps_of_parts

@[simp] theorem keeps_stopWork (w e) : Keeps (stopWork w e) := by unfold stopWork; exact keeps_of_parts

@[simp] theorem keeps_abortJob (c code found) : Keeps (abortJob c code found) := by unfold abortJob; exact keeps_of_parts

@[simp] theorem keeps_endWork (w e) : Keeps (endWork w e) := by unfold endWork; exact keeps_of_parts

@[simp] theorem keeps_endCmd (c q idx e) : Keeps (endCmd c q idx e) := by unfold endCmd; exact keeps_of_parts

@[simp] theorem keeps_endCore (n e) : Keeps (endCore n e) := by unfold endCore; exact keeps_of_parts

@[simp] theorem keeps_returnToken (n cls) : Keeps (returnToken n cls) := by unfold returnToken; exact keeps_of_parts

@[simp] theorem keeps_finishRetire (kind number) : Keeps (finishRetire kind number) := by
  unfold finishRetire; exact keeps_of_parts

@[simp] theorem keeps_refreshMapData : Keeps refreshMapData := by unfold refreshMapData; exact keeps_of_parts

@[simp] theorem keeps_setMap (f) : Keeps (setMap f) := by unfold setMap; exact keeps_of_parts

@[simp] theorem keeps_raiseRepair (kind exhausted die unit sub physical) :
    Keeps (raiseRepair kind exhausted die unit sub physical) := by
  unfold raiseRepair; exact keeps_of_parts

/-! ### Issue -/

@[simp] theorem keeps_readWord (n k a) : Keeps (readWord n k a) := by unfold readWord; exact keeps_of_parts

@[simp] theorem keeps_fetchWord (n k a x) : Keeps (fetchWord n k a x) := by unfold fetchWord; exact keeps_of_parts

@[simp] theorem keeps_coreFault (n pc e) : Keeps (coreFault n pc e) := by unfold coreFault; exact keeps_of_parts

@[simp] theorem keeps_issue {body : Core → M Unit} {n : CoreId} {x : Nat} {bad : Option Nat} (h : ∀ a, Keeps (body a)) :
    Keeps (issue n x bad body) := by
  unfold issue; exact keeps_of_parts

@[simp] theorem keeps_stallS (k rs) : Keeps (stallS k rs) := by unfold stallS; exact keeps_of_parts

@[simp] theorem keeps_stallV (k rs) : Keeps (stallV k rs) := by unfold stallV; exact keeps_of_parts

@[simp] theorem keeps_stallD (k rs) : Keeps (stallD k rs) := by unfold stallD; exact keeps_of_parts

@[simp] theorem keeps_stallAcquire (k) : Keeps (stallAcquire k) := by unfold stallAcquire; exact keeps_of_parts

@[simp] theorem keeps_takeToken (n cls m) : Keeps (takeToken n cls m) := by unfold takeToken; exact keeps_of_parts

/-! ### Global -/

@[simp] theorem keeps_readLine (n k l) : Keeps (readLine n k l) := by unfold readLine; exact keeps_of_parts

@[simp] theorem keeps_plainRead (n k va len) : Keeps (plainRead n k va len) := by unfold plainRead; exact keeps_of_parts

@[simp] theorem keeps_hostAddress (c va n rights) : Keeps (hostAddress c va n rights) := by
  unfold hostAddress; exact keeps_of_parts

@[simp] theorem keeps_cohEvict (l) : Keeps (cohEvict l) := by unfold cohEvict; exact keeps_of_parts

@[simp] theorem keeps_cohTrim (lines) : Keeps (cohTrim lines) := by unfold cohTrim; exact keeps_of_parts

@[simp] theorem keeps_sendHost (fn addr len data use write) : Keeps (sendHost fn addr len data use write) := by
  unfold sendHost; exact keeps_of_parts

@[simp] theorem keeps_pushGl (n g) : Keeps (pushGl n g) := by unfold pushGl; exact keeps_of_parts

@[simp] theorem keeps_homeRead (n k va len ord) : Keeps (homeRead n k va len ord) := by
  unfold homeRead; exact keeps_of_parts

@[simp] theorem keeps_globalLoad (n k va len ord scope dest) : Keeps (globalLoad n k va len ord scope dest) := by
  unfold globalLoad; exact keeps_of_parts

@[simp] theorem keeps_releaseWait (k release scope) : Keeps (releaseWait k release scope) := by
  unfold releaseWait; exact keeps_of_parts

@[simp] theorem keeps_storeCheck (w va n) : Keeps (storeCheck w va n) := by unfold storeCheck; exact keeps_of_parts

@[simp] theorem keeps_globalStore (n k va bs release scope) : Keeps (globalStore n k va bs release scope) := by
  unfold globalStore; exact keeps_of_parts

@[simp] theorem keeps_homeAtomic (n k minor nb scope va b c) : Keeps (homeAtomic n k minor nb scope va b c) := by
  unfold homeAtomic; exact keeps_of_parts

@[simp] theorem keeps_globalAtomic (n k x) : Keeps (globalAtomic n k x) := by unfold globalAtomic; exact keeps_of_parts

@[simp] theorem keeps_onCoreOk (m a n align) : Keeps (onCoreOk m a n align) := by unfold onCoreOk; exact keeps_of_parts

@[simp] theorem keeps_onCoreLoad (n m x k) : Keeps (onCoreLoad n m x k) := by unfold onCoreLoad; exact keeps_of_parts

@[simp] theorem keeps_onCoreStore (n m x k) : Keeps (onCoreStore n m x k) := by unfold onCoreStore; exact keeps_of_parts

@[simp] theorem keeps_onCoreVLoad (n m x k) : Keeps (onCoreVLoad n m x k) := by unfold onCoreVLoad; exact keeps_of_parts

@[simp] theorem keeps_onCoreVStore (n m x k) : Keeps (onCoreVStore n m x k) := by unfold onCoreVStore; exact keeps_of_parts

@[simp] theorem keeps_landStore (n k i g) : Keeps (landStore n k i g) := by unfold landStore; exact keeps_of_parts

@[simp] theorem keeps_issueAtomic (n x) : Keeps (issueAtomic n x) := keeps_issue fun _ => keeps_of_parts

/-! ### Matrix -/

@[simp] theorem keeps_operandOk (d spaces other) : Keeps (operandOk d spaces other) := by
  unfold operandOk; exact keeps_of_parts

@[simp] theorem keeps_typeIn (d ts) : Keeps (typeIn d ts) := by unfold typeIn; exact keeps_of_parts

@[simp] theorem keeps_writableOk (d) : Keeps (writableOk d) := by unfold writableOk; exact keeps_of_parts

@[simp] theorem keeps_reductionOk (d dim k) : Keeps (reductionOk d dim k) := by unfold reductionOk; exact keeps_of_parts

@[simp] theorem keeps_scaledOrigin (d) : Keeps (scaledOrigin d) := by unfold scaledOrigin; exact keeps_of_parts

@[simp] theorem keeps_scaledLength (d k) : Keeps (scaledLength d k) := by unfold scaledLength; exact keeps_of_parts

@[simp] theorem keeps_pushMx (n k op x v) : Keeps (pushMx n k op x v) := by unfold pushMx; exact keeps_of_parts

@[simp] theorem keeps_valueAt (w d coarse l) : Keeps (valueAt w d coarse l) := by unfold valueAt; exact keeps_of_parts

@[simp] theorem keeps_readMatrix (w d coarse rows cols f) : Keeps (readMatrix w d coarse rows cols f) := by
  unfold readMatrix; exact keeps_of_parts

@[simp] theorem keeps_rowContext (n i) : Keeps (rowContext n i) := by unfold rowContext; exact keeps_of_parts

@[simp] theorem keeps_coreCounts (n c cls sat nanc) : Keeps (coreCounts n c cls sat nanc) := by
  unfold coreCounts; exact keeps_of_parts

@[simp] theorem keeps_countWidenRows (n d coarse cls rows cols f) : Keeps (countWidenRows n d coarse cls rows cols f) := by
  unfold countWidenRows; exact keeps_of_parts

@[simp] theorem keeps_countWiden (c d coarse cls rows cols f) : Keeps (countWiden c d coarse cls rows cols f) := by
  unfold countWiden; exact keeps_of_parts

@[simp] theorem keeps_countStream (n K kd) : Keeps (countStream n K kd) := by unfold countStream; exact keeps_of_parts

@[simp] theorem keeps_mmaChecks (x k) : Keeps (mmaChecks x k) := by unfold mmaChecks; exact keeps_of_parts

@[simp] theorem keeps_finishMma (n k o) : Keeps (finishMma n k o) := by unfold finishMma; exact keeps_of_parts

@[simp] theorem keeps_finishLd (n k o) : Keeps (finishLd n k o) := by unfold finishLd; exact keeps_of_parts

@[simp] theorem keeps_finishSt (n k o) : Keeps (finishSt n k o) := by unfold finishSt; exact keeps_of_parts

@[simp] theorem keeps_finishWr (n o) : Keeps (finishWr n o) := by unfold finishWr; exact keeps_of_parts

/-! ### Attention -/

@[simp] theorem keeps_probabilityOk (d) : Keeps (probabilityOk d) := by unfold probabilityOk; exact keeps_of_parts

@[simp] theorem keeps_writeProbabilities (w d p) : Keeps (writeProbabilities w d p) := by
  unfold writeProbabilities; exact keeps_of_parts

@[simp] theorem keeps_finishQk (n k o) : Keeps (finishQk n k o) := by unfold finishQk; exact keeps_of_parts

@[simp] theorem keeps_finishSm (n k o) : Keeps (finishSm n k o) := by unfold finishSm; exact keeps_of_parts

@[simp] theorem keeps_finishPv (n k o) : Keeps (finishPv n k o) := by unfold finishPv; exact keeps_of_parts

@[simp] theorem keeps_finishMrg (n k o) : Keeps (finishMrg n k o) := by unfold finishMrg; exact keeps_of_parts

@[simp] theorem keeps_raiseTracker (w d x) : Keeps (raiseTracker w d x) := by unfold raiseTracker; exact keeps_of_parts

@[simp] theorem keeps_writeNarrowRows (n w d rows) : Keeps (writeNarrowRows n w d rows) := by
  unfold writeNarrowRows; exact keeps_of_parts

@[simp] theorem keeps_finishFin (n k o) : Keeps (finishFin n k o) := by unfold finishFin; exact keeps_of_parts

@[simp] theorem keeps_finishRp (n k o) : Keeps (finishRp n k o) := by unfold finishRp; exact keeps_of_parts

@[simp] theorem keeps_finishOp (n k o) : Keeps (finishOp n k o) := by unfold finishOp; exact keeps_of_parts

/-! ### Cache -/

@[simp] theorem keeps_ownPieces (j c va n need) : Keeps (ownPieces j c va n need) := by
  unfold ownPieces; exact keeps_of_parts

@[simp] theorem keeps_ownRead (j c va n) : Keeps (ownRead j c va n) := by unfold ownRead; exact keeps_of_parts

@[simp] theorem keeps_ownWrite (j c va bs need) : Keeps (ownWrite j c va bs need) := by
  unfold ownWrite; exact keeps_of_parts

@[simp] theorem keeps_readList (j c list) : Keeps (readList j c list) := by unfold readList; exact keeps_of_parts

@[simp] theorem keeps_listPage (c j i entry) : Keeps (listPage c j i entry) := by unfold listPage; exact keeps_of_parts

/-! ### Control -/

@[simp] theorem keeps_takeBranch (n k a) : Keeps (takeBranch n k a) := by unfold takeBranch; exact keeps_of_parts

@[simp] theorem keeps_sampleCycle (d) : Keeps (sampleCycle d) := by unfold sampleCycle; exact keeps_of_parts

@[simp] theorem keeps_csrValue (n k c) : Keeps (csrValue n k c) := by unfold csrValue; exact keeps_of_parts

/-! ### Dma -/

@[simp] theorem keeps_dmaHandle (c space p core) : Keeps (dmaHandle c space p core) := by
  unfold dmaHandle; exact keeps_of_parts

@[simp] theorem keeps_carries (o bit) : Keeps (carries o bit) := by unfold carries; exact keeps_of_parts

@[simp] theorem keeps_checkReq (r core) : Keeps (checkReq r core) := by unfold checkReq; exact keeps_of_parts

@[simp] theorem keeps_endRead (r space obj o n) : Keeps (endRead r space obj o n) := by unfold endRead; exact keeps_of_parts

@[simp] theorem keeps_endWrite (r space obj o bs) : Keeps (endWrite r space obj o bs) := by
  unfold endWrite; exact keeps_of_parts

@[simp] theorem keeps_modReq (e ch order f) : Keeps (modReq e ch order f) := by unfold modReq; exact keeps_of_parts

@[simp] theorem keeps_remoteWrite (e ch r o off bs) : Keeps (remoteWrite e ch r o off bs) := by
  unfold remoteWrite; exact keeps_of_parts

@[simp] theorem keeps_remoteRead (e ch r o off n stream) : Keeps (remoteRead e ch r o off n stream) := by
  unfold remoteRead; exact keeps_of_parts

@[simp] theorem keeps_countMoved (e ch n) : Keeps (countMoved e ch n) := by unfold countMoved; exact keeps_of_parts

@[simp] theorem keeps_keepBefore (e ch order a bs) : Keeps (keepBefore e ch order a bs) := by
  unfold keepBefore; exact keeps_of_parts

@[simp] theorem keeps_oldOrNew (e ch order a bs) : Keeps (oldOrNew e ch order a bs) := by
  unfold oldOrNew; exact keeps_of_parts

@[simp] theorem keeps_burstRead (e ch r o n) : Keeps (burstRead e ch r o n) := by unfold burstRead; exact keeps_of_parts

@[simp] theorem keeps_burstWrite (e ch r o bs) : Keeps (burstWrite e ch r o bs) := by
  unfold burstWrite; exact keeps_of_parts

@[simp] theorem keeps_deliver (e ch r off bs) : Keeps (deliver e ch r off bs) := by unfold deliver; exact keeps_of_parts

@[simp] theorem keeps_cpPut (e ch r i d n x) : Keeps (cpPut e ch r i d n x) := by unfold cpPut; exact keeps_of_parts

@[simp] theorem keeps_cpWrite (e ch r i d m x) : Keeps (cpWrite e ch r i d m x) := by unfold cpWrite; exact keeps_of_parts

@[simp] theorem keeps_cpRead (e ch r c o len) : Keeps (cpRead e ch r c o len) := by unfold cpRead; exact keeps_of_parts

@[simp] theorem keeps_cpBurst (e ch r i) : Keeps (cpBurst e ch r i) := by unfold cpBurst; exact keeps_of_parts

@[simp] theorem keeps_dmaFault (e r er) : Keeps (dmaFault e r er) := by unfold dmaFault; exact keeps_of_parts

@[simp] theorem keeps_flushHost (e ch order) : Keeps (flushHost e ch order) := by unfold flushHost; exact keeps_of_parts

@[simp] theorem keeps_ensureChecked (e ch r) : Keeps (ensureChecked e ch r) := by unfold ensureChecked; exact keeps_of_parts

@[simp] theorem keeps_moveBurst (e ch r i len) : Keeps (moveBurst e ch r i len) := by unfold moveBurst; exact keeps_of_parts

@[simp] theorem keeps_startBurst (e ch r) : Keeps (startBurst e ch r) := by unfold startBurst; exact keeps_of_parts

@[simp] theorem keeps_dataIn (e ch order off wait bs) : Keeps (dataIn e ch order off wait bs) := by
  unfold dataIn; exact keeps_of_parts

@[simp] theorem keeps_writeDone (e ch order wait) : Keeps (writeDone e ch order wait) := by
  unfold writeDone; exact keeps_of_parts

@[simp] theorem keeps_requestFailed (e ch order wait er) : Keeps (requestFailed e ch order wait er) := by
  unfold requestFailed; exact keeps_of_parts

@[simp] theorem keeps_storeSum (e ch r) : Keeps (storeSum e ch r) := by unfold storeSum; exact keeps_of_parts

@[simp] theorem keeps_leaveChannel (e ch r) : Keeps (leaveChannel e ch r) := by unfold leaveChannel; exact keeps_of_parts

@[simp] theorem keeps_pushReq (n pc ch r) : Keeps (pushReq n pc ch r) := by unfold pushReq; exact keeps_of_parts

/-! ### Taps -/

@[simp] theorem keeps_tapBytes (w d last i) : Keeps (tapBytes w d last i) := by unfold tapBytes; exact keeps_of_parts

@[simp] theorem keeps_tapCrc (w d n i last c) : Keeps (tapCrc w d n i last c) := by
  induction n generalizing i last c with
  | zero => exact keeps_pure _
  | succ f ih => exact keeps_bind (keeps_tapBytes _ _ _ _) fun _ => ih _ _ _

@[simp] theorem keeps_tapValues (w d) : Keeps (tapValues w d) := by unfold tapValues; exact keeps_of_parts

@[simp] theorem keeps_tapStatistics (xs) : Keeps (tapStatistics xs) := by unfold tapStatistics; exact keeps_of_parts

@[simp] theorem keeps_tapRead (c raw digest) : Keeps (tapRead c raw digest) := by unfold tapRead; exact keeps_of_parts

@[simp] theorem keeps_chargeTap (t bytes) : Keeps (chargeTap t bytes) := by unfold chargeTap; exact keeps_of_parts

@[simp] theorem keeps_fireTap (i t seq) : Keeps (fireTap i t seq) := by unfold fireTap; exact keeps_of_parts

@[simp] theorem keeps_readTap (i) : Keeps (readTap i) := by unfold readTap; exact keeps_of_parts

@[simp] theorem keeps_fireTaps (trigger source ctx step) : Keeps (fireTaps trigger source ctx step) := by
  unfold fireTaps; exact keeps_of_parts

/-! ### Starting -/

@[simp] theorem keeps_takeColumns (n) : Keeps (takeColumns n) := by unfold takeColumns; exact keeps_of_parts

@[simp] theorem keeps_enterCore (n) : Keeps (enterCore n) := by unfold enterCore; exact keeps_of_parts

@[simp] theorem keeps_startOnCore (n k) : Keeps (startOnCore n k) := by unfold startOnCore; exact keeps_of_parts

/-! ### Fences -/

@[simp] theorem keeps_refreshDrains : Keeps refreshDrains := by unfold refreshDrains; exact keeps_of_parts

@[simp] theorem keeps_startDrain (c q value) : Keeps (startDrain c q value) := by unfold startDrain; exact keeps_of_parts

@[simp] theorem keeps_advanceQueue (c q) : Keeps (advanceQueue c q) := by unfold advanceQueue; exact keeps_of_parts

@[simp] theorem keeps_endUnstarted (c q idx status fault) : Keeps (endUnstarted c q idx status fault) := by
  unfold endUnstarted; exact keeps_of_parts

@[simp] theorem keeps_cancelWaiters (c f) : Keeps (cancelWaiters c f) := by unfold cancelWaiters; exact keeps_of_parts

@[simp] theorem keeps_poisonFence (c f) : Keeps (poisonFence c f) := by unfold poisonFence; exact keeps_of_parts

@[simp] theorem keeps_signalFence (c f op value) : Keeps (signalFence c f op value) := by
  unfold signalFence; exact keeps_of_parts

@[simp] theorem keeps_remoteSignal (dev srcCtx c f op value poison) :
    Keeps (remoteSignal dev srcCtx c f op value poison) := by
  unfold remoteSignal; exact keeps_of_parts

@[simp] theorem keeps_peerEntry (dev n i) : Keeps (peerEntry dev n i) := by
  induction n generalizing i with
  | zero => exact keeps_pure _
  | succ f ih => unfold peerEntry; exact keeps_of_parts

@[simp] theorem keeps_findPeer (dev) : Keeps (findPeer dev) := by unfold findPeer; exact keeps_of_parts

@[simp] theorem keeps_sendSwitch (srcCtx dev ctx fence op flags value) :
    Keeps (sendSwitch srcCtx dev ctx fence op flags value) := by
  unfold sendSwitch; exact keeps_of_parts

@[simp] theorem keeps_sendRemote (c e poison) : Keeps (sendRemote c e poison) := by unfold sendRemote; exact keeps_of_parts

@[simp] theorem keeps_sendSignals (c x success) : Keeps (sendSignals c x success) := by
  unfold sendSignals; exact keeps_of_parts

@[simp] theorem keeps_testDeadlock (c q) : Keeps (testDeadlock c q) := by unfold testDeadlock; exact keeps_of_parts

@[simp] theorem keeps_writeCounters (c q x) : Keeps (writeCounters c q x) := by unfold writeCounters; exact keeps_of_parts

@[simp] theorem keeps_finishCmd (c q x e) : Keeps (finishCmd c q x e) := by unfold finishCmd; exact keeps_of_parts

@[simp] theorem keeps_refreshSaved : Keeps refreshSaved := by unfold refreshSaved; exact keeps_of_parts

@[simp] theorem keeps_refreshSets : Keeps refreshSets := by unfold refreshSets; exact keeps_of_parts

@[simp] theorem keeps_modWt (m f) : Keeps (modWt m f) := by unfold modWt; exact keeps_of_parts

@[simp] theorem keeps_putWtState (m st) : Keeps (putWtState m st) := by unfold putWtState; exact keeps_of_parts

@[simp] theorem keeps_dropFlight (m p) : Keeps (dropFlight m p) := by unfold dropFlight; exact keeps_of_parts

@[simp] theorem keeps_endWt (m st status fault) : Keeps (endWt m st status fault) := by unfold endWt; exact keeps_of_parts

@[simp] theorem keeps_cancelWt (c q) : Keeps (cancelWt c q) := by unfold cancelWt; exact keeps_of_parts

@[simp] theorem keeps_cancelQueue (c q status fault) : Keeps (cancelQueue c q status fault) := by
  unfold cancelQueue; exact keeps_of_parts

@[simp] theorem keeps_recordQueue (c q) : Keeps (recordQueue c q) := by unfold recordQueue; exact keeps_of_parts

@[simp] theorem keeps_poisonOwned (c q) : Keeps (poisonOwned c q) := by unfold poisonOwned; exact keeps_of_parts

/-! ### Partitions -/

@[simp] theorem keeps_leaveGrant (c) : Keeps (leaveGrant c) := by unfold leaveGrant; exact keeps_of_parts

@[simp] theorem keeps_chooseFrom (cs kept) : Keeps (chooseFrom cs kept) := by
  induction cs generalizing kept with
  | nil => exact keeps_pure _
  | cons c t ih => unfold chooseFrom; exact keeps_of_parts

@[simp] theorem keeps_refreshGranted : Keeps refreshGranted := by unfold refreshGranted; exact keeps_of_parts

@[simp] theorem keeps_refreshServing : Keeps refreshServing := by unfold refreshServing; exact keeps_of_parts

@[simp] theorem keeps_releaseGrant (c) : Keeps (releaseGrant c) := by unfold releaseGrant; exact keeps_of_parts

@[simp] theorem keeps_takeClaims (c) : Keeps (takeClaims c) := by unfold takeClaims; exact keeps_of_parts

@[simp] theorem keeps_settleGrants : Keeps settleGrants := by unfold settleGrants; exact keeps_of_parts

@[simp] theorem keeps_chooseGrants : Keeps chooseGrants := by unfold chooseGrants; exact keeps_of_parts

@[simp] theorem keeps_tickSlices : Keeps tickSlices := by unfold tickSlices; exact keeps_of_parts

/-! ### FrontEnd -/

@[simp] theorem keeps_writeQcfg (c q h v) : Keeps (writeQcfg c q h v) := by unfold writeQcfg; exact keeps_of_parts

@[simp] theorem keeps_writeDoorbell (c q h v) : Keeps (writeDoorbell c q h v) := by
  unfold writeDoorbell; exact keeps_of_parts

@[simp] theorem keeps_writeHead (head tail reject h v) : Keeps (writeHead head tail reject h v) := by
  unfold writeHead; exact keeps_of_parts

@[simp] theorem keeps_writeFval (c f h v) : Keeps (writeFval c f h v) := by unfold writeFval; exact keeps_of_parts

@[simp] theorem keeps_writeFcfg (c f h v) : Keeps (writeFcfg c f h v) := by unfold writeFcfg; exact keeps_of_parts

@[simp] theorem keeps_feHandle (c h) : Keeps (feHandle c h) := by unfold feHandle; exact keeps_of_parts

@[simp] theorem keeps_feRights (o right) : Keeps (feRights o right) := by unfold feRights; exact keeps_of_parts

@[simp] theorem keeps_relocate (c x b) : Keeps (relocate c x b) := by unfold relocate; exact keeps_of_parts

@[simp] theorem keeps_prefetchRecords (c q x) : Keeps (prefetchRecords c q x) := by
  unfold prefetchRecords; exact keeps_of_parts

@[simp] theorem keeps_recordsFault (c b) : Keeps (recordsFault c b) := by unfold recordsFault; exact keeps_of_parts

@[simp] theorem keeps_failedCounters (c x b) : Keeps (failedCounters c x b) := by
  unfold failedCounters; exact keeps_of_parts

@[simp] theorem keeps_readCommand (c q idx) : Keeps (readCommand c q idx) := by unfold readCommand; exact keeps_of_parts

@[simp] theorem keeps_beginCmd (c q x phase) : Keeps (beginCmd c q x phase) := by unfold beginCmd; exact keeps_of_parts

@[simp] theorem keeps_waitTimeout (c q) : Keeps (waitTimeout c q) := by unfold waitTimeout; exact keeps_of_parts

@[simp] theorem keeps_enqueueTarget (c r) : Keeps (enqueueTarget c r) := by unfold enqueueTarget; exact keeps_of_parts

@[simp] theorem keeps_ringDoorbell (c q) : Keeps (ringDoorbell c q) := by unfold ringDoorbell; exact keeps_of_parts

/-! ### Batch -/

@[simp] theorem keeps_layerEntry (m L) : Keeps (layerEntry m L) := by unfold layerEntry; exact keeps_of_parts

@[simp] theorem keeps_planWeights (m) : Keeps (planWeights m) := by unfold planWeights; exact keeps_of_parts

@[simp] theorem keeps_poolRecords (j i) : Keeps (poolRecords j i) := by unfold poolRecords; exact keeps_of_parts

@[simp] theorem keeps_pageRanges (j i x) : Keeps (pageRanges j i x) := by unfold pageRanges; exact keeps_of_parts

@[simp] theorem keeps_freePages (j i) : Keeps (freePages j i) := by unfold freePages; exact keeps_of_parts

@[simp] theorem keeps_pagesHeld (c j i) : Keeps (pagesHeld c j i) := by unfold pagesHeld; exact keeps_of_parts

@[simp] theorem keeps_unusedReserve (c j i) : Keeps (unusedReserve c j i) := by unfold unusedReserve; exact keeps_of_parts

@[simp] theorem keeps_unreservedFree (j i free) : Keeps (unreservedFree j i free) := by
  unfold unreservedFree; exact keeps_of_parts

@[simp] theorem keeps_grantPage (c j i x) : Keeps (grantPage c j i x) := by unfold grantPage; exact keeps_of_parts

@[simp] theorem keeps_freePage (j i x) : Keeps (freePage j i x) := by unfold freePage; exact keeps_of_parts

@[simp] theorem keeps_moveSlot (j c list l a b) : Keeps (moveSlot j c list l a b) := by
  unfold moveSlot; exact keeps_of_parts

@[simp] theorem keeps_evictList (c list) : Keeps (evictList c list) := by unfold evictList; exact keeps_of_parts

@[simp] theorem keeps_onePage (c list) : Keeps (onePage c list) := by unfold onePage; exact keeps_of_parts

@[simp] theorem keeps_countEvicted (m b) : Keeps (countEvicted m b) := by unfold countEvicted; exact keeps_of_parts

@[simp] theorem keeps_listPages (m c list target n) : Keeps (listPages m c list target n) := by
  induction n with
  | zero => exact keeps_pure _
  | succ fuel ih => unfold listPages; exact keeps_of_parts

@[simp] theorem keeps_directory (c dir i) : Keeps (directory c dir i) := by unfold directory; exact keeps_of_parts

@[simp] theorem keeps_allPages (m c target ls) : Keeps (allPages m c target ls) := by
  induction ls with
  | nil => exact keeps_pure _
  | cons x t ih => unfold allPages; exact keeps_of_parts

@[simp] theorem keeps_requestLists (r) : Keeps (requestLists r) := by unfold requestLists; exact keeps_of_parts

@[simp] theorem keeps_freeList (c list) : Keeps (freeList c list) := by unfold freeList; exact keeps_of_parts

@[simp] theorem keeps_modRequest (order f) : Keeps (modRequest order f) := by unfold modRequest; exact keeps_of_parts

@[simp] theorem keeps_heldLists (r) : Keeps (heldLists r) := by unfold heldLists; exact keeps_of_parts

@[simp] theorem keeps_freePrimary (r) : Keeps (freePrimary r) := by unfold freePrimary; exact keeps_of_parts

@[simp] theorem keeps_endRequest (r status fault) : Keeps (endRequest r status fault) := by
  unfold endRequest; exact keeps_of_parts

@[simp] theorem keeps_joinRequests : Keeps joinRequests := by unfold joinRequests; exact keeps_of_parts

@[simp] theorem keeps_lowerUsed (c list len) : Keeps (lowerUsed c list len) := by unfold lowerUsed; exact keeps_of_parts

@[simp] theorem keeps_rowStatus (m k) : Keeps (rowStatus m k) := by unfold rowStatus; exact keeps_of_parts

@[simp] theorem keeps_settleShadow (m w k) : Keeps (settleShadow m w k) := by unfold settleShadow; exact keeps_of_parts

@[simp] theorem keeps_settleRequest (m r) : Keeps (settleRequest m r) := by unfold settleRequest; exact keeps_of_parts

@[simp] theorem keeps_moveStrict (m) : Keeps (moveStrict m) := by unfold moveStrict; exact keeps_of_parts

@[simp] theorem keeps_holdStrict (m) : Keeps (holdStrict m) := by unfold holdStrict; exact keeps_of_parts

@[simp] theorem keeps_admitRow (m r) : Keeps (admitRow m r) := by unfold admitRow; exact keeps_of_parts

@[simp] theorem keeps_writeTable (m) : Keeps (writeTable m) := by unfold writeTable; exact keeps_of_parts

@[simp] theorem keeps_fillBatch (m) : Keeps (fillBatch m) := by unfold fillBatch; exact keeps_of_parts

@[simp] theorem keeps_openStep (m) : Keeps (openStep m) := by unfold openStep; exact keeps_of_parts

@[simp] theorem keeps_listStacks (c i) : Keeps (listStacks c i) := by unfold listStacks; exact keeps_of_parts

@[simp] theorem keeps_availability (c i held) : Keeps (availability c i held) := by
  unfold availability; exact keeps_of_parts

@[simp] theorem keeps_contextAvail (c i mine heldPages) : Keeps (contextAvail c i mine heldPages) := by
  unfold contextAvail; exact keeps_of_parts

@[simp] theorem keeps_refreshPressure (i c) : Keeps (refreshPressure i c) := by unfold refreshPressure; exact keeps_of_parts

@[simp] theorem keeps_refreshCache : Keeps refreshCache := by unfold refreshCache; exact keeps_of_parts

@[simp] theorem keeps_tickOverrun (m) : Keeps (tickOverrun m) := by unfold tickOverrun; exact keeps_of_parts

@[simp] theorem keeps_buildSteps : Keeps buildSteps := by unfold buildSteps; exact keeps_of_parts

@[simp] theorem keeps_writeFlags (m k w) : Keeps (writeFlags m k w) := by unfold writeFlags; exact keeps_of_parts

@[simp] theorem keeps_putRow (m k w) : Keeps (putRow m k w) := by unfold putRow; exact keeps_of_parts

@[simp] theorem keeps_moveRow (m elapsed k w) : Keeps (moveRow m elapsed k w) := by unfold moveRow; exact keeps_of_parts

@[simp] theorem keeps_actRows {act : Nat → RowSt → M Bool} (h : ∀ k w, Keeps (act k w)) (m elapsed rs) :
    Keeps (actRows m elapsed act rs) := by
  induction rs with
  | nil => exact keeps_pure _
  | cons r t ih => unfold actRows; exact keeps_of_parts

/-- The action of the second policy on a row: it does not run, and its request is deferred. -/
@[simp] theorem keeps_deferRows (m e rs) {g : RowSt → RowSt} {f : RowSt → ReqSt → ReqSt} :
    Keeps (actRows m e (fun k w => do putRow m k (g w); modRequest w.order (f w); pure true) rs) :=
  keeps_actRows (fun _ _ => keeps_of_parts) m e rs

@[simp] theorem keeps_monitor (m m80 now) : Keeps (monitor m m80 now) := by unfold monitor; exact keeps_of_parts

/-! ### Weights -/

@[simp] theorem keeps_sysStarted (q op) : Keeps (sysStarted q op) := by unfold sysStarted; exact keeps_of_parts

@[simp] theorem keeps_sysRun {m : M Unit} (q x) (h : Keeps m) : Keeps (sysRun q x m) := by
  unfold sysRun; exact keeps_of_parts

@[simp] theorem keeps_sysRunning (q x) : Keeps (sysRunning q x) := by unfold sysRunning; exact keeps_of_parts

@[simp] theorem keeps_advancePsn (qp f) : Keeps (advancePsn qp f) := by
  refine keeps_get_of fun s _ => ?_
  split
  · exact keeps_ite (keeps_pure _) (keeps_bind (keeps_attempt (keeps_vaWrite _ _ _)) fun _ => keeps_pure _)
  · exact keeps_pure _

@[simp] theorem keeps_sendRoce (qp f) : Keeps (sendRoce qp f) := by unfold sendRoce; exact keeps_of_parts

@[simp] theorem keeps_wtObject (x o) : Keeps (wtObject x o) := by unfold wtObject; exact keeps_of_parts

@[simp] theorem keeps_checkSecurity (o fault) : Keeps (checkSecurity o fault : M α) := by
  unfold checkSecurity; exact keeps_of_parts

@[simp] theorem keeps_wtChecks (m x load) : Keeps (wtChecks m x load) := by unfold wtChecks; exact keeps_of_parts

@[simp] theorem keeps_readFor (m f off id) : Keeps (readFor m f off id) := by unfold readFor; exact keeps_of_parts

@[simp] theorem keeps_sourceAsk (m w p f) : Keeps (sourceAsk m w p f) := by unfold sourceAsk; exact keeps_of_parts

@[simp] theorem keeps_fetchSome (m ks step) : Keeps (fetchSome m ks step) := by unfold fetchSome; exact keeps_of_parts

@[simp] theorem keeps_fetchResident (m) : Keeps (fetchResident m) := by unfold fetchResident; exact keeps_of_parts

@[simp] theorem keeps_writeLayerMap (map L flags current) : Keeps (writeLayerMap map L flags current) := by
  unfold writeLayerMap; exact keeps_of_parts

@[simp] theorem keeps_finishReplace (m) : Keeps (finishReplace m) := by unfold finishReplace; exact keeps_of_parts

@[simp] theorem keeps_takeLayer (m L) : Keeps (takeLayer m L) := by unfold takeLayer; exact keeps_of_parts

@[simp] theorem keeps_shardTarget (m p step k) : Keeps (shardTarget m p step k) := by
  unfold shardTarget; exact keeps_of_parts

@[simp] theorem keeps_shardFails (m status fault) : Keeps (shardFails m status fault) := by
  unfold shardFails; exact keeps_of_parts

@[simp] theorem keeps_settleFetch (m) : Keeps (settleFetch m) := by unfold settleFetch; exact keeps_of_parts

@[simp] theorem keeps_settleStream (m p f bytes) : Keeps (settleStream m p f bytes) := by
  unfold settleStream; exact keeps_of_parts

@[simp] theorem keeps_turnShard (m f) : Keeps (turnShard m f) := by unfold turnShard; exact keeps_of_parts

@[simp] theorem keeps_retryShard (m p f) : Keeps (retryShard m p f) := by unfold retryShard; exact keeps_of_parts

@[simp] theorem keeps_landShard (m p f bs) : Keeps (landShard m p f bs) := by unfold landShard; exact keeps_of_parts

@[simp] theorem keeps_shardOfRead (x) : Keeps (shardOfRead x) := by unfold shardOfRead; exact keeps_of_parts

@[simp] theorem keeps_shardBytes (x data) : Keeps (shardBytes x data) := by unfold shardBytes; exact keeps_of_parts

@[simp] theorem keeps_swapStream (m n) : Keeps (swapStream m n) := by unfold swapStream; exact keeps_of_parts

@[simp] theorem keeps_layerStages (m L) : Keeps (layerStages m L) := by unfold layerStages; exact keeps_of_parts

@[simp] theorem keeps_weightsReady (m stage) : Keeps (weightsReady m stage) := by unfold weightsReady; exact keeps_of_parts

@[simp] theorem keeps_placeStreamed (m stage) : Keeps (placeStreamed m stage) := by
  unfold placeStreamed; exact keeps_of_parts

@[simp] theorem keeps_consumeLayers (m stage) : Keeps (consumeLayers m stage) := by
  unfold consumeLayers; exact keeps_of_parts

@[simp] theorem keeps_settleRate (m) : Keeps (settleRate m) := by unfold settleRate; exact keeps_of_parts

/-! ### Contexts -/

@[simp] theorem keeps_cancelContext (c cmd) : Keeps (cancelContext c cmd) := by unfold cancelContext; exact keeps_of_parts

@[simp] theorem keeps_endGrant (c) : Keeps (endGrant c) := by unfold endGrant; exact keeps_of_parts

@[simp] theorem keeps_advanceContext (c) : Keeps (advanceContext c) := by unfold advanceContext; exact keeps_of_parts

@[simp] theorem keeps_resetContext (c cause cmd) : Keeps (resetContext c cause cmd) := by
  unfold resetContext; exact keeps_of_parts

@[simp] theorem keeps_tableEntries (base n) : Keeps (tableEntries base n) := by unfold tableEntries; exact keeps_of_parts

@[simp] theorem keeps_leafRanges (c ls base) : Keeps (leafRanges c ls base) := by
  induction ls generalizing base with
  | nil => exact keeps_pure _
  | cons l rest ih => unfold leafRanges; exact keeps_of_parts

@[simp] theorem keeps_discardKey (slot) : Keeps (discardKey slot) := by unfold discardKey; exact keeps_of_parts

@[simp] theorem keeps_flushCoherence (c) : Keeps (flushCoherence c) := by unfold flushCoherence; exact keeps_of_parts

@[simp] theorem keeps_freeCachePages (c) : Keeps (freeCachePages c) := by unfold freeCachePages; exact keeps_of_parts

@[simp] theorem keeps_destroyJob (c) : Keeps (destroyJob c) := by unfold destroyJob; exact keeps_of_parts

@[simp] theorem keeps_finishTeardown (c) : Keeps (finishTeardown c) := by unfold finishTeardown; exact keeps_of_parts

@[simp] theorem keeps_contextGone (c) : Keeps (contextGone c) := by unfold contextGone; exact keeps_of_parts

@[simp] theorem keeps_bodyCtx (b o) : Keeps (bodyCtx b o) := by unfold bodyCtx; exact keeps_of_parts

@[simp] theorem keeps_saveAreaOk (c area clusters) : Keeps (saveAreaOk c area clusters) := by
  unfold saveAreaOk; exact keeps_of_parts

@[simp] theorem keeps_openContext (c) : Keeps (openContext c) := by unfold openContext; exact keeps_of_parts

@[simp] theorem keeps_tickReclaims : Keeps tickReclaims := by unfold tickReclaims; exact keeps_of_parts

@[simp] theorem keeps_reclaimDeadline : Keeps reclaimDeadline := by unfold reclaimDeadline; exact keeps_of_parts

@[simp] theorem keeps_stageEnd (m) : Keeps (stageEnd m) := by unfold stageEnd; exact keeps_of_parts

@[simp] theorem keeps_readSaved (c a saved) : Keeps (readSaved c a saved) := by unfold readSaved; exact keeps_of_parts

@[simp] theorem keeps_readLines (c a ls) : Keeps (readLines c a ls) := by unfold readLines; exact keeps_of_parts

@[simp] theorem keeps_readImage (c a i) : Keeps (readImage c a i) := by unfold readImage; exact keeps_of_parts

@[simp] theorem keeps_makeImage (c q idx first) : Keeps (makeImage c q idx first) := by
  unfold makeImage; exact keeps_of_parts

@[simp] theorem keeps_nonpreemptOverrun (c q index) : Keeps (nonpreemptOverrun c q index) := by
  unfold nonpreemptOverrun; exact keeps_of_parts

@[simp] theorem keeps_budgetExpiry (c q index) : Keeps (budgetExpiry c q index) := by
  unfold budgetExpiry; exact keeps_of_parts

/-! ### Collectives -/

@[simp] theorem keeps_checkCl (c j o) : Keeps (checkCl c j o) := by unfold checkCl; exact keeps_of_parts

@[simp] theorem keeps_countSent (c ch bs) : Keeps (countSent c ch bs) := by unfold countSent; exact keeps_of_parts

@[simp] theorem keeps_countRecv (c ch bs) : Keeps (countRecv c ch bs) := by unfold countRecv; exact keeps_of_parts

@[simp] theorem keeps_sendNext (c ch kind opNum elem data) : Keeps (sendNext c ch kind opNum elem data) := by
  unfold sendNext; exact keeps_of_parts

@[simp] theorem keeps_sendElems (c ch kind opNum size n elem bs) : Keeps (sendElems c ch kind opNum size n elem bs) := by
  induction n generalizing elem bs with
  | zero => exact keeps_pure _
  | succ f ih => unfold sendElems; exact keeps_of_parts

@[simp] theorem keeps_sendRun (c ch kind opNum size elem bs) : Keeps (sendRun c ch kind opNum size elem bs) := by
  unfold sendRun; exact keeps_of_parts

@[simp] theorem keeps_padBytes (n) : Keeps (padBytes n) := by unfold padBytes; exact keeps_of_parts

@[simp] theorem keeps_elemsAt (c t va n) : Keeps (elemsAt c t va n) := by unfold elemsAt; exact keeps_of_parts

@[simp] theorem keeps_writeDst (c o elem bs) : Keeps (writeDst c o elem bs) := by unfold writeDst; exact keeps_of_parts

@[simp] theorem keeps_cisternRead (c dpa n) : Keeps (cisternRead c dpa n) := by unfold cisternRead; exact keeps_of_parts

@[simp] theorem keeps_cisternWrite (c dpa bs) : Keeps (cisternWrite c dpa bs) := by
  unfold cisternWrite; exact keeps_of_parts

@[simp] theorem keeps_optElement (c j o x sum) : Keeps (optElement c j o x sum) := by
  unfold optElement; exact keeps_of_parts

@[simp] theorem keeps_modOp (c ch f) : Keeps (modOp c ch f) := by unfold modOp; exact keeps_of_parts

@[simp] theorem keeps_clFault (c o e) : Keeps (clFault c o e) := by unfold clFault; exact keeps_of_parts

@[simp] theorem keeps_deliverVals (c ch j o elem bs lack) : Keeps (deliverVals c ch j o elem bs lack) := by
  unfold deliverVals; exact keeps_of_parts

@[simp] theorem keeps_finishSums (c ch j o elem sums lack) : Keeps (finishSums c ch j o elem sums lack) := by
  unfold finishSums; exact keeps_of_parts

@[simp] theorem keeps_startOp (c ch) : Keeps (startOp c ch) := by unfold startOp; exact keeps_of_parts

@[simp] theorem keeps_queueOp (c ch o) : Keeps (queueOp c ch o) := by unfold queueOp; exact keeps_of_parts

@[simp] theorem keeps_clearJobRegs (c) : Keeps (clearJobRegs c) := by unfold clearJobRegs; exact keeps_of_parts

@[simp] theorem keeps_dropJob (c) : Keeps (dropJob c) := by unfold dropJob; exact keeps_of_parts

@[simp] theorem keeps_failJob (c status fault) : Keeps (failJob c status fault) := by unfold failJob; exact keeps_of_parts

@[simp] theorem keeps_settleJob (c) : Keeps (settleJob c) := by unfold settleJob; exact keeps_of_parts

@[simp] theorem keeps_cisternFilled (c) : Keeps (cisternFilled c) := by unfold cisternFilled; exact keeps_of_parts

@[simp] theorem keeps_joinArrives (c j src members channels kind crc) :
    Keeps (joinArrives c j src members channels kind crc) := by
  unfold joinArrives; exact keeps_of_parts

@[simp] theorem keeps_earlyJoins (c job) : Keeps (earlyJoins c job) := by unfold earlyJoins; exact keeps_of_parts

@[simp] theorem keeps_joinTimeout (c) : Keeps (joinTimeout c) := by unfold joinTimeout; exact keeps_of_parts

@[simp] theorem keeps_partialArrives (c ch j o elem bs) : Keeps (partialArrives c ch j o elem bs) := by
  unfold partialArrives; exact keeps_of_parts

@[simp] theorem keeps_valueArrives (c ch j o elem bs) : Keeps (valueArrives c ch j o elem bs) := by
  unfold valueArrives; exact keeps_of_parts

@[simp] theorem keeps_clStall (c ch) : Keeps (clStall c ch) := by unfold clStall; exact keeps_of_parts

@[simp] theorem keeps_tickJobs : Keeps tickJobs := by unfold tickJobs; exact keeps_of_parts

/-! ### Descriptor -/

@[simp] theorem keeps_loadExt (n r d b) : Keeps (loadExt n r d b) := by unfold loadExt; exact keeps_of_parts

@[simp] theorem keeps_loadedDesc (n k r ext b) : Keeps (loadedDesc n k r ext b) := by
  unfold loadedDesc; exact keeps_of_parts

@[simp] theorem keeps_dscLoad (n x ext k) : Keeps (dscLoad n x ext k) := by unfold dscLoad; exact keeps_of_parts

/-! ### MemorySystem -/

@[simp] theorem keeps_writeInvCmd (h v) : Keeps (writeInvCmd h v) := by unfold writeInvCmd; exact keeps_of_parts

@[simp] theorem keeps_writeRekey (h v) : Keeps (writeRekey h v) := by unfold writeRekey; exact keeps_of_parts

@[simp] theorem keeps_writeMsZero (h v) : Keeps (writeMsZero h v) := by unfold writeMsZero; exact keeps_of_parts

@[simp] theorem keeps_writeMsPart (h v) : Keeps (writeMsPart h v) := by unfold writeMsPart; exact keeps_of_parts

/-- A new placement loses the bytes of the granules that it moves (R241). -/
@[simp] theorem keeps_tickPart : Keeps tickPart := by
  refine keeps_get_of fun s _ => ?_
  split
  · exact keeps_pure _
  · exact keeps_modMem fun _ h => wf_filter h _

@[simp] theorem keeps_refreshSpared (j ch) : Keeps (refreshSpared j ch) := by unfold refreshSpared; exact keeps_of_parts

/-! ### Reports -/

@[simp] theorem keeps_signedReport (purpose bound) : Keeps (signedReport purpose bound) := by
  unfold signedReport; exact keeps_of_parts

@[simp] theorem keeps_sendConfig (p) : Keeps (sendConfig p) := by unfold sendConfig; exact keeps_of_parts

@[simp] theorem keeps_configMismatch (p reason) : Keeps (configMismatch p reason) := by
  unfold configMismatch; exact keeps_of_parts

@[simp] theorem keeps_configConsistent (p) : Keeps (configConsistent p) := by unfold configConsistent; exact keeps_of_parts

@[simp] theorem keeps_checkConfig (p source digest epoch mismatch) :
    Keeps (checkConfig p source digest epoch mismatch) := by
  unfold checkConfig; exact keeps_of_parts

@[simp] theorem keeps_graceExpiry (p) : Keeps (graceExpiry p) := by unfold graceExpiry; exact keeps_of_parts

/-! ### Firmware -/

@[simp] theorem keeps_modPow (f) : Keeps (modPow f) := by unfold modPow; exact keeps_of_parts

@[simp] theorem keeps_imageVerifies (b) : Keeps (imageVerifies b) := by unfold imageVerifies; exact keeps_of_parts

@[simp] theorem keeps_takeImage (b peer) : Keeps (takeImage b peer) := by unfold takeImage; exact keeps_of_parts

@[simp] theorem keeps_fetchFails : Keeps fetchFails := by unfold fetchFails; exact keeps_of_parts

@[simp] theorem keeps_fetchRead (p held) : Keeps (fetchRead p held) := by unfold fetchRead; exact keeps_of_parts

@[simp] theorem keeps_fetchStart (p) : Keeps (fetchStart p) := by unfold fetchStart; exact keeps_of_parts

@[simp] theorem keeps_fetchData (p data) : Keeps (fetchData p data) := by unfold fetchData; exact keeps_of_parts

@[simp] theorem keeps_stopUpdate (status fault) : Keeps (stopUpdate status fault) := by
  unfold stopUpdate; exact keeps_of_parts

/-! ### Fabric -/

@[simp] theorem keeps_portDown (p) : Keeps (portDown p) := by unfold portDown; exact keeps_of_parts

@[simp] theorem keeps_beginTraining (p) : Keeps (beginTraining p) := by unfold beginTraining; exact keeps_of_parts

@[simp] theorem keeps_setSpillway (k closed) : Keeps (setSpillway k closed) := by unfold setSpillway; exact keeps_of_parts

@[simp] theorem keeps_closeSpillways : Keeps closeSpillways := by unfold closeSpillways; exact keeps_of_parts

@[simp] theorem keeps_requestSpillway (k) : Keeps (requestSpillway k) := by unfold requestSpillway; exact keeps_of_parts

@[simp] theorem keeps_calibrate (p ok) : Keeps (calibrate p ok) := by unfold calibrate; exact keeps_of_parts

@[simp] theorem keeps_stayClosed (k) : Keeps (stayClosed k) := by unfold stayClosed; exact keeps_of_parts

@[simp] theorem keeps_writePortCfg (p h v) : Keeps (writePortCfg p h v) := by unfold writePortCfg; exact keeps_of_parts

@[simp] theorem keeps_linkDegraded (p width noSpare) : Keeps (linkDegraded p width noSpare) := by
  unfold linkDegraded; exact keeps_of_parts

@[simp] theorem keeps_sendLink (p subtype bs) : Keeps (sendLink p subtype bs) := by unfold sendLink; exact keeps_of_parts

@[simp] theorem keeps_freshKey (p) : Keeps (freshKey p) := by unfold freshKey; exact keeps_of_parts

@[simp] theorem keeps_sendReport (p) : Keeps (sendReport p) := by unfold sendReport; exact keeps_of_parts

@[simp] theorem keeps_attestFails (p) : Keeps (attestFails p) := by unfold attestFails; exact keeps_of_parts

@[simp] theorem keeps_sendEncap (p) : Keeps (sendEncap p) := by unfold sendEncap; exact keeps_of_parts

@[simp] theorem keeps_deriveKeys (p) : Keeps (deriveKeys p) := by unfold deriveKeys; exact keeps_of_parts

@[simp] theorem keeps_resumeKeys : Keeps resumeKeys := by unfold resumeKeys; exact keeps_of_parts

@[simp] theorem keeps_portUp (p) : Keeps (portUp p) := by unfold portUp; exact keeps_of_parts

@[simp] theorem keeps_linkUp (p) : Keeps (linkUp p) := by unfold linkUp; exact keeps_of_parts

@[simp] theorem keeps_startRekey (p) : Keeps (startRekey p) := by unfold startRekey; exact keeps_of_parts

@[simp] theorem keeps_resend (p) : Keeps (resend p) := by unfold resend; exact keeps_of_parts

@[simp] theorem keeps_acknowledge (p a) : Keeps (acknowledge p a) := by unfold acknowledge; exact keeps_of_parts

@[simp] theorem keeps_sendNak (p) : Keeps (sendNak p) := by unfold sendNak; exact keeps_of_parts

@[simp] theorem keeps_linkCarries (p) : Keeps (linkCarries p) := by unfold linkCarries; exact keeps_of_parts

@[simp] theorem keeps_takeHeader (p f) : Keeps (takeHeader p f) := by unfold takeHeader; exact keeps_of_parts

@[simp] theorem keeps_arrives (p m) : Keeps (arrives p m) := by unfold arrives; exact keeps_of_parts

@[simp] theorem keeps_traceArrival (type p m again) : Keeps (traceArrival type p m again) := by
  unfold traceArrival; exact keeps_of_parts

@[simp] theorem keeps_sendReply (m type status data) : Keeps (sendReply m type status data) := by
  unfold sendReply; exact keeps_of_parts

@[simp] theorem keeps_onceOnly {apply : M (Nat × List Byte)} (p m type reply) (h : Keeps apply) :
    Keeps (onceOnly p m type reply apply) := by
  unfold onceOnly; exact keeps_of_parts

@[simp] theorem keeps_findWindow (m window offset len write) : Keeps (findWindow m window offset len write) := by
  unfold findWindow; exact keeps_of_parts

@[simp] theorem keeps_dropSent (id) : Keeps (dropSent id) := by unfold dropSent; exact keeps_of_parts

@[simp] theorem keeps_takeReply (p m type req types) : Keeps (takeReply p m type req types) := by
  unfold takeReply; exact keeps_of_parts

@[simp] theorem keeps_undelivered (x) : Keeps (undelivered x) := by unfold undelivered; exact keeps_of_parts

@[simp] theorem keeps_releaseFrames (p prio) : Keeps (releaseFrames p prio) := by unfold releaseFrames; exact keeps_of_parts

@[simp] theorem keeps_readyQp (qp) : Keeps (readyQp qp) := by unfold readyQp; exact keeps_of_parts

@[simp] theorem keeps_qpError (qp) : Keeps (qpError qp) := by unfold qpError; exact keeps_of_parts

@[simp] theorem keeps_rheadInForce (qp head tail) : Keeps (rheadInForce qp head tail) := by
  unfold rheadInForce; exact keeps_of_parts

@[simp] theorem keeps_setRate (qp rate) : Keeps (setRate qp rate) := by unfold setRate; exact keeps_of_parts

@[simp] theorem keeps_qpFails (qp) : Keeps (qpFails qp) := by unfold qpFails; exact keeps_of_parts

/-! ### Wells -/

@[simp] theorem keeps_refreshServed (x) : Keeps (refreshServed x) := by unfold refreshServed; exact keeps_of_parts

@[simp] theorem keeps_settleWell (x) : Keeps (settleWell x) := by unfold settleWell; exact keeps_of_parts

@[simp] theorem keeps_postWells (n k off xs) : Keeps (postWells n k off xs) := by unfold postWells; exact keeps_of_parts

@[simp] theorem keeps_wellFault (w e) : Keeps (wellFault w e) := by unfold wellFault; exact keeps_of_parts

@[simp] theorem keeps_modRun (x f) : Keeps (modRun x f) := by unfold modRun; exact keeps_of_parts

@[simp] theorem keeps_countPort (x n) : Keeps (countPort x n) := by unfold countPort; exact keeps_of_parts

@[simp] theorem keeps_portRead (x c va n) : Keeps (portRead x c va n) := by unfold portRead; exact keeps_of_parts

@[simp] theorem keeps_portWrite (x c va bs need) : Keeps (portWrite x c va bs need) := by
  unfold portWrite; exact keeps_of_parts

@[simp] theorem keeps_portList (x c list) : Keeps (portList x c list) := by unfold portList; exact keeps_of_parts

@[simp] theorem keeps_sharedElems (x w va lo n) : Keeps (sharedElems x w va lo n) := by
  unfold sharedElems; exact keeps_of_parts

@[simp] theorem keeps_countWell (x c cls sat nanc) : Keeps (countWell x c cls sat nanc) := by
  unfold countWell; exact keeps_of_parts

@[simp] theorem keeps_countNan (x c w n) : Keeps (countNan x c w n) := by unfold countNan; exact keeps_of_parts

@[simp] theorem keeps_weightBlock (x w base lo n) : Keeps (weightBlock x w base lo n) := by
  unfold weightBlock; exact keeps_of_parts

@[simp] theorem keeps_gemvPass (x r entries base block) : Keeps (gemvPass x r entries base block) := by
  unfold gemvPass; exact keeps_of_parts

@[simp] theorem keeps_setRows (x rows status) : Keeps (setRows x rows status) := by unfold setRows; exact keeps_of_parts

@[simp] theorem keeps_pageHead (x c va r G D h n values) : Keeps (pageHead x c va r G D h n values) := by
  unfold pageHead; exact keeps_of_parts

@[simp] theorem keeps_attnPages (x c r g l key is rows) : Keeps (attnPages x c r g l key is rows) := by
  induction is generalizing rows with
  | nil => exact keeps_pure _
  | cons i t ih => unfold attnPages; exact keeps_of_parts

@[simp] theorem keeps_addScore (x c l slot mass) : Keeps (addScore x c l slot mass) := by
  unfold addScore; exact keeps_of_parts

@[simp] theorem keeps_attnGroup (x r g c) : Keeps (attnGroup x r g c) := by unfold attnGroup; exact keeps_of_parts

@[simp] theorem keeps_rowTry {m : M Unit} (x rows) (h : Keeps m) : Keeps (rowTry x rows m) := by
  unfold rowTry; exact keeps_of_parts

@[simp] theorem keeps_appendPage (x c w i) : Keeps (appendPage x c w i) := by unfold appendPage; exact keeps_of_parts

@[simp] theorem keeps_appendHalf (x c va r G D p values xs) : Keeps (appendHalf x c va r G D p values xs) := by
  unfold appendHalf; exact keeps_of_parts

@[simp] theorem keeps_appendRow (x c r i cls) : Keeps (appendRow x c r i cls) := by unfold appendRow; exact keeps_of_parts

@[simp] theorem keeps_appendProbe (x w i c) : Keeps (appendProbe x w i c) := by unfold appendProbe; exact keeps_of_parts

@[simp] theorem keeps_scalePage (x r c i px rec' rows) : Keeps (scalePage x r c i px rec' rows) := by
  unfold scalePage; exact keeps_of_parts

@[simp] theorem keeps_appendCoarse (x w) : Keeps (appendCoarse x w) := by unfold appendCoarse; exact keeps_of_parts

@[simp] theorem keeps_appendPass (x r) : Keeps (appendPass x r) := by unfold appendPass; exact keeps_of_parts

@[simp] theorem keeps_gatherRow (x r i) : Keeps (gatherRow x r i) := by unfold gatherRow; exact keeps_of_parts

@[simp] theorem keeps_scoreRow (x c r i) : Keeps (scoreRow x c r i) := by unfold scoreRow; exact keeps_of_parts

@[simp] theorem keeps_eachRow (x r) {f : Ctx → Nat → M Unit} (h : ∀ c i, Keeps (f c i)) : Keeps (eachRow x r f) := by
  refine keeps_eachM _ fun i => keeps_ite (keeps_get_of fun s _ => ?_) (keeps_pure _)
  split
  · exact keeps_rowTry _ _ (h _ _)
  · exact keeps_setRows _ _ _

@[simp] theorem keeps_wellPassWork (x r p) : Keeps (wellPassWork x r p) := by unfold wellPassWork; exact keeps_of_parts

/-! ### Recovery -/

@[simp] theorem keeps_modRep (f) : Keeps (modRep f) := by unfold modRep; exact keeps_of_parts

@[simp] theorem keeps_markCluster (d k) : Keeps (markCluster d k) := by unfold markCluster; exact keeps_of_parts

@[simp] theorem keeps_markCore (n hard) : Keeps (markCore n hard) := by unfold markCore; exact keeps_of_parts

@[simp] theorem keeps_presentCore (n cols) : Keeps (presentCore n cols) := by unfold presentCore; exact keeps_of_parts

/-- A core that is lost with its scratchpad has it cleared. -/
@[simp] theorem keeps_freshCore (n phys) : Keeps (freshCore n phys) := by
  refine keeps_get_of fun s hs => keeps_bind (keeps_set ⟨hs.1, ?_, hs.2.2⟩) fun _ => keeps_presentCore _ _
  by_cases hlost : s.rep.hardFailed.contains n = true
  · simp only [hlost, if_true]; exact wf_clear hs.2.1 _ _
  · simp only [hlost]; exact hs.2.1

@[simp] theorem keeps_remapCore (n phys) : Keeps (remapCore n phys) := by unfold remapCore; exact keeps_of_parts

@[simp] theorem keeps_bankSwitched (n bank) : Keeps (bankSwitched n bank) := by unfold bankSwitched; exact keeps_of_parts

@[simp] theorem keeps_coreSwitched (n) : Keeps (coreSwitched n) := by unfold coreSwitched; exact keeps_of_parts

@[simp] theorem keeps_clusterSettled (d k) : Keeps (clusterSettled d k) := by unfold clusterSettled; exact keeps_of_parts

@[simp] theorem keeps_clusterSwitched (d k phys) : Keeps (clusterSwitched d k phys) := by
  unfold clusterSwitched; exact keeps_of_parts

@[simp] theorem keeps_retireCluster (d k) : Keeps (retireCluster d k) := by unfold retireCluster; exact keeps_of_parts

@[simp] theorem keeps_bankErrors (n bank count) : Keeps (bankErrors n bank count) := by
  unfold bankErrors; exact keeps_of_parts

@[simp] theorem keeps_storeErrors (cl bank count) : Keeps (storeErrors cl bank count) := by
  unfold storeErrors; exact keeps_of_parts

@[simp] theorem keeps_beginDueTest (d us) : Keeps (beginDueTest d us) := by unfold beginDueTest; exact keeps_of_parts

@[simp] theorem keeps_tickTests : Keeps tickTests := by unfold tickTests; exact keeps_of_parts

@[simp] theorem keeps_coreColumns (n cols) : Keeps (coreColumns n cols) := by unfold coreColumns; exact keeps_of_parts

@[simp] theorem keeps_wellColumns (x cols) : Keeps (wellColumns x cols) := by unfold wellColumns; exact keeps_of_parts

@[simp] theorem keeps_retireUnit (u) : Keeps (retireUnit u) := by unfold retireUnit; exact keeps_of_parts

@[simp] theorem keeps_endUnit (u e) : Keeps (endUnit u e) := by unfold endUnit; exact keeps_of_parts

@[simp] theorem keeps_oweTest (u) : Keeps (oweTest u) := by unfold oweTest; exact keeps_of_parts

@[simp] theorem keeps_markerDone (endpoint) : Keeps (markerDone endpoint) := by unfold markerDone; exact keeps_of_parts

@[simp] theorem keeps_roleChanged (k cause former) : Keeps (roleChanged k cause former) := by
  unfold roleChanged; exact keeps_of_parts

@[simp] theorem keeps_retirePlinth (k core) : Keeps (retirePlinth k core) := by unfold retirePlinth; exact keeps_of_parts

@[simp] theorem keeps_enterModuleFault : Keeps enterModuleFault := by unfold enterModuleFault; exact keeps_of_parts

@[simp] theorem keeps_applyFind (f) : Keeps (applyFind f) := by unfold applyFind; exact keeps_of_parts

@[simp] theorem keeps_settleStart (n) : Keeps (settleStart n) := by
  induction n with
  | zero => exact keeps_pure _
  | succ fuel ih => unfold settleStart; exact keeps_of_parts

@[simp] theorem keeps_repairAtStart (fs) : Keeps (repairAtStart fs) := by unfold repairAtStart; exact keeps_of_parts

@[simp] theorem keeps_plinthAtStart (k) : Keeps (plinthAtStart k) := by unfold plinthAtStart; exact keeps_of_parts

@[simp] theorem keeps_laneAtStart (j ch lane) : Keeps (laneAtStart j ch lane) := by unfold laneAtStart; exact keeps_of_parts

/-! ### HostLink -/

@[simp] theorem keeps_modCxl (f) : Keeps (modCxl f) := by unfold modCxl; exact keeps_of_parts

@[simp] theorem keeps_writeHdm (h v) : Keeps (writeHdm h v) := by unfold writeHdm; exact keeps_of_parts

@[simp] theorem keeps_writeHdmBase (h v) : Keeps (writeHdmBase h v) := by unfold writeHdmBase; exact keeps_of_parts

@[simp] theorem keeps_fillGl (n id bytes) : Keeps (fillGl n id bytes) := by unfold fillGl; exact keeps_of_parts

@[simp] theorem keeps_apertureData (r bytes) : Keeps (apertureData r bytes) := by unfold apertureData; exact keeps_of_parts

@[simp] theorem keeps_apertureFault (n id e) : Keeps (apertureFault n id e) := by unfold apertureFault; exact keeps_of_parts

@[simp] theorem keeps_hostFails (r e) : Keeps (hostFails r e) := by unfold hostFails; exact keeps_of_parts

/-! ### Security -/

@[simp] theorem keeps_modSec (f) : Keeps (modSec f) := by unfold modSec; exact keeps_of_parts

@[simp] theorem keeps_cutTransition : Keeps cutTransition := by unfold cutTransition; exact keeps_of_parts

@[simp] theorem keeps_seObject (x o right n) : Keeps (seObject x o right n) := by unfold seObject; exact keeps_of_parts

@[simp] theorem keeps_seFree : Keeps seFree := by unfold seFree; exact keeps_of_parts

@[simp] theorem keeps_refreshRegistry : Keeps refreshRegistry := by unfold refreshRegistry; exact keeps_of_parts

@[simp] theorem keeps_joinChecks (x) : Keeps (joinChecks x) := by unfold joinChecks; exact keeps_of_parts

@[simp] theorem keeps_joinSet (ref x) : Keeps (joinSet ref x) := by unfold joinSet; exact keeps_of_parts

@[simp] theorem keeps_lcSignatures (b source target) : Keeps (lcSignatures b source target) := by
  unfold lcSignatures; exact keeps_of_parts

@[simp] theorem keeps_lcChecks (q x) : Keeps (lcChecks q x) := by unfold lcChecks; exact keeps_of_parts

@[simp] theorem keeps_resumeCreate (c) : Keeps (resumeCreate c) := by unfold resumeCreate; exact keeps_of_parts

@[simp] theorem keeps_resumeJoin (ref) : Keeps (resumeJoin ref) := by unfold resumeJoin; exact keeps_of_parts

/-! ### Power -/

@[simp] theorem keeps_writePwReq (h v) : Keeps (writePwReq h v) := by unfold writePwReq; exact keeps_of_parts

@[simp] theorem keeps_parkRole (d k) : Keeps (parkRole d k) := by unfold parkRole; exact keeps_of_parts

@[simp] theorem keeps_unparkRole (d k) : Keeps (unparkRole d k) := by unfold unparkRole; exact keeps_of_parts

@[simp] theorem keeps_parkDie (d) : Keeps (parkDie d) := by unfold parkDie; exact keeps_of_parts

@[simp] theorem keeps_refreshPace : Keeps refreshPace := by unfold refreshPace; exact keeps_of_parts

@[simp] theorem keeps_lowerCapPace : Keeps lowerCapPace := by unfold lowerCapPace; exact keeps_of_parts

@[simp] theorem keeps_refreshSensor : Keeps refreshSensor := by unfold refreshSensor; exact keeps_of_parts

@[simp] theorem keeps_gatherSecond (peak sensors) : Keeps (gatherSecond peak sensors) := by
  unfold gatherSecond; exact keeps_of_parts

@[simp] theorem keeps_raiseThermal (start sensor temp) : Keeps (raiseThermal start sensor temp) := by
  unfold raiseThermal; exact keeps_of_parts

@[simp] theorem keeps_controlCap (mean volts amps) : Keeps (controlCap mean volts amps) := by
  unfold controlCap; exact keeps_of_parts

@[simp] theorem keeps_controlThrottle (sensors) : Keeps (controlThrottle sensors) := by
  unfold controlThrottle; exact keeps_of_parts

@[simp] theorem keeps_thermalTrip : Keeps thermalTrip := by unfold thermalTrip; exact keeps_of_parts

@[simp] theorem keeps_notePace : Keeps notePace := by unfold notePace; exact keeps_of_parts

@[simp] theorem keeps_bootFails (cause) : Keeps (bootFails cause) := by unfold bootFails; exact keeps_of_parts

@[simp] theorem keeps_firmwareRuns : Keeps firmwareRuns := by unfold firmwareRuns; exact keeps_of_parts

@[simp] theorem keeps_becomeReady : Keeps becomeReady := by unfold becomeReady; exact keeps_of_parts

@[simp] theorem keeps_foundAtStart (stage fs) : Keeps (foundAtStart stage fs) := by
  unfold foundAtStart; exact keeps_of_parts

@[simp] theorem keeps_replyImage (status) : Keeps (replyImage status) := by unfold replyImage; exact keeps_of_parts

@[simp] theorem keeps_updateRole (u) : Keeps (updateRole u) := by unfold updateRole; exact keeps_of_parts

@[simp] theorem keeps_restoreLane (p lane) : Keeps (restoreLane p lane) := by unfold restoreLane; exact keeps_of_parts

/-! ### Time -/

@[simp] theorem keeps_setTkState (n) : Keeps (setTkState n) := by unfold setTkState; exact keeps_of_parts

@[simp] theorem keeps_becomeOwn : Keeps becomeOwn := by unfold becomeOwn; exact keeps_of_parts

@[simp] theorem keeps_setPeriod (us) : Keeps (setPeriod us) := by unfold setPeriod; exact keeps_of_parts

@[simp] theorem keeps_setPendPeriod (x) : Keeps (setPendPeriod x) := by unfold setPendPeriod; exact keeps_of_parts

@[simp] theorem keeps_sendBeacon (b p) : Keeps (sendBeacon b p) := by unfold sendBeacon; exact keeps_of_parts

@[simp] theorem keeps_refreshConfig (epochBefore) : Keeps (refreshConfig epochBefore) := by
  unfold refreshConfig; exact keeps_of_parts

@[simp] theorem keeps_followMaster (a) : Keeps (followMaster a) := by unfold followMaster; exact keeps_of_parts

@[simp] theorem keeps_followStep (a) : Keeps (followStep a) := by unfold followStep; exact keeps_of_parts

@[simp] theorem keeps_putOffset (d) : Keeps (putOffset d) := by unfold putOffset; exact keeps_of_parts

@[simp] theorem keeps_forwardBeacon (p b) : Keeps (forwardBeacon p b) := by unfold forwardBeacon; exact keeps_of_parts

@[simp] theorem keeps_receiveBeacon (p b) : Keeps (receiveBeacon p b) := by unfold receiveBeacon; exact keeps_of_parts

@[simp] theorem keeps_tickAdvance (at') : Keeps (tickAdvance at') := by unfold tickAdvance; exact keeps_of_parts

@[simp] theorem keeps_tickConfig : Keeps tickConfig := by unfold tickConfig; exact keeps_of_parts

@[simp] theorem keeps_tickDomain (last) : Keeps (tickDomain last) := by unfold tickDomain; exact keeps_of_parts

@[simp] theorem keeps_tickBeacon : Keeps tickBeacon := by unfold tickBeacon; exact keeps_of_parts

@[simp] theorem keeps_tickEntropy : Keeps tickEntropy := by unfold tickEntropy; exact keeps_of_parts

@[simp] theorem keeps_tickDeadlines : Keeps tickDeadlines := by unfold tickDeadlines; exact keeps_of_parts

@[simp] theorem keeps_tickCalibration (last) : Keeps (tickCalibration last) := by
  unfold tickCalibration; exact keeps_of_parts

@[simp] theorem keeps_tickLinks : Keeps tickLinks :=
  keeps_get_of fun _ _ => keeps_eachM _ fun _ => keeps_get_of fun _ _ =>
    keeps_ite (keeps_pure _) (keeps_bind (keeps_passIdle _) fun _ => keeps_pure _)

/-- The counts of saturations that are latched are registers alone. -/
theorem memoriesWf_latchSaturation {s : State} (h : memoriesWf s) : memoriesWf s.latchSaturation := by
  have latched (l : List (Ctx × Fin 16)) {t : State} (ht : memoriesWf t) : memoriesWf (l.foldl (fun x p =>
      (x.setReg (.vxSatLast p.1 p.2) (s.reg (.vxSatStep p.1 p.2))).setReg (.vxSatStep p.1 p.2) 0) t) := by
    induction l generalizing t with
    | nil => exact ht
    | cons p l ih => exact ih ht
  exact latched _ h

@[simp] theorem keeps_latchSaturation : Keeps (modify State.latchSaturation : M PUnit) :=
  keeps_modify fun _ => memoriesWf_latchSaturation

@[simp] theorem keeps_tickCounts (last) : Keeps (tickCounts last) :=
  keeps_bind keeps_latchSaturation fun _ => keeps_of_parts

@[simp] theorem keeps_tickAt (at') : Keeps (tickAt at') := by unfold tickAt; exact keeps_of_parts

@[simp] theorem keeps_writeTkCtrl (h v) : Keeps (writeTkCtrl h v) := by unfold writeTkCtrl; exact keeps_of_parts

@[simp] theorem keeps_writePeriodStep (h v) : Keeps (writePeriodStep h v) := by unfold writePeriodStep; exact keeps_of_parts

@[simp] theorem keeps_writeAdvance (h v) : Keeps (writeAdvance h v) := by unfold writeAdvance; exact keeps_of_parts

@[simp] theorem keeps_windowValue (n k) : Keeps (windowValue n k) := by unfold windowValue; exact keeps_of_parts

@[simp] theorem keeps_liveValue (via r) : Keeps (liveValue via r) := by unfold liveValue; exact keeps_of_parts

@[simp] theorem keeps_readLatched (via r h) : Keeps (readLatched via r h) := by unfold readLatched; exact keeps_of_parts

@[simp] theorem keeps_readReg (via r h) : Keeps (readReg via r h) := by unfold readReg; exact keeps_of_parts

/-! ### Registers -/

@[simp] theorem keeps_pagesGranted (i) : Keeps (pagesGranted i) := by unfold pagesGranted; exact keeps_of_parts

@[simp] theorem keeps_writeKvInst (i h v) : Keeps (writeKvInst i h v) := by unfold writeKvInst; exact keeps_of_parts

@[simp] theorem keeps_enabledPlan (m) : Keeps (enabledPlan m) := by unfold enabledPlan; exact keeps_of_parts

@[simp] theorem keeps_writeModelCfg (m h v) : Keeps (writeModelCfg m h v) := by unfold writeModelCfg; exact keeps_of_parts

@[simp] theorem keeps_writeTrmark (h v) : Keeps (writeTrmark h v) := by unfold writeTrmark; exact keeps_of_parts

@[simp] theorem keeps_writeCfgValue (k r h v) : Keeps (writeCfgValue k r h v) := by
  unfold writeCfgValue; exact keeps_of_parts

@[simp] theorem keeps_dropLatch (r) : Keeps (dropLatch r) := by unfold dropLatch; exact keeps_of_parts

/-- A write of a register that needs no more than its own checks. -/
theorem keeps_writeChecked (r h v) : Keeps (do
    let s ← get
    set (s.checkedWrite r h v (s.fieldOk r))
    refreshSensor
    refreshMapData
    if r = .jlCtrl ∧ s.ownTick = true then putFld F.tkMasterId (← getFld F.deviceId) else pure ()) := keeps_of_parts

@[simp] theorem keeps_writeReg (r h v) : Keeps (writeReg r h v) := by
  cases r
  case tkCtrl => exact keeps_writeTkCtrl h v
  case tkPeriodStep => exact keeps_writePeriodStep h v
  case tkAdvance => exact keeps_writeAdvance h v
  case tkTime | tkCycle | obCoreCnt | obCtxCnt => exact keeps_dropLatch _
  case ssModelCfg m => exact keeps_writeModelCfg m h v
  case msPart => exact keeps_writeMsPart h v
  case msZero => exact keeps_writeMsZero h v
  case trInvCmd => exact keeps_writeInvCmd h v
  case trRekey => exact keeps_writeRekey h v
  case jlPortCfg p => exact keeps_writePortCfg p h v
  case cxHdm => exact keeps_writeHdm h v
  case cxHdmBase => exact keeps_writeHdmBase h v
  case pwReq => exact keeps_writePwReq h v
  case kvInst i => exact keeps_writeKvInst i h v
  case feQcfg c q => exact keeps_writeQcfg c q h v
  case feQdb c q => exact keeps_writeDoorbell c q h v
  case feQcptr c q => exact keeps_writeHead (F.qChead c q) (F.qCtail c q) (some (F.qPtrReject c q)) h v
  case feEvptr c => exact keeps_writeHead (F.evHead c) (F.evTail c) (some (F.evPtrReject c)) h v
  case obTrptr => exact keeps_writeHead F.trHead F.trTail none h v
  case feFval c f => exact keeps_writeFval c f h v
  case feFcfg c f => exact keeps_writeFcfg c f h v
  case obTrmark => exact keeps_writeTrmark h v
  case rpCfgOp | rpCfgEpoch => exact keeps_writeCfgValue _ _ h v
  all_goals exact keeps_writeChecked _ h v

@[simp] theorem keeps_readAccess (via off bits) : Keeps (readAccess via off bits) := by
  unfold readAccess; exact keeps_of_parts

/-! ### Vector -/

@[simp] theorem keeps_issueReduce (n op x) : Keeps (issueReduce n op x) := keeps_issue fun _ => keeps_of_parts

@[simp] theorem keeps_vectorCounts (n k sat nanc) : Keeps (vectorCounts n k sat nanc) := by
  unfold vectorCounts; exact keeps_of_parts

@[simp] theorem keeps_offsetsOk (n k x) : Keeps (offsetsOk n k x) := by unfold offsetsOk; exact keeps_of_parts

end Sys2Proof.Machine
end

section
/-! SUPPORT. The rows of the table: each keeps the form of the memories. -/

namespace Sys2Proof.Machine

-- One theorem after the other: hundreds of them at work at once would each hold a thread of their own.
set_option Elab.async false

/-- A row keeps the form of the memories: what it answers has it when the state had it. -/
def RowKeeps (f : State → Host.Outcome State Fault Refusal) : Prop :=
  ∀ {s t}, memoriesWf s → f s = .next t → memoriesWf t

theorem rowKeeps_runAny {m : M Unit} (h : Keeps m) : RowKeeps (runAny m) := runAny_keeps h
theorem rowKeeps_run {m : M Unit} (h : Keeps m) : RowKeeps (run m) := run_keeps h
theorem rowKeeps_runLink {m : M Unit} (h : Keeps m) : RowKeeps (runLink m) := runLink_keeps h
theorem rowKeeps_runPw {m : M Unit} (h : Keeps m) : RowKeeps (runPw m) := runPw_keeps h

/-! ### Global -/

theorem rowKeeps_ldSp {n w} : RowKeeps (execLdSp n w) := rowKeeps_run keeps_of_parts
theorem rowKeeps_stSp {n w} : RowKeeps (execStSp n w) := rowKeeps_run keeps_of_parts
theorem rowKeeps_ldCs {n w} : RowKeeps (execLdCs n w) := rowKeeps_run keeps_of_parts
theorem rowKeeps_stCs {n w} : RowKeeps (execStCs n w) := rowKeeps_run keeps_of_parts
theorem rowKeeps_ldG {n w} : RowKeeps (execLdG n w) := rowKeeps_run keeps_of_parts
theorem rowKeeps_stG {n w} : RowKeeps (execStG n w) := rowKeeps_run keeps_of_parts
theorem rowKeeps_vldSp {n w} : RowKeeps (execVldSp n w) := rowKeeps_run keeps_of_parts
theorem rowKeeps_vstSp {n w} : RowKeeps (execVstSp n w) := rowKeeps_run keeps_of_parts
theorem rowKeeps_vldCs {n w} : RowKeeps (execVldCs n w) := rowKeeps_run keeps_of_parts
theorem rowKeeps_vstCs {n w} : RowKeeps (execVstCs n w) := rowKeeps_run keeps_of_parts
theorem rowKeeps_vldG {n w} : RowKeeps (execVldG n w) := rowKeeps_run keeps_of_parts
theorem rowKeeps_vstG {n w} : RowKeeps (execVstG n w) := rowKeeps_run keeps_of_parts
theorem rowKeeps_globalDataReturn {n i} : RowKeeps (execGlobalDataReturn n i) := rowKeeps_run keeps_of_parts
theorem rowKeeps_atAdd {n w} : RowKeeps (execAtAdd n w) := rowKeeps_run keeps_of_parts
theorem rowKeeps_atAnd {n w} : RowKeeps (execAtAnd n w) := rowKeeps_run keeps_of_parts
theorem rowKeeps_atOr {n w} : RowKeeps (execAtOr n w) := rowKeeps_run keeps_of_parts
theorem rowKeeps_atXor {n w} : RowKeeps (execAtXor n w) := rowKeeps_run keeps_of_parts
theorem rowKeeps_atSwap {n w} : RowKeeps (execAtSwap n w) := rowKeeps_run keeps_of_parts
theorem rowKeeps_atMax {n w} : RowKeeps (execAtMax n w) := rowKeeps_run keeps_of_parts
theorem rowKeeps_atMin {n w} : RowKeeps (execAtMin n w) := rowKeeps_run keeps_of_parts
theorem rowKeeps_atMaxu {n w} : RowKeeps (execAtMaxu n w) := rowKeeps_run keeps_of_parts
theorem rowKeeps_atMinu {n w} : RowKeeps (execAtMinu n w) := rowKeeps_run keeps_of_parts
theorem rowKeeps_atCas {n w} : RowKeeps (execAtCas n w) := rowKeeps_run keeps_of_parts
theorem rowKeeps_atFadd {n w} : RowKeeps (execAtFadd n w) := rowKeeps_run keeps_of_parts

/-! ### Matrix -/

theorem rowKeeps_mxZero {n w} : RowKeeps (execMxZero n w) := rowKeeps_run keeps_of_parts
theorem rowKeeps_mxMma {n w} : RowKeeps (execMxMma n w) := rowKeeps_run keeps_of_parts
theorem rowKeeps_mxLd {n w} : RowKeeps (execMxLd n w) := rowKeeps_run keeps_of_parts
theorem rowKeeps_mxSt {n w} : RowKeeps (execMxSt n w) := rowKeeps_run keeps_of_parts
theorem rowKeeps_mxRd {n w} : RowKeeps (execMxRd n w) := rowKeeps_run keeps_of_parts
theorem rowKeeps_mxWr {n w} : RowKeeps (execMxWr n w) := rowKeeps_run keeps_of_parts

/-! ### Attention -/

theorem rowKeeps_atQk {n w} : RowKeeps (execAtQk n w) := rowKeeps_run keeps_of_parts
theorem rowKeeps_atSm {n w} : RowKeeps (execAtSm n w) := rowKeeps_run keeps_of_parts
theorem rowKeeps_atPv {n w} : RowKeeps (execAtPv n w) := rowKeeps_run keeps_of_parts
theorem rowKeeps_atMrg {n w} : RowKeeps (execAtMrg n w) := rowKeeps_run keeps_of_parts
theorem rowKeeps_atFin {n w} : RowKeeps (execAtFin n w) := rowKeeps_run keeps_of_parts
theorem rowKeeps_atRp {n w} : RowKeeps (execAtRp n w) := rowKeeps_run keeps_of_parts
theorem rowKeeps_mxFinish {n i} : RowKeeps (execMxFinish n i) := rowKeeps_run keeps_of_parts

/-! ### Control -/

theorem rowKeeps_ctlNop {n w} : RowKeeps (execCtlNop n w) := rowKeeps_run keeps_of_parts
theorem rowKeeps_ctlEnd {n w} : RowKeeps (execCtlEnd n w) := rowKeeps_run keeps_of_parts
theorem rowKeeps_ctlBr {n w} : RowKeeps (execCtlBr n w) := rowKeeps_run keeps_of_parts
theorem rowKeeps_ctlCall {n w} : RowKeeps (execCtlCall n w) := rowKeeps_run keeps_of_parts
theorem rowKeeps_ctlJr {n w} : RowKeeps (execCtlJr n w) := rowKeeps_run keeps_of_parts
theorem rowKeeps_ctlLoop {n w} : RowKeeps (execCtlLoop n w) := rowKeeps_run keeps_of_parts
theorem rowKeeps_ctlYield {n w} : RowKeeps (execCtlYield n w) := rowKeeps_run keeps_of_parts
theorem rowKeeps_illegalOpcode {n w} : RowKeeps (execIllegalOpcode n w) := rowKeeps_run keeps_of_parts
theorem rowKeeps_codeRegionExtent {n} : RowKeeps (execCodeRegionExtent n) := rowKeeps_run keeps_of_parts
theorem rowKeeps_csrRd {n w} : RowKeeps (execCsrRd n w) := rowKeeps_run keeps_of_parts
theorem rowKeeps_csrWr {n w} : RowKeeps (execCsrWr n w) := rowKeeps_run keeps_of_parts
theorem rowKeeps_syncFence {n w} : RowKeeps (execSyncFence n w) := rowKeeps_run keeps_of_parts
theorem rowKeeps_syncWt {n w} : RowKeeps (execSyncWt n w) := rowKeeps_run keeps_of_parts
theorem rowKeeps_syncBar {n w} : RowKeeps (execSyncBar n w) := rowKeeps_run keeps_of_parts

/-! ### Dma -/

theorem rowKeeps_dmaBurst {e ch} : RowKeeps (execDmaBurst e ch) := rowKeeps_run keeps_of_parts
theorem rowKeeps_dmaRequestComplete {e ch} : RowKeeps (execDmaRequestComplete e ch) := rowKeeps_run keeps_of_parts
theorem rowKeeps_dmaCp {n w} : RowKeeps (execDmaCp n w) := rowKeeps_run keeps_of_parts
theorem rowKeeps_dmaRun {n w} : RowKeeps (execDmaRun n w) := rowKeeps_run keeps_of_parts
theorem rowKeeps_dmaPoll {n w} : RowKeeps (execDmaPoll n w) := rowKeeps_run keeps_of_parts

/-! ### FrontEnd -/

theorem rowKeeps_feQcfgEnableSet {c q h v} : RowKeeps (execFeQcfgEnableSet c q h v) := rowKeeps_run keeps_of_parts
theorem rowKeeps_queueActive {c q} : RowKeeps (execQueueActive c q) := rowKeeps_run keeps_of_parts
theorem rowKeeps_feQcfgEnableClear {c q h v} : RowKeeps (execFeQcfgEnableClear c q h v) := rowKeeps_run keeps_of_parts
theorem rowKeeps_queueFree {c q} : RowKeeps (execQueueFree c q) := rowKeeps_run keeps_of_parts
theorem rowKeeps_feQdbWrite {c q h v} : RowKeeps (execFeQdbWrite c q h v) := rowKeeps_run keeps_of_parts
theorem rowKeeps_feQcptrWrite {c q h v} : RowKeeps (execFeQcptrWrite c q h v) := rowKeeps_run keeps_of_parts
theorem rowKeeps_feEvptrWrite {c h v} : RowKeeps (execFeEvptrWrite c h v) := rowKeeps_run keeps_of_parts
theorem rowKeeps_obTrptrWrite {h v} : RowKeeps (execObTrptrWrite h v) := rowKeeps_run keeps_of_parts
theorem rowKeeps_feFvalWrite {c f h v} : RowKeeps (execFeFvalWrite c f h v) := rowKeeps_run keeps_of_parts
theorem rowKeeps_fenceReset {c f h v} : RowKeeps (execFenceReset c f h v) := rowKeeps_run keeps_of_parts
theorem rowKeeps_prefetch {c q} : RowKeeps (execPrefetch c q) := rowKeeps_run keeps_of_parts
theorem rowKeeps_registerWaits {c q} : RowKeeps (execRegisterWaits c q) := rowKeeps_run keeps_of_parts
theorem rowKeeps_commandStart {c q} : RowKeeps (execCommandStart c q) := rowKeeps_run keeps_of_parts
theorem rowKeeps_waitTimeout {c q} : RowKeeps (execWaitTimeout c q) := rowKeeps_run keeps_of_parts
theorem rowKeeps_kernel {c q cores} : RowKeeps (execKernel c q cores) := rowKeeps_run keeps_of_parts
theorem rowKeeps_dma {c q} : RowKeeps (execDma c q) := rowKeeps_run keeps_of_parts
theorem rowKeeps_marker {c q} : RowKeeps (execMarker c q) := rowKeeps_run keeps_of_parts
theorem rowKeeps_commandComplete {c q index} : RowKeeps (execCommandComplete c q index) := rowKeeps_run keeps_of_parts
theorem rowKeeps_msixIntervalExpiry {c v} : RowKeeps (execMsixIntervalExpiry c v) := rowKeeps_run keeps_of_parts
theorem rowKeeps_enPush {n w} : RowKeeps (execEnPush n w) := rowKeeps_run keeps_of_parts
theorem rowKeeps_enDb {n w} : RowKeeps (execEnDb n w) := rowKeeps_run keeps_of_parts

/-! ### Batch -/

theorem rowKeeps_request {c q} : RowKeeps (execRequest c q) := rowKeeps_run keeps_of_parts

/-! ### Weights -/

theorem rowKeeps_wtLoad {q} : RowKeeps (execWtLoad q) := rowKeeps_run keeps_of_parts
theorem rowKeeps_wtReplace {q} : RowKeeps (execWtReplace q) := rowKeeps_run keeps_of_parts
theorem rowKeeps_wtResume {q} : RowKeeps (execWtResume q) := rowKeeps_run keeps_of_parts
theorem rowKeeps_shardArrival {m k data} : RowKeeps (execShardArrival m k data) := rowKeeps_run keeps_of_parts
theorem rowKeeps_shardTimeout {m k} : RowKeeps (execShardTimeout m k) := rowKeeps_run keeps_of_parts
theorem rowKeeps_layerCopy {m} : RowKeeps (execLayerCopy m) := rowKeeps_run keeps_of_parts
theorem rowKeeps_layerCopyComplete {m} : RowKeeps (execLayerCopyComplete m) := rowKeeps_run keeps_of_parts
theorem rowKeeps_streamFetchStart {m} : RowKeeps (execStreamFetchStart m) := rowKeeps_run keeps_of_parts

/-! ### Contexts -/

theorem rowKeeps_contextReset {c cause} : RowKeeps (execContextReset c cause) := rowKeeps_run keeps_of_parts
theorem rowKeeps_ctxCreate {q} : RowKeeps (execCtxCreate q) := rowKeeps_run keeps_of_parts
theorem rowKeeps_ctxDestroy {q} : RowKeeps (execCtxDestroy q) := rowKeeps_run keeps_of_parts
theorem rowKeeps_partition {q} : RowKeeps (execPartition q) := rowKeeps_run keeps_of_parts
theorem rowKeeps_reclaim {q} : RowKeeps (execReclaim q) := rowKeeps_run keeps_of_parts
theorem rowKeeps_reclaimDeadline : RowKeeps (execReclaimDeadline) := rowKeeps_run keeps_of_parts
theorem rowKeeps_stageStart {m cores} : RowKeeps (execStageStart m cores) := rowKeeps_run keeps_of_parts
theorem rowKeeps_coreStop {n} : RowKeeps (execCoreStop n) := rowKeeps_run keeps_of_parts
theorem rowKeeps_sliceEnd {c} : RowKeeps (execSliceEnd c) := rowKeeps_run keeps_of_parts
theorem rowKeeps_imageSave {c} : RowKeeps (execImageSave c) := rowKeeps_run keeps_of_parts
theorem rowKeeps_imageSaveComplete {c} : RowKeeps (execImageSaveComplete c) := rowKeeps_run keeps_of_parts
theorem rowKeeps_imageRestore {c} : RowKeeps (execImageRestore c) := rowKeeps_run keeps_of_parts
theorem rowKeeps_imageRestoreComplete {c} : RowKeeps (execImageRestoreComplete c) := by
  refine rowKeeps_run ?_
  refine keeps_get_of fun s _ => keeps_bind (keeps_guardWait _) fun _ =>
    keeps_bind (keeps_mapM' _ fun _ => keeps_readImage _ _ _) fun _ =>
    keeps_bind (keeps_eachM _ fun i => keeps_bind (keeps_modify fun t h => ?_) fun _ => keeps_of_parts) fun _ => keeps_of_parts
  have hspad := wf_putLines h.2 false c (s.genOf c) i.spad
  exact ⟨h.1, wf_putLines hspad true c (s.genOf c) i.store⟩
theorem rowKeeps_nonpreemptOverrun {c q index} : RowKeeps (execNonpreemptOverrun c q index) := rowKeeps_run keeps_of_parts
theorem rowKeeps_budgetExpiry {c q index} : RowKeeps (execBudgetExpiry c q index) := rowKeeps_run keeps_of_parts

/-! ### Collectives -/

theorem rowKeeps_clPost {n w} : RowKeeps (execClPost n w) := rowKeeps_run keeps_of_parts
theorem rowKeeps_jobCreate {q} : RowKeeps (execJobCreate q) := rowKeeps_run keeps_of_parts
theorem rowKeeps_jobDestroy {q} : RowKeeps (execJobDestroy q) := rowKeeps_run keeps_of_parts
theorem rowKeeps_joinTimeout {c} : RowKeeps (execJoinTimeout c) := rowKeeps_run keeps_of_parts
theorem rowKeeps_collective {src job ch body opNum elem data} :
    RowKeeps (execCollective src job ch body opNum elem data) := by
  refine rowKeeps_run (keeps_get_of fun s _ => ?_)
  cases body <;> cases s.jobCtx job <;> exact keeps_of_parts
theorem rowKeeps_collectiveComplete {c ch} : RowKeeps (execCollectiveComplete c ch) := rowKeeps_run keeps_of_parts
theorem rowKeeps_clStall {c ch} : RowKeeps (execClStall c ch) := rowKeeps_run keeps_of_parts
theorem rowKeeps_abort {job origin code} : RowKeeps (execAbort job origin code) := rowKeeps_run keeps_of_parts
theorem rowKeeps_drainStart {c} : RowKeeps (execDrainStart c) := rowKeeps_run keeps_of_parts
theorem rowKeeps_drainComplete {c ok} : RowKeeps (execDrainComplete c ok) := rowKeeps_run keeps_of_parts

/-! ### Descriptor -/

theorem rowKeeps_dscLd {n w} : RowKeeps (execDscLd n w) := rowKeeps_run keeps_of_parts
theorem rowKeeps_dscLdx {n w} : RowKeeps (execDscLdx n w) := rowKeeps_run keeps_of_parts
theorem rowKeeps_dscSt {n w} : RowKeeps (execDscSt n w) := rowKeeps_run keeps_of_parts
theorem rowKeeps_dscMov {n w} : RowKeeps (execDscMov n w) := rowKeeps_run keeps_of_parts
theorem rowKeeps_dscOrg {n w} : RowKeeps (execDscOrg n w) := rowKeeps_run keeps_of_parts
theorem rowKeeps_dscOrgadd {n w} : RowKeeps (execDscOrgadd n w) := rowKeeps_run keeps_of_parts
theorem rowKeeps_dscSize {n w} : RowKeeps (execDscSize n w) := rowKeeps_run keeps_of_parts
theorem rowKeeps_dscResize {n w} : RowKeeps (execDscResize n w) := rowKeeps_run keeps_of_parts

/-! ### MemorySystem -/

theorem rowKeeps_trInvLeaf {h v} : RowKeeps (execTrInvLeaf h v) := rowKeeps_run keeps_of_parts
theorem rowKeeps_trInvContext {h v} : RowKeeps (execTrInvContext h v) := rowKeeps_run keeps_of_parts
theorem rowKeeps_trInvAll {h v} : RowKeeps (execTrInvAll h v) := rowKeeps_run keeps_of_parts
theorem rowKeeps_invalidationComplete : RowKeeps (execInvalidationComplete) := rowKeeps_run keeps_of_parts
theorem rowKeeps_trRekeyWrite {h v} : RowKeeps (execTrRekeyWrite h v) := rowKeeps_run keeps_of_parts
theorem rowKeeps_rekeyComplete : RowKeeps (execRekeyComplete) := rowKeeps_run keeps_of_parts
theorem rowKeeps_msZeroWrite {h v} : RowKeeps (execMsZeroWrite h v) := rowKeeps_run keeps_of_parts
/-- The zero-fill clears the granules of its ranges (R254). -/
theorem rowKeeps_zeroFillComplete : RowKeeps execZeroFillComplete := by
  refine rowKeeps_run ?_
  exact keeps_get_of fun _ _ => keeps_bind (keeps_needSome _) fun _ => keeps_bind (keeps_guardWait _) fun _ =>
    keeps_bind (keeps_modMem fun x h => wf_zeroRanges (x := { x with fills := x.fills.drop 1 }) h _) fun _ => keeps_of_parts
theorem rowKeeps_msPartWrite {h v} : RowKeeps (execMsPartWrite h v) := rowKeeps_run keeps_of_parts
theorem rowKeeps_channelRetrain {j ch lane} : RowKeeps (execChannelRetrain j ch lane) := rowKeeps_run keeps_of_parts
theorem rowKeeps_channelRetrainComplete {j ch} : RowKeeps (execChannelRetrainComplete j ch) := rowKeeps_run keeps_of_parts
theorem rowKeeps_selfRefreshExit {j} : RowKeeps (execSelfRefreshExit j) := rowKeeps_run keeps_of_parts

/-! ### Reports -/

theorem rowKeeps_config {p digest epoch mismatch} : RowKeeps (execConfig p digest epoch mismatch) :=
  rowKeeps_runLink keeps_of_parts
theorem rowKeeps_graceExpiry {p} : RowKeeps (execGraceExpiry p) := rowKeeps_runLink keeps_of_parts

/-! ### Fabric -/

theorem rowKeeps_spillwaySwitch {x} : RowKeeps (execSpillwaySwitch x) := rowKeeps_runLink keeps_of_parts
theorem rowKeeps_jlPortCfgWrite {p h v} : RowKeeps (execJlPortCfgWrite p h v) := rowKeeps_run keeps_of_parts
theorem rowKeeps_laneFailure {p lane cause} : RowKeeps (execLaneFailure p lane cause) := rowKeeps_runLink keeps_of_parts
theorem rowKeeps_linkTraining {p good} : RowKeeps (execLinkTraining p good) := rowKeeps_runLink keeps_of_parts
theorem rowKeeps_hello {p device peerPort width nonce} : RowKeeps (execHello p device peerPort width nonce) :=
  rowKeeps_runLink keeps_of_parts
theorem rowKeeps_report {p bytes} : RowKeeps (execReport p bytes) := rowKeeps_runLink keeps_of_parts
theorem rowKeeps_encap {p ciphertext} : RowKeeps (execEncap p ciphertext) := rowKeeps_runLink keeps_of_parts
theorem rowKeeps_attestRetry {p} : RowKeeps (execAttestRetry p) := rowKeeps_runLink keeps_of_parts
theorem rowKeeps_keyAgreementTimeout {p} : RowKeeps (execKeyAgreementTimeout p) := rowKeeps_runLink keeps_of_parts
theorem rowKeeps_linkDelayMeasure {p t1} : RowKeeps (execLinkDelayMeasure p t1) := rowKeeps_runLink keeps_of_parts
theorem rowKeeps_delayReq {p t1 t2 t3} : RowKeeps (execDelayReq p t1 t2 t3) := rowKeeps_runLink keeps_of_parts
theorem rowKeeps_delayRsp {p t2 t3 t4} : RowKeeps (execDelayRsp p t2 t3 t4) := rowKeeps_runLink keeps_of_parts
theorem rowKeeps_rekeyThreshold {p} : RowKeeps (execRekeyThreshold p) := rowKeeps_runLink keeps_of_parts
theorem rowKeeps_rekey {p key} : RowKeeps (execRekey p key) := rowKeeps_runLink keeps_of_parts
theorem rowKeeps_keyHoldTimeout {p} : RowKeeps (execKeyHoldTimeout p) := rowKeeps_runLink keeps_of_parts
theorem rowKeeps_flit {p f} : RowKeeps (execFlit p f) := rowKeeps_runLink keeps_of_parts
theorem rowKeeps_nak {p seq} : RowKeeps (execNak p seq) := rowKeeps_runLink keeps_of_parts
theorem rowKeeps_retryTimeout {p} : RowKeeps (execRetryTimeout p) := rowKeeps_runLink keeps_of_parts
theorem rowKeeps_write {p m window offset data} : RowKeeps (execWrite p m window offset data) :=
  rowKeeps_runLink keeps_of_parts
theorem rowKeeps_read {p m window offset length} : RowKeeps (execRead p m window offset length) :=
  rowKeeps_runLink keeps_of_parts
theorem rowKeeps_signal {p m fence op flags value} : RowKeeps (execSignal p m fence op flags value) :=
  rowKeeps_runLink keeps_of_parts
theorem rowKeeps_trace {p m marker} : RowKeeps (execTrace p m marker) := rowKeeps_runLink keeps_of_parts
theorem rowKeeps_readRsp {p m req status data} : RowKeeps (execReadRsp p m req status data) :=
  rowKeeps_runLink keeps_of_parts
theorem rowKeeps_ack {p m req status} : RowKeeps (execAck p m req status) := rowKeeps_runLink keeps_of_parts
theorem rowKeeps_e2eTimeout {id} : RowKeeps (execE2eTimeout id) := rowKeeps_runLink keeps_of_parts
theorem rowKeeps_routedForward {p type m body} : RowKeeps (execRoutedForward p type m body) :=
  rowKeeps_runLink keeps_of_parts
theorem rowKeeps_ethLinkUp {p sub} : RowKeeps (execEthLinkUp p sub) := rowKeeps_runLink keeps_of_parts
theorem rowKeeps_ethLinkDown {p sub} : RowKeeps (execEthLinkDown p sub) := rowKeeps_runLink keeps_of_parts
theorem rowKeeps_pfcPause {p prio on} : RowKeeps (execPfcPause p prio on) := rowKeeps_runLink keeps_of_parts
theorem rowKeeps_send {qp psn data} : RowKeeps (execSend qp psn data) := rowKeeps_runLink keeps_of_parts
theorem rowKeeps_congestionNotification {qp} : RowKeeps (execCongestionNotification qp) := rowKeeps_runLink keeps_of_parts
theorem rowKeeps_rateRecovery {qp} : RowKeeps (execRateRecovery qp) := rowKeeps_runLink keeps_of_parts
theorem rowKeeps_rdmaCompletion {qp r} : RowKeeps (execRdmaCompletion qp r) := rowKeeps_runLink keeps_of_parts
theorem rowKeeps_qpAckTimeout {qp} : RowKeeps (execQpAckTimeout qp) := rowKeeps_runLink keeps_of_parts

/-! ### Wells -/

theorem rowKeeps_wlPost {n w} : RowKeeps (execWlPost n w) := rowKeeps_run keeps_of_parts
theorem rowKeeps_wlPostm {n w} : RowKeeps (execWlPostm n w) := rowKeeps_run keeps_of_parts
theorem rowKeeps_wellCommandStart {x} : RowKeeps (execWellCommandStart x) := rowKeeps_run keeps_of_parts
theorem rowKeeps_wellPass {x} : RowKeeps (execWellPass x) := rowKeeps_run keeps_of_parts
theorem rowKeeps_wellCommandComplete {x} : RowKeeps (execWellCommandComplete x) := rowKeeps_run keeps_of_parts

/-! ### Recovery -/

theorem rowKeeps_clusterSpare {d k} : RowKeeps (execClusterSpare d k) := rowKeeps_run keeps_of_parts
theorem rowKeeps_spareCopyComplete : RowKeeps (execSpareCopyComplete) := rowKeeps_run keeps_of_parts
theorem rowKeeps_rpRetire {q} : RowKeeps (execRpRetire q) := rowKeeps_run keeps_of_parts
/-- Of what a patrol finds, a broken owner tag alone reaches bytes: the line is cleared. -/
theorem rowKeeps_patrolScrub {p} : RowKeeps (execPatrolScrub p) := by
  refine rowKeeps_run ?_
  split
  case h_3 => exact keeps_modify fun _ h => ⟨h.1, wf_clear h.2.1 _ _, h.2.2⟩
  case h_6 => exact keeps_modMem fun m h => by rw [bytes_poisonLine]; exact h
  all_goals exact keeps_of_parts
theorem rowKeeps_rollingSelfTest {u} : RowKeeps (execRollingSelfTest u) := rowKeeps_run keeps_of_parts
theorem rowKeeps_selfTestComplete {u r} : RowKeeps (execSelfTestComplete u r) := rowKeeps_run keeps_of_parts
theorem rowKeeps_parityError {u} : RowKeeps (execParityError u) := rowKeeps_run keeps_of_parts
theorem rowKeeps_unitStuck {u} : RowKeeps (execUnitStuck u) := rowKeeps_run keeps_of_parts
theorem rowKeeps_drainMarkerAck {endpoint} : RowKeeps (execDrainMarkerAck endpoint) := rowKeeps_run keeps_of_parts
theorem rowKeeps_drainMarkerStuck {endpoint} : RowKeeps (execDrainMarkerStuck endpoint) := rowKeeps_run keeps_of_parts
theorem rowKeeps_heartbeatMiss {k standby} : RowKeeps (execHeartbeatMiss k standby) := rowKeeps_run keeps_of_parts
theorem rowKeeps_takeoverComplete {k pass} : RowKeeps (execTakeoverComplete k pass) := rowKeeps_run keeps_of_parts
theorem rowKeeps_moduleFault {cause} : RowKeeps (execModuleFault cause) := rowKeeps_run keeps_of_parts

/-! ### HostLink -/

theorem rowKeeps_cxlLinkTrained {width rate} : RowKeeps (execCxlLinkTrained width rate) := rowKeeps_run keeps_of_parts
theorem rowKeeps_cxlLinkDown : RowKeeps (execCxlLinkDown) := rowKeeps_run keeps_of_parts
theorem rowKeeps_numvfsWrite {n} : RowKeeps (execNumvfsWrite n) := rowKeeps_run keeps_of_parts
theorem rowKeeps_functionLevelReset {c} : RowKeeps (execFunctionLevelReset c) := rowKeeps_run keeps_of_parts
theorem rowKeeps_msixVectorUnmask {c v} : RowKeeps (execMsixVectorUnmask c v) := rowKeeps_run keeps_of_parts
theorem rowKeeps_cxHdmValid {h v} : RowKeeps (execCxHdmValid h v) := rowKeeps_run keeps_of_parts
theorem rowKeeps_hdmDecoderCommit {base size} : RowKeeps (execHdmDecoderCommit base size) := rowKeeps_run keeps_of_parts
theorem rowKeeps_hostMemAccess {addr store len} : RowKeeps (execHostMemAccess addr store len) := rowKeeps_run keeps_of_parts
theorem rowKeeps_backInvalidate {line} : RowKeeps (execBackInvalidate line) := rowKeeps_run keeps_of_parts
theorem rowKeeps_hostSnoop {line} : RowKeeps (execHostSnoop line) := rowKeeps_run keeps_of_parts
theorem rowKeeps_atsInvalidation {c} : RowKeeps (execAtsInvalidation c) := rowKeeps_run keeps_of_parts
theorem rowKeeps_hostRequestCompletion {id res} : RowKeeps (execHostRequestCompletion id res) := rowKeeps_run keeps_of_parts
theorem rowKeeps_uioSignal {rid aligned msg} : RowKeeps (execUioSignal rid aligned msg) := rowKeeps_run keeps_of_parts
theorem rowKeeps_uioCompletion {tag ok} : RowKeeps (execUioCompletion tag ok) := rowKeeps_run keeps_of_parts
theorem rowKeeps_doeDiscovery {index} : RowKeeps (execDoeDiscovery index) := rowKeeps_runAny keeps_of_parts

/-! ### Security -/

theorem rowKeeps_seRegister {q} : RowKeeps (execSeRegister q) := rowKeeps_run keeps_of_parts
theorem rowKeeps_seSetJoin {q} : RowKeeps (execSeSetJoin q) := rowKeeps_run keeps_of_parts
theorem rowKeeps_seSetLeave {q} : RowKeeps (execSeSetLeave q) := rowKeeps_run keeps_of_parts
theorem rowKeeps_seAttest {q} : RowKeeps (execSeAttest q) := rowKeeps_run keeps_of_parts
theorem rowKeeps_attest {nonce} : RowKeeps (execAttest nonce) := rowKeeps_runAny keeps_of_parts
theorem rowKeeps_seLc {q} : RowKeeps (execSeLc q) := rowKeeps_run keeps_of_parts
theorem rowKeeps_entropyFail : RowKeeps (execEntropyFail) := rowKeeps_runAny keeps_of_parts
theorem rowKeeps_entropyRecovery : RowKeeps (execEntropyRecovery) := rowKeeps_runAny keeps_of_parts

/-! ### Power -/

theorem rowKeeps_activeToQuiet {h v} : RowKeeps (execActiveToQuiet h v) := rowKeeps_runPw keeps_of_parts
theorem rowKeeps_quietToActive {h v} : RowKeeps (execQuietToActive h v) := rowKeeps_runPw keeps_of_parts
theorem rowKeeps_park {h v} : RowKeeps (execPark h v) := rowKeeps_runPw keeps_of_parts
theorem rowKeeps_unpark {h v} : RowKeeps (execUnpark h v) := rowKeeps_runPw keeps_of_parts
theorem rowKeeps_powerTransitionComplete : RowKeeps (execPowerTransitionComplete) := rowKeeps_run keeps_of_parts
theorem rowKeeps_controlInterval {meanW peakW sensors} : RowKeeps (execControlInterval meanW peakW sensors) :=
  rowKeeps_run keeps_of_parts
theorem rowKeeps_inputLow {volts16 amps16} : RowKeeps (execInputLow volts16 amps16) := rowKeeps_run keeps_of_parts
theorem rowKeeps_thermalTrip {sensor} : RowKeeps (execThermalTrip sensor) := rowKeeps_run keeps_of_parts
theorem rowKeeps_perstAssert : RowKeeps (execPerstAssert) := rowKeeps_runAny keeps_of_parts
theorem rowKeeps_perstDeassert {straps} : RowKeeps (execPerstDeassert straps) := rowKeeps_runAny keeps_of_parts
theorem rowKeeps_powerRemoval : RowKeeps (execPowerRemoval) := rowKeeps_runAny keeps_of_parts
theorem rowKeeps_powerApply : RowKeeps (execPowerApply) := rowKeeps_runAny keeps_of_parts
theorem rowKeeps_startUpStage {r} : RowKeeps (execStartUpStage r) := rowKeeps_runAny keeps_of_parts
theorem rowKeeps_fwImage {offset data} : RowKeeps (execFwImage offset data) := rowKeeps_runAny keeps_of_parts
theorem rowKeeps_peerFetchTimeout : RowKeeps (execPeerFetchTimeout) := rowKeeps_runAny keeps_of_parts
theorem rowKeeps_fwUpdate {q} : RowKeeps (execFwUpdate q) := rowKeeps_run keeps_of_parts
theorem rowKeeps_roleHandover : RowKeeps (execRoleHandover) := rowKeeps_run keeps_of_parts
theorem rowKeeps_roleReloadComplete {pass} : RowKeeps (execRoleReloadComplete pass) := rowKeeps_run keeps_of_parts
theorem rowKeeps_restoreFactory {q} : RowKeeps (execRestoreFactory q) := rowKeeps_run keeps_of_parts
theorem rowKeeps_mctpMessage {m} : RowKeeps (execMctpMessage m) := rowKeeps_runAny keeps_of_parts

/-! ### Time -/

theorem rowKeeps_beacon {p b} : RowKeeps (execBeacon p b) := rowKeeps_runLink keeps_of_parts
theorem rowKeeps_tick : RowKeeps (execTick) := rowKeeps_runLink keeps_of_parts
theorem rowKeeps_holdoverExpiry : RowKeeps (execHoldoverExpiry) := rowKeeps_runLink keeps_of_parts
theorem rowKeeps_acquireTimeout : RowKeeps (execAcquireTimeout) := rowKeeps_runLink keeps_of_parts
theorem rowKeeps_tickInEdge {off} : RowKeeps (execTickInEdge off) := rowKeeps_run keeps_of_parts
theorem rowKeeps_ppsInEdge {t} : RowKeeps (execPpsInEdge t) := rowKeeps_run keeps_of_parts
theorem rowKeeps_tkCtrlWrite {h v} : RowKeeps (execTkCtrlWrite h v) := rowKeeps_run keeps_of_parts
theorem rowKeeps_tkPeriodStepWrite {h v} : RowKeeps (execTkPeriodStepWrite h v) := rowKeeps_run keeps_of_parts
theorem rowKeeps_tkAdvanceWrite {h v} : RowKeeps (execTkAdvanceWrite h v) := rowKeeps_run keeps_of_parts
theorem rowKeeps_tkStepRead {h} : RowKeeps (execTkStepRead h) := rowKeeps_run keeps_of_parts
theorem rowKeeps_lowHalfReadLatch {via r} : RowKeeps (execLowHalfReadLatch via r) := rowKeeps_run keeps_of_parts
theorem rowKeeps_latchDiscardRead {via r} : RowKeeps (execLatchDiscardRead via r) := rowKeeps_run keeps_of_parts
theorem rowKeeps_deadlineMark {m80} : RowKeeps (execDeadlineMark m80) := rowKeeps_run keeps_of_parts

/-! ### Registers -/

theorem rowKeeps_kvInstEnable {i h v} : RowKeeps (execKvInstEnable i h v) := rowKeeps_run keeps_of_parts
theorem rowKeeps_ssModelEnable {m h v} : RowKeeps (execSsModelEnable m h v) := rowKeeps_run keeps_of_parts
theorem rowKeeps_obTrmarkWrite {h v} : RowKeeps (execObTrmarkWrite h v) := rowKeeps_run keeps_of_parts
theorem rowKeeps_registerWrite {via off bits v} : RowKeeps (execRegisterWrite via off bits v) :=
  rowKeeps_runAny keeps_of_parts

/-! ### Scalar -/

theorem rowKeeps_salu {n w} : RowKeeps (execSalu n w) := rowKeeps_run keeps_of_parts
theorem rowKeeps_salui {n w} : RowKeeps (execSalui n w) := rowKeeps_run keeps_of_parts

/-! ### Vector -/

theorem rowKeeps_vx {n w} : RowKeeps (execVx n w) := rowKeeps_run keeps_of_parts
theorem rowKeeps_rsum {n w} : RowKeeps (execRsum n w) := rowKeeps_run keeps_of_parts
theorem rowKeeps_rmax {n w} : RowKeeps (execRmax n w) := rowKeeps_run keeps_of_parts
theorem rowKeeps_rmin {n w} : RowKeeps (execRmin n w) := rowKeeps_run keeps_of_parts
theorem rowKeeps_rabsmax {n w} : RowKeeps (execRabsmax n w) := rowKeeps_run keeps_of_parts
theorem rowKeeps_shuf {n w} : RowKeeps (execShuf n w) := rowKeeps_run keeps_of_parts
theorem rowKeeps_rot {n w} : RowKeeps (execRot n w) := rowKeeps_run keeps_of_parts
theorem rowKeeps_cvt {n w} : RowKeeps (execCvt n w) := rowKeeps_run keeps_of_parts
theorem rowKeeps_quant {n w} : RowKeeps (execQuant n w) := rowKeeps_run keeps_of_parts
theorem rowKeeps_dequant {n w} : RowKeeps (execDequant n w) := rowKeeps_run keeps_of_parts
theorem rowKeeps_tos {n w} : RowKeeps (execTos n w) := rowKeeps_run keeps_of_parts
theorem rowKeeps_pack {n w} : RowKeeps (execPack n w) := rowKeeps_run keeps_of_parts
theorem rowKeeps_unpack {n w} : RowKeeps (execUnpack n w) := rowKeeps_run keeps_of_parts
theorem rowKeeps_vgath {n w} : RowKeeps (execVgath n w) := rowKeeps_run keeps_of_parts
theorem rowKeeps_vscat {n w} : RowKeeps (execVscat n w) := rowKeeps_run keeps_of_parts

end Sys2Proof.Machine
end

section
/-! PROOFS. Every step keeps the form of the memories. -/

namespace Sys2Proof.Machine

/-- Every command keeps the form of the memories. -/
theorem rowKeeps_exec (i : Instr) : RowKeeps (exec i) := by
  cases i
  exacts [
    rowKeeps_tick, rowKeeps_holdoverExpiry, rowKeeps_acquireTimeout, rowKeeps_beacon, rowKeeps_tickInEdge,
    rowKeeps_ppsInEdge, rowKeeps_linkDelayMeasure, rowKeeps_delayReq, rowKeeps_delayRsp, rowKeeps_tkCtrlWrite,
    rowKeeps_tkPeriodStepWrite, rowKeeps_tkAdvanceWrite, rowKeeps_tkStepRead, rowKeeps_lowHalfReadLatch,
    rowKeeps_deadlineMark, rowKeeps_ctlNop, rowKeeps_ctlEnd, rowKeeps_ctlBr, rowKeeps_ctlCall, rowKeeps_ctlJr,
    rowKeeps_ctlLoop, rowKeeps_ctlYield, rowKeeps_coreStop, rowKeeps_salu, rowKeeps_salui, rowKeeps_dscLd,
    rowKeeps_dscLdx, rowKeeps_dscSt, rowKeeps_dscMov, rowKeeps_dscOrg, rowKeeps_dscOrgadd, rowKeeps_dscSize,
    rowKeeps_dscResize, rowKeeps_mxZero, rowKeeps_mxMma, rowKeeps_mxLd, rowKeeps_mxSt, rowKeeps_mxRd, rowKeeps_mxWr,
    rowKeeps_mxFinish, rowKeeps_vx, rowKeeps_rsum, rowKeeps_rmax, rowKeeps_rmin, rowKeeps_rabsmax, rowKeeps_shuf,
    rowKeeps_rot, rowKeeps_cvt, rowKeeps_quant, rowKeeps_dequant, rowKeeps_tos, rowKeeps_pack, rowKeeps_unpack,
    rowKeeps_vgath, rowKeeps_vscat, rowKeeps_ldSp, rowKeeps_stSp, rowKeeps_ldCs, rowKeeps_stCs, rowKeeps_ldG,
    rowKeeps_stG, rowKeeps_vldSp, rowKeeps_vstSp, rowKeeps_vldCs, rowKeeps_vstCs, rowKeeps_vldG, rowKeeps_vstG,
    rowKeeps_globalDataReturn, rowKeeps_dmaCp, rowKeeps_dmaRun, rowKeeps_dmaPoll, rowKeeps_dmaBurst,
    rowKeeps_dmaRequestComplete, rowKeeps_syncFence, rowKeeps_syncWt, rowKeeps_syncBar, rowKeeps_atAdd,
    rowKeeps_atAnd, rowKeeps_atOr, rowKeeps_atXor, rowKeeps_atSwap, rowKeeps_atMax, rowKeeps_atMin, rowKeeps_atMaxu,
    rowKeeps_atMinu, rowKeeps_atCas, rowKeeps_atFadd, rowKeeps_wlPost, rowKeeps_wlPostm, rowKeeps_atQk, rowKeeps_atSm,
    rowKeeps_atPv, rowKeeps_atMrg, rowKeeps_atFin, rowKeeps_atRp, rowKeeps_clPost, rowKeeps_enPush, rowKeeps_enDb,
    rowKeeps_csrRd, rowKeeps_csrWr, rowKeeps_wellCommandStart, rowKeeps_wellPass, rowKeeps_wellCommandComplete,
    rowKeeps_feQcfgEnableSet, rowKeeps_queueActive, rowKeeps_feQcfgEnableClear, rowKeeps_queueFree,
    rowKeeps_feQdbWrite, rowKeeps_feQcptrWrite, rowKeeps_feEvptrWrite, rowKeeps_obTrptrWrite, rowKeeps_feFvalWrite,
    rowKeeps_fenceReset, rowKeeps_prefetch, rowKeeps_registerWaits, rowKeeps_commandStart, rowKeeps_waitTimeout,
    rowKeeps_kernel, rowKeeps_dma, rowKeeps_marker, rowKeeps_request, rowKeeps_commandComplete,
    rowKeeps_msixIntervalExpiry, rowKeeps_ctxCreate, rowKeeps_ctxDestroy, rowKeeps_partition, rowKeeps_reclaim,
    rowKeeps_reclaimDeadline, rowKeeps_contextReset, rowKeeps_stageStart, rowKeeps_sliceEnd, rowKeeps_imageSave,
    rowKeeps_imageRestore, rowKeeps_nonpreemptOverrun, rowKeeps_budgetExpiry, rowKeeps_wtLoad, rowKeeps_wtReplace,
    rowKeeps_wtResume, rowKeeps_shardArrival, rowKeeps_shardTimeout, rowKeeps_layerCopy, rowKeeps_layerCopyComplete,
    rowKeeps_streamFetchStart, rowKeeps_jobCreate, rowKeeps_jobDestroy, rowKeeps_joinTimeout, rowKeeps_collective,
    rowKeeps_collectiveComplete, rowKeeps_clStall, rowKeeps_abort, rowKeeps_drainStart, rowKeeps_drainComplete,
    rowKeeps_trInvLeaf, rowKeeps_trInvContext, rowKeeps_trInvAll, rowKeeps_invalidationComplete,
    rowKeeps_trRekeyWrite, rowKeeps_rekeyComplete, rowKeeps_msZeroWrite, rowKeeps_zeroFillComplete,
    rowKeeps_msPartWrite, rowKeeps_channelRetrain, rowKeeps_selfRefreshExit, rowKeeps_patrolScrub,
    rowKeeps_rollingSelfTest, rowKeeps_selfTestComplete, rowKeeps_parityError, rowKeeps_unitStuck,
    rowKeeps_drainMarkerAck, rowKeeps_drainMarkerStuck, rowKeeps_heartbeatMiss, rowKeeps_takeoverComplete,
    rowKeeps_rpRetire, rowKeeps_clusterSpare, rowKeeps_moduleFault, rowKeeps_config, rowKeeps_graceExpiry,
    rowKeeps_laneFailure, rowKeeps_spillwaySwitch, rowKeeps_linkTraining, rowKeeps_hello, rowKeeps_report,
    rowKeeps_encap, rowKeeps_attestRetry, rowKeeps_rekeyThreshold, rowKeeps_rekey, rowKeeps_keyHoldTimeout,
    rowKeeps_flit, rowKeeps_nak, rowKeeps_retryTimeout, rowKeeps_write, rowKeeps_read, rowKeeps_readRsp,
    rowKeeps_signal, rowKeeps_ack, rowKeeps_trace, rowKeeps_routedForward, rowKeeps_e2eTimeout, rowKeeps_send,
    rowKeeps_congestionNotification, rowKeeps_rateRecovery, rowKeeps_pfcPause, rowKeeps_rdmaCompletion,
    rowKeeps_hostMemAccess, rowKeeps_backInvalidate, rowKeeps_hostSnoop, rowKeeps_atsInvalidation,
    rowKeeps_hostRequestCompletion, rowKeeps_functionLevelReset, rowKeeps_uioSignal, rowKeeps_cxlLinkTrained,
    rowKeeps_fwImage, rowKeeps_attest, rowKeeps_peerFetchTimeout, rowKeeps_seRegister, rowKeeps_seSetJoin,
    rowKeeps_seSetLeave, rowKeeps_seAttest, rowKeeps_seLc, rowKeeps_entropyRecovery, rowKeeps_fwUpdate,
    rowKeeps_roleHandover, rowKeeps_restoreFactory, rowKeeps_activeToQuiet, rowKeeps_quietToActive, rowKeeps_park,
    rowKeeps_unpark, rowKeeps_powerTransitionComplete, rowKeeps_controlInterval, rowKeeps_thermalTrip,
    rowKeeps_perstAssert, rowKeeps_perstDeassert, rowKeeps_startUpStage, rowKeeps_powerRemoval, rowKeeps_powerApply,
    rowKeeps_inputLow, rowKeeps_kvInstEnable, rowKeeps_ssModelEnable, rowKeeps_cxHdmValid, rowKeeps_jlPortCfgWrite,
    rowKeeps_obTrmarkWrite, rowKeeps_registerWrite, rowKeeps_illegalOpcode, rowKeeps_codeRegionExtent,
    rowKeeps_entropyFail, rowKeeps_keyAgreementTimeout, rowKeeps_cxlLinkDown, rowKeeps_ethLinkUp,
    rowKeeps_ethLinkDown, rowKeeps_qpAckTimeout, rowKeeps_mctpMessage, rowKeeps_doeDiscovery,
    rowKeeps_hdmDecoderCommit, rowKeeps_numvfsWrite, rowKeeps_imageSaveComplete, rowKeeps_imageRestoreComplete,
    rowKeeps_spareCopyComplete, rowKeeps_channelRetrainComplete, rowKeeps_roleReloadComplete, rowKeeps_uioCompletion,
    rowKeeps_msixVectorUnmask, rowKeeps_latchDiscardRead]

theorem memoriesWf_step {s t : State} (hs : memoriesWf s) (e : step s = .next t) : memoriesWf t := by
  unfold step at e
  split at e
  next => cases e; exact hs
  next c rest _ => exact rowKeeps_exec c (s := { s with pending := rest }) hs e

theorem memoriesWf_reaches {s t : State} (hs : memoriesWf s) (h : Reaches s t) : memoriesWf t := by
  induction h with
  | refl => exact hs
  | tail _ e ih => exact memoriesWf_step ih e

end Sys2Proof.Machine

namespace Sys2Proof
open Sys2Proof.Machine

/-- Settles O60: every row is built of operations that keep the form, and a run is a chain of rows. -/
theorem stepKeepsMemories : Obligations.StepKeepsMemories := by
  unfold Obligations.StepKeepsMemories
  exact ⟨fun _ _ => memoriesWf_step, fun _ _ => memoriesWf_reaches⟩

end Sys2Proof
end

section
/-! PROOFS. A patrol that finds a broken owner tag (R489), in a state whose scratchpad is not in its canonical form. -/

namespace Sys2Proof.Machine

/-- A broken owner tag: the line loses its tag and its bytes. -/
theorem exec_scratchTag {s : State} (hw : s.works = true) (n : CoreId) (line : Nat) :
    exec (.patrolScrub (.scratchTag n line)) s = .next { s with sram := { s.sram with
      spadTags := s.sram.spadTags.erase (n.val * 4096 + line % 4096)
      spad := s.sram.spad.clear ((n.val * 4096 + line % 4096) * 1024) ((n.val * 4096 + line % 4096 + 1) * 1024) } } :=
  run_next hw (run_modify _ s)

/-- The scratchpad lists address 2000 before address 5, so that a read of 5 stops at 2000 and finds nothing. -/
def unsortedSpad : State := { State.reset with sram := { State.reset.sram with spad := [(2000, 1), (5, 1)] } }

theorem works_unsortedSpad : unsortedSpad.works = true := works_reset

/-- Without the bytes of line 1, which holds address 2000, the byte at 5 is found. -/
theorem unsortedSpad_clear : unsortedSpad.sram.spad.read 5 = 0 ∧
    (unsortedSpad.sram.spad.clear (1 * 1024) ((1 + 1) * 1024)).read 5 = 1 := by decide

end Sys2Proof.Machine

namespace Sys2Proof

open Sys2Proof.Machine

/-- Refutes O41: it does not ask for the canonical form of the scratchpad. In a state that lists an address of line 1 before
one of line 0, the loss of line 1 changes what a read of line 0 finds. No run reaches such a state (O60). -/
theorem not_patrolsAndSpares : ¬ Obligations.PatrolsAndSpares := by
  unfold Obligations.PatrolsAndSpares
  rintro ⟨hpatrol, -⟩
  obtain ⟨-, -, htag, -⟩ := hpatrol unsortedSpad works_unsortedSpad
  obtain ⟨t, ht, -, -, houtside, -⟩ := htag 0 1
  rw [exec_scratchTag works_unsortedSpad] at ht
  cases ht
  have hk : (0 : CoreId).val * 4096 + 1 % 4096 = 1 := by simp
  rw [hk] at houtside
  obtain ⟨hbefore, hafter⟩ := unsortedSpad_clear
  have hread := houtside 5 (.inl (by norm_num))
  rw [hbefore] at hread
  exact absurd (hafter.symm.trans hread) (by decide)

end Sys2Proof
end

section
/-! PROOFS. A stuck well (R493) in a state that lists what the well runs twice. -/

namespace Sys2Proof.Machine

/-- A pass-less well command that core `n` has posted to well 63. -/
def postedBy (n : CoreId) : WellRun :=
  { cmd := { core := n, ctx := 0, gen := 0, q := 1, idx := 0, pc := 0, named := 63, slot := 0, bytes := [], order := 0 }
    rowStatus := [], inputs := [], passes := 0, passesDone := 0, out := [], counts := [], bytes := 0 }

/-- Core 0 runs entry 0 of queue 1 of context 0. -/
def runningCore : Core := Core.initial 0 0 1 0 none 0 1 0 0 0 0

/-- Core 0 runs its command, and well 63 is listed twice: with a command of core 0, and after it with one of core 1. -/
def wellListedTwice : State := { setCore State.reset 0 runningCore with
  queues := [((0, 1), { QueueSt.empty with cmds := [Cmd.blank 0] })]
  wells := { queue := [], run := [(63, postedBy 0), (63, postedBy 1)], order := 0 } }

/-- The outcome lists what well 63 runs. -/
def listsWell63 (o : Host.Outcome State Fault Refusal) : Bool :=
  match o with
  | .next t => (t.wells.run.find? 63).isSome
  | _ => false

/-- The end of the command of core 0 takes its well command from the list, and the one of core 1 is found in its place. -/
theorem unitStuck_wellListedTwice : listsWell63 (exec (.unitStuck (.well 63)) wellListedTwice) = true := by decide +kernel

end Sys2Proof.Machine

namespace Sys2Proof

open Sys2Proof.Machine

/-- Refutes O42: it does not ask that a well be listed once. The end of the command that a stuck well serves takes the well
commands of its cores from the list, so that a later entry for the well, of another core, is what the well is found to
run. -/
theorem not_testsAndDrains : ¬ Obligations.TestsAndDrains := by
  unfold Obligations.TestsAndDrains
  rintro ⟨htests, -⟩
  obtain ⟨-, -, hends⟩ := htests wellListedTwice 0 runningCore (Cmd.blank 0) 0 works_reset rfl
  obtain ⟨-, hstuck⟩ := hends rfl rfl rfl rfl rfl
  obtain ⟨t, ht, -, -, -, hgone, -⟩ := hstuck 63 (postedBy 0) rfl rfl rfl rfl
  have hlisted := unitStuck_wellListedTwice
  rw [ht, listsWell63, hgone] at hlisted
  exact absurd hlisted (by decide)

end Sys2Proof
end

section
/-! SUPPORT. The end of a command (R102): once it has its ending, the removal of its work from the engines leaves that ending,
device memory and the on-core memories as they are, and takes its cores. -/

namespace Sys2Proof.Machine

variable {s t : State} {c : Ctx} {q : QIdx} {idx : W32} {e : Ending} {α β : Type} {P : State → Prop}

theorem Preserves.set (ht : P t) : Preserves P (set t : M PUnit) := fun s _ => ⟨⟨⟩, t, run_set t s, ht⟩

/-- A computation that goes on with the state it has read may use what holds of it. -/
theorem Preserves.get_of {f : State → M β} (hf : ∀ s, P s → Preserves P (f s)) : Preserves P (get >>= f) :=
  .get_bind fun s hs => hf s hs s hs

/-! ### The ending stands -/

/-- Where commands are changed but keep their counts, the same one is found, changed if it is among them. -/
theorem find?_map_idx {f : Cmd → Cmd} (hf : ∀ y, (f y).idx = y.idx) (i : W32) (l : List Cmd) :
    (l.map (fun y => if y.idx = i then f y else y)).find? (fun y => y.idx == idx) =
      (l.find? (fun y => y.idx == idx)).map (fun y => if y.idx = i then f y else y) := by
  rw [List.find?_map]
  congr 2
  funext y
  simp only [Function.comp]
  split <;> simp [hf]

theorem cmdOf_setCmd {f : Cmd → Cmd} (hf : ∀ y, (f y).idx = y.idx) (s : State) (c' : Ctx) (q' : QIdx) (i : W32) :
    (setCmd s c' q' i f).cmdOf c q idx = if (c', q') = (c, q) then
      (s.cmdOf c q idx).map (fun y => if y.idx = i then f y else y) else s.cmdOf c q idx := by
  unfold State.cmdOf State.queueOf setCmd
  split
  next h =>
    cases h
    rw [AMap.getD_insert_same]
    exact find?_map_idx hf i _
  next h => rw [AMap.getD_insert_other h]

theorem cmdOf_setCmd_same {f : Cmd → Cmd} {x : Cmd} (hx : s.cmdOf c q idx = some x) (hf : ∀ y, (f y).idx = y.idx) :
    (setCmd s c q idx f).cmdOf c q idx = some (f x) := by
  have hidx : x.idx = idx := by simpa using List.find?_some hx
  rw [cmdOf_setCmd hf, if_pos rfl, hx, Option.map_some, if_pos hidx]

theorem run_modCmd (c : Ctx) (q : QIdx) (i : W32) (f : Cmd → Cmd) (s : State) :
    modCmd c q i f s = .ok ⟨⟩ (setCmd s c q i f) := run_modify _ s

/-- The command has its ending; the memories and the cores are as they were in `s`. -/
structure EndStands (c : Ctx) (q : QIdx) (idx : W32) (e : Ending) (s t : State) : Prop where
  ended : ended t c q idx e
  mem : t.mem = s.mem
  sram : t.sram = s.sram
  cores : t.cores = s.cores

/-- The change of a command leaves its count, its phase and its ending. -/
structure SameEnd (f : Cmd → Cmd) : Prop where
  idx : ∀ y, (f y).idx = y.idx
  phase : ∀ y, (f y).phase = y.phase
  ending : ∀ y, (f y).ending = y.ending

theorem ended_setCmd {f : Cmd → Cmd} (hf : SameEnd f) (h : ended t c q idx e) (c' : Ctx) (q' : QIdx) (i : W32) :
    ended (setCmd t c' q' i f) c q idx e := by
  obtain ⟨x, hx, hp, he⟩ := h
  unfold ended
  rw [cmdOf_setCmd hf.idx, hx]
  split
  next =>
    refine ⟨_, rfl, ?_, ?_⟩ <;> dsimp only <;> split
    exacts [(hf.phase x).trans hp, hp, (hf.ending x).trans he, he]
  next => exact ⟨x, rfl, hp, he⟩

namespace EndStands

/-- A state that differs in neither commands, memories nor cores. -/
theorem of_eq {u : State} (h : EndStands c q idx e s t) (hq : u.queues = t.queues) (hm : u.mem = t.mem)
    (hs : u.sram = t.sram) (hc : u.cores = t.cores) : EndStands c q idx e s u := by
  obtain ⟨hend, hmem, hsram, hcores⟩ := h
  refine ⟨?_, hm.trans hmem, hs.trans hsram, hc.trans hcores⟩
  simpa only [Sys2Proof.ended, State.cmdOf, State.queueOf, hq] using hend

theorem modCmd {f : Cmd → Cmd} (hf : SameEnd f) (c' : Ctx) (q' : QIdx) (i : W32) :
    Preserves (EndStands c q idx e s) (modCmd c' q' i f) :=
  .modify fun _ h => ⟨ended_setCmd hf h.ended c' q' i, h.mem, h.sram, h.cores⟩

/-- A change of nothing but the parts of the state that the ending does not rest on. -/
theorem modify {f : State → State} (hq : ∀ t, (f t).queues = t.queues) (hm : ∀ t, (f t).mem = t.mem)
    (hs : ∀ t, (f t).sram = t.sram) (hc : ∀ t, (f t).cores = t.cores) :
    Preserves (EndStands c q idx e s) (modify f : M PUnit) :=
  .modify fun t h => h.of_eq (hq t) (hm t) (hs t) (hc t)

theorem fresh : Preserves (EndStands c q idx e s) fresh := .fresh fun _ h => h.of_eq rfl rfl rfl rfl

theorem sampleTime : Preserves (EndStands c q idx e s) sampleTime :=
  .get_of fun _ h => .bind (.set (h.of_eq rfl rfl rfl rfl)) fun _ => .pure _

theorem latchCore (n : CoreId) : Preserves (EndStands c q idx e s) (latchCore n) := by
  refine .bind sampleTime fun _ => .bind fresh fun _ => .get_of fun t h => ?_
  split
  · exact .pure _
  · exact .set (h.of_eq rfl rfl rfl rfl)

theorem latchChan (d : Die) (ch : Nat) (c' : Ctx) (q' : QIdx) (i : W32) :
    Preserves (EndStands c q idx e s) (latchChan d ch c' q' i) := by
  refine .bind sampleTime fun _ => .get_of fun t h => ?_
  split
  · exact .pure _
  · exact .set (h.of_eq rfl rfl rfl rfl)

theorem refreshWell (x : WellId) : Preserves (EndStands c q idx e s) (refreshWell x) :=
  modify (fun _ => rfl) (fun _ => rfl) (fun _ => rfl) (fun _ => rfl)

theorem refreshEng (d : Die) : Preserves (EndStands c q idx e s) (refreshEng d) :=
  modify (fun _ => rfl) (fun _ => rfl) (fun _ => rfl) (fun _ => rfl)

theorem modChan (g : DmaEng) (ch : Nat) (f : DmaCh → DmaCh) : Preserves (EndStands c q idx e s) (modChan g ch f) :=
  modify (fun _ => rfl) (fun _ => rfl) (fun _ => rfl) (fun _ => rfl)

theorem refreshChan (g : DmaEng) (ch : Nat) : Preserves (EndStands c q idx e s) (refreshChan g ch) :=
  .modify fun t h => by
    split
    · exact h.of_eq rfl rfl rfl rfl
    · exact h

theorem startOnChannel (d : Die) (ch : Nat) : Preserves (EndStands c q idx e s) (startOnChannel d ch) :=
  .bind sampleTime fun _ => modify (fun _ => rfl) (fun _ => rfl) (fun _ => rfl) (fun _ => rfl)

/-- The records that enter a channel leave their commands' endings. -/
theorem enterRecords (d : Die) (ch : Fin 32) (n : Nat) : Preserves (EndStands c q idx e s) (enterRecords d ch n) := by
  induction n with
  | zero => exact .pure _
  | succ n ih =>
    unfold Machine.enterRecords
    refine .bind .read fun t => .ite (.pure _) ?_
    dsimp only
    split
    · exact .pure _
    · refine .bind (modCmd (f := fun y => { y with recLeft := y.recLeft.drop 1 })
        ⟨fun _ => rfl, fun _ => rfl, fun _ => rfl⟩ _ _ _) fun _ => ?_
      split <;> exact .ite (.bind (startOnChannel _ _) fun _ => .bind (modChan _ _ _) fun _ => ih)
        (.bind (modChan _ _ _) fun _ => ih)

theorem dropDma (c' : Ctx) (q' : QIdx) (i : W32) : Preserves (EndStands c q idx e s) (dropDma c' q' i) := by
  refine .bind .read fun t0 => .bind (.eachM _ fun d => .eachM _ fun ch => .ite (latchChan _ _ _ _ _) (.pure _)) fun _ =>
    .get_of fun t1 h => .bind (.set (h.of_eq rfl rfl rfl rfl)) fun _ => .eachM _ fun d => .eachM _ fun ch =>
      .ite (.bind (enterRecords _ _ _) fun _ => refreshChan _ _) (.pure _)

end EndStands

/-- The cores leave with all their work; the ending of the command stands. -/
theorem dropCores_ok (ns : List CoreId) (h : EndStands c q idx e s t) : ∃ u, dropCores ns t = .ok () u ∧
    EndStands c q idx e { s with cores := s.cores.filter (fun p => !ns.contains p.1) } u := by
  obtain ⟨v, hv, hstands⟩ := (Preserves.eachM ns EndStands.latchCore).unit h
  unfold dropCores
  rw [run_bind_ok hv, run_bind_ok (run_get v), run_bind_ok (run_set _ v)]
  refine Preserves.unit (.bind (.eachM _ EndStands.refreshWell) fun _ => .eachM _ EndStands.refreshEng) ?_
  exact ⟨hstands.ended, hstands.mem, hstands.sram, congrArg (List.filter _) hstands.cores⟩

/-! ### The end of a command of a queue -/

/-- Nothing but the host's requests and what was sent differs from `s`. -/
def HostOnly (s t : State) : Prop := ∃ x o, t = { s with cxl := x, out := o }

/-- What dropped writes still owe concerns the host alone. -/
theorem oweWrites_hostOnly (rs : List DmaReq) : Preserves (HostOnly s) (oweWrites rs) := by
  have hmod : ∀ f : State → State, (∀ t, HostOnly t (f t)) → Preserves (HostOnly s) (modify f : M PUnit) := fun f hf =>
    .modify fun t ⟨x, o, ht⟩ => by
      obtain ⟨y, p, hy⟩ := hf t
      exact ⟨y, p, by rw [hy, ht]⟩
  refine .bind .read fun t => ?_
  dsimp only
  split
  · exact .pure _
  · exact .bind .read fun _ => .bind (hmod _ fun _ => ⟨_, _, rfl⟩) fun _ =>
      .bind (hmod _ fun _ => ⟨_, _, rfl⟩) fun _ => .pure _

/-- The ending is set in the command (R102), whose cores are free and whose work has left the engines; the other cores and the
memories are as they were. -/
theorem stopWork_ok {x : Cmd} (hx : s.cmdOf c q idx = some x) (ho : x.ending = none) (e : Ending) :
    ∃ t, stopWork (.cmd c q idx) e s = .ok () t ∧
      EndStands c q idx e { s with cores := s.cores.filter (fun p => !(s.coresOf (.cmd c q idx)).contains p.1) } t := by
  unfold stopWork
  dsimp only
  rw [run_bind_ok (run_get s), hx]
  dsimp only
  rw [ho, Option.isSome_none, if_neg Bool.false_ne_true, run_bind_ok (run_get s), run_bind_ok (run_get s)]
  generalize List.flatMap _ s.dma = dropped
  obtain ⟨owed, u, hu, y, o, rfl⟩ := oweWrites_hostOnly (s := s) dropped s ⟨s.cxl, s.out, rfl⟩
  rw [run_bind_ok hu, run_bind_ok (run_modCmd _ _ _ _ _)]
  have hended : EndStands c q idx e s (setCmd { s with cxl := y, out := o } c q idx fun z =>
      { z with phase := .ended, ending := some e, recLeft := [], holds := owed }) :=
    ⟨⟨_, cmdOf_setCmd_same (s := { s with cxl := y, out := o }) hx (by intro _; rfl), rfl, rfl⟩, rfl, rfl, rfl⟩
  obtain ⟨v, hv, hfree⟩ := dropCores_ok (s.coresOf (.cmd c q idx)) hended
  rw [run_bind_ok hv]
  exact (EndStands.dropDma c q idx).unit hfree

/-- A key is found in what a condition on the keys leaves of a list, where it meets the condition. -/
theorem find?_filter_fst {κ : Type} [DecidableEq κ] (m : AMap κ α) (p : κ → Bool) (k : κ) :
    AMap.find? (m.filter fun a => p a.1) k = if p k then m.find? k else none := by
  induction m with
  | nil => simp [AMap.find?]
  | cons a m ih =>
    obtain ⟨i, v⟩ := a
    by_cases hi : i = k
    · subst hi; cases hp : p i <;> simp [AMap.find?, hp, ih]
    · cases hp : p i <;> simp [AMap.find?, hp, ih, hi]

theorem mem_coresOf {n : CoreId} {k : Core} {w : Work} (hk : s.cores.find? n = some k) (hw : k.work = w) :
    n ∈ s.coresOf w := by
  simp [State.coresOf, hk, hw]

/-- A core's command ends, where no job is open: the ending is set, the core is free, and the memories stand. -/
theorem endCore_ok {n : CoreId} {k : Core} {x : Cmd} (hj : s.jobs = []) (hk : s.cores.find? n = some k) (hs : k.stage = none)
    (hx : s.cmdOf k.ctx k.q k.idx = some x) (ho : x.ending = none) (e : Ending) :
    ∃ t, endCore n e s = .ok () t ∧ ended t k.ctx k.q k.idx e ∧ t.cores.find? n = none ∧ t.mem = s.mem ∧
      t.sram = s.sram := by
  have hwork : k.work = .cmd k.ctx k.q k.idx := by rw [Core.work, hs]
  obtain ⟨t, ht, hend, hmem, hsram, hcores⟩ := stopWork_ok hx ho e
  refine ⟨t, ?_, hend, ?_, hmem, hsram⟩
  · unfold endCore endWork
    rw [run_bind_ok (run_get s), hk]
    dsimp only
    rw [run_bind_ok (run_get s), hj, hwork]
    exact (run_bind_ok ht).trans (run_eachM_nil _ t)
  · rw [hcores, find?_filter_fst s.cores (fun m => !(s.coresOf _).contains m)]
    simp [mem_coresOf hk hwork]

end Sys2Proof.Machine
end

section
/-! PROOFS. A well's command from its start to its end (R189, R191, R195–R199): the start lists the run or ends the command that
posted it, a pass of a GEMV appends the block's columns to the rows that are still OK, and the drain writes the results. -/

namespace Sys2Proof.Machine

variable {s t : State} {x : WellId} {r : WellRun}

/-- The state in which well x runs `r`. -/
def withRun (s : State) (x : WellId) (r : WellRun) : State :=
  { s with wells := { s.wells with run := s.wells.run.insert x r } }

theorem run_modRun {f : WellRun → WellRun} (h : s.wells.run.find? x = some r) :
    modRun x f s = .ok ⟨⟩ (withRun s x (f r)) := by
  simp only [modRun, run_modify, h]; rfl

/-! ### The start of a command -/

/-- What a well does with the command that it has taken: the checks of R194, or the input rows and the first look at the rows'
contexts. -/
def beginWell (x : WellId) (w : WellCmd) : M Unit :=
  match w.fault with
  | some (st, f) => wellFault w (.code st f)
  | none => do
    let named := (upTo w.rows).map w.inRow
    let r ← attempt (mapM' (upTo (if w.idle || w.inBytes == 0 then 0 else w.inRows)) (fun i =>
      if named.contains i then sramRead w.who w.who.spad (w.inOff + i * w.inPitch) w.inBytes else pure []))
    match r with
    | .ok rows => do
      let r : WellRun :=
        { cmd := w, rowStatus := List.replicate w.rows 0, inputs := rows, passes := w.passCount, passesDone := 0,
          out := [], counts := [], bytes := 0 }
      let s ← get
      set (withRun s x (r.recheck s (upTo w.rows)))
    | .error e => wellFault w e

/-- The state in which command `w` has left the queue of the wells; `g` and `y` are what the registers and the tests that it
cuts short become. -/
def wellTaken (s : State) (w : WellCmd) (g : AMap Reg W64) (y : RepairSt) : State :=
  { s with regs := g, wells := { s.wells with queue := s.wells.queue.filter (fun z => z.order ≠ w.order) }, rep := y }

/-- A free well that is not to be tested takes its oldest command (R195). -/
theorem wellCommandStart_completes {w : WellCmd} {P : State → Prop} (hw : s.works = true)
    (hfree : s.wells.run.find? x = none) (hserves : s.wellServes x = true) (hneed : HwUnit.well x ∉ s.rep.needTest)
    (htest : (HwUnit.well x, true) ∉ s.rep.testing) (hnext : s.nextWellCmd x = some w)
    (h : ∀ g y, ∃ t, beginWell x w (wellTaken s w g y) = .ok () t ∧ P t) : completes (.wellCommandStart x) s P := by
  have hguard : ((s.wells.run.find? x).isNone && s.wellServes x && !s.rep.needTest.contains (.well x)
      && !s.rep.testing.contains (.well x, true)) = true := by simp [hfree, hserves, hneed, htest]
  have hdie : finOf 4 (x.val / 16) = some ⟨x.val / 16, by omega⟩ := dif_pos _
  refine completes_of_run hw rfl ?_
  rw [run_bind_ok (run_get s), hguard, run_bind_ok (run_guardWait_true s), hnext, run_bind_ok (run_needSome w s), hdie]
  dsimp only
  cases hc : s.rep.testing.contains (HwUnit.well x, false) with
  | true =>
    rw [if_pos rfl, run_bind_ok (run_bump _ s), run_bind_ok (run_modify _ _), refreshWell, run_bind_ok (run_modify _ _)]
    exact h _ _
  | false =>
    rw [if_neg Bool.false_ne_true, run_bind_ok (run_modify _ _), refreshWell, run_bind_ok (run_modify _ _)]
    exact h _ _

/-- Where no word that is read is poisoned, the bytes are those that their owner sees (R169). -/
theorem run_sramRead {w : Who} {m : Sram} {o n : Nat} (h : cleanWords s.sram m o n) :
    sramRead w m o n s = .ok (s.sram.readBytes m w.ctx.val w.gen o n) s := by
  have hclean : ¬(n ≠ 0 ∧ ((s.sram.poisonOf m).any fun k =>
      decide (m.wordKey o ≤ k ∧ k ≤ m.wordKey (o + n - 1))) = true) := by
    rintro ⟨-, hany⟩
    obtain ⟨k, hk, hin⟩ := List.any_eq_true.mp hany
    have := of_decide_eq_true hin
    rcases h k hk with h | h <;> omega
  unfold sramRead
  rw [run_bind_ok (run_get s), if_neg hclean, run_pure]

/-- The input rows that a command loads: those that its row table names, one for each number (R181, R186). -/
def WellCmd.loads (w : WellCmd) (y : SramSt) (i : Nat) : List Byte :=
  if i ∈ (upTo w.rows).map w.inRow then y.readBytes w.who.spad w.ctx.val w.gen (w.inOff + i * w.inPitch) w.inBytes else []

/-- How many input rows a command loads. -/
def WellCmd.loadCount (w : WellCmd) : Nat := if w.idle = true ∨ w.inBytes = 0 then 0 else w.inRows

/-- A command that passes its checks: the input rows are loaded, and the passes are still to come. -/
def WellCmd.started (w : WellCmd) (y : SramSt) : WellRun :=
  { cmd := w, rowStatus := List.replicate w.rows 0, inputs := (upTo w.loadCount).map (w.loads y), passes := w.passCount,
    passesDone := 0, out := [], counts := [], bytes := 0 }

theorem beginWell_loads {w : WellCmd} (hf : w.fault = none)
    (hclean : ∀ i < w.loadCount, cleanWords s.sram w.who.spad (w.inOff + i * w.inPitch) w.inBytes) :
    beginWell x w s = .ok () (withRun s x ((w.started s.sram).recheck s (upTo w.rows))) := by
  have hrows : (if (w.idle || w.inBytes == 0) = true then 0 else w.inRows) = w.loadCount := by
    simp [WellCmd.loadCount]
  unfold beginWell
  rw [hf]
  dsimp only
  rw [hrows, run_bind_ok (run_attempt_ok (mapM'_ok (g := w.loads s.sram) _ fun i hi => ?_))]
  · dsimp only
    rw [run_bind_ok (run_get s), run_set]
    rfl
  · unfold WellCmd.loads
    by_cases hn : i ∈ (upTo w.rows).map w.inRow
    · rw [if_pos (by simpa using hn), if_pos hn, run_sramRead (hclean i (by simpa [upTo] using hi))]
      rfl
    · rw [if_neg (by simpa using hn), if_neg hn, run_pure]

/-- At the first look each row is OK where its generation is current, and else CANCELLED (R189). -/
theorem recheck_started (w : WellCmd) (y : SramSt) (s : State) {i : Nat} (hi : i < w.rows) :
    nthD ((w.started y).recheck s (upTo w.rows)).rowStatus i 0 = if (s.rowLive w i).isSome then 0 else 1 := by
  cases hl : s.rowLive w i <;> simp [WellRun.recheck, WellCmd.started, nthD, upTo, hi, hl]

theorem loads_started (w : WellCmd) (y : SramSt) {i : Nat} (hi : i < w.loadCount) :
    nthD (w.started y).inputs i [] = w.loads y i := by
  simp [WellCmd.started, nthD, upTo, hi]

theorem beginWell_faults {w : WellCmd} {st f : Nat} (hf : w.fault = some (st, f)) (s : State) :
    beginWell x w s = endCore w.core ⟨st, f, some (w.core, w.pc)⟩ s := by
  unfold beginWell
  rw [hf]
  rfl

/-! ### A pass -/

theorem exec_wellPass (hw : s.works = true) (hr : s.wells.run.find? x = some r) (hp : r.passesDone < r.passes)
    (h : let q := r.recheck s (r.cmd.accessed r.passesDone)
      wellPassWork x q q.passesDone (withRun s x { q with passesDone := q.passesDone + 1 }) = .ok () t) :
    exec (.wellPass x) s = .next t := by
  refine run_next hw (u := ()) ?_
  rw [run_bind_ok (run_get s), hr, run_bind_ok (run_needSome r s), decide_eq_true hp, run_bind_ok (run_guardWait_true s),
    run_bind_ok (run_modRun hr)]
  exact (run_bind_ok (run_attempt_ok h)).trans (run_pure () t)

/-- The columns of one row are appended to what the passes have computed of it. -/
def WellRun.append (r : WellRun) (i : Nat) (cols : List Nat) : WellRun :=
  { r with out := r.out.insert i (r.out.getD i [] ++ cols) }

theorem WellRun.append_out (r : WellRun) (i j : Nat) (cols : List Nat) :
    (r.append i cols).out.getD j [] = if i = j then r.out.getD j [] ++ cols else r.out.getD j [] := by
  rw [append]
  split
  next h => rw [← h, AMap.getD_insert_same]
  next h => rw [AMap.getD_insert_other h]

/-- Columns appended row by row reach each of the rows once, and no other row. -/
theorem appendRows_ok (cols : Nat → List Nat) {rows : List Nat} (hn : rows.Nodup) (h : s.wells.run.find? x = some r) :
    ∃ u r', eachM rows (fun i => modRun x (fun q => q.append i (cols i))) s = .ok () u ∧ u.wells.run.find? x = some r' ∧
      u.mem = s.mem ∧ u.sram = s.sram ∧
      ∀ j, r'.out.getD j [] = if j ∈ rows then r.out.getD j [] ++ cols j else r.out.getD j [] := by
  induction rows generalizing s r with
  | nil => exact ⟨s, r, run_eachM_nil _ s, h, rfl, rfl, fun j => by simp⟩
  | cons i rows ih =>
    obtain ⟨hi, hn⟩ := List.nodup_cons.mp hn
    obtain ⟨u, r', hu, hr', hm, hs, hout⟩ := ih hn (s := withRun s x (r.append i (cols i))) (AMap.find?_insert_same _ _ _)
    refine ⟨u, r', by rw [eachM, run_bind_ok (run_modRun h), hu], hr', hm, hs, fun j => ?_⟩
    rw [hout, WellRun.append_out]
    by_cases hj : i = j
    · subst hj; simp [hi]
    · simp [hj, Ne.symm hj]

/-- What a GEMV of `w` computes of row `i` in a block: one folded sum for each column of the weights `m` (R198). -/
def gemvCols (w : WellCmd) (r : WellRun) (F key n : Nat) (m : List (List Val)) (i : Nat) : List Nat :=
  (upTo n).map (fun c => foldSum (key + 2 ^ 64 * (64 * i + c)) F (foldLength w F) w.k (fun p =>
    Val.mul (nthD (r.input (w.inRow i) 0 w.k) p Val.zero) (entry m p c)))

theorem gemvPass_ok {entries : List Nat} {base : Int} {block : Nat} {m : List (List Val)} {q : WellRun}
    (hn : entries.Nodup)
    (hm : shared (weightBlock x r.cmd base (64 * block) (min 64 (r.cmd.n - 64 * block))) s = .ok m t)
    (hq : t.wells.run.find? x = some q) :
    ∃ u q' key, gemvPass x r entries base block s = .ok () u ∧ u.wells.run.find? x = some q' ∧ u.mem = t.mem ∧
      u.sram = t.sram ∧ ∀ j, q'.out.getD j [] = if j ∈ entries ∧ nthD r.rowStatus j 0 = 0 then q.out.getD j [] ++
        gemvCols r.cmd r (64 / entries.length) key (min 64 (r.cmd.n - 64 * block)) m j else q.out.getD j [] := by
  obtain ⟨u, q', hu, hq', hmem, hsram, hout⟩ := appendRows_ok (s := { t with seed := t.seed + 1 }) (x := x) (r := q)
    (gemvCols r.cmd r (64 / entries.length) t.seed (min 64 (r.cmd.n - 64 * block)) m)
    (hn.filter fun i => nthD r.rowStatus i 0 == 0) hq
  refine ⟨u, q', t.seed, ?_, hq', hmem, hsram, fun j => by simpa [List.mem_filter] using hout j⟩
  unfold gemvPass
  dsimp only
  rw [run_bind_ok hm, run_bind_ok (run_fresh t)]
  exact hu

theorem wellPassWork_gemv (h : r.cmd.op = 1) (p : Nat) :
    wellPassWork x r p = gemvPass x r (upTo r.cmd.rows) ((r.cmd.src : Int) + r.cmd.slot * r.cmd.step) p := by
  unfold wellPassWork
  simp only [h]

/-! ### The end of a command -/

theorem run_sramWrite (w : Who) (m : Sram) (o : Nat) (bs : List Byte) (s : State) : sramWrite w m o bs s =
    .ok ⟨⟩ { s with sram := SramSt.writeWords m w.ctx.val w.gen (bs.length / 64 + 2) s.sram o bs } := run_modify _ s

/-- A list of writes to an on-core memory, in order. -/
theorem run_eachM_sramWrite {α : Type} (w : Who) (m : Sram) (o : α → Nat) (bs : α → List Byte) (l : List α) (s : State) :
    eachM l (fun a => sramWrite w m (o a) (bs a)) s = .ok () { s with sram := l.foldl (fun y a =>
      SramSt.writeWords m w.ctx.val w.gen ((bs a).length / 64 + 2) y (o a) (bs a)) s.sram } := by
  induction l generalizing s with
  | nil => exact run_eachM_nil _ s
  | cons a l ih => rw [eachM, run_bind_ok (run_sramWrite _ _ _ _ s)]; exact ih _

/-- A well that is neither marked nor short of columns stays in service. -/
theorem settleWell_stays (hc : (s.rep.wellCols.getD x []).length < 3) (hm : x ∉ s.rep.markedWells) :
    settleWell x s = .ok () s := by
  have hstay : (decide (3 ≤ (s.rep.wellCols.getD x []).length) || s.rep.markedWells.contains x) = false := by
    simp [hc, hm]
  unfold settleWell
  rw [run_bind_ok (run_get s), hstay, Bool.and_false, Bool.false_and, if_neg Bool.false_ne_true, run_pure]

/-- The state in which well x runs nothing. -/
def wellErased (s : State) (x : WellId) : State := { s with wells := { s.wells with run := s.wells.run.erase x } }

/-- The command has left its well, and the core that posted it has its WL token back (R191). -/
def wellLeft (s : State) (x : WellId) (n : CoreId) (k : Core) : State :=
  setCore (wellErased s x) n { k with pend := setNth k.pend 3 (nthD k.pend 3 0 - 1) }

theorem leaveWell_run {n : CoreId} {k : Core} (hk : s.cores.find? n = some k)
    (hc : (s.rep.wellCols.getD x []).length < 3) (hm : x ∉ s.rep.markedWells) :
    (modify (fun t => wellErased t x) >>= fun _ => settleWell x >>= fun _ => returnToken n 3 : M Unit) s =
      .ok () (wellLeft s x n k) :=
  (run_bind_ok (run_modify _ s)).trans ((run_bind_ok (settleWell_stays (s := wellErased s x) hc hm)).trans
    (run_modCore (s := wellErased s x) hk))

/-- The on-core memory with the output rows of a command, and then its record, written (R191). -/
def resultsWritten (y : SramSt) (x : WellId) (r : WellRun) (key cycles : Nat) : SramSt :=
  let w := r.cmd
  let write (m : SramSt) (o : Nat) (bs : List Byte) : SramSt :=
    SramSt.writeWords w.who.spad w.ctx.val w.gen (bs.length / 64 + 2) m o bs
  write ((upTo (if w.outBytes = 0 then 0 else w.outRows)).foldl (fun m o => write m (w.region + 128 + o * w.outPitch)
    ((r.outRow key o).flatMap (leBytes (if w.outBf16 then 2 else 4)))) y) w.region (r.record x cycles)

/-- What a well does once the last pass of its command is done: the results, the counts and the token (R191, R196). -/
def drainWell (x : WellId) (r : WellRun) (key : Nat) : M Unit := do
  let w := r.cmd
  if w.idle then pure ()
  else do
    let size := if w.outBf16 then 2 else 4
    eachM (upTo (if w.outBytes = 0 then 0 else w.outRows)) (fun o =>
      sramWrite w.who w.who.spad (w.region + 128 + o * w.outPitch) ((r.outRow key o).flatMap (leBytes size)))
    sramWrite w.who w.who.spad w.region (r.record x (Config.wellCycles key % 2 ^ 32))
    countCore w.core 7 (countFor w.ctx r.bytes)
    eachM r.counts (fun c => addCounts c.1 c.2.1 c.2.2.1 c.2.2.2)
  modify (fun t => wellErased t x)
  settleWell x
  returnToken w.core 3

theorem exec_wellCommandComplete (hw : s.works = true) (hr : s.wells.run.find? x = some r) (hp : r.passesDone = r.passes)
    (h : drainWell x r s.seed { s with seed := s.seed + 1 } = .ok () t) : exec (.wellCommandComplete x) s = .next t := by
  refine run_next hw (u := ()) ?_
  rw [run_bind_ok (run_get s), hr, run_bind_ok (run_needSome r s), hp, beq_self_eq_true, run_bind_ok (run_guardWait_true s),
    run_bind_ok (run_fresh s)]
  exact h

variable {k : Core} {key : Nat}

theorem drainWell_idle (hk : s.cores.find? r.cmd.core = some k) (hc : (s.rep.wellCols.getD x []).length < 3)
    (hm : x ∉ s.rep.markedWells) (hi : r.cmd.idle = true) : drainWell x r key s = .ok () (wellLeft s x r.cmd.core k) := by
  unfold drainWell
  dsimp only
  rw [hi, if_pos rfl]
  exact leaveWell_run hk hc hm

theorem drainWell_writes (hk : s.cores.find? r.cmd.core = some k) (hc : (s.rep.wellCols.getD x []).length < 3)
    (hm : x ∉ s.rep.markedWells) (hn : r.counts = []) (hi : r.cmd.idle = false) : ∃ o cycles,
    drainWell x r key s =
      .ok () (wellLeft { s with obs := o, sram := resultsWritten s.sram x r key cycles } x r.cmd.core k) := by
  unfold drainWell
  dsimp only
  rw [hi, if_neg Bool.false_ne_true, run_bind_ok (run_eachM_sramWrite _ _ _ _ _ _), run_bind_ok (run_sramWrite _ _ _ _ _), hn,
    countCore, run_bind_ok (run_modify _ _), run_bind_ok (run_eachM_nil _ _)]
  exact ⟨_, _, leaveWell_run (s := { s with obs := _, sram := _ }) hk hc hm⟩

end Sys2Proof.Machine

namespace Sys2Proof

open Sys2Proof.Machine

/-- Settles O32: a well's run of its oldest command is followed from its start, where the run is listed or the posting command
ends, over a pass, whose columns are appended row by row, to the drain, which writes the rows and then the record. -/
theorem wellCommands : Obligations.WellCommands := by
  unfold Obligations.WellCommands
  refine ⟨fun s x w hw hfree hserves hneed htest hnext => ⟨fun hf hclean => ?_, fun st f k c hf hj hk hs hc ho => ?_⟩,
    fun s x r hw hr hp => ⟨fun u hu => exec_wellPass hw hr hp hu, fun hop m u q hm hq => ?_⟩,
    fun s x r k hw hr hp hk hc hm hn => ?_⟩
  · refine wellCommandStart_completes hw hfree hserves hneed htest hnext fun g y =>
      ⟨_, beginWell_loads (s := wellTaken s w g y) hf hclean, _, AMap.find?_insert_same _ _ _, rfl, rfl, rfl, rfl, ?_, ?_, ?_,
        rfl, rfl, rfl, rfl⟩
    · simp [WellRun.recheck, WellCmd.started, WellCmd.loadCount, upTo]
    · exact fun i hi => recheck_started w s.sram _ hi
    · intro i hi hin
      exact (loads_started w s.sram hi).trans (if_pos hin)
  · refine wellCommandStart_completes hw hfree hserves hneed htest hnext fun g y => ?_
    obtain ⟨t, ht, hend, hcore, hmem, hsram⟩ :=
      endCore_ok (s := wellTaken s w g y) hj hk hs hc ho ⟨st, f, some (w.core, w.pc)⟩
    exact ⟨t, (beginWell_faults hf _).trans ht, hend, hcore, hmem, hsram⟩
  · obtain ⟨t, r2, key, ht, hr2, hmem, hsram, hout⟩ := gemvPass_ok (r := r.recheck s (r.cmd.accessed r.passesDone))
      (List.nodup_range (n := r.cmd.rows)) hm hq
    refine ⟨t, exec_wellPass hw hr hp ((congrFun (wellPassWork_gemv (r := r.recheck s _) hop _) _).trans ht), r2, key, hr2,
      hmem, hsram, fun i hi hok => ?_, fun i hi => ?_⟩
    · rw [hout, if_pos ⟨List.mem_range.mpr hi, hok⟩, List.length_range]
      rfl
    · rw [hout, if_neg fun h => hi ⟨List.mem_range.mp h.1, h.2⟩]
  · cases hi : r.cmd.idle with
    | true =>
      exact ⟨_, exec_wellCommandComplete hw hr hp (drainWell_idle hk hc hm hi), rfl, rfl, rfl, rfl, fun _ => rfl,
        fun h => absurd (h.symm.trans hi) Bool.false_ne_true⟩
    | false =>
      obtain ⟨o, cycles, ho⟩ := drainWell_writes (s := { s with seed := s.seed + 1 }) (key := s.seed) hk hc hm hn hi
      exact ⟨_, exec_wellCommandComplete hw hr hp ho, rfl, rfl, rfl, rfl,
        fun h => absurd (hi.symm.trans h) Bool.false_ne_true, fun _ => ⟨s.seed, cycles, rfl⟩⟩

end Sys2Proof
end

section
/-! SUPPORT. Computations that may fail: a condition on the state that they keep where they end well. -/

namespace Sys2Proof.Machine

variable {s t : State} {α β : Type} {P : State → Prop}

/-- A sequence that ends well: its first part did, and the rest went on from there. -/
theorem bind_ok {m : M α} {f : α → M β} {b : β} (h : (m >>= f) s = .ok b t) : ∃ a u, m s = .ok a u ∧ f a u = .ok b t := by
  rw [run_bind] at h
  cases e : m s with
  | ok a u => rw [e] at h; exact ⟨a, u, rfl, h⟩
  | error x u => rw [e] at h; cases h

/-- Where the computation ends well from a state of which `P` holds, `P` holds of the state it reaches. -/
def Retains (P : State → Prop) (m : M α) : Prop := ∀ s a t, P s → m s = .ok a t → P t

namespace Retains

theorem of_preserves {m : M α} (h : Preserves P m) : Retains P m := fun s a t hs e => by
  obtain ⟨b, u, e', hu⟩ := h s hs
  rw [e'] at e
  cases e
  exact hu

theorem pure (a : α) : Retains P (pure a) := of_preserves (.pure a)

theorem read : Retains P (get : M State) := of_preserves .read

theorem throw (e : Err) : Retains P (throw e : M α) := fun s a t _ h => by rw [run_throw] at h; cases h

theorem bind {m : M α} {f : α → M β} (hm : Retains P m) (hf : ∀ a, Retains P (f a)) : Retains P (m >>= f) :=
  fun s b t hs h => by
    obtain ⟨a, u, ha, hb⟩ := bind_ok h
    exact hf a u b t (hm s a u hs ha) hb

theorem ite {c : Prop} [Decidable c] {x y : M α} (hx : Retains P x) (hy : Retains P y) : Retains P (if c then x else y) := by
  split <;> assumption

theorem guardWait (b : Bool) : Retains P (guardWait b) := .ite (.pure _) (.throw _)

theorem getFld (f : Fld) : Retains P (getFld f) := .bind .read fun _ => .pure _

theorem eachM (l : List α) {f : α → M Unit} (hf : ∀ a, Retains P (f a)) : Retains P (eachM l f) := by
  induction l with
  | nil => exact .pure _
  | cons a l ih => exact .bind (hf a) fun _ => ih

theorem mapM' (l : List α) {f : α → M β} (hf : ∀ a, Retains P (f a)) : Retains P (mapM' l f) := by
  induction l with
  | nil => exact .pure _
  | cons a l ih => exact .bind (hf a) fun _ => .bind ih fun _ => .pure _

end Retains

end Sys2Proof.Machine
end

section
/-! SUPPORT. What access to device memory leaves alone (R246–R263): translation and the checks of granules change no byte
where no zero-fill is queued, and a write changes its own pieces only. -/

namespace Sys2Proof.Machine

variable {s t : State} {b : Memory}

/-! ### Translation and checks -/

/-- Device memory holds the bytes `b`, and no zero-fill is queued. -/
structure Holding (b : Memory) (t : State) : Prop where
  bytes : t.mem.bytes = b
  fills : t.mem.fills = []

namespace Holding

/-- A change of the memory system's other parts. -/
theorem modMem {f : MemSt → MemSt} (hb : ∀ x, x.fills = [] → (f x).bytes = x.bytes) (hf : ∀ x, x.fills = [] → (f x).fills = []) :
    Retains (Holding b) (modMem f) :=
  .of_preserves <| .modify fun t h => ⟨(hb t.mem h.fills).trans h.bytes, hf t.mem h.fills⟩

theorem fresh : Retains (Holding b) fresh := .of_preserves <| .fresh fun _ h => ⟨h.bytes, h.fills⟩

end Holding

/-- Where no zero-fill is queued, none is done before an access. -/
theorem settleFill_of_nil {m : MemSt} (h : m.fills = []) (g : Nat) : m.settleFill g = m := by
  rw [MemSt.settleFill, MemSt.fillWaits, h, List.any_nil, if_neg Bool.false_ne_true]

namespace Holding

theorem reachGranule (g : Nat) : Retains (Holding b) (reachGranule g) :=
  .bind .read fun _ => .bind (.guardWait _) fun _ => .bind (.guardWait _) fun _ =>
    modMem (fun x h => by rw [settleFill_of_nil h]) (fun x h => by rw [settleFill_of_nil h, h])

theorem burstOk (g : Nat) : Retains (Holding b) (burstOk g) := by
  unfold Machine.burstOk
  refine .bind .read fun s => ?_
  split
  · split
    · exact .ite (.bind fresh fun _ => .pure _) (.pure _)
    · exact .pure _
  · exact .pure _

theorem integrityFault {α : Type} (g : Nat) : Retains (Holding b) (integrityFault g : M α) := by
  unfold Machine.integrityFault
  refine .bind .read fun s => ?_
  cases stackOf s.mem.partNow (g * 256) with
  | none => exact .bind (.pure _) fun _ => .throw _
  | some j => exact .bind (.of_preserves <| .modify fun _ h => ⟨h.bytes, h.fills⟩) fun _ => .throw _

theorem poolAccess (slot g : Nat) (reads : Bool) : Retains (Holding b) (poolAccess slot g reads) := by
  refine .bind (reachGranule g) fun _ => .bind (.bind (burstOk g) fun _ => .bind .read fun _ => .pure _) fun _ =>
    .bind .read fun _ => .bind ?_ fun _ => .ite (modMem (fun _ _ => rfl) fun _ h => h) (integrityFault g)
  split
  · exact .pure _
  · exact .ite (.pure _) (.bind fresh fun _ => .pure _)

theorem readDpa (slot dpa n : Nat) : Retains (Holding b) (readDpa slot dpa n) :=
  .bind (.eachM _ fun _ => poolAccess _ _ true) fun _ => .bind .read fun _ => .pure _

theorem tlbLook (k : TlbKey) : Retains (Holding b) (tlbLook k) :=
  .bind .read fun _ => by
    split
    · exact .pure _
    · exact .bind fresh fun _ => .pure _

/-- At each level the entry comes from the cache or from the table, and what the table gave may be cached. -/
theorem walkFrom (c : Ctx) (gen va : Nat) (ls : List (Nat × Nat × Nat)) (base : Nat) :
    Retains (Holding b) (walkFrom c gen va ls base) := by
  have cached (k : TlbKey) (e : Nat) : Retains (Holding b) (Machine.modMem fun m => { m with tlb := m.tlb.insert k e }) :=
    modMem (fun _ _ => rfl) fun _ h => h
  induction ls generalizing base with
  | nil => exact .throw _
  | cons l rest ih =>
    unfold Machine.walkFrom
    refine .bind (tlbLook _) fun hit => ?_
    split
    · exact .ite (.pure _) (ih _)
    · exact .bind (.getFld _) fun _ => .bind (readDpa _ _ _) fun _ => .ite (.throw _) <|
        .ite (.bind .read fun _ => .ite (.bind (cached _ _) fun _ => .pure _) (.throw _))
          (.ite (.bind (cached _ _) fun _ => ih _) (.throw _))

theorem walk (c : Ctx) (va : Nat) : Retains (Holding b) (walk c va) :=
  .bind .read fun _ => .ite (.throw _) <| .bind (walkFrom _ _ _ _ _) fun _ => .ite (.throw _) (.pure _)

theorem readRecord (j : Stack) (i : CacheInst) (x : Nat) : Retains (Holding b) (readRecord j i x) :=
  .bind (.getFld _) fun _ => .bind (.bind (.getFld _) fun _ => .bind (walk _ _) fun _ => .pure _) fun _ => readDpa _ _ _

/-- An address of a page pool is translated by its record, any other one by its leaf. -/
theorem translate (c : Ctx) (va : Nat) (need : Right) : Retains (Holding b) (translate c va need) := by
  unfold Machine.translate
  refine .bind .read fun s => ?_
  split
  · refine .bind (readRecord _ _ _) fun _ => ?_
    extract_lets _owner onward
    have honward : ∀ a, Retains (Holding b) (onward a) := fun _ => by
      refine .bind (walk _ _) fun _ => ?_
      split
      refine .bind .read fun t => ?_
      split
      · exact .ite (.ite (.throw _) (.pure _)) (.throw _)
      · exact .throw _
    split
    · exact .bind (.throw _) honward
    · exact honward ()
  · exact .bind (walk _ _) fun _ => .ite (.pure _) (.throw _)

theorem translatePieces (c : Ctx) (va n : Nat) (need : Right) : Retains (Holding b) (translatePieces c va n need) :=
  .mapM' _ fun _ => .bind (translate _ _ _) fun _ => .pure _

theorem checkPieces (ps : List (Nat × Nat × Nat)) :
    Retains (Holding b) (eachM ps fun p => checkWrite p.2.1 (p.1 / 256) (p.2.2 == 256)) :=
  .eachM _ fun _ => poolAccess _ _ _

end Holding

/-! ### The pieces and their bytes -/

/-- Bytes that lie in one granule are one piece. -/
theorem pieces_one {va n : Nat} (h : va % 256 + n ≤ 256) (hn : n ≠ 0) : pieces va n = [(va, n)] := by
  have hmin : min n (256 - va % 256) = n := by omega
  rw [pieces, chunks, if_neg hn]
  dsimp only
  rw [hmin, Nat.sub_self, chunks, if_pos rfl]

theorem translatePieces_one {c : Ctx} {va n : Nat} {need : Right} {ps : List (Nat × Nat × Nat)} (h : va % 256 + n ≤ 256)
    (hn : n ≠ 0) (hp : translatePieces c va n need s = .ok ps t) : ∃ d sl, ps = [(d, sl, n)] := by
  rw [translatePieces, pieces_one h hn, mapM'] at hp
  obtain ⟨p, u, hpiece, hrest⟩ := bind_ok hp
  obtain ⟨⟨d, sl⟩, v, -, hpair⟩ := bind_ok hpiece
  cases hpair
  rw [mapM', run_bind_ok (run_pure _ _), run_pure] at hrest
  cases hrest
  exact ⟨d, sl, rfl⟩

theorem read_readList (m : Memory) (a n i : Nat) (h : i < (m.readList a n).length) : (m.readList a n)[i] = m.read (a + i) := by
  induction n generalizing a i with
  | zero => simp at h
  | succ n ih =>
    cases i with
    | zero => rfl
    | succ i => simp only [Memory.readList, List.getElem_cons_succ, ih, Nat.add_assoc, Nat.add_comm 1]

theorem readList_writeList {m : Memory} (h : m.wf = true) (a : Nat) (bs : List Byte) :
    (m.writeList a bs).readList a bs.length = bs := by
  refine List.ext_getElem (length_readList _ _ _) fun i h1 h2 => ?_
  rw [read_readList, read_writeList h, if_pos ⟨by omega, by omega⟩, Nat.add_sub_cancel_left, List.getD_eq_getElem _ _ h2]

theorem writeGranule_ok (slot dpa : Nat) (bs : List Byte) (s : State) : ∃ t, writeGranule slot dpa bs s = .ok () t ∧
    t.mem.bytes = s.mem.bytes.writeList dpa bs := ⟨_, run_modMem _ s, rfl⟩

/-- The pieces are written one after another; a byte outside all of them keeps its value. -/
theorem writePieces_ok (ps : List (Nat × Nat × Nat)) (bs : List Byte) (h : s.mem.bytes.wf = true) :
    ∃ u, writePieces ps bs s = .ok () u ∧ u.mem.bytes.wf = true ∧
      ∀ a, (∀ p ∈ ps, a < p.1 ∨ p.1 + p.2.2 ≤ a) → u.mem.bytes.read a = s.mem.bytes.read a := by
  induction ps generalizing s bs with
  | nil => exact ⟨s, run_pure _ _, h, fun _ _ => rfl⟩
  | cons p ps ih =>
    obtain ⟨t, ht, hb⟩ := writeGranule_ok p.2.1 p.1 (bs.take p.2.2) s
    obtain ⟨u, hu, hwf, hout⟩ := ih (s := t) (bs.drop p.2.2) (by rw [hb]; exact wf_writeList h _ _)
    refine ⟨u, by rw [writePieces, run_bind_ok ht, hu], hwf, fun a ha => ?_⟩
    have hp := ha p List.mem_cons_self
    have hlen : (bs.take p.2.2).length ≤ p.2.2 := List.length_take_le _ _
    rw [hout a fun q hq => ha q (List.mem_cons_of_mem p hq), hb, read_writeList_outside h (by omega)]

theorem writePieces_one {d sl : Nat} {bs : List Byte} (h : s.mem.bytes.wf = true)
    (hw : writePieces [(d, sl, bs.length)] bs s = .ok () t) : t.mem.bytes.readList d bs.length = bs := by
  obtain ⟨u, hu, hb⟩ := writeGranule_ok sl d bs s
  rw [writePieces, List.take_length, run_bind_ok hu, writePieces, run_pure] at hw
  cases hw
  rw [hb, readList_writeList h]

end Sys2Proof.Machine

namespace Sys2Proof

open Sys2Proof.Machine

/-- Settles O16: translation and the checks change no byte, and then the pieces are written one after another. -/
theorem deviceWriteFrame : Obligations.DeviceWriteFrame := by
  unfold Obligations.DeviceWriteFrame
  intro s t c va bs need hwf hfills h
  obtain ⟨ps, u, hps, hrest⟩ := bind_ok h
  obtain ⟨⟨⟩, v, hchecks, hwrites⟩ := bind_ok hrest
  have hu : Holding s.mem.bytes u := Holding.translatePieces c va bs.length need s ps u ⟨rfl, hfills⟩ hps
  have hv : Holding s.mem.bytes v := Holding.checkPieces ps u () v hu hchecks
  have hvwf : v.mem.bytes.wf = true := by rw [hv.bytes]; exact hwf
  obtain ⟨w, hw, hwwf, hout⟩ := writePieces_ok ps bs hvwf
  obtain rfl : w = t := by rw [hw] at hwrites; cases hwrites; rfl
  refine ⟨ps, u, hps, hu.bytes, hwwf, fun a ha => by rw [hout a ha, hv.bytes], fun hone hne => ?_⟩
  obtain ⟨d, sl, rfl⟩ := translatePieces_one hone (fun e => hne (List.length_eq_zero_iff.mp e)) hps
  exact ⟨d, sl, rfl, writePieces_one hvwf hw⟩

end Sys2Proof
end

section
/-! SUPPORT. Counter fields, and the keys of a slot through a rekey (R258): what was sealed under a key of the slot is open
under the new one after the sweep. -/

namespace Sys2Proof.Machine

variable {s : State} {m : MemSt} {slot : Nat} {k : SlotKeys} {r : Rekey}

/-! ### Counters -/

theorem fld_lt (s : State) (f : Fld) : s.fld f < 2 ^ f.width := Nat.mod_lt _ (Nat.two_pow_pos _)

theorem satAdd_lt {w x : Nat} (hx : x < 2 ^ w) (n : Nat) : satAdd (2 ^ w - 2) x n < 2 ^ w := by
  unfold satAdd
  split <;> omega

/-- A counter that lies in its register counts up to its stop. -/
theorem fld_bump_same (s : State) {f : Fld} (h : f.lo + f.width ≤ 64) :
    (s.bump f).fld f = satAdd (2 ^ f.width - 2) (s.fld f) 1 := by
  rw [State.bump, State.bumpBy, fld_setFld_same s _ h, Nat.mod_eq_of_lt (satAdd_lt (fld_lt s f) 1)]

/-- What a busy flag and a counter of one register hold after the work is done. -/
theorem flag_clear_bump {f g : Fld} (hr : f.reg = g.reg) (hf : f.lo + 1 ≤ g.lo) (hg : g.lo + g.width ≤ 64) (hw : f.width = 1)
    (s : State) : ((s.setFlag f false).bump g).flag f = false ∧
      ((s.setFlag f false).bump g).fld g = satAdd (2 ^ g.width - 2) (s.fld g) 1 := by
  constructor
  · rw [State.flag, State.bump, State.bumpBy, fld_setFld_apart _ _ hr.symm hg (by omega)]
    exact flag_setFlag_same s false (by omega) hw
  · rw [fld_bump_same _ hg, State.setFlag, fld_setFld_apart s _ hr (by omega) (by omega)]

/-! ### Keys -/

/-- A slot whose keys are set holds them. -/
theorem slotKeys_insert {ks : AMap Nat SlotKeys} (h : m.keys = ks.insert slot k) : m.slotKeys slot = k := by
  rw [MemSt.slotKeys, h, AMap.getD_insert_same]

theorem currentKey_eq (m : MemSt) (slot : Nat) :
    m.currentKey slot = ((m.slotKeys slot).at (m.slotKeys slot).phase).getD 0 := rfl

/-- The new key is the slot's current one. -/
theorem currentKey_rekeySlot (m : MemSt) (slot : Nat) : (m.rekeySlot slot).currentKey slot = m.nextKey := by
  rw [currentKey_eq, slotKeys_insert (m := m.rekeySlot slot) rfl]
  cases (m.slotKeys slot).phase <;> rfl

/-- The slot without the key of its other phase. -/
def SlotKeys.dropOld (k : SlotKeys) : SlotKeys := if k.phase then ⟨true, none, k.key1⟩ else ⟨false, k.key0, none⟩

theorem SlotKeys.dropOld_at (k : SlotKeys) : k.dropOld.at k.phase = k.at k.phase := by
  rcases k with ⟨_ | _, _, _⟩ <;> rfl

theorem SlotKeys.dropOld_eq {new : Nat} (h : k.at k.phase = some new) :
    k.dropOld = if k.phase then ⟨true, none, some new⟩ else ⟨false, some new, none⟩ := by
  rw [← h]
  rcases k with ⟨_ | _, _, _⟩ <;> rfl

/-- A tag opens under the keys of a slot. -/
def Tag.opens (t : Tag) (slot : Nat) (k : SlotKeys) : Prop := t.ok = true ∧ t.slot = slot ∧ k.at t.phase = some t.key

theorem granuleOk_iff {g : Nat} : m.granuleOk slot g = true ↔
    m.eccBad.contains g = false ∧ ∀ t, m.tags.find? g = some t → t.opens slot (m.slotKeys slot) := by
  unfold MemSt.granuleOk Tag.opens
  cases m.tags.find? g <;> simp [and_assoc]

/-- A tag that opens under either key of the slot opens under the new key alone once it is swept. -/
theorem Tag.opens_swept {t : Tag} {new : Nat} (h : t.opens slot k) (hnew : k.at k.phase = some new) :
    (t.swept slot (k.at !k.phase) k.phase new).opens slot k.dropOld := by
  obtain ⟨hok, hslot, hkey⟩ := h
  unfold Tag.swept
  by_cases hp : t.phase = k.phase
  · split
    · exact ⟨hok, hslot, k.dropOld_at.trans hnew⟩
    · exact ⟨hok, hslot, by rw [hp, k.dropOld_at, ← hp, hkey]⟩
  · have hother : (!k.phase) = t.phase := by cases hk : k.phase <;> cases ht : t.phase <;> simp_all
    rw [if_pos ⟨hslot, by rw [hother, hkey], hok⟩]
    exact ⟨hok, hslot, k.dropOld_at.trans hnew⟩

/-! ### The sweep -/

/-- A list of values each replaced by a function of it finds the replacement. -/
theorem find?_map_val {α β : Type} {κ : Type} [DecidableEq κ] (m : AMap κ α) (f : α → β) (k : κ) :
    AMap.find? (m.map fun p => (p.1, f p.2)) k = (AMap.find? m k).map f := by
  induction m with
  | nil => rfl
  | cons p m ih =>
    simp only [List.map_cons, AMap.find?, ih]
    split <;> rfl

/-- What the sweep makes of a tag. -/
def MemSt.sweepTag (m : MemSt) (r : Rekey) (t : Tag) : Tag :=
  t.swept r.slot r.oldKey (m.slotKeys r.slot).phase (m.currentKey r.slot)

/-- The memory system once every stack has finished its sweep. -/
def MemSt.sweepDone (m : MemSt) (r : Rekey) : MemSt :=
  { m with
    rekey := none
    keys := m.keys.insert r.slot (m.slotKeys r.slot).dropOld
    tags := m.tags.map fun p => (p.1, m.sweepTag r p.2)
    dirty := m.dirty.map fun p => (p.1, { p.2 with tag := p.2.tag.map (m.sweepTag r) }) }

theorem tag_sweepDone (m : MemSt) (r : Rekey) (g : Nat) :
    (m.sweepDone r).tags.find? g = (m.tags.find? g).map (m.sweepTag r) := find?_map_val _ _ _

theorem granuleOk_sweepDone {new g : Nat} (hold : r.oldKey = (m.slotKeys r.slot).at !(m.slotKeys r.slot).phase)
    (hnew : (m.slotKeys r.slot).at (m.slotKeys r.slot).phase = some new) (h : m.granuleOk r.slot g = true) :
    (m.sweepDone r).granuleOk r.slot g = true := by
  obtain ⟨hecc, htag⟩ := granuleOk_iff.mp h
  refine granuleOk_iff.mpr ⟨hecc, fun t ht => ?_⟩
  rw [slotKeys_insert (m := m.sweepDone r) rfl]
  rw [tag_sweepDone] at ht
  obtain ⟨u, hu, rfl⟩ := Option.map_eq_some_iff.mp ht
  have hcur : m.currentKey r.slot = new := by rw [currentKey_eq, hnew]; rfl
  rw [MemSt.sweepTag, hold, hcur]
  exact Tag.opens_swept (htag u hu) hnew

end Sys2Proof.Machine
end

section
/-! PROOFS. The commands that drop translations (R252, R269) and change a slot's key (R258, R477). -/

namespace Sys2Proof.Machine

variable {s : State} {h : Half} {v : W64}

/-! ### Invalidation -/

/-- The rows that write TR_INV_CMD, each with the kind that it names. -/
abbrev invRows : List ((Half → W64 → Instr) × Nat) := [(.trInvLeaf, 0), (.trInvContext, 1), (.trInvAll, 2)]

theorem invRows_kind : ∀ r ∈ invRows, r.2 ≠ 3 := by simp

/-- A row whose kind the write names is the write of TR_INV_CMD. -/
theorem exec_invRow {r : (Half → W64 → Instr) × Nat} (hr : r ∈ invRows) (hk : bitsOf (halfPlace h v) 12 2 = r.2) (s : State) :
    exec (r.1 h v) s = run (writeInvCmd h v) s := by
  have hrow : exec (r.1 h v) s = run (guardWait (invKind h v r.2) >>= fun _ => writeInvCmd h v) s := by
    simp only [invRows, List.mem_cons, List.not_mem_nil, or_false] at hr
    rcases hr with rfl | rfl | rfl <;> rfl
  have hg : invKind h v r.2 = true := by rw [invKind, hk, beq_self_eq_true]
  rw [hrow, hg]
  rfl

theorem writeInvCmd_starts (hh : h ≠ .hi) (hk : bitsOf (halfPlace h v) 12 2 ≠ 3) (hc : bitsOf (halfPlace h v) 0 11 ≤ 1024)
    (hb : s.flag F.invBusy = false) : writeInvCmd h v s = .ok () (State.setFlag { s with
      mem := { s.mem with inv := some (bitsOf (halfPlace h v) 12 2, bitsOf (halfPlace h v) 0 11, s.fld F.invVa * 65536) } }
      F.invBusy true) := by
  unfold writeInvCmd
  rw [run_bind_ok (run_get s), if_neg hh, if_neg (by simp [hk, hb]; omega), run_bind_ok (run_modMem _ s), run_putFlag]

theorem writeInvCmd_rejects (hh : h ≠ .hi) (hbad : 1024 < bitsOf (halfPlace h v) 0 11 ∨ s.flag F.invBusy = true) :
    writeInvCmd h v s = .ok () (s.setFlag F.invReject true) := by
  unfold writeInvCmd
  rw [run_bind_ok (run_get s), if_neg hh, if_pos (.inr hbad), run_putFlag]

theorem exec_invalidationComplete (hw : s.works = true) {i : Nat × Nat × Nat} (hi : s.mem.inv = some i) :
    exec .invalidationComplete s = .next (State.setFlag { s with
      mem := { s.mem with inv := none, tlb := s.mem.tlb.filter (fun p => !invHits i p.1) } } F.invBusy false) := by
  refine run_next hw (u := ()) ?_
  rw [run_bind_ok (run_get s), hi, run_bind_ok (run_needSome i s), run_bind_ok (run_modMem _ s), run_putFlag]

/-! ### Rekey -/

theorem writeRekey_starts (hh : h ≠ .hi) (hlo : 1 ≤ bitsOf (halfPlace h v) 0 11) (hhi : bitsOf (halfPlace h v) 0 11 ≤ 1040)
    (hb : s.flag F.rekeyBusy = false) (he : s.flag F.entropyFail = false) :
    let slot := bitsOf (halfPlace h v) 0 11
    writeRekey h v s = .ok () { (s.setFlag F.rekeyBusy true).setFld F.rekeySlot slot with mem := s.mem.rekeySlot slot } := by
  unfold writeRekey
  rw [run_bind_ok (run_get s)]
  dsimp only
  rw [if_neg hh, if_neg (by simp [hb]; omega), run_bind_ok (run_putFlag _ _ s), run_bind_ok (run_putFld _ _ _), he,
    if_neg Bool.false_ne_true, run_modMem]
  rfl

theorem writeRekey_rejects (hh : h ≠ .hi) (hbad : bitsOf (halfPlace h v) 0 11 = 0 ∨ 1040 < bitsOf (halfPlace h v) 0 11 ∨
    s.flag F.rekeyBusy = true) : writeRekey h v s = .ok () (s.setFlag F.rekeyReject true) := by
  unfold writeRekey
  rw [run_bind_ok (run_get s)]
  dsimp only
  rw [if_neg hh, if_pos hbad, run_putFlag]

/-- BUSY and SLOT of the rekey that has begun. -/
theorem rekeyStat_started (s : State) {slot : Nat} (h : slot < 2 ^ 11) :
    let t := (s.setFlag F.rekeyBusy true).setFld F.rekeySlot slot
    t.flag F.rekeyBusy = true ∧ t.fld F.rekeySlot = slot := by
  constructor
  · exact congrArg (· == 1) ((fld_bits_apart _ .trRekeyStat (by decide) (by decide : 16 + 11 ≤ 0 ∨ 0 + 1 ≤ 16)).trans
      (fld_bits_same s .trRekeyStat (by decide)))
  · exact (fld_bits_same _ .trRekeyStat (by decide)).trans (Nat.mod_eq_of_lt h)

theorem exec_rekeyComplete (hw : s.works = true) {r : Rekey} (hr : s.mem.rekey = some r) (hf : s.mem.fills = []) :
    exec .rekeyComplete s = .next ((State.setFlag { s with mem := s.mem.sweepDone r } F.rekeyBusy false).bump F.rekeyDone) := by
  refine run_next hw (u := ()) ?_
  rw [run_bind_ok (run_get s), hr, run_bind_ok (run_needSome r s), hf, List.isEmpty_nil, run_bind_ok (run_guardWait_true s),
    run_bind_ok (run_modMem _ s), run_bind_ok (run_putFlag _ _ _), run_bump]
  rfl

end Sys2Proof.Machine

namespace Sys2Proof

open Sys2Proof.Machine

/-- Settles O39: each write is judged by its operands and its BUSY flag; the sweep keeps each granule of the slot open, since
a tag under the old key is rewritten under the new one. -/
theorem invalidationsAndRekeys : Obligations.InvalidationsAndRekeys := by
  unfold Obligations.InvalidationsAndRekeys
  refine ⟨fun s hw => ⟨fun r hr h v hh => ?_, fun i hi => exec_invalidationComplete hw hi⟩,
    fun s hw => ⟨fun h v hh => ⟨fun hlo hhi hb he => ?_, fun hbad => ?_⟩, fun r new hr hf => ?_⟩⟩
  · intro x hk
    have h3 : bitsOf (halfPlace h v) 12 2 ≠ 3 := hk ▸ invRows_kind r hr
    refine ⟨fun hc hb => ?_, fun hbad => ?_⟩
    · rw [exec_invRow hr hk, run_next hw (writeInvCmd_starts hh h3 hc hb), ← hk]
    · rw [exec_invRow hr hk, run_next hw (writeInvCmd_rejects hh hbad)]
  · obtain ⟨hbusy, hslot⟩ := rekeyStat_started s (slot := bitsOf (halfPlace h v) 0 11) (by omega)
    exact ⟨_, run_next hw (writeRekey_starts hh hlo hhi hb he), hbusy, hslot, rfl, currentKey_rekeySlot _ _, rfl⟩
  · exact run_next hw (writeRekey_rejects hh hbad)
  · intro k hold hnew
    have hold' : r.oldKey = k.at !k.phase := by rw [hold]; cases k.phase <;> rfl
    obtain ⟨hbusy, hdone⟩ := flag_clear_bump (f := F.rekeyBusy) (g := F.rekeyDone) rfl (by decide) (by decide) rfl
      { s with mem := s.mem.sweepDone r }
    exact ⟨_, exec_rekeyComplete hw hr hf, rfl, hbusy, hdone, rfl,
      (slotKeys_insert (m := s.mem.sweepDone r) rfl).trans (SlotKeys.dropOld_eq hnew),
      fun g => granuleOk_sweepDone hold' hnew, rfl⟩

end Sys2Proof
end

section
/-! SUPPORT. A repair is recorded (R505, R511, R512), where no event is written. -/

namespace Sys2Proof.Machine

variable {s t : State}

theorem ready_of_works (hw : s.works = true) : s.flag F.pwReady = true := by
  rw [State.works, Bool.and_eq_true] at hw
  exact hw.1

/-- The registers that a repair's record writes. -/
def Reg.ofRepairs (r : Reg) : Bool := r == .rpMapCount || r == .rpMapData || r == .rpStat

/-- Beside the repair map and its registers, `t` is `s`. -/
structure RepairsOnly (s t : State) : Prop where
  rest : t = { s with regs := t.regs, rep := t.rep }
  reg : ∀ r, r.ofRepairs = false → t.reg r = s.reg r

namespace RepairsOnly

theorem mem (h : RepairsOnly s t) : t.mem = s.mem := (congrArg State.mem h.rest :)
theorem cores (h : RepairsOnly s t) : t.cores = s.cores := (congrArg State.cores h.rest :)

theorem fld (h : RepairsOnly s t) {f : Fld} (hf : f.reg.ofRepairs = false) : t.fld f = s.fld f := by
  rw [State.fld, State.fld, h.reg _ hf]

theorem flag (h : RepairsOnly s t) {f : Fld} (hf : f.reg.ofRepairs = false) : t.flag f = s.flag f := by
  rw [State.flag, State.flag, h.fld hf]

theorem setReg (h : RepairsOnly s t) {r : Reg} (v : Nat) (hr : r.ofRepairs = true) : RepairsOnly s (t.setReg r v) :=
  ⟨by rw [h.rest]; rfl, fun q hq => by
    have hne : r ≠ q := by rintro rfl; exact absurd (hr.symm.trans hq) nofun
    rw [reg_setReg_other hne, h.reg q hq]⟩

theorem setFld (h : RepairsOnly s t) {f : Fld} (v : Nat) (hf : f.reg.ofRepairs = true) : RepairsOnly s (t.setFld f v) :=
  h.setReg _ hf

theorem bump (h : RepairsOnly s t) {f : Fld} (hf : f.reg.ofRepairs = true) : RepairsOnly s (t.bump f) := h.setFld _ hf

/-- The map takes the record, and its registers follow; no repair is counted yet. -/
theorem setMap (f : List Nat → List Nat) (s : State) : ∃ t, setMap f s = .ok () t ∧ RepairsOnly s t ∧
    t.fld F.repairs = s.fld F.repairs := by
  let u : State := { s with rep := { s.rep with map := (f s.rep.map).take 8191 } }
  let v := u.setFld F.mapCount u.rep.map.length
  refine ⟨v.setReg .rpMapData (nthD v.rep.map (v.fld F.mapIndex) 0), ?_, ?_, ?_⟩
  · exact (run_bind_ok (run_modify _ s)).trans <| (run_bind_ok (run_get u)).trans <|
      (run_bind_ok (run_putFld _ _ u)).trans <| run_modify _ v
  · exact setReg (setFld (t := u) ⟨rfl, fun _ _ => rfl⟩ _ rfl) _ rfl
  · exact congrArg (bitsOf · 0 32) ((reg_setReg_other (s := v) (by decide)).trans (reg_setFld_other (s := u) (by decide)))

end RepairsOnly

/-- In a module that is ready, a repair is counted. -/
theorem raiseRepair_ok (hr : s.flag F.pwReady = true) (he : s.flag (F.evEnable 0) = false)
    (kind : Nat) (exhausted : Bool) (die unit sub physical : Nat) :
    ∃ t, raiseRepair kind exhausted die unit sub physical s = .ok () t ∧ RepairsOnly s t ∧
      t.fld F.repairs = satAdd (2 ^ F.repairs.width - 2) (s.fld F.repairs) 1 := by
  obtain ⟨t, ht, h, hn⟩ := RepairsOnly.setMap (mapInsert (repairDetail kind exhausted die unit sub physical)) s
  have hready : t.flag F.pwReady = true := (h.flag rfl).trans hr
  have hu : RepairsOnly s ((t.bump F.mapChanges).bump F.repairs) := (h.bump rfl).bump rfl
  refine ⟨(t.bump F.mapChanges).bump F.repairs, ?_, hu, ?_⟩
  · unfold raiseRepair
    rw [run_bind_ok ht, run_bind_ok (run_get t), hready, if_pos rfl, run_bind_ok (run_bump _ _), run_bind_ok (run_bump _ _),
      LinksOnly.raiseEvent_off ((hu.flag rfl).trans he)]
  · have hchanges : (t.bump F.mapChanges).fld F.repairs = t.fld F.repairs := fld_setFld_other (by decide)
    rw [fld_bump_same _ (by decide), hchanges, hn]

end Sys2Proof.Machine
end

section
/-! PROOFS. The upkeep of device memory: zero-fills and window sizes (R259, R260, R268), retraining and self-refresh
(R264–R267). -/

namespace Sys2Proof.Machine

variable {s t : State} {v : W64}

/-! ### Zero-fill -/

section ZeroWrite

variable {base count : Nat} (hbase : bitsOf v.toNat 0 23 = base) (hcount : bitsOf v.toNat 32 23 = count)
include hbase hcount

/-- A write of all of MS_ZERO, which first drops the base that a 32-bit write has left. -/
theorem writeMsZero_full (s : State) : writeMsZero .full v s =
    (if count = 0 then pure ()
    else if count = 2 ^ 23 - 1 ∨ allocTop < (base + count) * 65536 ∨ s.flag F.zeroBusy then putFlag F.zeroReject true
    else do
      putFlag F.zeroBusy true
      modMem fun m => { m with fills := m.fills ++ [⟨.msZero, [(base * 256, (base + count) * 256)]⟩] } : M Unit)
      { s with mem := { s.mem with zeroBase := 0 } } := by
  subst hbase hcount
  unfold writeMsZero
  rw [run_bind_ok (run_get s), if_neg nofun, run_bind_ok (run_modMem _ s)]
  rfl

theorem writeMsZero_queues (h0 : count ≠ 0) (h1 : count ≠ 2 ^ 23 - 1) (ht : (base + count) * 65536 ≤ allocTop)
    (hb : s.flag F.zeroBusy = false) : writeMsZero .full v s = .ok () { s.setFlag F.zeroBusy true with mem := { s.mem with
      zeroBase := 0, fills := s.mem.fills ++ [⟨.msZero, [(base * 256, (base + count) * 256)]⟩] } } := by
  have hok : ¬(count = 2 ^ 23 - 1 ∨ allocTop < (base + count) * 65536 ∨ s.flag F.zeroBusy = true) := by
    simpa [hb, Nat.not_lt.mpr ht] using h1
  rw [writeMsZero_full hbase hcount, if_neg h0, if_neg hok, run_bind_ok (run_putFlag _ _ _), run_modMem]
  rfl

theorem writeMsZero_rejects (h0 : count ≠ 0)
    (hbad : count = 2 ^ 23 - 1 ∨ allocTop < (base + count) * 65536 ∨ s.flag F.zeroBusy = true) :
    writeMsZero .full v s = .ok () { s.setFlag F.zeroReject true with mem := { s.mem with zeroBase := 0 } } := by
  rw [writeMsZero_full hbase hcount, if_neg h0, if_pos hbad, run_putFlag]
  rfl

end ZeroWrite

theorem exec_zeroFillComplete (hw : s.works = true) {lo hi : Nat} {rest : List Fill}
    (hf : s.mem.fills = ⟨.msZero, [(lo, hi)]⟩ :: rest) (ha : s.rangeAsleep (lo, hi) = false) :
    exec .zeroFillComplete s = .next ((State.setFlag
      { s with mem := MemSt.zeroGranules { s.mem with fills := rest } lo hi } F.zeroBusy false).bump F.zeroDone) := by
  refine run_next hw (u := ()) ?_
  rw [run_bind_ok (run_get s), hf, List.head?_cons, run_bind_ok (run_needSome _ s), List.any_cons, List.any_nil, ha,
    Bool.or_false, Bool.not_false, run_bind_ok (run_guardWait_true s), run_bind_ok (run_modMem _ s)]
  dsimp only
  rw [run_bind_ok (run_putFlag _ _ _), run_bump, hf]
  rfl

/-! ### Window sizes -/

theorem fields_msPart : Reg.msPart.fields = [(0, 5, .rw), (8, 5, .rw), (16, 5, .rw)] := rfl

/-- The three sizes of MS_PART that a write gives. -/
def askedSizes (v : W64) : Nat × Nat × Nat := (bitsOf v.toNat 0 5, bitsOf v.toNat 8 5, bitsOf v.toNat 16 5)

/-- A whole write of MS_PART sets its three fields. -/
theorem written_msPart (x y : Nat) : let z := Reg.written .msPart x .full y
    bitsOf z 0 5 = bitsOf y 0 5 ∧ bitsOf z 8 5 = bitsOf y 8 5 ∧ bitsOf z 16 5 = bitsOf y 16 5 := by
  have hbits (lo : Nat) : bitsOf y lo 5 % 2 ^ 5 = bitsOf y lo 5 := Nat.mod_eq_of_lt (Nat.mod_lt _ (Nat.two_pow_pos 5))
  simp only [Reg.written, fields_msPart, List.foldl_cons, List.foldl_nil, writeField, halfClip]
  simp (disch := omega) only [bitsOf_putBits_other, bitsOf_putBits_same, hbits, and_self]

theorem writeMsPart_full (s : State) (v : W64) : let new := askedSizes v
    writeMsPart .full v s = (if new.1 + new.2.1 + new.2.2 = 31 ∧ (!s.flag F.msChanging) = true then do
        set (s.plainWrite .msPart .full v)
        if new = s.mem.partNow then pure ()
        else do
          putFlag F.msChanging true
          modMem fun m => { m with pendPart := some new }
      else pure () : M Unit) s := by
  obtain ⟨h0, h8, h16⟩ := written_msPart (s.reg .msPart) (halfPlace .full v)
  unfold writeMsPart
  rw [run_bind_ok (run_get s), h0, h8, h16]
  rfl

theorem writeMsPart_keeps (hbad : (askedSizes v).1 + (askedSizes v).2.1 + (askedSizes v).2.2 ≠ 31 ∨ s.flag F.msChanging = true) :
    writeMsPart .full v s = .ok () s := by
  rw [writeMsPart_full, if_neg (by simpa [imp_iff_not_or] using hbad), run_pure]

theorem writeMsPart_changes (hsum : (askedSizes v).1 + (askedSizes v).2.1 + (askedSizes v).2.2 = 31)
    (hc : s.flag F.msChanging = false) (hn : askedSizes v ≠ s.mem.partNow) : writeMsPart .full v s =
      .ok () { (s.plainWrite .msPart .full v).setFlag F.msChanging true with
        mem := { s.mem with pendPart := some (askedSizes v) } } := by
  rw [writeMsPart_full, if_pos ⟨hsum, by rw [hc]; rfl⟩, run_bind_ok (run_set _ s), if_neg hn, run_bind_ok (run_putFlag _ _ _),
    run_modMem]
  rfl

/-! ### Retraining -/

section Retraining

variable {j : Stack} {ch : Fin 32}

theorem exec_channelRetrain (hw : s.works = true) (lane : Option (Fin 83)) (halone : ∀ r ∈ s.mem.retrain, r.stack ≠ j)
    (hs : j ∉ s.mem.selfRefresh) : exec (.channelRetrain j ch lane) s =
      .next { s with mem := { s.mem with retrain := s.mem.retrain ++ [⟨j, ch, lane, none⟩] } } := by
  have hg : (!s.mem.retrain.any (fun r => r.stack == j) && !s.mem.selfRefresh.contains j) = true := by
    simpa using ⟨halone, hs⟩
  refine run_next hw (u := ()) ?_
  rw [run_bind_ok (run_get s), hg, run_bind_ok (run_guardWait_true s), run_modMem]

/-- The channel has left its retraining. -/
def retrained (s : State) (r : Retrain) : State := { s with mem := { s.mem with retrain := s.mem.retrain.filter (· ≠ r) } }

/-- The channel has new values of field calibration. -/
def recalibrated (s : State) (j : Stack) (ch : Fin 32) : State :=
  { s with
    seed := s.seed + 1
    pow := { s.pow with fieldCal := s.pow.fieldCal.insert (2, j.val, ch.val) (Config.calibrated s.seed) } }

theorem run_recalibrate (s : State) (j : Stack) (ch : Fin 32) :
    recalibrate 2 j.val ch.val s = .ok () (recalibrated s j ch) := (run_bind_ok (run_fresh s)).trans (run_modify _ _)

/-- A retraining for no lane ends. -/
theorem exec_retrainComplete_none (hw : s.works = true) {r : Retrain}
    (hr : s.mem.retrain.find? (fun r => r.stack == j && r.ch == ch) = some r) (hf : r.factory = none) (hl : r.lane = none) :
    exec (.channelRetrainComplete j ch) s = .next (recalibrated (retrained s r) j ch) := by
  refine run_next hw (u := ()) ?_
  rw [run_bind_ok (run_get s), hr, run_bind_ok (run_needSome _ s), run_bind_ok (run_modMem _ s), hl, hf]
  exact run_recalibrate _ j ch

/-- The spare of a lane is in use. -/
def laneSpared (s : State) (j : Stack) (ch : Fin 32) (l : Nat) : State :=
  { s with mem := { s.mem with lanes := s.mem.lanes ++ [(j, ch, spareLane l)] } }

theorem exec_retrainComplete_spares (hw : s.works = true) {r : Retrain} {l : Fin 83}
    (hr : s.mem.retrain.find? (fun r => r.stack == j && r.ch == ch) = some r) (hf : r.factory = none) (hl : r.lane = some l)
    (hlt : l.val < 80) (hfree : (j, ch, spareLane l.val) ∉ s.mem.lanes) {u : State}
    (hu : refreshSpared j ch (laneSpared (retrained s r) j ch l.val) = .ok () u)
    (ht : raiseRepair 7 true (j.val / 4) j.val ch.val l.val u = .ok () t) :
    exec (.channelRetrainComplete j ch) s = .next (recalibrated t j ch) := by
  refine run_next hw (u := ()) ?_
  rw [run_bind_ok (run_get s), hr, run_bind_ok (run_needSome _ s), run_bind_ok (run_modMem _ s), hl, hf]
  dsimp only
  rw [if_pos ⟨hlt, by simpa using hfree⟩, run_bind_ok (run_modMem _ _)]
  exact (run_bind_ok hu).trans ((run_bind_ok ht).trans (run_recalibrate t j ch))

theorem exec_retrainComplete_exhausts (hw : s.works = true) {r : Retrain} {l : Fin 83}
    (hr : s.mem.retrain.find? (fun r => r.stack == j && r.ch == ch) = some r) (hf : r.factory = none) (hl : r.lane = some l)
    (hbad : 80 ≤ l.val ∨ (j, ch, spareLane l.val) ∈ s.mem.lanes) :
    exec (.channelRetrainComplete j ch) s = .next (recalibrated ((retrained s r).setFld (F.chExhausted j)
      (putBits (s.fld (F.chExhausted j)) ch.val 1 1)) j ch) := by
  have hno : ¬(l.val < 80 ∧ (!s.mem.lanes.contains (j, ch, spareLane l.val)) = true) := by
    simpa [imp_iff_not_or, Nat.not_lt] using hbad
  refine run_next hw (u := ()) ?_
  rw [run_bind_ok (run_get s), hr, run_bind_ok (run_needSome _ s), run_bind_ok (run_modMem _ s), hl, hf]
  dsimp only
  rw [if_neg hno, run_bind_ok (run_putFld _ _ _)]
  exact run_recalibrate _ j ch

theorem bitOf_eq_testBit (x i : Nat) : bitOf x i = x.testBit i := by
  rw [bitOf, Nat.testBit_eq_decide_div_mod_eq, beq_eq_decide]

/-- A bit that is set in a field reads as set. -/
theorem bitOf_fld_putBits (s : State) {f : Fld} (x : Nat) {i : Nat} (h : f.lo + f.width ≤ 64) (hi : i < f.width) :
    bitOf ((s.setFld f (putBits x i 1 1)).fld f) i = true := by
  rw [fld_setFld_same s _ h, bitOf_eq_testBit, Nat.testBit_mod_two_pow, testBit_putBits, if_pos (by omega), Nat.sub_self,
    decide_eq_true hi]
  rfl

/-- The state after MS_CHANj.SPARED shows the lane. -/
def sparedShown (s : State) (j : Stack) (ch : Fin 32) : State :=
  s.setFld (F.chSpared j) (putBits (s.fld (F.chSpared j)) ch.val 1 1)

theorem refreshSpared_laneSpared (s : State) (j : Stack) (ch : Fin 32) (l : Nat) :
    refreshSpared j ch (laneSpared s j ch l) = .ok () (sparedShown (laneSpared s j ch l) j ch) := by
  have hused : (laneSpared s j ch l).mem.lanes.any (fun l => l.1 == j && l.2.1 == ch) = true := by simp [laneSpared]
  unfold refreshSpared
  rw [run_bind_ok (run_get _), hused]
  exact run_putFld _ _ _

/-- The failing lane takes its spare: SPARED shows it, and a repair is counted. -/
theorem retrainComplete_spares (hw : s.works = true) {r : Retrain} {l : Fin 83}
    (hr : s.mem.retrain.find? (fun r => r.stack == j && r.ch == ch) = some r) (hf : r.factory = none) (hl : r.lane = some l)
    (hlt : l.val < 80) (hfree : (j, ch, spareLane l.val) ∉ s.mem.lanes) (hs : Silent s) :
    completes (.channelRetrainComplete j ch) s (fun t =>
      t.mem = { s.mem with retrain := s.mem.retrain.filter (· ≠ r), lanes := s.mem.lanes ++ [(j, ch, spareLane l.val)] } ∧
      bitOf (t.fld (F.chSpared j)) ch.val = true ∧
      t.fld F.repairs = satAdd (2 ^ F.repairs.width - 2) (s.fld F.repairs) 1 ∧ t.cores = s.cores) := by
  let u := laneSpared (retrained s r) j ch l.val
  have hother (f : Fld) (hn : (F.chSpared j).reg ≠ f.reg) : (sparedShown u j ch).fld f = s.fld f := fld_setFld_other hn
  obtain ⟨t, ht, h, hcount⟩ := raiseRepair_ok (s := sparedShown u j ch)
    ((congrArg (· == 1) (hother F.pwReady nofun)).trans (ready_of_works hw))
    ((congrArg (· == 1) (hother (F.evEnable 0) nofun)).trans (hs.events 0)) 7 true (j.val / 4) j.val ch.val l.val
  refine ⟨_, exec_retrainComplete_spares hw hr hf hl hlt hfree (refreshSpared_laneSpared _ j ch _) ht, h.mem, ?_, ?_, h.cores⟩
  · exact (congrArg (bitOf · ch.val) (h.fld (f := F.chSpared j) rfl)).trans
      (bitOf_fld_putBits u (f := F.chSpared j) _ (by decide : 0 + 32 ≤ 64) ch.isLt)
  · exact hcount.trans (congrArg (satAdd _ · 1) (hother F.repairs nofun))

end Retraining

theorem exec_selfRefreshExit (hw : s.works = true) {j : Stack} (hj : j ∈ s.mem.selfRefresh)
    (hp : bitOf (s.fld F.pwParked) (j.val / 4) = false) : exec (.selfRefreshExit j) s =
      .next { s with mem := { s.mem with selfRefresh := s.mem.selfRefresh.filter (· ≠ j) } } := by
  refine run_next hw (u := ()) ?_
  rw [run_bind_ok (run_get s), List.contains_iff_mem.mpr hj, hp, Bool.not_false, Bool.true_or, Bool.and_self,
    run_bind_ok (run_guardWait_true s), run_modMem]

end Sys2Proof.Machine

namespace Sys2Proof

open Sys2Proof.Machine

/-- Settles O40: each write is judged by its operands and its BUSY flag, a zero-fill clears its range, and a retraining ends
with the failing lane on its spare, or with the channel marked as exhausted. -/
theorem memoryUpkeep : Obligations.MemoryUpkeep := by
  unfold Obligations.MemoryUpkeep
  refine ⟨fun s hw => ⟨fun v => ⟨fun h0 h1 ht hb => ?_, fun h0 hbad => ?_⟩, fun lo hi rest hf ha hwf => ?_,
    fun v => ⟨fun hsum hc hn => ?_, fun hbad => ?_⟩⟩, fun s j ch hw => ⟨fun lane => exec_channelRetrain hw lane,
    fun r hr hf => ⟨exec_retrainComplete_none hw hr hf, fun l => retrainComplete_spares hw hr hf, fun l hl hbad => ?_⟩,
    exec_selfRefreshExit hw⟩⟩
  · exact run_next hw (writeMsZero_queues rfl rfl h0 h1 ht hb)
  · exact run_next hw (writeMsZero_rejects rfl rfl h0 hbad)
  · obtain ⟨hbusy, hdone⟩ := flag_clear_bump (f := F.zeroBusy) (g := F.zeroDone) rfl (by decide) (by decide) rfl
      { s with mem := MemSt.zeroGranules { s.mem with fills := rest } lo hi }
    refine ⟨_, exec_zeroFillComplete hw hf ha, rfl, hbusy, hdone, wf_clear hwf _ _, fun a hlo hhi => ?_, fun a hout => ?_,
      rfl⟩
    · exact (read_clear hwf _ _ a).trans (if_pos ⟨hlo, hhi⟩)
    · exact (read_clear hwf _ _ a).trans (if_neg (by omega))
  · exact ⟨_, run_next hw (writeMsPart_changes hsum hc hn), flag_setFlag_same (f := F.msChanging) _ true (by decide) rfl, rfl,
      rfl⟩
  · exact run_next hw (writeMsPart_keeps hbad)
  · exact ⟨_, exec_retrainComplete_exhausts hw hr hf hl hbad, rfl,
      bitOf_fld_putBits _ (f := F.chExhausted j) _ (by decide : 32 + 32 ≤ 64) ch.isLt, rfl⟩

end Sys2Proof
end

section
/-! SUPPORT. The channels of a DMA engine: how a change of one runs and what is read back, and what waiting cycles leave of a
channel. -/

namespace Sys2Proof.Machine

variable {s : State} {e : DmaEng} {ch order : Nat} {y : DmaEngSt} {bus cycles : Nat} {r : DmaReq}

/-- The state with a channel of an engine changed to `x`. -/
def withChan (s : State) (e : DmaEng) (ch : Nat) (x : DmaCh) : State :=
  { s with dma := s.dma.insert e { s.dmaOf e with chans := (s.dmaOf e).chans.insert ch x } }

@[simp] theorem dmaOf_insert (s : State) (e : DmaEng) (y : DmaEngSt) :
    State.dmaOf { s with dma := s.dma.insert e y } e = y := AMap.getD_insert_same _ _ _ _

@[simp] theorem chanOf_withChan (s : State) (e : DmaEng) (ch : Nat) (x : DmaCh) : (withChan s e ch x).chanOf e ch = x := by
  simp [State.chanOf, withChan, DmaEngSt.chan]

theorem run_modChan (e : DmaEng) (ch : Nat) (f : DmaCh → DmaCh) (s : State) :
    modChan e ch f s = .ok ⟨⟩ (withChan s e ch (f (s.chanOf e ch))) := run_modify _ s

/-- The channel with its requests of a number changed by `f`. -/
def DmaCh.modReq (x : DmaCh) (order : Nat) (f : DmaReq → DmaReq) : DmaCh :=
  { x with reqs := x.reqs.map (fun z => if z.order = order then f z else z) }

theorem run_modReq (e : DmaEng) (ch order : Nat) (f : DmaReq → DmaReq) (s : State) :
    modReq e ch order f s = .ok ⟨⟩ (withChan s e ch ((s.chanOf e ch).modReq order f)) := run_modChan e ch _ s

/-- Where requests are changed but keep their numbers, the same one is found, changed. -/
theorem DmaCh.find?_modReq {x : DmaCh} {f : DmaReq → DmaReq} (hf : ∀ z, (f z).order = z.order)
    (h : x.reqs.find? (fun z => z.order == order) = some r) :
    (x.modReq order f).reqs.find? (fun z => z.order == order) = some (f r) := by
  have hsame : (fun z => z.order == order) ∘ (fun z => if z.order = order then f z else z) =
      fun z : DmaReq => z.order == order := by
    funext z
    simp only [Function.comp]
    split <;> simp [hf]
  have horder : r.order = order := by simpa using List.find?_some h
  rw [modReq, List.find?_map, hsame, h, Option.map_some, if_pos horder]

/-- DM_CHc follows the channel; nothing but registers changes. -/
theorem refreshChan_ok (e : DmaEng) (ch : Nat) (s : State) : ∃ g, refreshChan e ch s = .ok () { s with regs := g } := by
  unfold refreshChan
  rw [run_modify]
  split <;> exact ⟨_, rfl⟩

/-- An engine's channel has no register of its own on a core. -/
theorem refreshChan_core (n : CoreId) (ch : Nat) (s : State) : refreshChan (.core n) ch s = .ok () s := run_modify _ s

/-! ### Waiting (R302, R303) -/

/-- Cycles that pass leave a channel, or let it gather credit. -/
theorem chan_wait (y : DmaEngSt) (bus cycles ch : Nat) :
    (y.wait bus cycles).chan ch = y.chan ch ∨ (y.wait bus cycles).chan ch = (y.chan ch).gathers bus cycles := by
  unfold DmaEngSt.wait
  split
  · exact .inl rfl
  · have hfind := find?_map_val y.chans (fun c => c.gathers bus cycles) ch
    simp only [DmaEngSt.chan, AMap.getD, hfind]
    cases AMap.find? y.chans ch with
    | none => exact .inl rfl
    | some c => exact .inr rfl

@[simp] theorem reqs_chan_wait : ((y.wait bus cycles).chan ch).reqs = (y.chan ch).reqs := by
  rcases chan_wait y bus cycles ch with h | h <;> rw [h]
  rfl

theorem ready_congr {a b : DmaCh} (h : a.reqs = b.reqs) : a.ready = b.ready := by
  rw [DmaCh.ready, DmaCh.ready, h]

@[simp] theorem ready_chan_wait : ((y.wait bus cycles).chan ch).ready = (y.chan ch).ready := ready_congr reqs_chan_wait

/-- Credit for a burst stays enough for it (R303). -/
theorem credit_chan_wait {c : Nat} (hmax : c ≤ 4096 * 256) (h : c ≤ (y.chan ch).credit) :
    c ≤ ((y.wait bus cycles).chan ch).credit := by
  rcases chan_wait y bus cycles ch with hx | hx <;> rw [hx]
  · exact h
  · exact Nat.le_min.mpr ⟨hmax, h.trans (Nat.le_add_right _ _)⟩

@[simp] theorem mode_wait : (y.wait bus cycles).mode = y.mode := by
  unfold DmaEngSt.wait; split <;> rfl

theorem turn_wait (h : y.turn = []) : (y.wait bus cycles).turn = [] := by
  unfold DmaEngSt.wait; split
  exacts [h, rfl]

theorem keys_wait (h : ∀ p ∈ y.chans, p.1 = ch) : ∀ p ∈ (y.wait bus cycles).chans, p.1 = ch := by
  unfold DmaEngSt.wait
  split
  · exact h
  · exact List.forall_mem_map.mpr h

theorem burstLen_le (r : DmaReq) (off : Nat) : r.burstLen off ≤ 256 := by
  have hs : (if r.reads then 256 - placeIn r.srcObj (r.at' r.src r.srcStep off) % 256 else 256) ≤ 256 := by
    split <;> omega
  exact (Nat.min_le_right _ _).trans ((Nat.min_le_left _ _).trans hs)

theorem nextBurst_bytes (h : r.op ≠ 4) : r.nextBurst = some (r.done, r.burstLen r.done) := if_neg h

/-- In INTERLEAVE mode an engine with one channel in use serves it, once in a cycle, where it has credit (R302). -/
theorem serves_alone (hmode : y.mode = 0) (hturn : y.turn = []) (hkeys : ∀ p ∈ y.chans, p.1 = ch)
    (hready : (y.chan ch).ready = some r) (hc : r.checked = true) (hop : r.op ≠ 4)
    (hcredit : r.burstLen r.done * 256 ≤ (y.chan ch).credit) : y.serves bus ch = true := by
  have hdue : (y.chan ch).due = some (r.burstLen r.done) := by
    rw [DmaCh.due, hready, Option.map_some, if_pos hc, nextBurst_bytes hop]
    rfl
  have heligible : (y.chan ch).eligible = true := by
    rw [DmaCh.eligible, hdue]
    exact decide_eq_true hcredit
  have hothers : y.chans.all (fun p => p.1 == ch || !p.2.eligible || y.turn.contains p.1 || y.sooner ch p.1) = true :=
    List.all_eq_true.mpr fun p hp => by simp [hkeys p hp]
  rw [DmaEngSt.serves, if_pos hmode, heligible, hothers, hturn]
  rfl

end Sys2Proof.Machine
end

section
/-! PROOFS. The bursts of a DMA engine (R294, R298, R299, R302, R303): what the engine serves is started, and a burst of a
FILL to the scratchpad is written there. -/

namespace Sys2Proof.Machine

variable {s t u v : State} {e : DmaEng} {ch : Nat} {n : CoreId} {r r' : DmaReq}

/-! ### What the engine serves -/

/-- The engine as it is after the cycles that have passed since it was last looked at (R302, R303). -/
def waited (s : State) (e : DmaEng) : DmaEngSt := (s.dmaOf e).wait (dmaBus e) (Config.sluiceCycles s.seed)

/-- The state in which those cycles have been counted. -/
def seenEngine (s : State) (e : DmaEng) : State := { s with seed := s.seed + 1, dma := s.dma.insert e (waited s e) }

@[simp] theorem dmaOf_seenEngine (s : State) (e : DmaEng) : (seenEngine s e).dmaOf e = waited s e :=
  AMap.getD_insert_same _ _ _ _

@[simp] theorem reqs_chanOf_seenEngine (s : State) (e : DmaEng) (ch : Nat) :
    ((seenEngine s e).chanOf e ch).reqs = (s.chanOf e ch).reqs := by
  rw [State.chanOf, dmaOf_seenEngine]
  exact reqs_chan_wait

/-- What an engine does with a channel after the cycles that have passed. -/
def serveChan (e : DmaEng) (ch : Nat) (x : DmaEngSt) : M Unit :=
  if x.serves (dmaBus e) ch then do
    let r ← needSome (x.chan ch).ready
    match ← attempt (do startBurst e ch (← asDma (ensureChecked e ch r))) with
    | .ok _ => refreshChan e ch
    | .error er => dmaFault e r er
  else pure ()

/-- A look at a channel with a burst ready, on an engine that is not held. -/
theorem exec_dmaBurst {c : Fin 32} (hw : s.works = true) (hheld : s.unitHeld (engUnit e) = false)
    (hready : ((s.dmaOf e).chan c.val).ready.isSome = true) (h : serveChan e c.val (waited s e) (seenEngine s e) = .ok () t) :
    exec (.dmaBurst e c) s = .next t := by
  refine run_next hw (u := ()) ?_
  have hguard : (!s.unitHeld (engUnit e) && (s.chanOf e c.val).ready.isSome) = true := by
    rw [hheld, State.chanOf, hready]; rfl
  rw [run_bind_ok (run_get s), hguard, run_bind_ok (run_guardWait_true s), run_bind_ok (run_fresh s)]
  exact (run_bind_ok (run_modify _ _)).trans h

theorem serveChan_waits {x : DmaEngSt} (h : x.serves (dmaBus e) ch = false) : serveChan e ch x s = .ok () s := by
  rw [serveChan, if_neg (by simp [h]), run_pure]

theorem serveChan_starts {x : DmaEngSt} (h : x.serves (dmaBus e) ch = true) (hready : (x.chan ch).ready = some r)
    (hr : asDma (ensureChecked e ch r) s = .ok r' u) (hv : startBurst e ch r' u = .ok () v) :
    serveChan e ch x s = refreshChan e ch v := by
  rw [serveChan, if_pos h, hready, run_bind_ok (run_needSome r s),
    run_bind_ok (run_attempt_ok ((run_bind_ok hr).trans hv))]

/-- A request whose checks have been made goes on as it is (R300). -/
theorem run_asDma_ensureChecked (h : r.checked = true) (e : DmaEng) (ch : Nat) (s : State) :
    asDma (ensureChecked e ch r) s = .ok r s := by
  have hsame : ensureChecked e ch r s = .ok r s := by
    unfold ensureChecked
    rw [if_pos h, run_pure]
  rw [asDma, run_bind_ok (run_attempt_ok hsame)]
  exact run_pure r s

/-! ### A burst of a FILL -/

/-- The state in which a burst of `len` bytes on a channel has taken its credit (R303). -/
def taken (s : State) (e : DmaEng) (ch len : Nat) : State :=
  let x := s.chanOf e ch
  let t := withChan s e ch { x with credit := x.credit - len * 256 }
  { t with dma := t.dma.insert e ((t.dmaOf e).serve ch len) }

@[simp] theorem reqs_chanOf_taken (s : State) (e : DmaEng) (ch len : Nat) :
    ((taken s e ch len).chanOf e ch).reqs = (s.chanOf e ch).reqs := by
  rw [State.chanOf, taken, dmaOf_insert]
  have hx := chanOf_withChan s e ch { s.chanOf e ch with credit := (s.chanOf e ch).credit - len * 256 }
  exact (congrArg DmaCh.reqs hx :)

/-- The bytes of a FILL's pattern from stream offset `i` (R298). -/
def DmaReq.pattern (r : DmaReq) (i len : Nat) : List Byte :=
  (upTo len).map (fun b => BitVec.ofNat 8 (bitsOf r.fill.toNat (8 * ((i % r.run + b) % 8)) 8))

/-- A FILL of core n's scratchpad without a checksum. -/
structure FillsPad (n : CoreId) (r : DmaReq) : Prop where
  core : r.core = some n
  op : r.op = 2
  space : r.dstSpace = 2
  obj : r.dstObj = none
  sum : r.sum = 0
  stored : r.stored = false

/-- The state in which a burst of `len` bytes of the pattern from offset `i` has moved: the bytes stand in the scratchpad and
the request has advanced; `g` and `o` are what the counters become. -/
def patternMoved (s : State) (n : CoreId) (ch : Nat) (r : DmaReq) (i len : Nat) (g : AMap Reg W64) (o : ObsSt) : State :=
  { withChan s (.core n) ch ((s.chanOf (.core n) ch).modReq r.order (fun z => { z with done := i + len })) with
    sram := SramSt.writeWords (padOf n) r.ctx.val r.gen (len / 64 + 2) s.sram (r.at' r.dst r.dstStep i) (r.pattern i len)
    regs := g, obs := o }

@[simp] theorem chanOf_patternMoved (s : State) (n : CoreId) (ch : Nat) (r : DmaReq) (i len : Nat) (g : AMap Reg W64)
    (o : ObsSt) : (patternMoved s n ch r i len g o).chanOf (.core n) ch =
      (s.chanOf (.core n) ch).modReq r.order (fun z => { z with done := i + len }) := chanOf_withChan s _ ch _

/-- A core's engine counts the bytes in its die's counter and its core's. -/
theorem countMoved_core (n : CoreId) (ch len : Nat) (s : State) :
    ∃ g o, countMoved (.core n) ch len s = .ok () { s with regs := g, obs := o } := by
  unfold countMoved
  dsimp only
  rw [bumpBy, run_bind_ok (run_modify _ s), countCore, run_modify]
  exact ⟨_, _, rfl⟩

namespace FillsPad

theorem op_ne_cp (h : FillsPad n r) : r.op ≠ 4 := by rw [h.op]; decide

theorem burstWrite_eq (h : FillsPad n r) (off : Nat) (bs : List Byte) :
    burstWrite e ch r off bs = sramWrite (r.who n) (padOf n) off bs := by
  have hself : r.selfCopy = false := by rw [DmaReq.selfCopy, h.op]; rfl
  unfold burstWrite endWrite
  rw [hself, if_neg Bool.false_ne_true, h.space, h.core]
  rfl

theorem deliver_ok (h : FillsPad n r) (off : Nat) (bs : List Byte) (s : State) :
    ∃ g o, deliver (.core n) ch r off bs s = .ok () { s with
      sram := SramSt.writeWords (padOf n) r.ctx.val r.gen (bs.length / 64 + 2) s.sram (r.at' r.dst r.dstStep off) bs
      regs := g, obs := o } := by
  have hwrites : r.writes = true := by rw [DmaReq.writes, h.op]; rfl
  unfold deliver
  rw [if_pos hwrites, h.obj]
  dsimp only
  rw [h.burstWrite_eq, run_bind_ok (run_sramWrite _ _ _ _ s), h.sum, if_neg (fun hne => hne rfl)]
  exact countMoved_core n ch bs.length _

/-- No host write is to be followed by a read (R446). -/
theorem flushHost_ok (h : FillsPad n r) {order : Nat}
    (hr : (s.chanOf e ch).reqs.find? (fun z => z.order == order) = some r) : flushHost e ch order s = .ok () s := by
  unfold flushHost
  rw [run_bind_ok (run_get s), hr]
  dsimp only
  rw [if_neg h.op_ne_cp, h.stored, if_neg Bool.false_ne_true, h.obj]
  exact run_pure () s

/-- The request stays one when it advances. -/
theorem advance (h : FillsPad n r) (d : Nat) : FillsPad n { r with done := d } :=
  ⟨h.core, h.op, h.space, h.obj, h.sum, h.stored⟩

theorem moveBurst_ok (h : FillsPad n r) (i len : Nat) (s : State) :
    ∃ g o, moveBurst (.core n) ch r i len s = .ok () (patternMoved s n ch r i len g o) := by
  have hlen : (r.pattern i len).length = len := by simp [DmaReq.pattern, upTo]
  obtain ⟨g, o, hdeliver⟩ := h.deliver_ok (ch := ch) i (r.pattern i len)
    (withChan s (.core n) ch ((s.chanOf (.core n) ch).modReq r.order (fun z => { z with done := i + len })))
  refine ⟨g, o, ?_⟩
  unfold moveBurst
  rw [if_neg h.op_ne_cp, run_bind_ok (run_modReq _ _ _ _ s), if_pos h.op]
  rwa [hlen] at hdeliver

theorem startBurst_ok (h : FillsPad n r) (hcredit : r.burstLen r.done * 256 ≤ (s.chanOf (.core n) ch).credit)
    (hr : (s.chanOf (.core n) ch).reqs.find? (fun z => z.order == r.order) = some r) :
    let len := r.burstLen r.done
    ∃ g o, startBurst (.core n) ch r s = .ok () (patternMoved (taken s (.core n) ch len) n ch r r.done len g o) := by
  obtain ⟨g, o, hmove⟩ := h.moveBurst_ok (ch := ch) r.done (r.burstLen r.done) (taken s (.core n) ch (r.burstLen r.done))
  refine ⟨g, o, ?_⟩
  have hfind := DmaCh.find?_modReq (x := (taken s (.core n) ch (r.burstLen r.done)).chanOf (.core n) ch) (r := r)
    (f := fun z => { z with done := r.done + r.burstLen r.done }) (fun _ => rfl) (by rwa [reqs_chanOf_taken])
  rw [← chanOf_patternMoved _ n ch r r.done (r.burstLen r.done) g o] at hfind
  unfold startBurst
  rw [nextBurst_bytes h.op_ne_cp]
  dsimp only
  rw [run_bind_ok (run_get s), if_neg (Nat.not_lt.mpr hcredit), run_bind_ok (run_modChan _ _ _ s)]
  exact (run_bind_ok (run_modify _ _)).trans <| (run_bind_ok (run_pure _ _)).trans <| (run_bind_ok hmove).trans <|
    (h.advance (r.done + r.burstLen r.done)).flushHost_ok hfind

end FillsPad

/-- After the cycles that have passed, a burst of a FILL that is alone on its engine and has credit is written (R298, R303). -/
theorem exec_dmaBurst_fill {c : Fin 32} (hw : s.works = true) (hheld : s.unitHeld (engUnit (.core n)) = false)
    (hmode : (s.dmaOf (.core n)).mode = 0) (hturn : (s.dmaOf (.core n)).turn = [])
    (hkeys : ∀ p ∈ (s.dmaOf (.core n)).chans, p.1 = c.val) (hready : ((s.dmaOf (.core n)).chan c.val).ready = some r)
    (hcredit : r.burstLen r.done * 256 ≤ ((s.dmaOf (.core n)).chan c.val).credit) (hc : r.checked = true)
    (h : FillsPad n r)
    (hr : ((s.dmaOf (.core n)).chan c.val).reqs.find? (fun z => z.order == r.order) = some r) :
    let len := r.burstLen r.done
    ∃ g o, exec (.dmaBurst (.core n) c) s =
      .next (patternMoved (taken (seenEngine s (.core n)) (.core n) c.val len) n c.val r r.done len g o) := by
  have hchan : (seenEngine s (.core n)).chanOf (.core n) c.val = (waited s (.core n)).chan c.val := by
    rw [State.chanOf, dmaOf_seenEngine]
  have hready' : ((waited s (.core n)).chan c.val).ready = some r := ready_chan_wait.trans hready
  have hcredit' : r.burstLen r.done * 256 ≤ ((waited s (.core n)).chan c.val).credit :=
    credit_chan_wait (Nat.mul_le_mul_right 256 ((burstLen_le r r.done).trans (by decide))) hcredit
  have hserves : (waited s (.core n)).serves (dmaBus (.core n)) c.val = true :=
    serves_alone (mode_wait.trans hmode) (turn_wait hturn) (keys_wait hkeys) hready' hc h.op_ne_cp hcredit'
  obtain ⟨g, o, hstart⟩ := h.startBurst_ok (s := seenEngine s (.core n)) (ch := c.val) (by rwa [hchan])
    (by rwa [reqs_chanOf_seenEngine])
  refine ⟨g, o, exec_dmaBurst hw hheld (by rw [hready]; rfl) ?_⟩
  rw [serveChan_starts hserves hready' (run_asDma_ensureChecked hc _ _ _) hstart, refreshChan_core]

end Sys2Proof.Machine
end

section
/-! PROOFS. A request whose bytes have all moved leaves its channel (R294). -/

namespace Sys2Proof.Machine

variable {s t : State} {e : DmaEng} {ch : Fin 32} {r : DmaReq}

/-- The oldest request of a channel, with nothing to move, to wait for or to store, leaves the channel. -/
theorem exec_dmaRequestComplete (hw : s.works = true) (hr : (s.chanOf e ch.val).reqs.head? = some r)
    (hdone : r.total ≤ r.done) (hwaits : r.waits = []) (hc : r.checked = true) (hsum : r.sum = 0)
    (h : leaveChannel e ch r s = .ok () t) :
    exec (.dmaRequestComplete e ch) s = .next t := by
  refine run_next hw (u := ()) ?_
  have hguard : (decide (r.total ≤ r.done) && r.waits.isEmpty) = true := by simp [hdone, hwaits]
  have hnosum : ¬(r.sum ≠ 0 ∧ r.total ≠ 0 ∧ (!r.stored) = true) := fun hs => hs.1 hsum
  rw [run_bind_ok (run_get s), hr, run_bind_ok (run_needSome r s), hguard, run_bind_ok (run_guardWait_true s),
    run_bind_ok (run_attempt_ok ((run_bind_ok (run_asDma_ensureChecked hc e ch.val s)).trans
      ((congrFun (if_neg hnosum) s).trans (run_pure () s))))]
  dsimp only
  rw [run_bind_ok (run_get s), hr]
  dsimp only
  rw [hwaits, List.isEmpty_nil, if_pos rfl]
  exact h

/-- The state in which a request has left its channel. -/
def requestLeft (s : State) (e : DmaEng) (ch : Nat) (r : DmaReq) : State :=
  withChan s e ch { s.chanOf e ch with
    reqs := (s.chanOf e ch).reqs.filter (fun y => y.order ≠ r.order)
    chain := if r.stored then (s.chanOf e ch).chain else none }

theorem run_requestLeft (s : State) (e : DmaEng) (ch : Nat) (r : DmaReq) :
    modChan e ch (fun x => { x with
      reqs := x.reqs.filter (fun y => y.order ≠ r.order)
      chain := if r.stored then x.chain else none }) s = .ok ⟨⟩ (requestLeft s e ch r) := run_modChan e ch _ s

/-- On a core the request's token returns (R74). -/
theorem leaveChannel_core {n : CoreId} {k : Core} (hk : s.cores.find? n = some k) :
    leaveChannel (.core n) ch r s = .ok () (setCore (requestLeft s (.core n) ch.val r) n
      { k with pend := setNth k.pend 2 (nthD k.pend 2 0 - 1) }) := by
  unfold leaveChannel
  rw [run_bind_ok (run_requestLeft s _ ch.val r)]
  dsimp only
  rw [returnToken, run_bind_ok (run_modCore (s := requestLeft s (.core n) ch.val r) hk)]
  exact refreshChan_core n ch.val _

theorem sampleTime_ok (s : State) : ∃ n g, sampleTime s = .ok n { s with regs := g, seed := s.seed + 1 } := by
  unfold sampleTime
  rw [run_bind_ok (run_get s)]
  exact ⟨_, _, (run_bind_ok (run_set _ s)).trans (run_pure _ _)⟩

/-- The end latch of a die channel is kept; beside registers, counters and the count of free values nothing changes. -/
theorem latchChan_ok (d : Die) (ch : Nat) (c : Ctx) (q : QIdx) (idx : W32) (s : State) :
    ∃ g o, latchChan d ch c q idx s = .ok () { s with regs := g, obs := o, seed := s.seed + 1 } := by
  obtain ⟨n, g, htime⟩ := sampleTime_ok s
  unfold latchChan
  rw [run_bind_ok htime, run_bind_ok (run_get _)]
  dsimp only
  cases State.cmdOf { s with regs := g, seed := s.seed + 1 } c q idx with
  | none => exact ⟨_, _, run_pure () _⟩
  | some x => exact ⟨_, _, run_set _ _⟩

/-- The last request of a DMA command ends it with success. -/
theorem leaveChannel_ends {d : Die} {c : Cmd} (hc : s.cmdOf r.ctx r.q r.idx = some c) (hopen : c.ending = none)
    (hlast : c.count ≤ c.recDone + 1) :
    ∃ t, leaveChannel (.die d) ch r s = .ok () t ∧ EndStands r.ctx r.q r.idx ⟨0, 0, none⟩ s t := by
  obtain ⟨g, o, hlatch⟩ := latchChan_ok d ch.val r.ctx r.q r.idx (requestLeft s (.die d) ch.val r)
  let s1 : State := { requestLeft s (.die d) ch.val r with
    regs := g, obs := o, seed := (requestLeft s (.die d) ch.val r).seed + 1 }
  have hc1 : s1.cmdOf r.ctx r.q r.idx = some c := hc
  let s2 := setCmd s1 r.ctx r.q r.idx (fun c => { c with recDone := c.recDone + 1 })
  have hc2 : s2.cmdOf r.ctx r.q r.idx = some { c with recDone := c.recDone + 1 } := cmdOf_setCmd_same hc1 fun _ => rfl
  have hstands : EndStands r.ctx r.q r.idx ⟨0, 0, none⟩ s (setCmd s2 r.ctx r.q r.idx (ends 0 0)) :=
    ⟨⟨_, cmdOf_setCmd_same hc2 fun _ => rfl, rfl, rfl⟩, rfl, rfl, rfl⟩
  unfold leaveChannel
  rw [run_bind_ok (run_requestLeft s _ ch.val r)]
  dsimp only
  rw [run_bind_ok hlatch, run_bind_ok (run_modCmd r.ctx r.q r.idx _ s1), run_bind_ok (run_get s2), hc2]
  dsimp only
  rw [if_pos ⟨hlast, by rw [hopen]; rfl⟩, run_bind_ok (run_modCmd _ _ _ _ s2)]
  exact (EndStands.enterRecords d ch 4 |>.bind fun _ => EndStands.refreshChan _ _).unit hstands

end Sys2Proof.Machine

namespace Sys2Proof

open Sys2Proof.Machine

/-- Settles O33: what an engine does with a channel follows from whether it serves the channel after the cycles that have
passed, and one that is alone on its engine with credit is served; a request that leaves returns its token or, as the last of
its command, sets the ending, which the records that enter after it leave. -/
theorem dmaBursts : Obligations.DmaBursts := by
  unfold Obligations.DmaBursts
  refine fun s e ch hw => ⟨fun hheld => ⟨fun r r' u v hsome hserves hready hr hv => ?_, fun hsome hserves => ?_,
    fun n r he hmode hturn hkeys hready hcredit hcore hc hop hspace hobj hsum hstored hr => ?_⟩,
    fun r hr hdone hwaits hc hsum => ⟨fun n k he hk => ?_, fun d c he hcmd hopen hlast => ?_⟩⟩
  · obtain ⟨g, hg⟩ := refreshChan_ok e ch.val v
    exact ⟨_, hg, exec_dmaBurst hw hheld hsome ((serveChan_starts hserves hready hr hv).trans hg)⟩
  · exact exec_dmaBurst hw hheld hsome (serveChan_waits hserves)
  · subst he
    obtain ⟨g, o, hexec⟩ := exec_dmaBurst_fill hw hheld hmode hturn hkeys hready hcredit hc
      ⟨hcore, hop, hspace, hobj, hsum, hstored⟩ hr
    refine ⟨_, hexec, rfl, ?_, rfl, rfl⟩
    rw [chanOf_patternMoved, DmaCh.modReq, reqs_chanOf_taken, reqs_chanOf_seenEngine]
    rfl
  · subst he
    exact ⟨_, exec_dmaRequestComplete hw hr hdone hwaits hc hsum (leaveChannel_core hk),
      congrArg DmaCh.reqs (chanOf_withChan s _ ch.val _), rfl, rfl, rfl⟩
  · subst he
    obtain ⟨t, ht, hend, hmem, hsram, hcores⟩ := leaveChannel_ends (ch := ch) hcmd hopen hlast
    exact ⟨t, exec_dmaRequestComplete hw hr hdone hwaits hc hsum ht, hend, hcores, hmem, hsram⟩

end Sys2Proof
end

section
/-! PROOFS. Doorbells and consumer counts (R311, R326): a count in its permitted range takes effect, any other one sets REJECT. -/

namespace Sys2Proof.Machine

variable {s : State} {c : Ctx} {q : QIdx} {h : Half} {v : W64}

/-- How far a count of 32 bits is ahead of another one, as both wrap. -/
abbrev ahead (a b : Nat) : Nat := (a + 2 ^ 32 - b) % 2 ^ 32

/-- An access to the high half alone rings no doorbell. -/
theorem writeDoorbell_hi : writeDoorbell c q .hi v s = .ok () s := by
  unfold writeDoorbell
  rw [run_bind_ok (run_get s), if_pos (.inl rfl), run_pure]

theorem writeDoorbell_eq (hh : h ≠ .hi) (hl : s.ctxLive c = true) : writeDoorbell c q h v s = .ok ()
    (if s.fld (F.qState c q) = 2 ∧ s.flag (F.qWriter c q) = false ∧
        ahead (v.toNat % 2 ^ 32) (s.fld (F.qTail c q)) ≤ 2 ^ s.fld (F.qSizeLog2 c q) ∧
        ahead (v.toNat % 2 ^ 32) (s.fld (F.qHead c q)) ≤ 2 ^ s.fld (F.qSizeLog2 c q)
      then s.setFld (F.qTail c q) (v.toNat % 2 ^ 32) else s.setFlag (F.qDbReject c q) true) := by
  unfold writeDoorbell
  rw [run_bind_ok (run_get s), if_neg (by simp [hh, hl])]
  simp only [Bool.not_eq_true', run_if, run_putFld, run_putFlag]
  split <;> rfl

/-- An access to the high half alone moves no consumer count. -/
theorem writeHead_hi {head tail : Fld} {reject : Option Fld} : writeHead head tail reject .hi v s = .ok () s := by
  unfold writeHead
  rw [run_bind_ok (run_get s), if_pos rfl, run_pure]

theorem writeHead_eq {head tail : Fld} (reject : Option Fld) (hh : h ≠ .hi) : writeHead head tail reject h v s = .ok ()
    (if ahead (v.toNat % 2 ^ 32) (s.fld head) ≤ ahead (s.fld tail) (s.fld head) then s.setFld head (v.toNat % 2 ^ 32)
      else reject.elim s (s.setFlag · true)) := by
  unfold writeHead
  rw [run_bind_ok (run_get s), if_neg hh]
  cases reject <;> simp only [run_if, run_putFld, run_putFlag, run_pure] <;> split <;> rfl

/-! ### The registers as commands -/

/-- An access to the high half alone of a pointer has no effect. -/
theorem exec_pointers_hi (hw : s.works = true) : exec (.feQdbWrite c q .hi v) s = .next s ∧
    exec (.feQcptrWrite c q .hi v) s = .next s ∧ exec (.feEvptrWrite c .hi v) s = .next s ∧
    exec (.obTrptrWrite .hi v) s = .next s := by
  have hlive : ∀ m : M Unit, m s = .ok () s →
      ((get : M State) >>= fun t => if t.ctxLive c then m else pure ()) s = .ok () s := fun m hm => by
    rw [run_bind_ok (run_get s), run_if, hm, run_pure, ite_self]
  exact ⟨run_next hw writeDoorbell_hi, run_next hw (hlive _ writeHead_hi), run_next hw (hlive _ writeHead_hi),
    run_next hw writeHead_hi⟩

/-- A doorbell that lies in the permitted range takes effect. -/
theorem exec_feQdbWrite (hw : s.works = true) (hh : h ≠ .hi) (hl : s.ctxLive c = true) :
    exec (.feQdbWrite c q h v) s = .next
      (if s.fld (F.qState c q) = 2 ∧ s.flag (F.qWriter c q) = false ∧
          ahead (v.toNat % 2 ^ 32) (s.fld (F.qTail c q)) ≤ 2 ^ s.fld (F.qSizeLog2 c q) ∧
          ahead (v.toNat % 2 ^ 32) (s.fld (F.qHead c q)) ≤ 2 ^ s.fld (F.qSizeLog2 c q)
        then s.setFld (F.qTail c q) (v.toNat % 2 ^ 32) else s.setFlag (F.qDbReject c q) true) :=
  run_next hw (writeDoorbell_eq hh hl)

/-- Any other doorbell is refused. -/
theorem exec_feQdbWrite_refused (hw : s.works = true) (hh : h ≠ .hi) (hl : s.ctxLive c = true)
    (hbad : s.fld (F.qState c q) ≠ 2 ∨ s.flag (F.qWriter c q) = true ∨
      2 ^ s.fld (F.qSizeLog2 c q) < ahead (v.toNat % 2 ^ 32) (s.fld (F.qTail c q)) ∨
      2 ^ s.fld (F.qSizeLog2 c q) < ahead (v.toNat % 2 ^ 32) (s.fld (F.qHead c q))) :
    exec (.feQdbWrite c q h v) s = .next (s.setFlag (F.qDbReject c q) true) := by
  rw [exec_feQdbWrite hw hh hl, if_neg]
  rintro ⟨hstate, hwriter, htail, hhead⟩
  rcases hbad with hb | hb | hb | hb
  exacts [hb hstate, absurd hb (by simp [hwriter]), absurd htail (Nat.not_le.mpr hb), absurd hhead (Nat.not_le.mpr hb)]

theorem exec_feQcptrWrite (hw : s.works = true) (hh : h ≠ .hi) (hl : s.ctxLive c = true) :
    exec (.feQcptrWrite c q h v) s = .next
      (if ahead (v.toNat % 2 ^ 32) (s.fld (F.qChead c q)) ≤ ahead (s.fld (F.qCtail c q)) (s.fld (F.qChead c q))
        then s.setFld (F.qChead c q) (v.toNat % 2 ^ 32) else s.setFlag (F.qPtrReject c q) true) := by
  refine run_next hw (u := ()) ?_
  rw [run_bind_ok (run_get s), hl]
  exact writeHead_eq (some (F.qPtrReject c q)) hh

theorem exec_feEvptrWrite (hw : s.works = true) (hh : h ≠ .hi) (hl : s.ctxLive c = true) :
    exec (.feEvptrWrite c h v) s = .next
      (if ahead (v.toNat % 2 ^ 32) (s.fld (F.evHead c)) ≤ ahead (s.fld (F.evTail c)) (s.fld (F.evHead c))
        then s.setFld (F.evHead c) (v.toNat % 2 ^ 32) else s.setFlag (F.evPtrReject c) true) := by
  refine run_next hw (u := ()) ?_
  rw [run_bind_ok (run_get s), hl]
  exact writeHead_eq (some (F.evPtrReject c)) hh

end Sys2Proof.Machine
end

section
/-! PROOFS. Writes of a fence (R316, R329, R331). -/

namespace Sys2Proof.Machine

variable {s : State} {c : Ctx} {f : FenceId} {h : Half} {v : W64}

/-- A fence that is poisoned ignores every signal (R331). -/
theorem signalFence_poisoned (hp : s.flag (F.fencePoison c f) = true) (op value : Nat) :
    signalFence c f op value s = .ok () s := by
  unfold signalFence
  rw [run_bind_ok (run_get s), if_pos hp, run_pure]

/-- A SET signal leaves the greater value (R316). -/
theorem signalFence_set (hp : s.flag (F.fencePoison c f) = false) (value : Nat) :
    signalFence c f 1 value s = .ok () (s.setFld (F.fence c f) (max (s.fld (F.fence c f)) value)) := by
  unfold signalFence
  rw [run_bind_ok (run_get s), if_neg (by simp [hp])]
  exact run_putFld _ _ s

/-- A full write presents its data to the fence. -/
theorem written_feFval {x : Nat} (hx : x < 2 ^ 64) (v : W64) :
    Reg.written (.feFval c f) x .full (halfPlace .full v) = v.toNat := by
  have hv := v.isLt
  change putBits x 0 64 (bitsOf v.toNat 0 64) = v.toNat
  unfold putBits bitsOf
  omega

theorem exec_feFvalWrite_poisoned (hw : s.works = true) (hl : s.ctxLive c = true) (hp : s.flag (F.fencePoison c f) = true) :
    exec (.feFvalWrite c f h v) s = .next s := by
  refine run_next hw (u := ()) ?_
  unfold writeFval
  rw [run_bind_ok (run_get s), hl, Bool.not_true, if_neg Bool.false_ne_true, signalFence_poisoned hp]

theorem exec_feFvalWrite_full (hw : s.works = true) (hl : s.ctxLive c = true) (hp : s.flag (F.fencePoison c f) = false) :
    exec (.feFvalWrite c f .full v) s = .next (s.setFld (F.fence c f) (max (s.fld (F.fence c f)) v.toNat)) := by
  refine run_next hw (u := ()) ?_
  unfold writeFval
  rw [run_bind_ok (run_get s), hl, Bool.not_true, if_neg Bool.false_ne_true, signalFence_set hp,
    written_feFval (reg_lt s _)]

/-- An access that reaches the low half presents its low bits. -/
theorem bitOf_halfPlace (hh : h ≠ .hi) {i : Nat} (hi : i < 32) : bitOf (halfPlace h v) i = v.getLsbD i := by
  cases h with
  | full => exact bitOf_toNat v i
  | lo =>
    rw [bitOf, halfPlace, beq_eq_decide, ← Nat.testBit_eq_decide_div_mod_eq, Nat.testBit_mod_two_pow, decide_eq_true hi,
      Bool.true_and, BitVec.getLsbD]
  | hi => exact absurd rfl hh

/-- The state after FE_FCFGf is written with RESET. -/
def fenceReset (s : State) (c : Ctx) (f : FenceId) (h : Half) (v : W64) : State :=
  ((s.plainWrite (.feFcfg c f) h v).setFld (F.fence c f) 0).setFlag (F.fencePoison c f) false

theorem exec_fenceReset (hw : s.works = true) (hl : s.ctxLive c = true) (hh : h ≠ .hi) (hv : v.getLsbD 9 = true) :
    exec (.fenceReset c f h v) s = .next (fenceReset s c f h v) := by
  refine run_next hw (u := ()) ?_
  rw [bitOf_halfPlace hh (by decide), hv, run_bind_ok (run_guardWait_true s)]
  unfold writeFcfg
  rw [run_bind_ok (run_get s), hl, Bool.not_true, if_neg Bool.false_ne_true, run_bind_ok (run_set _ s),
    bitOf_halfPlace hh (by decide), hv, if_pos rfl, run_bind_ok (run_putFld _ _ _), run_putFlag, fenceReset]

theorem fenceReset_effect : (fenceReset s c f h v).fld (F.fence c f) = 0 ∧
    (fenceReset s c f h v).flag (F.fencePoison c f) = false ∧
    ∀ r, r ≠ Reg.feFval c f → r ≠ Reg.feFcfg c f → (fenceReset s c f h v).reg r = s.reg r := by
  refine ⟨?_, ?_, fun r hval hcfg => ?_⟩
  · exact (fld_setFlag_other (f := F.fencePoison c f) (g := F.fence c f) nofun).trans
      (fld_setFld_same (f := F.fence c f) _ 0 (by decide : 0 + 64 ≤ 64))
  · exact flag_setFlag_same _ false (by decide : 8 + 1 ≤ 64) rfl
  · exact (reg_setFld_other (f := F.fencePoison c f) hcfg.symm).trans
      ((reg_setFld_other (f := F.fence c f) hval.symm).trans (reg_setReg_other hcfg.symm))

end Sys2Proof.Machine
end

section
/-! PROOFS. The interval of a vector (R457). -/

namespace Sys2Proof.Machine

variable {s : State} {c : Ctx} {v : Fin 2} {x : VecSt}

/-- What the state holds of a vector. -/
def State.vec (s : State) (c : Ctx) (v : Fin 2) : VecSt := s.cxl.vecs.getD (c, v) .initial

/-- The state with a vector set and messages sent. -/
def setVec (s : State) (c : Ctx) (v : Fin 2) (x : VecSt) (out : List Out) : State :=
  { s with cxl := { s.cxl with vecs := s.cxl.vecs.insert (c, v) x }, out := out }

@[simp] theorem vec_setVec (s : State) (c : Ctx) (v : Fin 2) (x : VecSt) (out : List Out) : (setVec s c v x out).vec c v = x :=
  AMap.getD_insert_same _ _ _ _

/-- The interval ends: a message that is due is sent and starts another one. -/
theorem exec_msixIntervalExpiry (hw : s.works = true) (hx : s.vec c v = x) (hh : x.hot = true) :
    exec (.msixIntervalExpiry c v) s = .next (setVec s c v
      { x with hot := x.pending && !x.masked, pending := x.pending && !(x.pending && !x.masked) }
      (if x.pending && !x.masked then s.out ++ [.msix c v] else s.out)) := by
  subst hx
  refine run_next hw (u := ()) ?_
  rw [run_bind_ok (run_get s)]
  dsimp only
  rw [show (s.cxl.vecs.getD (c, v) .initial).hot = true from hh, run_bind_ok (run_guardWait_true s)]
  exact run_set _ s

theorem exec_msixIntervalExpiry_sends (hw : s.works = true) (hx : s.vec c v = x) (hh : x.hot = true)
    (hp : x.pending = true) (hm : x.masked = false) : exec (.msixIntervalExpiry c v) s = .next
      (setVec s c v { masked := false, pending := false, hot := true } (s.out ++ [.msix c v])) := by
  rw [exec_msixIntervalExpiry hw hx hh, hp, hm]
  rfl

theorem exec_msixIntervalExpiry_rests (hw : s.works = true) (hx : s.vec c v = x) (hh : x.hot = true)
    (hq : x.pending = false ∨ x.masked = true) :
    exec (.msixIntervalExpiry c v) s = .next (setVec s c v { x with hot := false } s.out) := by
  have hsend : (x.pending && !x.masked) = false := by rcases hq with h | h <;> simp [h]
  rw [exec_msixIntervalExpiry hw hx hh, hsend, Bool.not_false, Bool.and_true]
  rfl

/-- A vector of a function that exists fires: it sends where it may, else it is pending. -/
theorem run_fireMsix (hc : c.val ≤ s.cxl.numVfs) (hx : s.vec c v = x) : fireMsix c v s = .ok ()
    (setVec s c v (if !x.masked && !x.hot then { x with pending := false, hot := true } else { x with pending := true })
      (if !x.masked && !x.hot then s.out ++ [.msix c v] else s.out)) := by
  subst hx
  unfold fireMsix
  rw [run_bind_ok (run_get s), if_neg (Nat.not_lt.mpr hc)]
  exact run_set _ s

/-- The vector is unmasked, and fires if it is pending. -/
theorem exec_msixVectorUnmask {t : State} (hw : s.works = true) (hx : s.vec c v = x) (hc : c.val ≤ s.cxl.numVfs)
    (ht : (if x.pending then fireMsix c v else pure ()) (setVec s c v { x with masked := false } s.out) = .ok () t) :
    exec (.msixVectorUnmask c v) s = .next t := by
  subst hx
  refine run_next hw (u := ()) ?_
  rw [run_bind_ok (run_get s), decide_eq_true hc, run_bind_ok (run_guardWait_true s), run_bind_ok (run_get s)]
  exact ht

theorem msixVectorUnmask_sends (hw : s.works = true) (hx : s.vec c v = x) (hc : c.val ≤ s.cxl.numVfs)
    (hp : x.pending = true) (hh : x.hot = false) : completes (.msixVectorUnmask c v) s (fun t =>
      t.out = s.out ++ [.msix c v] ∧ t.vec c v = { masked := false, pending := false, hot := true }) := by
  obtain ⟨masked, pending, hot⟩ := x
  cases hp
  cases hh
  exact ⟨_, exec_msixVectorUnmask hw hx hc (run_fireMsix hc (vec_setVec _ _ _ _ _)), rfl, vec_setVec _ _ _ _ _⟩

/-- A vector that is not pending sends nothing; one within its interval stays pending. -/
theorem msixVectorUnmask_rests (hw : s.works = true) (hx : s.vec c v = x) (hc : c.val ≤ s.cxl.numVfs)
    (hq : x.pending = false ∨ x.hot = true) : completes (.msixVectorUnmask c v) s (fun t =>
      t.out = s.out ∧ t.vec c v = { x with masked := false }) := by
  obtain ⟨masked, pending, hot⟩ := x
  cases pending with
  | false => exact ⟨_, exec_msixVectorUnmask hw hx hc (run_pure () _), rfl, vec_setVec _ _ _ _ _⟩
  | true =>
    obtain rfl : hot = true := hq.resolve_left nofun
    exact ⟨_, exec_msixVectorUnmask hw hx hc (run_fireMsix hc (vec_setVec _ _ _ _ _)), rfl, vec_setVec _ _ _ _ _⟩

end Sys2Proof.Machine

namespace Sys2Proof

open Sys2Proof.Machine

/-- Settles O21: each write is one comparison of counts, one signal or one reset; a vector sends exactly where it is pending,
not masked and outside its interval. -/
theorem pointerWrites : Obligations.PointerWrites := by
  unfold Obligations.PointerWrites
  refine ⟨fun s c q h v hw => ⟨?_, fun hh hl => ⟨?_, ?_, ?_, ?_, ?_, ?_⟩, ?_⟩,
    fun s c f v hw hl => ⟨?_, ?_, ?_⟩, fun s c v hw => ⟨?_, ?_, ?_, ?_⟩⟩
  · rintro rfl
    exact exec_pointers_hi hw
  · intro hstate hwriter htail hhead
    rw [exec_feQdbWrite hw hh hl, if_pos ⟨hstate, hwriter, htail, hhead⟩]
  · exact exec_feQdbWrite_refused hw hh hl
  · intro hin
    rw [exec_feQcptrWrite hw hh hl, if_pos hin]
  · intro hout
    rw [exec_feQcptrWrite hw hh hl, if_neg (Nat.not_le.mpr hout)]
  · intro hin
    rw [exec_feEvptrWrite hw hh hl, if_pos hin]
  · intro hout
    rw [exec_feEvptrWrite hw hh hl, if_neg (Nat.not_le.mpr hout)]
  · exact fun hh => run_next hw (writeHead_eq none hh)
  · exact fun hp h => exec_feFvalWrite_poisoned hw hl hp
  · intro hp
    refine ⟨_, exec_feFvalWrite_full hw hl hp, ?_, rfl, rfl, fun r hr => reg_setFld_other hr.symm⟩
    rw [fld_setFld_same _ _ (by decide : 0 + 64 ≤ 64)]
    exact Nat.mod_eq_of_lt (max_lt (fld_lt s (F.fence c f)) v.isLt)
  · intro h hh hv
    obtain ⟨hval, hpoison, hregs⟩ := fenceReset_effect (s := s) (c := c) (f := f) (h := h) (v := v)
    exact ⟨_, exec_fenceReset hw hl hh hv, hval, hpoison, rfl, rfl, hregs⟩
  · exact exec_msixIntervalExpiry_sends hw rfl
  · exact exec_msixIntervalExpiry_rests hw rfl
  · exact fun hc _ hp hh => msixVectorUnmask_sends hw rfl hc hp hh
  · exact fun hc _ hq => msixVectorUnmask_rests hw rfl hc hq

end Sys2Proof
end

section
/-! PROOFS. Prefetch (R310, R313, R320, R321): what an entry that is not well formed and a buffer whose header is not are read
as, and how what was read is appended. -/

namespace Sys2Proof.Machine

variable {s t u v : State} {c : Ctx} {q : QIdx} {idx : W32} {x : Cmd} {ent b : List Byte} {α : Type}

/-- A read of the front end that succeeds is the read itself. -/
theorem run_attempt_feRead {m : M α} {a : α} (h : m s = .ok a t) : attempt (feRead m) s = .ok (.ok a) t := by
  refine run_attempt_ok ((run_bind_ok (run_attempt_ok h)).trans ?_)
  exact run_pure a t

/-- The command of an entry of which no more than its count and its tag is known. -/
def Cmd.tagged (idx : W32) (ent : List Byte) : Cmd := { Cmd.blank idx with tag := BitVec.ofNat 32 (recField ent 0xC 4) }

/-- The read of an entry of the ring. -/
def readEntry (s : State) (c : Ctx) (q : QIdx) (idx : W32) : M (List Byte) :=
  vaRead c ((s.queueOf c q).ring + 64 * (idx.toNat % 2 ^ s.fld (F.qSizeLog2 c q))) 64

/-- An entry that is not well formed ends its command with FE_BAD_ENTRY (R313). -/
theorem readCommand_badEntry (he : readEntry s c q idx s = .ok ent u) (hbad : entryOk ent = false) :
    readCommand c q idx s = .ok ((Cmd.tagged idx ent).failed (.code 2 0x40)) u := by
  refine (run_bind_ok (run_get s)).trans ((run_bind_ok (run_attempt_feRead he)).trans ?_)
  exact (congrFun (if_pos (by rw [hbad]; rfl)) u).trans (run_pure _ u)

/-- A buffer whose header is not well formed ends its command with FE_BAD_HEADER (R321). -/
theorem readCommand_badHeader (he : readEntry s c q idx s = .ok ent t) (hok : entryOk ent = true)
    (hb : vaRead c (recField ent 0 8) (recField ent 8 4) t = .ok b u) (hrecs : recordsFault c b u = .ok none v)
    (hbad : parseHeader v c (Cmd.tagged idx ent) b = none) :
    readCommand c q idx s = .ok ((Cmd.tagged idx ent).failed (.code 2 0x41)) v := by
  refine (run_bind_ok (run_get s)).trans ((run_bind_ok (run_attempt_feRead he)).trans ?_)
  refine (congrFun (if_neg (by rw [hok]; exact Bool.false_ne_true)) t).trans ((run_bind_ok (run_attempt_feRead hb)).trans ?_)
  refine (run_bind_ok hrecs).trans ((run_bind_ok (run_get v)).trans ?_)
  rw [← Cmd.tagged, hbad]
  exact run_pure _ v

/-- The state with a command appended to a queue. -/
def appendCmd (s : State) (c : Ctx) (q : QIdx) (x : Cmd) : State :=
  { s with queues := s.queues.insert (c, q) { s.queueOf c q with cmds := (s.queueOf c q).cmds ++ [x] } }

/-- A command that failed its prefetch is counted. -/
def countFailed (s : State) (x : Cmd) : State := if x.ending.isSome then s.bump F.fePrefetchFaults else s

/-- Prefetch appends what it read at the head, and HEAD advances (R310, R320). -/
theorem exec_prefetch (hw : s.works = true) (hstate : s.fld (F.qState c q) = 2)
    (hhead : s.fld (F.qHead c q) ≠ s.fld (F.qTail c q)) (hstarted : ∀ y ∈ (s.queueOf c q).cmds, y.started = true)
    (hread : readCommand c q (BitVec.ofNat 32 (s.fld (F.qHead c q))) s = .ok x u) :
    exec (.prefetch c q) s = .next
      (appendCmd ((countFailed u x).setFld (F.qHead c q) ((s.fld (F.qHead c q) + 1) % 2 ^ 32)) c q x) := by
  have hguard : (s.fld (F.qState c q) == 2 && s.fld (F.qHead c q) != s.fld (F.qTail c q) &&
      (s.queueOf c q).cmds.all (·.started)) = true := by
    simp only [hstate, bne_iff_ne.mpr hhead, List.all_eq_true.mpr hstarted, BEq.rfl, Bool.and_self]
  refine run_next hw (u := ()) ?_
  rw [run_bind_ok (run_get s), hguard, run_bind_ok (run_guardWait_true s), run_bind_ok hread, run_if, countFailed]
  split
  · exact (run_bind_ok (run_bump _ u)).trans ((run_bind_ok (run_putFld _ _ _)).trans (run_modQueue _ _ _ _))
  · exact (run_bind_ok (run_putFld _ _ _)).trans (run_modQueue _ _ _ _)

end Sys2Proof.Machine

namespace Sys2Proof

open Sys2Proof.Machine

/-- Settles O23: prefetch goes through in order what it reads, and a failure of one part ends the command with that part's
code. -/
theorem prefetch : Obligations.Prefetch := by
  unfold Obligations.Prefetch
  refine ⟨fun s u c q x hw hstate hhead hstarted hread => exec_prefetch hw hstate hhead hstarted hread,
    fun s u c q idx ent he => ⟨readCommand_badEntry he, fun hok b u' v hb hrecs hbad => ?_⟩⟩
  exact readCommand_badHeader he hok hb hrecs hbad

end Sys2Proof
end

section
/-! PROOFS. The start of a command (R320, R325): its times, and its place in RUNNING. -/

namespace Sys2Proof.Machine

variable {s t : State} {c : Ctx} {q : QIdx} {x : Cmd} {phase : CmdPhase} {now : Nat}

/-- The command as its start leaves it. -/
def starts (phase : CmdPhase) (now step : Nat) (x : Cmd) : Cmd :=
  { x with phase := phase, started := true, startTime := now, startStep := step, ticks := 0 }

/-- The state in which a command has begun. -/
def begun (s : State) (c : Ctx) (q : QIdx) (x : Cmd) (phase : CmdPhase) (now : Nat) : State :=
  let t := setCmd (sampled s now) c q x.idx (starts phase now s.stepNo)
  { t.setFld (F.qRunning c q) (min 0xFFFF (t.fld (F.qRunning c q) + 1)) with seed := t.seed + 1 }

theorem fld_begun_other {f : Fld} (hr : .feQstat c q ≠ f.reg) (ht : f.reg ≠ .tkTime) :
    (begun s c q x phase now).fld f = s.fld f :=
  (fld_setFld_other (f := F.qRunning c q) hr).trans (fld_sampled ht)

theorem fld_begun_running : (begun s c q x phase now).fld (F.qRunning c q) = min 0xFFFF (s.fld (F.qRunning c q) + 1) := by
  have hlook : (setCmd (sampled s now) c q x.idx (starts phase now s.stepNo)).fld (F.qRunning c q) = s.fld (F.qRunning c q) :=
    fld_sampled nofun
  refine (fld_setFld_same (f := F.qRunning c q) _ _ (by decide : 32 + 16 ≤ 64)).trans ?_
  rw [hlook]
  exact Nat.mod_eq_of_lt (Nat.lt_of_le_of_lt (Nat.min_le_left _ _) (by decide : 0xFFFF < 2 ^ 16))

/-- Which command a count names is a matter of the queues alone. -/
theorem cmdOf_congr {u : State} {idx : W32} (h : t.queues = u.queues) : t.cmdOf c q idx = u.cmdOf c q idx := by
  rw [State.cmdOf, State.cmdOf, State.queueOf, State.queueOf, h]

theorem queues_begun : (begun s c q x phase now).queues =
    (setCmd (sampled s now) c q x.idx (starts phase now s.stepNo)).queues := by
  simp only [begun, setFld_queues]

theorem cmdOf_begun (hx : s.cmdOf c q x.idx = some x) :
    (begun s c q x phase now).cmdOf c q x.idx = some (starts phase now s.stepNo x) :=
  (cmdOf_congr queues_begun).trans (cmdOf_setCmd_same (s := sampled s now) hx fun _ => rfl)

/-- Where nothing is traced, the start of a command is the change of its times and of RUNNING. -/
theorem beginCmd_ok (ht : s.flag F.trEnable = false) (c : Ctx) (q : QIdx) (x : Cmd) (phase : CmdPhase) :
    ∃ now, beginCmd c q x phase s = .ok () (begun s c q x phase now) := by
  obtain ⟨now, g, htime⟩ := sampleTime_ok s
  have hstep : (sampled s now).stepNo = s.stepNo := fld_sampled nofun
  have hoff : (begun s c q x phase now).flag F.trEnable = false := by
    rw [State.flag, fld_begun_other (f := F.trEnable) nofun nofun]
    exact ht
  refine ⟨now, ?_⟩
  rw [sampleTime_run htime] at htime
  unfold beginCmd
  rw [run_bind_ok htime, run_bind_ok (run_get _), hstep, run_bind_ok (run_modCmd _ _ _ _ _), run_bind_ok (run_getFld _ _),
    run_bind_ok (run_putFld _ _ _), run_bind_ok (run_fresh _)]
  exact trace_off hoff _ _ _ _ _ _ _

/-- A command whose waits are met and whose ring has room starts; where it is a KERNEL, on its cores later (log 42). -/
theorem exec_commandStart (hw : s.works = true) (hx : s.nextCmd c q = some x) (hstate : s.fld (F.qState c q) = 2)
    (hphase : x.phase = .waiting) (hwaits : ∀ w ∈ x.waits, s.waitMet c w = true) (hkind : s.kindStarts x = true)
    (hroom : s.ringRoom c q (s.startedCount c q + 1) = true)
    (ht : (if x.kind = 1 then modCmd c q x.idx (fun y => { y with phase := .started }) else beginCmd c q x .started) s =
      .ok () t) : exec (.commandStart c q) s = .next t := by
  have hguard : (s.fld (F.qState c q) == 2 && x.phase == .waiting && x.waits.all (s.waitMet c) && s.kindStarts x &&
      s.ringRoom c q (s.startedCount c q + 1)) = true := by
    simp only [hstate, hphase, List.all_eq_true.mpr hwaits, hkind, hroom, BEq.rfl, Bool.and_self]
  refine run_next hw (u := ()) ?_
  rw [run_bind_ok (run_get s), hx, run_bind_ok (run_needSome x s), hguard, run_bind_ok (run_guardWait_true s)]
  exact ht

end Sys2Proof.Machine
end

section
/-! PROOFS. The start of a KERNEL command (R66, R355): each of its cores has the state of kernel start with its rank. -/

namespace Sys2Proof.Machine

variable {s t : State} {c : Ctx} {q : QIdx} {x : Cmd}

/-- No columns wait for a command start, and `t` is as `s` in its cores, its memories and what queues count as running. -/
structure Entering (s t : State) : Prop where
  pend : t.rep.pendCols = []
  cores : t.cores = s.cores
  mem : t.mem = s.mem
  sram : t.sram = s.sram
  running : ∀ c q, t.fld (F.qRunning c q) = s.fld (F.qRunning c q)

namespace Entering

theorem takeColumns (n : CoreId) : Preserves (Entering s) (takeColumns n) :=
  .get_bind fun t h => by
    rw [h.pend]
    exact ⟨(), t, run_pure () t, h⟩

theorem enterCore (n : CoreId) : Preserves (Entering s) (enterCore n) := by
  refine .bind .read fun _ => .ite (.bind (.modify fun t h => ?_) fun _ => .bind (.modify fun t h => ?_) fun _ =>
    takeColumns n) (takeColumns n)
  · exact ⟨h.pend, h.cores, h.mem, h.sram, h.running⟩
  · exact ⟨h.pend, h.cores, h.mem, h.sram, fun c q =>
      (fld_setFld_other (f := F.testYielded _) (g := F.qRunning c q) nofun).trans (h.running c q)⟩

theorem sampled (h : Entering s t) (now : Nat) : Entering s (sampled t now) :=
  ⟨h.pend, h.cores, h.mem, h.sram, fun c q => (fld_sampled (f := F.qRunning c q) nofun).trans (h.running c q)⟩

end Entering

/-- A core takes the state that its command starts with. -/
theorem startOnCore_ok (n : CoreId) (k : Core) (h : Entering s t) :
    ∃ u, startOnCore n k t = .ok () u ∧ Entering { s with cores := s.cores.insert n k } u := by
  obtain ⟨u, hu, hent⟩ := (Entering.enterCore n).unit h
  obtain ⟨now, g, htime⟩ := sampleTime_ok u
  rw [sampleTime_run htime] at htime
  obtain ⟨hpend, hcores, hmem, hsram, hrunning⟩ := hent.sampled now
  refine ⟨_, (run_bind_ok hu).trans ((run_bind_ok htime).trans (run_modify _ _)), hpend, ?_, hmem, hsram, hrunning⟩
  exact congrArg (AMap.insert · n k) hcores

/-- Cores start one after another, each with a state of its own; the others are as they were. -/
theorem eachM_startOnCore (l : List (CoreId × Nat)) (k : Nat → Core) (hl : (l.map Prod.fst).Nodup) (h : Entering s t) :
    ∃ u, eachM l (fun p => startOnCore p.1 (k p.2)) t = .ok () u ∧ Entering { s with cores := u.cores } u ∧
      (∀ p ∈ l, u.cores.find? p.1 = some (k p.2)) ∧ ∀ n, n ∉ l.map Prod.fst → u.cores.find? n = s.cores.find? n := by
  induction l generalizing s t with
  | nil => exact ⟨t, run_eachM_nil _ t, ⟨h.pend, rfl, h.mem, h.sram, h.running⟩, nofun, fun n _ => by rw [h.cores]⟩
  | cons p l ih =>
    obtain ⟨hp, hl⟩ := List.nodup_cons.mp hl
    obtain ⟨u, hu, hstart⟩ := startOnCore_ok p.1 (k p.2) h
    obtain ⟨v, hv, hent, hin, hout⟩ := ih hl hstart
    refine ⟨v, by rw [eachM, run_bind_ok hu, hv], ⟨hent.pend, rfl, hent.mem, hent.sram, hent.running⟩, ?_, fun n hn => ?_⟩
    · intro r hr
      rcases List.mem_cons.mp hr with rfl | hr
      · rw [hout _ hp]
        exact AMap.find?_insert_same _ _ _
      · exact hin r hr
    · obtain ⟨hne, hnl⟩ := not_or.mp (fun e => hn (List.mem_cons.mpr e))
      rw [hout n hnl]
      exact AMap.find?_insert_other (Ne.symm hne)

theorem eraseDups_of_nodup {α : Type} [BEq α] [LawfulBEq α] {l : List α} (h : l.Nodup) : l.eraseDups = l := by
  induction l with
  | nil => rfl
  | cons a l ih =>
    obtain ⟨ha, hl⟩ := List.nodup_cons.mp h
    have hkeep : l.filter (fun b => !b == a) = l := List.filter_eq_self.mpr fun b hb => by
      simpa using fun e : b = a => ha (e ▸ hb)
    rw [List.eraseDups_cons, hkeep, ih hl]

/-- What a core of the command starts with: its rank, and the registers of kernel start (R66). -/
def kernelCore (s : State) (c : Ctx) (q : QIdx) (x : Cmd) (o : HandleObj) (rank : Nat) : Core :=
  Core.initial c (s.genOf c) q x.idx none rank x.ranks (w64 x.args) o.address o.size (s.stepNo % 2)

/-- A KERNEL command that comes first begins, and starts on the cores of its list. -/
theorem exec_kernel {cores : List CoreId} {o : HandleObj} {u : State} (hw : s.works = true) (hx : s.nextCmd c q = some x)
    (ho : x.code = some o) (hphase : x.phase = .started) (hkind : x.kind = 1) (hruns : s.kernelsRun c = true)
    (hstarts : s.kindStarts x = true) (hlen : cores.length = x.ranks) (hnodup : cores.Nodup)
    (hfree : ∀ n ∈ cores, n ∈ s.kernelCores c) (hfirst : s.kernelFirst c q x (s.kernelCores c).length = true)
    (hu : beginCmd c q x .running s = .ok () u)
    (ht : eachM cores.zipIdx (fun p => startOnCore p.1 (kernelCore s c q x o p.2)) u = .ok () t) :
    exec (.kernel c q cores) s = .next t := by
  have hguard : (x.phase == .started && x.kind == 1 && s.kernelsRun c && s.kindStarts x && cores.length == x.ranks &&
      cores.eraseDups == cores && cores.all (fun n => (s.kernelCores c).contains n) &&
      s.kernelFirst c q x (s.kernelCores c).length) = true := by
    have hall : cores.all (fun n => (s.kernelCores c).contains n) = true :=
      List.all_eq_true.mpr fun n hn => List.contains_iff_mem.mpr (hfree n hn)
    simp only [hphase, hkind, hruns, hstarts, hlen, eraseDups_of_nodup hnodup, hall, hfirst, BEq.rfl, Bool.and_self]
  refine run_next hw (u := ()) ?_
  rw [run_bind_ok (run_get s), hx, run_bind_ok (run_needSome x s), ho, run_bind_ok (run_needSome o s), hguard,
    run_bind_ok (run_guardWait_true s), run_bind_ok hu]
  exact ht

end Sys2Proof.Machine
end

section
/-! PROOFS. The steps of the kinds of command (R294, R315, R322, R345): a MARKER, a DMA command and a REQUEST. -/

namespace Sys2Proof.Machine

variable {s t : State} {c : Ctx} {q : QIdx} {x : Cmd} {P : State → Prop}

theorem exec_marker (hw : s.works = true)
    (hx : (s.queueOf c q).cmds.find? (fun y => y.kind == 3 && y.phase == .started) = some x) :
    exec (.marker c q) s = .next (setCmd s c q x.idx (ends 0 0)) := by
  refine run_next hw (u := ⟨⟩) ?_
  rw [run_bind_ok (run_get s), hx, run_bind_ok (run_needSome x s)]
  exact run_modCmd _ _ _ _ s

theorem exec_request (hw : s.works = true)
    (hx : (s.queueOf c q).cmds.find? (fun y => y.kind == 4 && y.phase == .started) = some x) :
    exec (.request c q) s = .next { setCmd s c q x.idx (fun y => { y with phase := .running }) with
      sched := { s.sched with reqs := s.sched.reqs ++ [parseRequest s c q x], order := s.sched.order + 1 } } := by
  refine run_next hw (u := ⟨⟩) ?_
  rw [run_bind_ok (run_get s), hx, run_bind_ok (run_needSome x s), run_bind_ok (run_modCmd _ _ _ _ s)]
  exact run_modify _ _

/-! ### A DMA command -/

/-- What the entry of a record is made of keeps, the entry of records keeps. -/
theorem Preserves.enterRecords
    (hcmd : ∀ c q i, Preserves P (modCmd c q i fun y => { y with recLeft := y.recLeft.drop 1 }))
    (hstart : ∀ d ch, Preserves P (startOnChannel d ch)) (hchan : ∀ e ch f, Preserves P (modChan e ch f))
    (d : Die) (ch : Fin 32) (n : Nat) : Preserves P (enterRecords d ch n) := by
  induction n with
  | zero => exact .pure _
  | succ n ih =>
    unfold Machine.enterRecords
    refine .bind .read fun t => .ite (.pure _) ?_
    dsimp only
    split
    · exact .pure _
    · refine .bind (hcmd _ _ _) fun _ => ?_
      split <;> exact .ite (.bind (hstart _ _) fun _ => .bind (hchan _ _ _) fun _ => ih) (.bind (hchan _ _ _) fun _ => ih)

/-- In `t` the command runs with all its records on the channel that `s` chooses for it, whose engine has numbered them;
device memory and the cores are as in `s`. -/
structure OnChannel (s : State) (c : Ctx) (q : QIdx) (x : Cmd) (t : State) : Prop where
  cmd : ∃ y, t.cmdOf c q x.idx = some y ∧ y.phase = .running ∧ y.chan = some (s.dmaChannel c q x.die) ∧ y.count = x.count
  next : (t.dmaOf (.die x.die)).next = (s.dmaOf (.die x.die)).next + x.count
  mem : t.mem = s.mem
  cores : t.cores = s.cores

namespace OnChannel

theorem of_eq {u : State} (h : OnChannel s c q x t) (hq : u.queues = t.queues) (hd : u.dma = t.dma) (hm : u.mem = t.mem)
    (hc : u.cores = t.cores) : OnChannel s c q x u := by
  refine ⟨?_, ?_, hm.trans h.mem, hc.trans h.cores⟩
  · rw [cmdOf_congr hq]; exact h.cmd
  · rw [State.dmaOf, hd]; exact h.next

theorem dropRecord (c' : Ctx) (q' : QIdx) (i : W32) :
    Preserves (OnChannel s c q x) (modCmd c' q' i fun y => { y with recLeft := y.recLeft.drop 1 }) :=
  .modify fun t h => by
    obtain ⟨y, hy, hphase, hchan, hcount⟩ := h.cmd
    refine ⟨?_, h.next, h.mem, h.cores⟩
    have hfind := cmdOf_setCmd (c := c) (q := q) (idx := x.idx) (f := fun y => { y with recLeft := y.recLeft.drop 1 })
      (fun _ => rfl) t c' q' i
    rw [hy] at hfind
    by_cases hq : (c', q') = (c, q)
    · rw [if_pos hq] at hfind
      refine ⟨_, hfind, ?_, ?_, ?_⟩ <;> dsimp only <;> split <;> assumption
    · rw [if_neg hq] at hfind
      exact ⟨y, hfind, hphase, hchan, hcount⟩

theorem startOnChannel (d : Die) (ch : Nat) : Preserves (OnChannel s c q x) (startOnChannel d ch) :=
  .bind (.get_of fun _ h => .bind (.set (h.of_eq rfl rfl rfl rfl)) fun _ => .pure _) fun _ =>
    .modify fun _ h => h.of_eq rfl rfl rfl rfl

/-- A change of a channel leaves the numbers that its engine gives. -/
theorem modChan (e : DmaEng) (ch : Nat) (f : DmaCh → DmaCh) : Preserves (OnChannel s c q x) (modChan e ch f) :=
  .modify fun t h => by
    refine ⟨h.cmd, Eq.trans ?_ h.next, h.mem, h.cores⟩
    by_cases he : e = .die x.die
    · rw [← he]
      exact (congrArg DmaEngSt.next (dmaOf_insert t e _) :)
    · exact congrArg DmaEngSt.next (AMap.getD_insert_other he)

theorem refreshChan (e : DmaEng) (ch : Nat) : Preserves (OnChannel s c q x) (refreshChan e ch) := fun t h => by
  obtain ⟨g, hg⟩ := refreshChan_ok e ch t
  exact ⟨(), _, hg, h.of_eq rfl rfl rfl rfl⟩

theorem enterRecords (d : Die) (ch : Fin 32) (n : Nat) : Preserves (OnChannel s c q x) (enterRecords d ch n) :=
  .enterRecords dropRecord startOnChannel modChan d ch n

end OnChannel

/-- The state in which the records of a command are numbered, and it runs on its channel (R294, R322). -/
def dmaPlaced (s : State) (c : Ctx) (q : QIdx) (x : Cmd) : State :=
  setCmd { s with dma := s.dma.insert (.die x.die) { s.dmaOf (.die x.die) with
      next := (s.dmaOf (.die x.die)).next + x.count } } c q x.idx (fun y => { y with
    phase := .running, chan := some (s.dmaChannel c q x.die)
    recLeft := y.recLeft.zipIdx.map (fun p => { p.1 with order := (s.dmaOf (.die x.die)).next + p.2 }) })

theorem onChannel_dmaPlaced (hx : s.cmdOf c q x.idx = some x) : OnChannel s c q x (dmaPlaced s c q x) :=
  ⟨⟨_, cmdOf_setCmd_same (s := { s with dma := _ }) hx fun _ => rfl, rfl, rfl, rfl⟩,
    congrArg DmaEngSt.next (dmaOf_insert s (.die x.die) _), rfl, rfl⟩

/-- A DMA command without records ends with success. -/
theorem exec_dma_empty (hw : s.works = true)
    (hx : (s.queueOf c q).cmds.find? (fun y => y.kind == 2 && y.phase == .started) = some x) (h0 : x.count = 0) :
    exec (.dma c q) s = .next (setCmd s c q x.idx (ends 0 0)) := by
  refine run_next hw (u := ⟨⟩) ?_
  rw [run_bind_ok (run_get s), hx, run_bind_ok (run_needSome x s), if_pos h0]
  exact run_modCmd _ _ _ _ s

/-- One with records is placed on a channel of its die, and its records enter as far as there is room. -/
theorem exec_dma (hw : s.works = true)
    (hx : (s.queueOf c q).cmds.find? (fun y => y.kind == 2 && y.phase == .started) = some x) (h0 : x.count ≠ 0)
    (hcmd : s.cmdOf c q x.idx = some x) : completes (.dma c q) s (OnChannel s c q x) := by
  obtain ⟨t, ht, hon⟩ := ((OnChannel.enterRecords x.die (s.dmaChannel c q x.die) 4).bind fun _ =>
    OnChannel.refreshChan (.die x.die) (s.dmaChannel c q x.die).val).unit (onChannel_dmaPlaced hcmd)
  refine ⟨t, run_next hw (u := ()) ?_, hon⟩
  rw [run_bind_ok (run_get s), hx, run_bind_ok (run_needSome x s), if_neg h0]
  dsimp only
  rw [run_bind_ok (run_modify _ s), run_bind_ok (run_modCmd _ _ _ _ _)]
  exact ht

end Sys2Proof.Machine

namespace Sys2Proof

open Sys2Proof.Machine

/-- Settles O25: a start sets the command's times and RUNNING; the cores of a KERNEL command take the state of kernel start one
after another, and a DMA command stays on its channel while its records enter. -/
theorem commandStarts : Obligations.CommandStarts := by
  unfold Obligations.CommandStarts
  refine ⟨fun s c q x hw htrace hnext hcmd =>
    ⟨fun hstate hphase hwaits hkind hroom => ⟨fun hkernel => ?_, fun hother => ?_⟩,
    fun cores o hcode hphase hkind hruns hstarts hlen hnodup hfree hfirst hcols => ?_⟩,
    fun s c q x hw => ⟨exec_marker hw, fun hx => ⟨exec_dma_empty hw hx, fun h0 hcmd => ?_⟩, exec_request hw⟩⟩
  · refine exec_commandStart hw hnext hstate hphase hwaits hkind hroom ?_
    rw [if_pos hkernel]
    exact run_modCmd _ _ _ _ s
  · obtain ⟨now, hbegin⟩ := beginCmd_ok htrace c q x .started
    refine ⟨_, exec_commandStart hw hnext hstate hphase hwaits hkind hroom ?_, ⟨now, cmdOf_begun hcmd⟩, fld_begun_running,
      rfl, rfl⟩
    rw [if_neg hother]
    exact hbegin
  · obtain ⟨now, hbegin⟩ := beginCmd_ok htrace c q x .running
    have hnodup' : (cores.zipIdx.map Prod.fst).Nodup := by rwa [List.zipIdx_map_fst]
    have hent : Entering (begun s c q x .running now) (begun s c q x .running now) := ⟨hcols, rfl, rfl, rfl, fun _ _ => rfl⟩
    obtain ⟨t, ht, hstands, hin, hout⟩ := eachM_startOnCore cores.zipIdx (kernelCore s c q x o) hnodup' hent
    refine ⟨t, exec_kernel hw hnext hcode hphase hkind hruns hstarts hlen hnodup hfree hfirst hbegin ht, fun i n hi => ?_,
      fun n hn => ?_, ?_, hstands.mem, hstands.sram⟩
    · exact hin (n, i) (List.mk_mem_zipIdx_iff_getElem?.mpr hi)
    · exact hout n (by rwa [List.zipIdx_map_fst])
    · exact (hstands.running c q).trans fld_begun_running
  · obtain ⟨t, ht, hon⟩ := exec_dma hw hx h0 hcmd
    exact ⟨t, ht, hon.cmd, hon.next, hon.mem, hon.cores⟩

end Sys2Proof
end

section
/-! PROOFS. A command that has ended while a host write of its is still unanswered: its record waits (R283, R284, R446). -/

namespace Sys2Proof.Machine

variable {s : State} {c : Ctx} {q : QIdx} {idx : W32} {x : Cmd} {e : Ending}

/-- A command whose record must wait for an answer does not complete: the state is as it was. -/
theorem exec_commandComplete_owes (hx : s.cmdOf c q idx = some x) (he : x.ending = some e) (ho : s.owes x = true) :
    exec (.commandComplete c q idx) s = .next s := by
  refine run_stays (e := .wait) (t := s) ?_
  rw [run_bind_ok (run_get s), hx, run_bind_ok (run_needSome x s), he, run_bind_ok (run_needSome e s), ho, Bool.not_true,
    Bool.and_false, Bool.false_and, run_bind, run_guardWait_false]

/-- A DMA command that was cancelled with a host write under way: its record waits for the answer to host request 0. -/
def owingCmd : Cmd :=
  { Cmd.blank 0 with kind := 2, started := true, phase := .ended, ending := some ⟨1, 0, none⟩, holds := [2 * 0] }

/-- Queue 1 of context 0 holds the command; host request 0, the read of length zero behind the write, has no answer yet. The
tables of context 0, all at 0, map the GiB from 2^30 to DPA 0 for reads and writes, and the completion ring lies there. -/
def owing : State := { State.reset.setFlag (F.rootValid 0) true with
  mem := { State.reset.mem with bytes := [(0, 1), (8, 0x0B), (9, 1)] }
  queues := [((0, 1), { QueueSt.empty with cmds := [owingCmd], cring := 2 ^ 30 + 0x1000 })]
  cxl := { State.reset.cxl with reqs := [⟨0, 0, 0, 0, [], .flush⟩], nextReq := 1 } }

theorem works_owing : owing.works = true := by decide +kernel

theorem silent_owing : Silent owing :=
  ⟨by decide +kernel, fun c =>
    (flag_setFlag_other (f := F.rootValid 0) (g := F.evEnable c) (b := true) nofun).trans (evEnable_reset c)⟩

/-- The computation ends well. -/
def endsWell (r : EStateM.Result Err State Unit) : Bool :=
  match r with
  | .ok _ _ => true
  | .error _ _ => false

theorem exists_of_endsWell {r : EStateM.Result Err State Unit} (h : endsWell r = true) : ∃ u, r = .ok () u := by
  cases r with
  | ok a u => exact ⟨u, rfl⟩
  | error e u => cases h

/-- The completion ring can be written. -/
theorem vaWrite_owing : endsWell (vaWrite 0 ((owing.queueOf 0 1).cring +
    32 * (owing.fld (F.qCtail 0 1) % 2 ^ owing.fld (F.qSizeLog2 0 1)))
    (completionRecord owing 0 1 owingCmd ⟨1, 0, none⟩ false) owing) = true := by decide +kernel

end Sys2Proof.Machine

namespace Sys2Proof

open Sys2Proof.Machine

/-- Refutes O26: it does not ask that every write of the command be answered. The record of a command with a host write under
way waits for the answer (R283, R284), so that its row leaves the command in its queue. -/
theorem not_commandCompletes : ¬ Obligations.CommandCompletes := by
  unfold Obligations.CommandCompletes
  rintro ⟨hcompletes, -⟩
  obtain ⟨u, hu⟩ := exists_of_endsWell vaWrite_owing
  have hcmd : owing.cmdOf 0 1 0 = some owingCmd := rfl
  have howes : owing.owes owingCmd = true := rfl
  obtain ⟨t, ht, -, -, -, hgone, -⟩ := hcompletes owing u 0 1 0 owingCmd ⟨1, 0, none⟩ works_owing silent_owing
    (by decide +kernel) hcmd rfl rfl rfl rfl rfl nofun (by decide +kernel) hu
  rw [exec_commandComplete_owes hcmd rfl howes] at ht
  cases ht
  rw [hcmd] at hgone
  cases hgone

end Sys2Proof
end

section
/-! SUPPORT. SYSTEM commands (R315, R339): the one that has started is found; its checks pass and its work is done, or a check
that fails ends it with the check's code and changes nothing else. -/

namespace Sys2Proof.Machine

variable {s t : State} {q : QIdx} {op : Nat} {x : Cmd} {c : Ctx}

theorem run_guardWait {b : Bool} (h : b = true) (s : State) : guardWait b s = .ok () s := by rw [h]; exact run_guardWait_true s

theorem run_guardCode {b : Bool} (h : b = true) (st fault : Nat) (s : State) : guardCode b st fault s = .ok () s := by
  rw [h]; exact run_guardCode_true st fault s

theorem run_guardCode_fails {b : Bool} (h : b = false) (st fault : Nat) (s : State) :
    guardCode b st fault s = .error (.code st fault) s := by
  rw [h]; exact run_guardCode_false st fault s

theorem run_bind_error {α β : Type} {m : M α} {f : α → M β} {e : Err} (h : m s = .error e t) :
    (m >>= f) s = .error e t := by
  rw [run_bind, h]

theorem run_eachM_one {α : Type} {f : α → M Unit} {a : α} (h : f a s = .ok () t) : eachM [a] f s = .ok () t :=
  (run_bind_ok h).trans (run_eachM_nil f t)

theorem run_modCtx (c : Ctx) (f : CtxSt → CtxSt) (s : State) :
    modCtx c f s = .ok ⟨⟩ { s with ctxs := s.ctxs.insert c (f (s.ctxs.getD c .absent)) } := run_modify _ s

theorem run_sysStarted (h : SysStarted s q op x) : sysStarted q op s = .ok x s := by
  unfold sysStarted
  rw [run_bind_ok (run_get s), h.first]
  exact run_needSome x s

/-- A SYSTEM command that runs is ended where its queue's generation stands. -/
theorem run_endSys (hgen : t.fld (F.qGen 0 q) = s.fld (F.qGen 0 q)) (hx : t.cmdOf 0 q x.idx = some x) (ho : x.ending = none)
    (st fault : Nat) : endSys (s.sysRef q x.idx) st fault t = .ok () (setCmd t 0 q x.idx (ends st fault)) := by
  have hcmd : t.sysCmd (s.sysRef q x.idx) = some x := by
    simp only [State.sysCmd, State.sysRef, hgen, if_true, hx]
  unfold endSys
  rw [run_bind_ok (run_get t), hcmd]
  dsimp only
  rw [ho, Option.isNone_none, if_pos rfl]
  exact run_modCmd _ _ _ _ t

/-- The command that has ended so is found with its ending. -/
theorem ended_ends (hx : t.cmdOf c q x.idx = some x) (st fault : Nat) :
    ended (setCmd t c q x.idx (ends st fault)) c q x.idx ⟨st, fault, none⟩ :=
  ⟨ends st fault x, cmdOf_setCmd_same hx fun _ => rfl, rfl, rfl⟩

/-- The row of a SYSTEM command whose checks pass answers the state that its work reaches. -/
theorem exec_system {i : Instr} {work : Cmd → M Unit} (h : SysStarted s q op x)
    (hi : exec i s = run (do let x ← sysStarted q op; sysRun q x (work x)) s) (ht : work x s = .ok () t) :
    exec i s = .next t := by
  rw [hi]
  refine run_next h.works (u := ()) ?_
  rw [run_bind_ok (run_sysStarted h)]
  unfold sysRun
  rw [run_bind_ok (run_get s)]
  exact run_bind_ok (run_attempt_ok ht)

/-- The row of a SYSTEM command with a check that fails ends the command with the check's code, and does nothing else. -/
theorem exec_system_fails {i : Instr} {work : Cmd → M Unit} {st fault : Nat} (h : SysStarted s q op x)
    (hi : exec i s = run (do let x ← sysStarted q op; sysRun q x (work x)) s) (hf : work x s = .error (.code st fault) s) :
    exec i s = .next (setCmd s 0 q x.idx (ends st fault)) := by
  rw [hi]
  refine run_next h.works (u := ()) ?_
  rw [run_bind_ok (run_sysStarted h)]
  unfold sysRun
  rw [run_bind_ok (run_get s)]
  refine (run_bind_ok (run_attempt_error hf nofun)).trans ?_
  exact run_endSys rfl h.named h.open' _ _

theorem run_bodyCtx {b : List Byte} {o : Nat} (hb : recField b o 2 = c.val) (hc : c ≠ 0) (s : State) :
    bodyCtx b o s = .ok c s := by
  have hfin : finOf 1025 (recField b o 2) = some c := by rw [hb]; exact dif_pos c.isLt
  unfold bodyCtx
  rw [hfin]
  exact (run_bind_ok (run_guardCode (bne_iff_ne.mpr hc) _ _ s)).trans (run_pure c s)

end Sys2Proof.Machine
end

section
/-! PROOFS. CTX_CREATE, and the checks of CTX_CREATE, CTX_DESTROY and PARTITION (R339, R355, R361, R475, R494). -/

namespace Sys2Proof.Machine

variable {s t u : State} {q : QIdx} {x : Cmd} {c : Ctx}

/-- The reset of a context's page leaves the registers that lie elsewhere. -/
theorem reg_resetPage {r : Reg} (hr : r.page ≠ some c) (s : State) : (s.resetPage c).reg r = s.reg r := by
  have hfind : AMap.find? (s.resetPage c).regs r = s.regs.find? r := by
    refine (find?_filter_fst s.regs (fun r => decide (r.page ≠ some c)) r).trans ?_
    rw [if_pos (decide_eq_true hr)]
  simp only [State.reg, AMap.getD, hfind]

theorem reg_congr (h : t.regs = u.regs) (r : Reg) : t.reg r = u.reg r := by rw [State.reg, State.reg, h]

theorem fld_congr (h : t.regs = u.regs) (f : Fld) : t.fld f = u.fld f := by rw [State.fld, State.fld, reg_congr h]

theorem flag_congr (h : t.regs = u.regs) (f : Fld) : t.flag f = u.flag f := by rw [State.flag, State.flag, fld_congr h]

theorem phase_of_live (h : s.ctxLive c = true) : (s.ctxs.getD c .absent).phase = .live := by
  unfold State.ctxLive at h
  split at h
  next hp => exact hp
  next => cases h

/-- What CTX_CREATE asks of its body, of the slot and of the life cycle (R339, R340, R477, R480). -/
structure Creatable (s : State) (x : Cmd) (c : Ctx) : Prop where
  named : recField x.body 2 2 = c.val
  client : c ≠ 0
  reserved : recField x.body 7 1 = 0 ∧ zeroFrom x.body 0x10 = true
  clusters : recField x.body 6 1 ≤ 48
  area : recField x.body 8 8 % 65536 = 0 ∧ recField x.body 8 8 < 2 ^ 57
  absent : (s.ctxs.getD c .absent).phase = .absent
  tables : s.flag (F.rootValid c) = true
  owner : s.ownerState = true
  drained : s.ctxDrains c = false
  noRekey : ∀ r, s.mem.rekey = some r → r.slot ≠ c.val
  noRekeyWait : c.val ∉ s.sec.rekeyWait

/-- The context as its body gives it, before it exists. -/
def bodyContext (s : State) (x : Cmd) (c : Ctx) : CtxSt :=
  { CtxSt.absent with
    gen := s.genOf c, models := recField x.body 4 2, saveClusters := recField x.body 6 1, saveArea := recField x.body 8 8 }

/-- The state once the save area has been checked and the body's fields are recorded. -/
def contextRecorded (s u : State) (x : Cmd) (c : Ctx) : State := { u with ctxs := u.ctxs.insert c (bodyContext s x c) }

/-- CTX_CREATE whose checks pass answers what it does after them. -/
theorem exec_ctxCreate (h : SysStarted s q 1 x) (hc : Creatable s x c)
    (hu : saveAreaOk c (recField x.body 8 8) (recField x.body 6 1) s = .ok () u) (hctxs : u.ctxs = s.ctxs)
    (ht : (if s.flag F.entropyFail then do
        sysRunning q x
        modCtx c (fun y => { y with phase := .creating (s.sysRef q x.idx) 0 })
      else do
        openContext c
        endSys (s.sysRef q x.idx) 0 0) (contextRecorded s u x c) = .ok () t) : exec (.ctxCreate q) s = .next t := by
  refine exec_system h rfl ?_
  dsimp only
  rw [run_bind_ok (run_bodyCtx hc.named hc.client s), run_bind_ok (run_get s)]
  refine (run_bind_ok (run_guardCode ?_ _ _ s)).trans ?_
  · simp only [hc.reserved, BEq.rfl, Bool.true_and, decide_eq_true_eq]
    exact ⟨hc.clusters, hc.area⟩
  refine (run_bind_ok (run_guardCode ?_ _ _ s)).trans ?_
  · simp [hc.absent]
  refine (run_bind_ok (run_guardCode hc.tables _ _ s)).trans ?_
  refine (run_bind_ok (run_guardCode hc.owner _ _ s)).trans ?_
  refine (run_bind_ok (run_guardWait ?_ s)).trans ?_
  · simp only [hc.absent, hc.drained, BEq.rfl, Bool.not_false, Bool.true_and, Bool.and_eq_true, Bool.not_eq_true']
    refine ⟨?_, by simpa using hc.noRekeyWait⟩
    split
    next r hr => simpa using hc.noRekey r hr
    next => rfl
  rw [run_bind_ok hu, run_bind_ok (run_modCtx _ _ u), hctxs]
  rw [contextRecorded, hctxs] at ht
  exact ht

/-- The state in which a context has been created: its page is reset, a new key is in its slot, and it exists. -/
def contextCreated (s u : State) (x : Cmd) (c : Ctx) : State :=
  { (contextRecorded s u x c).resetPage c with
    mem := u.mem.loadKey c.val
    ctxs := u.ctxs.insert c { bodyContext s x c with phase := .live } }

theorem openContext_contextRecorded : openContext c (contextRecorded s u x c) = .ok () (contextCreated s u x c) := by
  unfold openContext
  rw [run_bind_ok (run_modify _ _), run_bind_ok (run_modMem _ _), run_modCtx]
  simp only [contextRecorded, contextCreated, State.resetPage, AMap.getD_insert_same, AMap.insert_insert]

/-- With entropy, CTX_CREATE makes the context exist and completes with success. -/
theorem ctxCreate_completes (h : SysStarted s q 1 x) (hc : Creatable s x c)
    (hu : saveAreaOk c (recField x.body 8 8) (recField x.body 6 1) s = .ok () u) (hqueues : u.queues = s.queues)
    (hregs : u.regs = s.regs) (hctxs : u.ctxs = s.ctxs) (he : s.flag F.entropyFail = false) :
    completes (.ctxCreate q) s (fun t => ended t 0 q x.idx ⟨0, 0, none⟩ ∧
      t.ctxs.getD c .absent = { bodyContext s x c with phase := .live } ∧
      t.mem.slotKeys c.val = ⟨false, some u.mem.nextKey, none⟩ ∧ t.mem.bytes = u.mem.bytes ∧ t.cores = u.cores) := by
  have hgen : (contextCreated s u x c).fld (F.qGen 0 q) = s.fld (F.qGen 0 q) := by
    have hpage : (Reg.feQstat 0 q).page ≠ some c := fun e => hc.client (Option.some.inj e).symm
    have hreg : (contextCreated s u x c).reg (.feQstat 0 q) = s.reg (.feQstat 0 q) :=
      (reg_resetPage hpage (contextRecorded s u x c)).trans (reg_congr hregs _)
    exact congrArg (bitsOf · 8 8) hreg
  have hx : (contextCreated s u x c).cmdOf 0 q x.idx = some x := (cmdOf_congr hqueues).trans h.named
  refine ⟨_, exec_ctxCreate h hc hu hctxs ?_, ended_ends hx 0 0, AMap.getD_insert_same _ _ _ _, ?_, rfl, rfl⟩
  · rw [he, if_neg Bool.false_ne_true, run_bind_ok openContext_contextRecorded]
    exact run_endSys hgen hx h.open' 0 0
  · exact AMap.getD_insert_same _ _ _ _

/-- The state in which CTX_CREATE waits for a key. -/
def awaitingKey (s u : State) (q : QIdx) (x : Cmd) (c : Ctx) : State :=
  { setCmd (contextRecorded s u x c) 0 q x.idx (fun y => { y with phase := .running }) with
    ctxs := u.ctxs.insert c { bodyContext s x c with phase := .creating (s.sysRef q x.idx) 0 } }

/-- Without entropy, CTX_CREATE waits for a key. -/
theorem ctxCreate_waits (h : SysStarted s q 1 x) (hc : Creatable s x c)
    (hu : saveAreaOk c (recField x.body 8 8) (recField x.body 6 1) s = .ok () u) (hqueues : u.queues = s.queues)
    (hctxs : u.ctxs = s.ctxs) (he : s.flag F.entropyFail = true) :
    completes (.ctxCreate q) s (fun t => (t.ctxs.getD c .absent).phase = .creating (q, s.fld (F.qGen 0 q), x.idx) 0 ∧
      t.cmdOf 0 q x.idx = some { x with phase := .running } ∧ t.mem = u.mem) := by
  have hx : (contextRecorded s u x c).cmdOf 0 q x.idx = some x := (cmdOf_congr hqueues).trans h.named
  refine ⟨awaitingKey s u q x c, exec_ctxCreate h hc hu hctxs ?_,
    congrArg CtxSt.phase (AMap.getD_insert_same _ _ _ _), cmdOf_setCmd_same hx fun _ => rfl, rfl⟩
  rw [he, if_pos rfl]
  unfold sysRunning
  rw [run_bind_ok (run_modCmd _ _ _ _ _), run_modCtx]
  simp only [contextRecorded, awaitingKey, setCmd_ctxs, AMap.getD_insert_same, AMap.insert_insert]

/-! ### Checks that fail (R339) -/

theorem ctxCreate_exists (h : SysStarted s q 1 x) (hn : recField x.body 2 2 = c.val) (hc : c ≠ 0) (hl : s.ctxLive c = true) :
    exec (.ctxCreate q) s = .next (setCmd s 0 q x.idx (ends 2 0x51)) := by
  refine exec_system_fails h rfl ?_
  dsimp only
  rw [run_bind_ok (run_bodyCtx hn hc s), run_bind_ok (run_get s), phase_of_live hl]
  generalize (recField x.body 7 1 == 0 && _ && _ : Bool) = layout
  cases layout
  · exact run_bind_error (run_guardCode_fails rfl _ _ s)
  · exact (run_bind_ok (run_guardCode rfl _ _ s)).trans (run_bind_error (run_guardCode_fails rfl _ _ s))

theorem ctxDestroy_absent (h : SysStarted s q 2 x) (hn : recField x.body 2 2 = c.val) (hc : c ≠ 0)
    (ha : (s.ctxs.getD c .absent).phase = .absent) :
    exec (.ctxDestroy q) s = .next (setCmd s 0 q x.idx (ends 2 0x51)) := by
  refine exec_system_fails h rfl ?_
  dsimp only
  rw [run_bind_ok (run_bodyCtx hn hc s), run_bind_ok (run_get s), ha]
  exact run_bind_error (run_guardCode_fails (Bool.and_false _) _ _ s)

theorem partition_absent (h : SysStarted s q 3 x) (hn : recField x.body 2 2 = c.val) (hc : c ≠ 0)
    (hl : s.ctxLive c = false) : exec (.partition q) s = .next (setCmd s 0 q x.idx (ends 2 0x51)) := by
  refine exec_system_fails h rfl ?_
  dsimp only
  rw [run_bind_ok (run_bodyCtx hn hc s), run_bind_ok (run_get s), hl]
  exact run_bind_error (run_guardCode_fails rfl _ _ s)

theorem partition_reclaimed (h : SysStarted s q 3 x) (hn : recField x.body 2 2 = c.val) (hc : c ≠ 0)
    (hl : s.ctxLive c = true) (h9 : recField x.body 9 1 = 0) (hz : zeroFrom x.body 0xC = true) (hp : recField x.body 8 1 ≤ 3)
    (hr : s.reclaiming c = true) : exec (.partition q) s = .next (setCmd s 0 q x.idx (ends 2 0x53)) := by
  refine exec_system_fails h rfl ?_
  dsimp only
  rw [run_bind_ok (run_bodyCtx hn hc s), run_bind_ok (run_get s)]
  refine (run_bind_ok (run_guardCode ?_ _ _ s)).trans (run_bind_error (run_guardCode_fails ?_ _ _ s))
  · rw [hl, h9, hz, decide_eq_true hp]; rfl
  · rw [hr]; rfl

end Sys2Proof.Machine

namespace Sys2Proof

open Sys2Proof.Machine

/-- Settles O27: CTX_CREATE whose checks pass opens the context or waits for a key, and each other command fails the check that
looks for the context. -/
theorem systemContexts : Obligations.SystemContexts := by
  unfold Obligations.SystemContexts
  refine ⟨?_, fun s q x c hn hc => ⟨fun h hl => ctxCreate_exists h hn hc hl, fun h ha => ctxDestroy_absent h hn hc ha,
    fun h hl => partition_absent h hn hc hl, fun h hl h9 hz hp hr => partition_reclaimed h hn hc hl h9 hz hp hr⟩⟩
  intro s u q x c h b hn hc h7 hz hclusters hmod harea habsent htables howner hdrained hrekey hwait hu hqueues hregs hctxs
  have hok : Creatable s x c := ⟨hn, hc, ⟨h7, hz⟩, hclusters, ⟨hmod, harea⟩, habsent, htables, howner, hdrained, hrekey, hwait⟩
  exact ⟨ctxCreate_completes h hok hu hqueues hregs hctxs, ctxCreate_waits h hok hu hqueues hctxs⟩

end Sys2Proof
end

section
/-! SUPPORT. The scheduler's grants (R355–R360, R363): their choice and settling always end well, and change nothing but the
grants, the registers that show them, and the count of free values. -/

namespace Sys2Proof.Machine

variable {s t : State} {c : Ctx}

/-- The registers that show grants. -/
def Reg.ofGrants : Reg → Bool
  | .ssCluster _ | .ssPart _ | .ssSlice _ => true
  | _ => false

/-- A context's images, and whether they are being saved or restored. -/
def CtxSt.imaging (x : CtxSt) : Bool × Bool × List Image := (x.saving, x.restoring, x.images)

/-- Beside grants, their registers and the count of free values, `t` is `s`. -/
structure GrantsOnly (s t : State) : Prop where
  rest : t = { s with regs := t.regs, ctxs := t.ctxs, seed := t.seed }
  reg : ∀ r, r.ofGrants = false → t.reg r = s.reg r
  imaging : ∀ c, (t.ctxs.getD c .absent).imaging = (s.ctxs.getD c .absent).imaging

namespace GrantsOnly

theorem refl (s : State) : GrantsOnly s s := ⟨rfl, fun _ _ => rfl, fun _ => rfl⟩

theorem mem (h : GrantsOnly s t) : t.mem = s.mem := (congrArg State.mem h.rest :)
theorem sram (h : GrantsOnly s t) : t.sram = s.sram := (congrArg State.sram h.rest :)
theorem cores (h : GrantsOnly s t) : t.cores = s.cores := (congrArg State.cores h.rest :)
theorem queues (h : GrantsOnly s t) : t.queues = s.queues := (congrArg State.queues h.rest :)

theorem putFld (f : Fld) (v : Nat) (hf : f.reg.ofGrants = true) : Preserves (GrantsOnly s) (putFld f v) :=
  .modify fun t h => ⟨by rw [h.rest]; rfl, fun r hr => by
    have hne : f.reg ≠ r := by rintro rfl; exact absurd (hf.symm.trans hr) nofun
    rw [reg_setFld_other hne, h.reg r hr], h.imaging⟩

theorem fresh : Preserves (GrantsOnly s) fresh := .fresh fun _ h => ⟨by rw [h.rest], h.reg, h.imaging⟩

theorem modCtx (c : Ctx) {f : CtxSt → CtxSt} (hf : ∀ x, (f x).imaging = x.imaging) :
    Preserves (GrantsOnly s) (modCtx c f) :=
  .modify fun t h => ⟨by rw [h.rest], h.reg, fun d => by
    by_cases hd : c = d
    · subst hd
      exact (congrArg CtxSt.imaging (AMap.getD_insert_same _ _ _ _)).trans ((hf _).trans (h.imaging c))
    · exact (congrArg CtxSt.imaging (AMap.getD_insert_other hd)).trans (h.imaging d)⟩

theorem leaveGrant (c : Ctx) : Preserves (GrantsOnly s) (leaveGrant c) := modCtx c fun _ => rfl

theorem releaseGrant (c : Ctx) : Preserves (GrantsOnly s) (releaseGrant c) :=
  .bind .read fun _ => .ite (.bind (modCtx c fun _ => rfl) fun _ => putFld (F.sliceLeft c) _ rfl) (.pure _)

theorem takeClaims (c : Ctx) : Preserves (GrantsOnly s) (takeClaims c) :=
  .bind .read fun _ => .ite (.bind (modCtx c fun _ => rfl) fun _ => .bind (putFld (F.sliceLeft c) _ rfl) fun _ =>
    putFld (F.sliceDeduct c) _ rfl) (.pure _)

theorem refreshGranted : Preserves (GrantsOnly s) refreshGranted :=
  .bind .read fun _ => .bind (.eachM _ fun d => putFld (F.granted d) _ rfl) fun _ =>
    .eachM _ fun p => putFld (F.partRunning p.1) _ rfl

theorem refreshSaved : Preserves (GrantsOnly s) refreshSaved :=
  .bind .read fun _ => .bind (.eachM _ fun d => putFld (F.saved d) _ rfl) fun _ =>
    .eachM _ fun p => putFld (F.partSaved p.1) _ rfl

theorem refreshServing : Preserves (GrantsOnly s) refreshServing :=
  .bind .read fun _ => .eachM _ fun d => putFld (F.serving d) _ rfl

theorem settleGrants : Preserves (GrantsOnly s) settleGrants :=
  .bind .read fun _ => .bind (.eachM _ releaseGrant) fun _ => .bind .read fun _ => .bind (.eachM _ takeClaims) fun _ =>
    refreshGranted

/-- One grant after the other takes, keeps or leaves its clusters. -/
theorem chooseFrom (cs : List Ctx) (kept : List Nat) : Preserves (GrantsOnly s) (chooseFrom cs kept) := by
  induction cs generalizing kept with
  | nil => exact .pure _
  | cons c cs ih =>
    unfold Machine.chooseFrom
    refine .bind .read fun t => .ite ?_ (.ite ?_ ?_)
    · refine .bind fresh fun a => ?_
      split
      · exact ih kept
      · exact .ite (.bind (putFld (F.sliceDeduct c) 0 rfl) fun _ => .bind (modCtx c fun _ => rfl) fun _ => ih kept)
          (.bind (modCtx c fun _ => rfl) fun _ => ih _)
    · exact .ite (.bind (putFld (F.sliceLeft c) _ rfl) fun _ => ih _) (ih _)
    · exact .bind (leaveGrant c) fun _ => ih kept

theorem chooseGrants : Preserves (GrantsOnly s) chooseGrants := by
  have hend : Preserves (GrantsOnly s) (Machine.settleGrants >>= fun _ => Machine.refreshServing) :=
    .bind settleGrants fun _ => refreshServing
  exact .bind .read fun t => .ite (.bind (.eachM _ leaveGrant) fun _ => hend)
    (.bind (.eachM _ leaveGrant) fun _ => .bind (chooseFrom _ _) fun _ => hend)

end GrantsOnly

end Sys2Proof.Machine
end

section
/-! SUPPORT. The bookkeeping of the engines: what concerns no engine stands through the latches, the removal of work and the
device's own transfers. -/

namespace Sys2Proof.Machine

variable {s t : State} {P : State → Prop} {c : Ctx} {q : QIdx} {idx : W32} {e : Ending}

/-- The registers that show engines at work, and device time. -/
def Reg.ofEngines : Reg → Bool
  | .tkTime | .wlStatus _ | .clEng _ | .dmCh _ _ | .dmBytes _ => true
  | _ => false

/-- The condition does not look at engines, their registers, the counters, the host, nor the count of free values. -/
structure EngineBlind (P : State → Prop) : Prop where
  setFld : ∀ {t : State} (f : Fld) (v : Nat), f.reg.ofEngines = true → P t → P (t.setFld f v)
  engines : ∀ {t : State} {w d x j o n y}, P t →
    P { t with wells := w, dma := d, cxl := x, jobs := j, obs := o, seed := n, out := y }

namespace EngineBlind

theorem fresh (h : EngineBlind P) : Preserves P fresh := .fresh fun _ ht => h.engines ht

theorem sampleTime (h : EngineBlind P) : Preserves P sampleTime :=
  .get_of fun _ ht => .bind (.set (h.engines (h.setFld F.tkTime _ rfl ht))) fun _ => .pure _

theorem latchCore (h : EngineBlind P) (n : CoreId) : Preserves P (latchCore n) := by
  refine .bind h.sampleTime fun _ => .bind h.fresh fun _ => .get_of fun t ht => ?_
  split
  · exact .pure _
  · exact .set (h.engines ht)

theorem latchChan (h : EngineBlind P) (d : Die) (ch : Nat) (c : Ctx) (q : QIdx) (i : W32) :
    Preserves P (latchChan d ch c q i) := by
  refine .bind h.sampleTime fun _ => .get_of fun t ht => ?_
  split
  · exact .pure _
  · exact .set (h.engines ht)

theorem refreshWell (h : EngineBlind P) (x : WellId) : Preserves P (refreshWell x) :=
  .modify fun _ ht => h.setFld (F.wlQueued x) _ rfl ht

theorem refreshEng (h : EngineBlind P) (d : Die) : Preserves P (refreshEng d) :=
  .modify fun _ ht => h.setFld (F.engJobs d) _ rfl (h.setFld (F.engPending d) _ rfl ht)

theorem refreshChan (h : EngineBlind P) (g : DmaEng) (ch : Nat) : Preserves P (refreshChan g ch) :=
  .modify fun t ht => by
    split
    · exact h.setFld (F.dmBusy _ _) _ rfl (h.setFld (F.dmQueued _ _) _ rfl ht)
    · exact ht

theorem modChan (h : EngineBlind P) (g : DmaEng) (ch : Nat) (f : DmaCh → DmaCh) : Preserves P (modChan g ch f) :=
  .modify fun _ ht => h.engines ht

theorem startOnChannel (h : EngineBlind P) (d : Die) (ch : Nat) : Preserves P (startOnChannel d ch) :=
  .bind h.sampleTime fun _ => .modify fun _ ht => h.engines ht

theorem beginOwn (h : EngineBlind P) (d : Die) (use : OwnUse) : Preserves P (beginOwn d use) :=
  .bind h.fresh fun _ => .bind .read fun _ => .bind (.modify fun _ ht => h.engines ht) fun _ => h.refreshChan _ _

theorem endOwn (h : EngineBlind P) (use : OwnUse) (bytes : Die → Nat) : Preserves P (endOwn use bytes) := by
  refine .eachM _ fun d => .bind .read fun t => ?_
  dsimp only
  split
  · exact .bind (.modify fun _ ht => h.engines ht) fun _ => .bind (.modify fun _ ht => h.setFld (F.dmBytes d) _ rfl ht) fun _ =>
      .bind (.modify fun _ ht => h.engines ht) fun _ => h.refreshChan _ _
  · exact .pure _

end EngineBlind

/-- The condition does not look at commands and cores either. -/
structure WorkBlind (P : State → Prop) : Prop extends EngineBlind P where
  work : ∀ {t : State} {k q w d x j}, P t → P { t with cores := k, queues := q, wells := w, dma := d, cxl := x, jobs := j }

namespace WorkBlind

theorem modCmd (h : WorkBlind P) (c : Ctx) (q : QIdx) (i : W32) (f : Cmd → Cmd) : Preserves P (modCmd c q i f) :=
  .modify fun _ ht => h.work ht

theorem enterRecords (h : WorkBlind P) (d : Die) (ch : Fin 32) (n : Nat) : Preserves P (enterRecords d ch n) := by
  induction n with
  | zero => exact .pure _
  | succ n ih =>
    unfold Machine.enterRecords
    refine .bind .read fun t => .ite (.pure _) ?_
    dsimp only
    split
    · exact .pure _
    · refine .bind (h.modCmd _ _ _ _) fun _ => ?_
      split <;> exact .ite (.bind (h.startOnChannel _ _) fun _ => .bind (h.modChan _ _ _) fun _ => ih)
        (.bind (h.modChan _ _ _) fun _ => ih)

theorem dropDma (h : WorkBlind P) (c : Ctx) (q : QIdx) (i : W32) : Preserves P (dropDma c q i) :=
  .bind .read fun _ => .bind (.eachM _ fun _ => .eachM _ fun _ => .ite (h.latchChan _ _ _ _ _) (.pure _)) fun _ =>
    .get_of fun _ ht => .bind (.set (h.engines ht)) fun _ => .eachM _ fun _ => .eachM _ fun _ =>
      .ite (.bind (h.enterRecords _ _ _) fun _ => h.refreshChan _ _) (.pure _)

theorem dropCores (h : WorkBlind P) (ns : List CoreId) : Preserves P (dropCores ns) :=
  .bind (.eachM _ h.latchCore) fun _ => .get_of fun _ ht => .bind (.set (h.work ht)) fun _ =>
    .bind (.eachM _ h.refreshWell) fun _ => .eachM _ h.refreshEng

theorem oweWrites (h : WorkBlind P) (rs : List DmaReq) : Preserves P (oweWrites rs) := fun t ht => by
  obtain ⟨a, u, hu, x, o, rfl⟩ := oweWrites_hostOnly (s := t) rs t ⟨t.cxl, t.out, rfl⟩
  exact ⟨a, _, hu, h.engines ht⟩

theorem stopCmd (h : WorkBlind P) (c : Ctx) (q : QIdx) (i : W32) (e : Ending) : Preserves P (stopWork (.cmd c q i) e) := by
  unfold stopWork
  refine .bind .read fun t => ?_
  split
  · exact .pure _
  · exact .ite (.pure _) (.bind .read fun _ => .bind .read fun _ => .bind (h.oweWrites _) fun _ =>
      .bind (h.modCmd _ _ _ _) fun _ => .bind (h.dropCores _) fun _ => h.dropDma _ _ _)

end WorkBlind

/-- A register that shows no engine stands. -/
theorem workBlind_reg {r : Reg} (hr : r.ofEngines = false) (v : Nat) : WorkBlind (fun t => t.reg r = v) where
  setFld f _ hf ht := (reg_setFld_other (by rintro rfl; exact absurd (hf.symm.trans hr) nofun)).trans ht
  engines ht := ht
  work ht := ht

/-- Beside engines, their registers, the counters, the host and the count of free values, `t` is `s`. -/
structure EnginesOnly (s t : State) : Prop where
  rest : t = { s with
    regs := t.regs, wells := t.wells, dma := t.dma, cxl := t.cxl, jobs := t.jobs, obs := t.obs, seed := t.seed, out := t.out }
  reg : ∀ r, r.ofEngines = false → t.reg r = s.reg r

namespace EnginesOnly

theorem refl (s : State) : EnginesOnly s s := ⟨rfl, fun _ _ => rfl⟩

theorem mem (h : EnginesOnly s t) : t.mem = s.mem := (congrArg State.mem h.rest :)
theorem sram (h : EnginesOnly s t) : t.sram = s.sram := (congrArg State.sram h.rest :)
theorem cores (h : EnginesOnly s t) : t.cores = s.cores := (congrArg State.cores h.rest :)
theorem queues (h : EnginesOnly s t) : t.queues = s.queues := (congrArg State.queues h.rest :)
theorem ctxs (h : EnginesOnly s t) : t.ctxs = s.ctxs := (congrArg State.ctxs h.rest :)

theorem flag (h : EnginesOnly s t) {f : Fld} (hf : f.reg.ofEngines = false) : t.flag f = s.flag f := by
  rw [State.flag, State.flag, State.fld, State.fld, h.reg _ hf]

theorem blind (s : State) : EngineBlind (EnginesOnly s) where
  setFld f _ hf h := ⟨by rw [h.rest]; rfl, fun r hr => (workBlind_reg hr _).setFld f _ hf (h.reg r hr)⟩
  engines h := ⟨by rw [h.rest], h.reg⟩

end EnginesOnly

/-- The cores leave; but for them and the engines nothing changes. -/
theorem dropCores_only (ns : List CoreId) (s : State) : ∃ t, dropCores ns s = .ok () t ∧
    EnginesOnly { s with cores := s.cores.filter (fun p => !ns.contains p.1) } t := by
  obtain ⟨u, hu, honly⟩ := (Preserves.eachM ns (EnginesOnly.blind s).latchCore).unit (.refl s)
  unfold dropCores
  rw [run_bind_ok hu, run_bind_ok (run_get u), run_bind_ok (run_set _ u)]
  refine Preserves.unit (.bind (.eachM _ (EnginesOnly.blind _).refreshWell) fun _ => .eachM _ (EnginesOnly.blind _).refreshEng) ?_
  obtain ⟨hrest, hreg⟩ := honly
  exact ⟨by rw [hrest], hreg⟩

/-- What has been dropped is found no more. -/
theorem find?_dropped {ns : List CoreId} {n : CoreId} (hn : n ∈ ns) (m : AMap CoreId Core) :
    AMap.find? (m.filter fun p => !ns.contains p.1) n = none := by
  rw [find?_filter_fst m (fun n => !ns.contains n), List.contains_iff_mem.mpr hn]; rfl

/-- The end of a command where no job is open: its ending is set, its cores are free, and the memories and the registers that
show no engine stand. -/
theorem endCmd_ok {x : Cmd} (hj : s.jobs = []) (hx : s.cmdOf c q idx = some x) (ho : x.ending = none) (e : Ending) :
    ∃ t, endCmd c q idx e s = .ok () t ∧ ended t c q idx e ∧ t.mem = s.mem ∧
      (∀ n ∈ s.coresOf (.cmd c q idx), t.cores.find? n = none) ∧ ∀ r, r.ofEngines = false → t.reg r = s.reg r := by
  obtain ⟨t, ht, hend, hmem, -, hcores⟩ := stopWork_ok hx ho e
  refine ⟨t, ?_, hend, hmem, fun n hn => ?_, fun r hr =>
    Retains.of_preserves ((workBlind_reg hr _).stopCmd c q idx e) _ _ _ rfl ht⟩
  · unfold endCmd endWork
    rw [run_bind_ok (run_get s), hj]
    exact (run_bind_ok ht).trans (run_eachM_nil _ t)
  · rw [hcores]
    exact find?_dropped hn s.cores

end Sys2Proof.Machine
end

section
/-! PROOFS. PARTITION and RECLAIM whose checks pass (R23, R355, R361). -/

namespace Sys2Proof.Machine

variable {s t u : State} {q : QIdx} {x : Cmd} {c : Ctx} {idx : W32}

theorem leNat_lt (l : List Byte) : leNat l < 256 ^ l.length := by
  induction l with
  | nil => exact Nat.one_pos
  | cons b l ih =>
    have hb := b.isLt
    rw [leNat, List.length_cons, Nat.pow_succ]
    omega

theorem recField_lt (b : List Byte) (o n : Nat) : recField b o n < 256 ^ n :=
  (leNat_lt _).trans_le (Nat.pow_le_pow_right (by decide) (List.length_take_le n _))

/-- The state with the grant of a context recorded (R355). -/
def grantRecorded (s : State) (c : Ctx) (clusters priority slice : Nat) : State :=
  ((s.setFld (F.partClusters c) clusters).setFld (F.partPriority c) priority).setFld (F.partSlice c) slice

theorem grantRecorded_fields {clusters priority slice : Nat} (hc : clusters < 2 ^ 16) (hp : priority < 2 ^ 2)
    (hs : slice < 2 ^ 16) (s : State) (c : Ctx) : let t := grantRecorded s c clusters priority slice
    t.fld (F.partClusters c) = clusters ∧ t.fld (F.partPriority c) = priority ∧ t.fld (F.partSlice c) = slice := by
  refine ⟨?_, ?_, ?_⟩
  · refine (fld_setFld_apart (f := F.partSlice c) (g := F.partClusters c) _ _ rfl (by decide : 32 + 16 ≤ 64)
      (.inr (by decide : 0 + 16 ≤ 32))).trans ?_
    refine (fld_setFld_apart (f := F.partPriority c) (g := F.partClusters c) _ _ rfl (by decide : 16 + 2 ≤ 64)
      (.inr (by decide : 0 + 16 ≤ 16))).trans ?_
    exact (fld_setFld_same (f := F.partClusters c) s _ (by decide : 0 + 16 ≤ 64)).trans (Nat.mod_eq_of_lt hc)
  · refine (fld_setFld_apart (f := F.partSlice c) (g := F.partPriority c) _ _ rfl (by decide : 32 + 16 ≤ 64)
      (.inr (by decide : 16 + 2 ≤ 32))).trans ?_
    exact (fld_setFld_same (f := F.partPriority c) _ _ (by decide : 16 + 2 ≤ 64)).trans (Nat.mod_eq_of_lt hp)
  · exact (fld_setFld_same (f := F.partSlice c) _ _ (by decide : 32 + 16 ≤ 64)).trans (Nat.mod_eq_of_lt hs)

theorem fld_grantRecorded_other {clusters priority slice : Nat} {f : Fld} (hf : .ssPart c ≠ f.reg) :
    (grantRecorded s c clusters priority slice).fld f = s.fld f :=
  (fld_setFld_other (f := F.partSlice c) hf).trans <| (fld_setFld_other (f := F.partPriority c) hf).trans <|
    fld_setFld_other (f := F.partClusters c) hf

/-- The clusters per die that a PARTITION asks for. -/
def askedClusters (x : Cmd) (d : Nat) : Nat := recField x.body (4 + d) 1

/-- They in the order of SS_PARTc's field. -/
def askedWord (x : Cmd) : Nat :=
  askedClusters x 0 + 16 * askedClusters x 1 + 256 * askedClusters x 2 + 4096 * askedClusters x 3

theorem askedWord_eq (x : Cmd) :
    (((upTo 4).map (askedClusters x)).zipIdx.map (fun p => p.1 * 16 ^ p.2)).sum = askedWord x := by
  simp only [upTo, List.range_succ, List.range_zero, List.map_cons, List.map_nil, List.nil_append,
    List.cons_append, List.zipIdx_cons, List.zipIdx_nil, List.sum_cons, List.sum_nil, askedWord]
  ring

/-- No die has more than 12 clusters, so the field holds what is asked. -/
theorem askedWord_lt (hlimit : ∀ d < 4, askedClusters x d ≤ s.grantLimit) : askedWord x < 2 ^ 16 := by
  have h (d : Nat) (hd : d < 4) : askedClusters x d ≤ 12 := (hlimit d hd).trans (Nat.sub_le _ _)
  have h0 := h 0 (by decide)
  have h1 := h 1 (by decide)
  have h2 := h 2 (by decide)
  have h3 := h 3 (by decide)
  unfold askedWord
  omega

/-- What PARTITION asks of its body (R355, R361). -/
structure Grantable (s : State) (x : Cmd) (c : Ctx) : Prop where
  named : recField x.body 2 2 = c.val
  client : c ≠ 0
  live : s.ctxLive c = true
  reserved : recField x.body 9 1 = 0 ∧ zeroFrom x.body 0xC = true
  priority : recField x.body 8 1 ≤ 3
  notReclaimed : s.reclaiming c = false
  limit : ∀ d < 4, askedClusters x d ≤ s.grantLimit
  saved : (s.ctxs.getD c .absent).saveClusters = 0 ∨
    askedClusters x 0 + askedClusters x 1 + askedClusters x 2 + askedClusters x 3 ≤ (s.ctxs.getD c .absent).saveClusters

/-- PARTITION whose checks pass records the grant and completes with success. -/
theorem exec_partition (h : SysStarted s q 3 x) (hc : Grantable s x c) :
    exec (.partition q) s = .next (setCmd (grantRecorded s c (askedWord x) (recField x.body 8 1) (recField x.body 0xA 2))
      0 q x.idx (ends 0 0)) := by
  refine exec_system h rfl ?_
  change (bodyCtx x.body 2 >>= fun _ => _) s = _
  rw [run_bind_ok (run_bodyCtx hc.named hc.client s), run_bind_ok (run_get s)]
  refine (run_bind_ok (run_guardCode ?_ _ _ s)).trans ?_
  · rw [hc.live, hc.reserved.1, hc.reserved.2, decide_eq_true hc.priority]; rfl
  refine (run_bind_ok (run_guardCode ?_ _ _ s)).trans ?_
  · rw [hc.notReclaimed]; rfl
  refine (run_bind_ok (run_guardCode ?_ _ _ s)).trans ?_
  · have hall : ((upTo 4).map (askedClusters x)).all (fun k => decide (k ≤ s.grantLimit)) = true := by
      simpa [upTo] using fun d hd => hc.limit d hd
    have hsum : ((upTo 4).map (askedClusters x)).sum =
        askedClusters x 0 + askedClusters x 1 + askedClusters x 2 + askedClusters x 3 := by
      simp [upTo, List.range_succ, Nat.add_assoc]
    have hfits : ((s.ctxs.getD c .absent).saveClusters == 0 ||
        decide (((upTo 4).map (askedClusters x)).sum ≤ (s.ctxs.getD c .absent).saveClusters)) = true := by
      rw [hsum]
      simpa using hc.saved
    exact Bool.and_eq_true_iff.mpr ⟨hall, hfits⟩
  rw [run_bind_ok (run_putFld _ _ _), run_bind_ok (run_putFld _ _ _), run_bind_ok (run_putFld _ _ _)]
  refine (run_endSys (fld_grantRecorded_other nofun) h.named h.open' 0 0).trans ?_
  rw [← askedWord_eq]
  rfl

/-- The step by which a RECLAIM is to be done (R23, R361). -/
def reclaimDue (s : State) (x : Cmd) : Nat :=
  let ms := if recField x.body 4 4 = 0 then s.fld F.reclaimMs else recField x.body 4 4
  (s.stepNo + ceilDiv (ms * 1000) (max 1 (s.fld F.tkPeriod))) % 2 ^ 48

/-- The record of a RECLAIM of one context, with the drain region of its target. -/
def reclaimOf (s : State) (q : QIdx) (x : Cmd) (c : Ctx) (r : Nat × Nat × Nat × Nat) : ReclaimSt :=
  { q := s.sysRef q x.idx, posted := s.time.ticks, deadline := reclaimDue s x, qp := r.1, rkey := r.2.1, base := r.2.2.1
    slotBytes := r.2.2.2, ctxs := [c] }

/-- The context with the earliest of its reclaims' deadlines. -/
def CtxSt.dueBy (y : CtxSt) (step : Nat) : CtxSt :=
  { y with reclaimAt := some (match y.reclaimAt with
    | some d => min d step
    | none => step) }

/-- The state in which a RECLAIM runs. -/
def reclaimRuns (s u : State) (q : QIdx) (x : Cmd) (c : Ctx) (r : Nat × Nat × Nat × Nat) : State :=
  let v := setCmd u 0 q x.idx (fun y => { y with phase := .running })
  { v.setFlag (F.partReclaim c) true with
    sched := { u.sched with reclaims := u.sched.reclaims ++ [reclaimOf s q x c r] }
    ctxs := u.ctxs.insert c ((u.ctxs.getD c .absent).dueBy (reclaimDue s x)) }

/-- What RECLAIM asks of a body that names one context, and of the handle of its target (R361, R408). -/
structure Reclaimable (s : State) (x : Cmd) (c : Ctx) (o : HandleObj) : Prop where
  one : recField x.body 2 2 = 1
  reserved : recField x.body 0xC 4 = 0 ∧ zeroFrom x.body 0x12 = true
  named : recField x.body 0x10 2 = c.val
  client : c ≠ 0
  live : s.ctxLive c = true
  target : x.handleAt 8 = some o
  memory : o.kind = 1 ∧ bitOf o.rights 0 = true ∧ 64 ≤ o.size

/-- RECLAIM of one context whose checks pass runs. -/
theorem exec_reclaim {o : HandleObj} {rb : List Byte} {r : Nat × Nat × Nat × Nat} (h : SysStarted s q 4 x)
    (hc : Reclaimable s x c o) (hs : s.flag (F.evEnable c) = false) (hu : vaRead 0 o.address 64 s = .ok rb u)
    (hr : drainRegion rb = some r) (hqp : u.qpEthernet r.1 = true) (hregs : u.regs = s.regs) (htime : u.time = s.time) :
    exec (.reclaim q) s = .next (reclaimRuns s u q x c r) := by
  obtain ⟨qp, rkey, base, slot⟩ := r
  refine exec_system h rfl ?_
  dsimp only
  rw [run_bind_ok (run_get s)]
  refine (run_bind_ok (run_guardCode ?_ _ _ s)).trans ?_
  · rw [hc.one, hc.reserved.1, hc.reserved.2]; rfl
  have hone : mapM' (upTo 1) (fun k => bodyCtx x.body (0x10 + 2 * k)) s = .ok [c] s :=
    mapM'_ok (g := fun _ => c) (upTo 1) fun k hk => by
      have hk0 : k = 0 := by simpa [upTo] using hk
      rw [hk0]
      exact run_bodyCtx hc.named hc.client s
  rw [hc.one, run_bind_ok hone]
  refine (run_bind_ok (run_guardCode ?_ _ _ s)).trans ?_
  · rw [List.all_cons, hc.live]; rfl
  rw [hc.target]
  refine (run_bind_ok (run_pure o s)).trans ?_
  refine (run_bind_ok (run_guardCode ?_ _ _ s)).trans ?_
  · rw [hc.memory.1, hc.memory.2.1, decide_eq_true hc.memory.2.2]; rfl
  refine (run_bind_ok (t := u) (a := rb) ?_).trans ?_
  · exact run_bind_ok (run_attempt_ok hu)
  rw [hr]
  refine (run_bind_ok (run_pure _ u)).trans ?_
  refine (run_bind_ok (run_get u)).trans ?_
  refine (run_bind_ok (run_guardCode hqp _ _ u)).trans ?_
  refine (run_bind_ok (run_modCmd _ _ _ _ u)).trans ?_
  refine (run_bind_ok (run_modify _ _)).trans ?_
  have hq : s.sysRef q x.idx = u.sysRef q x.idx := by rw [State.sysRef, State.sysRef, fld_congr hregs]
  have hoff : (reclaimRuns s u q x c (qp, rkey, base, slot)).flag (F.evEnable c) = false := by
    refine (flag_setFlag_other (f := F.partReclaim c) (g := F.evEnable c) nofun).trans ?_
    exact (flag_congr hregs _).trans hs
  rw [List.eraseDups_cons, List.filter_nil, List.eraseDups_nil]
  refine run_eachM_one ?_
  refine (run_bind_ok (run_putFlag _ _ _)).trans ((run_bind_ok (run_modCtx _ _ _)).trans ?_)
  refine Eq.trans ?_ (LinksOnly.raiseEvent_off hoff 0x07 c.val (reclaimDue s x))
  rw [reclaimRuns, reclaimOf, hq, ← htime]
  rfl

end Sys2Proof.Machine
end

section
/-! PROOFS. The end of a slice (R356), and commands past their budget or bound (R357, R492). -/

namespace Sys2Proof.Machine

variable {s t : State} {c : Ctx} {q : QIdx} {idx : W32} {x : Cmd} {e : Ending}

/-- A slice that is over puts the grant behind those of its priority, and the scheduler chooses again. -/
theorem exec_sliceEnd (hw : s.works = true) (ho : s.sliceOver c = true) (hl : (s.ctxs.getD c .absent).lastRan < s.time.ticks) :
    ∃ t, chooseGrants { s with ctxs := s.ctxs.insert c { s.ctxs.getD c .absent with lastRan := s.time.ticks } } = .ok () t ∧
      exec (.sliceEnd c) s = .next t := by
  obtain ⟨t, ht, -⟩ := GrantsOnly.chooseGrants.unit (.refl { s with
    ctxs := s.ctxs.insert c { s.ctxs.getD c .absent with lastRan := s.time.ticks } })
  refine ⟨t, ht, run_next hw (u := ()) ?_⟩
  rw [run_bind_ok (run_get s)]
  refine (run_bind_ok (run_guardWait ?_ s)).trans ?_
  · rw [ho, decide_eq_true hl]; rfl
  · exact (run_bind_ok (run_modCtx _ _ s)).trans ht

/-- The command has its ending, its cores are free, and device memory stands. -/
structure EndedAndFree (s t : State) (c : Ctx) (q : QIdx) (idx : W32) (e : Ending) : Prop where
  ended : ended t c q idx e
  freed : ∀ m ∈ s.coresOf (.cmd c q idx), t.cores.find? m = none
  mem : t.mem = s.mem

/-- Grants that settle leave ended what has ended. -/
theorem GrantsOnly.ended {u : State} (hg : GrantsOnly t u) (h : ended t c q idx e) : ended u c q idx e := by
  obtain ⟨y, hy, hphase, hend⟩ := h
  exact ⟨y, (cmdOf_congr hg.queues).trans hy, hphase, hend⟩

/-- A preemptible KERNEL command past its budget ends and is counted (R492). -/
theorem budgetExpiry_completes (hw : s.works = true) (hx : s.cmdOf c q idx = some x) (hst : x.started = true)
    (ho : x.ending = none) (hj : s.jobs = []) (hk : x.kind = 1) (hp : x.preemptible = true)
    (hb : (if x.bound = 0 then s.fld F.feBudgetTicks else x.bound) < x.ticks) :
    completes (.budgetExpiry c q idx) s (fun t => EndedAndFree s t c q idx ⟨0xE, 0xB1, none⟩ ∧
      t.fld F.resetsBudget = satAdd (2 ^ F.resetsBudget.width - 2) (s.fld F.resetsBudget) 1) := by
  obtain ⟨t, ht, hend, hmem, hcores, hreg⟩ := endCmd_ok hj hx ho ⟨0xE, 0xB1, none⟩
  obtain ⟨u, hu, hgrants⟩ := GrantsOnly.settleGrants.unit (.refl (t.bump F.resetsBudget))
  refine completes_of_run hw rfl ⟨u, ?_, ⟨hgrants.ended hend, fun m hm => ?_, ?_⟩, ?_⟩
  · unfold budgetExpiry
    rw [run_bind_ok (run_get s), hx, run_bind_ok (run_needSome x s)]
    refine (run_bind_ok (run_guardWait ?_ s)).trans ?_
    · rw [hst, ho, hk, hp, decide_eq_true hb]; rfl
    · rw [run_bind_ok ht, run_bind_ok (run_bump _ t), hu]
  · rw [hgrants.cores]; exact hcores m hm
  · rw [hgrants.mem]; exact hmem
  · have hcount : t.fld F.resetsBudget = s.fld F.resetsBudget := by rw [State.fld, State.fld, hreg _ rfl]
    rw [State.fld, hgrants.reg _ rfl, ← hcount]
    exact fld_bump_same t (by decide)

/-- In context 0, a command past its bound ends alone. -/
theorem nonpreemptOverrun_completes (hw : s.works = true) (hx : s.cmdOf 0 q idx = some x) (hst : x.started = true)
    (ho : x.ending = none) (hj : s.jobs = []) (hk : (x.kind = 1 ∧ x.preemptible = false) ∨ x.kind = 2)
    (hb : x.bound ≤ x.ticks) :
    completes (.nonpreemptOverrun 0 q idx) s (fun t => EndedAndFree s t 0 q idx ⟨0xB, 0xB6, none⟩) := by
  obtain ⟨t, ht, hend, hmem, hcores, -⟩ := endCmd_ok hj hx ho ⟨0xB, 0xB6, none⟩
  refine completes_of_run hw rfl ⟨t, ?_, hend, hcores, hmem⟩
  unfold nonpreemptOverrun
  rw [run_bind_ok (run_get s), hx, run_bind_ok (run_needSome x s)]
  refine (run_bind_ok (run_guardWait ?_ s)).trans ?_
  · have hkind : ((x.kind == 1 && !x.preemptible) || x.kind == 2) = true := by
      rcases hk with ⟨hk, hp⟩ | hk
      · rw [hk, hp]; rfl
      · rw [hk]; rfl
    rw [hst, ho, hkind, decide_eq_true hb]; rfl
  · rw [if_pos rfl, ht]

end Sys2Proof.Machine

namespace Sys2Proof

open Sys2Proof.Machine

/-- Settles O28: PARTITION and RECLAIM follow their checks; the scheduler's choice always ends well; and the end of a command
stands while its work leaves the engines and the grants settle. -/
theorem partitionGrants : Obligations.PartitionGrants := by
  unfold Obligations.PartitionGrants
  refine ⟨?_, ?_, ?_⟩
  · intro s q x c h b n hn hc hl h9 hz hp hr hlimit hsave
    have hslice : recField b 0xA 2 < 2 ^ 16 := recField_lt b 0xA 2
    obtain ⟨hclusters, hpriority, hticks⟩ := grantRecorded_fields (askedWord_lt hlimit) (Nat.lt_succ_of_le hp) hslice s c
    exact ⟨_, exec_partition h ⟨hn, hc, hl, ⟨h9, hz⟩, hp, hr, hlimit, hsave⟩, ended_ends h.named 0 0, hclusters, hpriority, hticks,
      rfl, rfl, rfl⟩
  · intro s u q x c o rb r h hs b h1 hres hz hn hc hl ho hkind hright hsize hu hr hqp hqueues hregs hctxs htime hsched ms due
    refine ⟨_, exec_reclaim h ⟨h1, ⟨hres, hz⟩, hn, hc, hl, ho, hkind, hright, hsize⟩ (hs.events c) hu hr hqp hregs htime,
      congrArg (fun z => SchedSt.reclaims z ++ _) hsched, ?_, ?_, ?_⟩
    · refine (congrArg CtxSt.reclaimAt (AMap.getD_insert_same _ _ _ _)).trans ?_
      rw [hctxs]
      rfl
    · exact flag_setFlag_same (f := F.partReclaim c) _ true (by decide : 50 + 1 ≤ 64) rfl
    · exact cmdOf_setCmd_same ((cmdOf_congr hqueues).trans h.named) fun _ => rfl
  · intro s c q idx hw
    refine ⟨exec_sliceEnd hw, fun x hx hst ho hj => ⟨fun hk hp hb => ?_, fun hc hk hb => ?_⟩⟩
    · obtain ⟨t, ht, hend, hcount⟩ := budgetExpiry_completes hw hx hst ho hj hk hp hb
      exact ⟨t, ht, hend.ended, hcount, hend.freed, hend.mem⟩
    · subst hc
      obtain ⟨t, ht, hend⟩ := nonpreemptOverrun_completes hw hx hst ho hj hk hb
      exact ⟨t, ht, hend.ended, hend.freed, hend.mem⟩

end Sys2Proof
end

section
/-! PROOFS. The start of a stage (R343), and the stop of a core (R77, R78). -/

namespace Sys2Proof.Machine

variable {s t : State} {m : Model} {n : CoreId} {k : Core} {cores : List CoreId} {st : StagePlan}

/-! ### What the start of work on cores leaves alone -/

/-- The registers that the start of work on a core writes, where no columns wait: device time, and the tests that yield. -/
def Reg.ofStarts : Reg → Bool
  | .tkTime | .mxTestStatus _ => true
  | _ => false

/-- No columns wait for a command start, and the scheduler, the contexts and the registers of no start are as in `s`. -/
structure StartsOnly (s t : State) : Prop where
  pend : t.rep.pendCols = []
  sched : t.sched = s.sched
  ctxs : t.ctxs = s.ctxs
  reg : ∀ r, r.ofStarts = false → t.reg r = s.reg r

namespace StartsOnly

theorem flag (h : StartsOnly s t) {f : Fld} (hf : f.reg.ofStarts = false) : t.flag f = s.flag f := by
  rw [State.flag, State.flag, State.fld, State.fld, h.reg _ hf]

theorem setFld (h : StartsOnly s t) (f : Fld) (v : Nat) (hf : f.reg.ofStarts = true) : StartsOnly s (t.setFld f v) :=
  ⟨h.pend, h.sched, h.ctxs, fun r hr => by
    have hne : f.reg ≠ r := by rintro rfl; exact absurd (hf.symm.trans hr) nofun
    rw [reg_setFld_other hne, h.reg r hr]⟩

theorem takeColumns (n : CoreId) : Preserves (StartsOnly s) (takeColumns n) :=
  .get_bind fun t h => by
    rw [h.pend]
    exact ⟨(), t, run_pure () t, h⟩

theorem enterCore (n : CoreId) : Preserves (StartsOnly s) (enterCore n) :=
  .bind .read fun _ => .ite (.bind (.modify fun _ h => ⟨h.pend, h.sched, h.ctxs, h.reg⟩) fun _ =>
    .bind (.modify fun _ h => h.setFld (F.testYielded _) _ rfl) fun _ => takeColumns n) (takeColumns n)

theorem sampleTime : Preserves (StartsOnly s) sampleTime :=
  .get_of fun t h => .bind (.set (by
    obtain ⟨hpend, hsched, hctxs, hreg⟩ := h.setFld F.tkTime (max (t.fld F.tkTime)
      (min (t.fld F.tkTime + Config.elapsed t.seed) (t.nextTickAt - 1))) rfl
    exact ⟨hpend, hsched, hctxs, hreg⟩)) fun _ => .pure _

theorem startOnCore (n : CoreId) (k : Core) : Preserves (StartsOnly s) (startOnCore n k) :=
  .bind (enterCore n) fun _ => .bind sampleTime fun _ => .modify fun _ h => ⟨h.pend, h.sched, h.ctxs, h.reg⟩

end StartsOnly

/-! ### The start of a stage -/

/-- What the core of a rank starts a stage with. -/
def stageCore (s : State) (m : Model) (st : StagePlan) (rank : Nat) : Core :=
  Core.initial 0 (s.genOf 0) 0 0 (some m) rank st.ranks (w64 st.args) st.code (2 ^ 57 - st.code) ((s.modelOf m).step % 2)

/-- Weights that are not streamed, with no layer to copy, hold no stage up. -/
theorem weightsReady_resident (hmode : s.fld (F.wMode m) ≠ 1) (hdue : (s.wtOf m).copyDue = false)
    (hcopy : (s.wtOf m).copying = false) (stage : Nat) : weightsReady m stage s = .ok true s := by
  unfold weightsReady
  rw [run_bind_ok (run_get s), hdue, hcopy, Bool.or_false, if_neg Bool.false_ne_true]
  refine (run_bind_ok (run_pure true s)).trans ?_
  rw [if_neg (fun h => hmode h.1)]
  exact run_pure true s

theorem placeStreamed_resident (hmode : s.fld (F.wMode m) ≠ 1) (stage : Nat) : placeStreamed m stage s = .ok () s := by
  unfold placeStreamed
  rw [run_bind_ok (run_get s)]
  generalize (s.wtOf m).pkg = package
  cases package with
  | none => exact run_pure () s
  | some p => exact (congrFun (if_neg hmode) s).trans (run_pure () s)

/-- The state in which a stage runs, but for its cores. -/
def stageOpened (s : State) (m : Model) : State :=
  let x := s.modelOf m
  let models := s.sched.models.insert m { x with stageRuns := true, runRows := x.rows }
  { s with sched := { s.sched with models := models } }

/-- What the start of a stage asks of the step, of its cores and of its weights (R343, R378, R382). -/
structure StageReady (s : State) (m : Model) (st : StagePlan) (cores : List CoreId) : Prop where
  planned : (s.modelOf m).plan[(s.modelOf m).nextStage]? = some st
  stepOpen : (s.modelOf m).stepOpen = true
  idle : (s.modelOf m).stageRuns = false
  notQuiet : s.quiet = false
  ranks : cores.length = st.ranks
  distinct : cores.Nodup
  free : ∀ n ∈ cores, s.coreReady n = true ∧ s.serves (clusterOf n) = true
  first : ∀ k : Model, k.val < m.val → (s.modelOf k).stepOpen = false ∨ (s.modelOf k).stageRuns = true
  resident : s.fld (F.wMode m) ≠ 1
  noCopyDue : (s.wtOf m).copyDue = false
  noCopying : (s.wtOf m).copying = false

/-- A stage that may start does so, on the cores of its list. -/
theorem exec_stageStart (hw : s.works = true) (h : StageReady s m st cores)
    (ht : eachM cores.zipIdx (fun p => startOnCore p.1 (stageCore s m st p.2)) (stageOpened s m) = .ok () t)
    (hoff : t.flag F.trEnable = false) : exec (.stageStart m cores) s = .next { t with seed := t.seed + 1 } := by
  refine run_next hw (u := ()) ?_
  rw [run_bind_ok (run_get s), h.planned, run_bind_ok (run_needSome st s)]
  have hnone : mapM' ((List.finRange 16).filter (fun k => decide (k.val < m.val))) (fun k => do
      let y := s.modelOf k
      if y.stepOpen && !y.stageRuns then weightsReady k y.nextStage else pure false) s =
        .ok (((List.finRange 16).filter (fun k => decide (k.val < m.val))).map (fun _ => false)) s :=
    mapM'_ok _ fun k hk => by
      have hlt : k.val < m.val := by simpa using (List.mem_filter.mp hk).2
      have hidle : ((s.modelOf k).stepOpen && !(s.modelOf k).stageRuns) = false := by
        rcases h.first k hlt with hk | hk <;> rw [hk]
        · rfl
        · exact Bool.and_false _
      rw [hidle, if_neg Bool.false_ne_true]
      exact run_pure false s
  refine (run_bind_ok hnone).trans ?_
  refine (run_bind_ok (run_guardWait ?_ s)).trans ?_
  · simp
  refine (run_bind_ok (run_guardWait ?_ s)).trans ?_
  · have hall : cores.all (fun n => s.coreReady n && s.serves (clusterOf n)) = true :=
      List.all_eq_true.mpr fun n hn => Bool.and_eq_true_iff.mpr (h.free n hn)
    simp only [h.stepOpen, h.idle, h.notQuiet, h.ranks, eraseDups_of_nodup h.distinct, hall, BEq.rfl, Bool.not_false, Bool.and_self]
  refine (run_bind_ok (weightsReady_resident h.resident h.noCopyDue h.noCopying _)).trans ?_
  rw [run_bind_ok (run_guardWait_true s), run_bind_ok (placeStreamed_resident h.resident _)]
  refine (run_bind_ok (run_modify _ s)).trans ((run_bind_ok ht).trans ((run_bind_ok (run_fresh t)).trans ?_))
  exact trace_off (s := { t with seed := t.seed + 1 }) hoff _ _ _ _ _ _ _

/-! ### The stop of a core -/

/-- The core as it stops. -/
abbrev Core.stop (k : Core) (w : CoreWait) : Core := { k with wait := w, bar := none }

/-- A core that stops works for what it did. -/
theorem coresOf_setCore (hk : s.cores.find? n = some k) {k' : Core} (hwork : k'.work = k.work) (w : Work) :
    (setCore s n k').coresOf w = s.coresOf w := by
  unfold State.coresOf
  congr 1
  funext i
  by_cases hi : n = i
  · subst hi
    rw [setCore_cores, AMap.find?_insert_same, hk]
    dsimp only
    rw [hwork]
  · rw [setCore_cores, AMap.find?_insert_other hi]

/-- A core stops while another one of its work still runs: the grants settle. -/
theorem exec_coreStop {w : CoreWait} {i : CoreId} {j : Core} (hw : s.works = true) (hk : s.cores.find? n = some k)
    (hpend : ∀ p ∈ k.pend, p = 0) (hstop : s.stopOf k = some w) (hi : i ∈ s.coresOf k.work) (hne : i ≠ n)
    (hj : s.cores.find? i = some j) (hruns : j.wait ≠ .stopped) :
    ∃ t, settleGrants (setCore s n (k.stop w)) = .ok () t ∧ exec (.coreStop n) s = .next t := by
  obtain ⟨t, ht, -⟩ := GrantsOnly.settleGrants.unit (.refl (setCore s n (k.stop w)))
  refine ⟨t, ht, run_next hw (u := ()) ?_⟩
  rw [run_bind_ok (run_get s), hk, run_bind_ok (run_needSome k s), hstop, run_bind_ok (run_needSome w s)]
  refine (run_bind_ok (run_guardWait ?_ s)).trans ?_
  · simpa using hpend
  rw [run_bind_ok (run_modCore hk), run_bind_ok (run_get _)]
  rw [coresOf_setCore hk (k' := k.stop w) rfl, if_neg ?_]
  · exact ht
  · intro hall
    have hstopped := List.all_eq_true.mp hall i hi
    rw [setCore_cores, AMap.find?_insert_other (Ne.symm hne), hj] at hstopped
    exact hruns (beq_iff_eq.mp hstopped)

/-- The last core to end its kernel ends the command with success; its cores are free, and the memories stand. -/
theorem coreStop_last {x : Cmd} (hw : s.works = true) (hk : s.cores.find? n = some k) (hpend : ∀ p ∈ k.pend, p = 0)
    (hend : k.wait = .ending) (hstage : k.stage = none)
    (hothers : ∀ i ∈ s.coresOf k.work, i ≠ n → ∃ j, s.cores.find? i = some j ∧ j.wait = .stopped)
    (hx : s.cmdOf k.ctx k.q k.idx = some x) :
    completes (.coreStop n) s (fun t => ended t k.ctx k.q k.idx ⟨0, 0, none⟩ ∧
      (∀ i ∈ s.coresOf k.work, t.cores.find? i = none) ∧ t.mem = s.mem ∧ t.sram = s.sram) := by
  obtain ⟨u, hu, honly⟩ := dropCores_only (s.coresOf k.work) (setCore s n (k.stop .stopped))
  have hcmd : u.cmdOf k.ctx k.q k.idx = some x := (cmdOf_congr honly.queues).trans hx
  have hidx : x.idx = k.idx := by simpa using List.find?_some hx
  rw [← hidx] at hcmd
  obtain ⟨t, ht, hgrants⟩ := GrantsOnly.settleGrants.unit (.refl (setCmd u k.ctx k.q k.idx (ends 0 0)))
  refine ⟨t, run_next hw (u := ()) ?_, hgrants.ended ?_, fun i hi => ?_, hgrants.mem.trans honly.mem,
    hgrants.sram.trans honly.sram⟩
  · have hstop : s.stopOf k = some .stopped := by rw [State.stopOf, if_pos hend]
    rw [run_bind_ok (run_get s), hk, run_bind_ok (run_needSome k s), hstop, run_bind_ok (run_needSome _ s)]
    refine (run_bind_ok (run_guardWait ?_ s)).trans ?_
    · simpa using hpend
    rw [run_bind_ok (run_modCore hk), run_bind_ok (run_get _), coresOf_setCore hk (k' := k.stop .stopped) rfl, if_pos ?_]
    · generalize setCore s n (k.stop .stopped) = v at hu ⊢
      rw [hstage]
      exact (run_bind_ok hu).trans ((run_bind_ok (run_modCmd _ _ _ _ _)).trans ht)
    · refine List.all_eq_true.mpr fun i hi => ?_
      by_cases hin : n = i
      · subst hin
        rw [setCore_cores, AMap.find?_insert_same]
        rfl
      · obtain ⟨j, hj, hstopped⟩ := hothers i hi (Ne.symm hin)
        rw [setCore_cores, AMap.find?_insert_other hin, hj]
        exact beq_iff_eq.mpr hstopped
  · rw [← hidx]
    exact ended_ends hcmd 0 0
  · rw [hgrants.cores, setCmd_cores, honly.cores]
    exact find?_dropped hi _

end Sys2Proof.Machine

namespace Sys2Proof

open Sys2Proof.Machine

/-- Settles O30: the cores of a stage start one after another; a core that stops is the last of its work to do so or is not, and
the last one's end of the command stands while the grants settle. -/
theorem stagesAndStops : Obligations.StagesAndStops := by
  unfold Obligations.StagesAndStops
  refine ⟨?_, fun s n k hw hk hpend => ⟨fun w hstop hother => ?_, fun hend hstage hothers x hx =>
    coreStop_last hw hk hpend hend hstage hothers hx⟩⟩
  · intro s m cores st hw htrace x hst hopen hruns hquiet hlen hnodup hready hbefore hmode hdue hcopy hcols
    have hnodup' : (cores.zipIdx.map Prod.fst).Nodup := by rwa [List.zipIdx_map_fst]
    have hent : Entering (stageOpened s m) (stageOpened s m) := ⟨hcols, rfl, rfl, rfl, fun _ _ => rfl⟩
    obtain ⟨t, ht, hstands, hin, hout⟩ := eachM_startOnCore cores.zipIdx (stageCore s m st) hnodup' hent
    have hopened : StartsOnly (stageOpened s m) (stageOpened s m) := ⟨hcols, rfl, rfl, fun _ _ => rfl⟩
    have honly : StartsOnly (stageOpened s m) t := Retains.of_preserves (.eachM cores.zipIdx fun p =>
      StartsOnly.startOnCore p.1 (stageCore s m st p.2)) _ _ _ hopened ht
    have hmodel : t.modelOf m = { x with stageRuns := true, runRows := x.rows } := by
      rw [State.modelOf, honly.sched]
      exact AMap.getD_insert_same _ _ _ _
    refine ⟨_, exec_stageStart hw
      ⟨hst, hopen, hruns, hquiet, hlen, hnodup, hready, hbefore, hmode, hdue, hcopy⟩ ht ((honly.flag rfl).trans htrace),
      fun i n hi => hin (n, i) (List.mk_mem_zipIdx_iff_getElem?.mpr hi),
      fun n hn => hout n (by rwa [List.zipIdx_map_fst]), ?_, ?_, hstands.mem, hstands.sram⟩
    · exact (congrArg ModelSt.stageRuns hmodel :)
    · exact (congrArg ModelSt.nextStage hmodel :)
  · obtain ⟨i, hi, hne, j, hj, hruns⟩ := hother
    exact exec_coreStop hw hk hpend hstop hi hne hj hruns

end Sys2Proof
end

section
/-! PROOFS. Images (R357–R360): the images of a preempted context are taken and saved, and read back they put its cores where they
stopped. -/

namespace Sys2Proof.Machine

variable {s t u : State} {c : Ctx} {α β : Type}

/-- A context's work on a core: of a command, not of a pooled stage. -/
def Core.mine (k : Core) (c : Ctx) : Bool := k.ctx == c && k.stage.isNone

/-- The command that an image is of. -/
def Image.command (i : Image) : QIdx × W32 := (i.q, i.idx)

namespace GrantsOnly

theorem saving (h : GrantsOnly s t) (c : Ctx) : (t.ctxs.getD c .absent).saving = (s.ctxs.getD c .absent).saving :=
  congrArg Prod.fst (h.imaging c)

theorem restoring (h : GrantsOnly s t) (c : Ctx) : (t.ctxs.getD c .absent).restoring = (s.ctxs.getD c .absent).restoring :=
  congrArg (fun x => x.2.1) (h.imaging c)

theorem images (h : GrantsOnly s t) (c : Ctx) : (t.ctxs.getD c .absent).images = (s.ctxs.getD c .absent).images :=
  congrArg (fun x => x.2.2) (h.imaging c)

end GrantsOnly

/-! ### IMAGE_SAVE -/

/-- One image is taken of each command, and nothing changes. -/
theorem makeImages_ok (c : Ctx) (works : List (QIdx × W32)) (s : State) :
    ∃ made, mapM' works.zipIdx (fun p => makeImage c p.1.1 p.1.2 (p.2 == 0)) s = .ok made s ∧
      made.map Image.command = works := by
  refine ⟨_, mapM'_ok _ fun p _ => (run_bind_ok (run_get s)).trans (run_pure _ s), ?_⟩
  rw [List.map_map]
  exact List.zipIdx_map_fst 0 works

theorem command_placeImages (o : Nat) (is : List Image) : (placeImages o is).map Image.command = is.map Image.command := by
  induction is generalizing o with
  | nil => rfl
  | cons i is ih => rw [placeImages, List.map_cons, List.map_cons, ih]; rfl

/-- The context with its images taken, and its cores free. -/
def imagesTaken (s : State) (c : Ctx) (is : List Image) : State :=
  { s with
    ctxs := s.ctxs.insert c { s.ctxs.getD c .absent with saving := true, images := is }
    cores := s.cores.filter (fun p => !p.2.mine c) }

/-- Where every core of a preempted context has stopped, the images are taken and the cores are free. -/
theorem exec_imageSave (hw : s.works = true) (hp : (s.ctxs.getD c .absent).preempt = true)
    (hs : (s.ctxs.getD c .absent).saving = false) (hmine : ∃ p ∈ s.cores, p.2.mine c = true)
    (hstopped : ∀ p ∈ s.cores, p.2.mine c = true → p.2.wait = .preempted ∨ p.2.wait = .stopped) :
    ∃ u is, EnginesOnly s u ∧ is.map Image.command = s.ctxWorks c ∧ exec (.imageSave c) s = .next (imagesTaken u c is) := by
  obtain ⟨made, hmade, hworks⟩ := makeImages_ok c (s.ctxWorks c) s
  let lines := (made.map (fun i => 81920 * i.cores.length)).sum
  let is := (placeImages 0 made).map (fun i => { i with lineBase := if i.base = 0 then lines else 0 })
  obtain ⟨u, hu, honly⟩ := (Preserves.eachM ((List.finRange 4).filter (fun d => 0 < imageOnDie is d)) fun d =>
    (EnginesOnly.blind s).beginOwn d (.save c)).unit (.refl s)
  refine ⟨u, is, honly, ?_, run_next hw (u := ()) ?_⟩
  · rw [List.map_map]
    exact (command_placeImages 0 made).trans hworks
  · rw [run_bind_ok (run_get s)]
    refine (run_bind_ok (run_guardWait ?_ s)).trans ?_
    · obtain ⟨p, hpc, hpm⟩ := hmine
      have hsome : (s.cores.filter (fun p => p.2.mine c)).isEmpty = false :=
        List.isEmpty_eq_false_iff_exists_mem.mpr ⟨p, List.mem_filter.mpr ⟨hpc, hpm⟩⟩
      have hall : (s.cores.filter (fun p => p.2.mine c)).all (fun p => p.2.wait == .preempted || p.2.wait == .stopped) = true :=
        List.all_eq_true.mpr fun p hp => by
          obtain ⟨hpc, hpm⟩ := List.mem_filter.mp hp
          simpa using hstopped p hpc hpm
      simp only [Core.mine] at hsome hall
      simp only [hp, hs, hsome, hall, Bool.not_false, Bool.and_self]
    refine (run_bind_ok hmade).trans ((run_bind_ok hu).trans ?_)
    rw [run_bind_ok (run_modCtx _ _ u), run_modify]
    rfl

/-- The device's own transfer for a context ends, and nothing is traced. -/
theorem endOwn_untraced (htrace : s.flag F.trEnable = false) (use : OwnUse) (bytes : Die → Nat) (cls : Option Nat)
    (kind die ctx id arg0 arg1 : Nat) : ∃ t, EnginesOnly s t ∧ ∀ m : M Unit,
      (do endOwn use bytes; trace cls kind die ctx id arg0 arg1; m) s = m t := by
  obtain ⟨t, ht, honly⟩ := ((EnginesOnly.blind s).endOwn use bytes).unit (.refl s)
  refine ⟨t, honly, fun m => ?_⟩
  rw [run_bind_ok ht, run_bind_ok (trace_off ((honly.flag rfl).trans htrace) _ _ _ _ _ _ _)]

/-- The context no longer saves. -/
def imageSaved (s : State) (c : Ctx) : State :=
  { s with ctxs := s.ctxs.insert c { s.ctxs.getD c .absent with saving := false } }

/-- Once the image lies in the save area, the saving ends, and the grants settle. -/
theorem exec_imageSaveComplete (hw : s.works = true) (htrace : s.flag F.trEnable = false)
    (hs : (s.ctxs.getD c .absent).saving = true)
    (hu : vaWriteAs c (s.ctxs.getD c .absent).saveArea (imageBytesOf (s.ctxs.getD c .absent).images) .rw s = .ok () u)
    (hregs : u.regs = s.regs) :
    ∃ v t, EnginesOnly (imageSaved u c) v ∧ GrantsOnly v t ∧ exec (.imageSaveComplete c) s = .next t := by
  have hoff : (imageSaved u c).flag F.trEnable = false := (flag_congr hregs _).trans htrace
  obtain ⟨v, honly, hv⟩ := endOwn_untraced hoff (.save c) (imageOnDie (s.ctxs.getD c .absent).images) (some 4) 0x0B 0 c.val 0 1
    (imageSize (s.ctxs.getD c .absent).images)
  obtain ⟨t, ht, hgrants⟩ := (Preserves.bind GrantsOnly.refreshSaved fun _ => GrantsOnly.settleGrants).unit (.refl v)
  refine ⟨v, t, honly, hgrants, run_next hw (u := ()) ?_⟩
  rw [run_bind_ok (run_get s)]
  refine (run_bind_ok (run_guardWait hs s)).trans ((run_bind_ok (run_attempt_ok hu)).trans ?_)
  rw [run_bind_ok (run_modCtx _ _ u)]
  exact (hv _).trans ht

/-! ### IMAGE_RESTORE -/

theorem widthsAsSaved_of {i : Image} (h : ∀ p ∈ i.cores, s.fld (F.mxWidth p.1) = p.2.2) : s.widthsAsSaved i = true :=
  List.all_eq_true.mpr fun p hp => beq_iff_eq.mpr (h p hp)

/-- Images whose widths are all as saved are all kept. -/
theorem keepImages_isEmpty {p : Image → Bool} {is : List Image} (hp : ∀ i ∈ is, p i = true) (hne : is ≠ []) :
    (keepImages p is).isEmpty = false := by
  rw [keepImages, List.filter_eq_self.mpr hp]
  cases is with
  | nil => exact absurd rfl hne
  | cons i is => rfl

/-- The context whose images are read back. -/
def imagesRestoring (s : State) (c : Ctx) (is : List Image) : State :=
  { s with ctxs := s.ctxs.insert c { s.ctxs.getD c .absent with images := is, restoring := true } }

/-- A context whose grant runs enters its free cores, and its images are read back. -/
theorem exec_imageRestore (hw : s.works = true) (hrun : s.flag (F.partRunning c) = true)
    (hp : (s.ctxs.getD c .absent).preempt = false) (hs : (s.ctxs.getD c .absent).saving = false)
    (hr : (s.ctxs.getD c .absent).restoring = false) (hne : (s.ctxs.getD c .absent).images ≠ [])
    (hcores : ∀ i ∈ (s.ctxs.getD c .absent).images, ∀ p ∈ i.cores, s.coreReady p.1 = true ∧ s.fld (F.mxWidth p.1) = p.2.2)
    (hcols : s.rep.pendCols = []) :
    ∃ u v is t, Entering s u ∧ EnginesOnly u v ∧ GrantsOnly (imagesRestoring v c is) t ∧ exec (.imageRestore c) s = .next t := by
  have hwidths : ∀ i ∈ (s.ctxs.getD c .absent).images, ∀ p ∈ i.cores, s.fld (F.mxWidth p.1) = p.2.2 :=
    fun i hi p hp => (hcores i hi p hp).2
  generalize hns : (s.ctxs.getD c .absent).images.flatMap (fun i => i.cores.map (·.1)) = ns
  obtain ⟨u, hu, hent⟩ := (Preserves.eachM ns Entering.enterCore).unit
    (⟨hcols, rfl, rfl, rfl, fun _ _ => rfl⟩ : Entering s s)
  have hstart : StartsOnly s u := Retains.of_preserves (.eachM ns StartsOnly.enterCore) _ _ _
    ⟨hcols, rfl, rfl, fun _ _ => rfl⟩ hu
  have hkept : ∀ i ∈ (s.ctxs.getD c .absent).images, u.widthsAsSaved i = true := fun i hi =>
    widthsAsSaved_of fun p hp => by rw [State.fld, hstart.reg _ rfl]; exact hwidths i hi p hp
  obtain ⟨v, hv, honly⟩ := (Preserves.eachM ((List.finRange 4).filter (fun d =>
    0 < imageOnDie (keepImages u.widthsAsSaved (s.ctxs.getD c .absent).images) d)) fun d =>
    (EnginesOnly.blind u).beginOwn d (.restore c)).unit (.refl u)
  obtain ⟨t, ht, hgrants⟩ := GrantsOnly.refreshSaved.unit
    (.refl (imagesRestoring v c (keepImages u.widthsAsSaved (s.ctxs.getD c .absent).images)))
  refine ⟨u, v, _, t, hent, honly, hgrants, run_next hw (u := ()) ?_⟩
  rw [run_bind_ok (run_get s)]
  refine (run_bind_ok (run_guardWait ?_ s)).trans ?_
  · have hready : ns.all s.coreReady = true := List.all_eq_true.mpr fun n hn => by
      rw [← hns] at hn
      obtain ⟨i, hi, hn⟩ := List.mem_flatMap.mp hn
      obtain ⟨p, hp, rfl⟩ := List.mem_map.mp hn
      exact (hcores i hi p hp).1
    rw [hrun, hp, hs, hr, hns, hready, List.isEmpty_eq_false_iff.mpr hne]
    rfl
  refine (run_bind_ok (t := u) (a := ()) (by rw [hns]; exact hu)).trans ?_
  have hnone : (s.ctxs.getD c .absent).images.filter (fun i => !u.widthsAsSaved i) = [] :=
    List.filter_eq_nil_iff.mpr fun i hi => by rw [hkept i hi]; exact Bool.false_ne_true
  rw [run_bind_ok (run_get u), run_bind_ok hv, run_bind_ok (run_modCtx _ _ v), keepImages_isEmpty hkept hne, hnone,
    run_bind_ok (run_eachM_nil _ _)]
  exact ht

/-! ### IMAGE_RESTORE_COMPLETE -/

/-- Cores that differ are listed one after another. -/
theorem eachM_insertCores (l : List (CoreId × β)) (k : CoreId × β → Core) (hl : (l.map Prod.fst).Nodup) (s : State) :
    ∃ ks, eachM l (fun p => modify (fun s => { s with cores := s.cores.insert p.1 (k p) })) s = .ok () { s with cores := ks } ∧
      (∀ p ∈ l, AMap.find? ks p.1 = some (k p)) ∧ ∀ n, n ∉ l.map Prod.fst → AMap.find? ks n = s.cores.find? n := by
  induction l generalizing s with
  | nil => exact ⟨s.cores, run_eachM_nil _ s, nofun, fun _ _ => rfl⟩
  | cons p l ih =>
    obtain ⟨hp, hl⟩ := List.nodup_cons.mp hl
    obtain ⟨ks, hks, hin, hout⟩ := ih hl { s with cores := s.cores.insert p.1 (k p) }
    refine ⟨ks, (run_bind_ok (run_modify _ s)).trans hks, fun r hr => ?_, fun n hn => ?_⟩
    · rcases List.mem_cons.mp hr with rfl | hr
      · rw [hout _ hp]
        exact AMap.find?_insert_same _ _ _
      · exact hin r hr
    · obtain ⟨hne, hnl⟩ := not_or.mp (fun e => hn (List.mem_cons.mpr e))
      rw [hout n hnl]
      exact AMap.find?_insert_other (Ne.symm hne)

/-- Changes of the counters, one after another, change nothing else. -/
theorem eachM_obs (l : List β) (f : β → ObsSt → ObsSt) (s : State) :
    ∃ o, eachM l (fun p => modify (fun s => { s with obs := f p s.obs })) s = .ok () { s with obs := o } := by
  induction l generalizing s with
  | nil => exact ⟨s.obs, run_eachM_nil _ s⟩
  | cons p l ih =>
    obtain ⟨o, ho⟩ := ih { s with obs := f p s.obs }
    exact ⟨o, (run_bind_ok (run_modify _ s)).trans ho⟩

/-- A core goes on where it stopped, under the context's generation (R358). -/
def Core.resumed (k : Core) (gen : Nat) : Core :=
  { k with wait := if k.wait = .preempted then .running else k.wait, rcache := [], ibuf := [], gen := gen }

/-- The context's images are back on its cores. -/
def imagesRestored (s : State) (c : Ctx) : State :=
  { s with ctxs := s.ctxs.insert c { s.ctxs.getD c .absent with restoring := false, images := [] } }

/-- When the image has been read back, its cores go on where they stopped. -/
theorem exec_imageRestoreComplete {i j : Image} (hw : s.works = true) (htrace : s.flag F.trEnable = false)
    (hr : (s.ctxs.getD c .absent).restoring = true) (hi : (s.ctxs.getD c .absent).images = [i])
    (hj : readImage c (s.ctxs.getD c .absent).saveArea i s = .ok j u) (hregs : u.regs = s.regs)
    (hnodup : (j.cores.map (·.1)).Nodup) :
    ∃ x ks o v t, (∀ p ∈ j.cores, AMap.find? ks p.1 = some (p.2.1.resumed (s.genOf c))) ∧
      EnginesOnly (imagesRestored { u with sram := x, cores := ks, obs := o } c) v ∧ GrantsOnly v t ∧
      exec (.imageRestoreComplete c) s = .next t := by
  let x := j.store.foldl (fun z l => SramSt.putLine z true c (s.genOf c) l)
    (j.spad.foldl (fun z l => SramSt.putLine z false c (s.genOf c) l) u.sram)
  obtain ⟨ks, hks, hin, -⟩ := eachM_insertCores j.cores (fun p => p.2.1.resumed (s.genOf c)) hnodup { u with sram := x }
  obtain ⟨o, ho⟩ := eachM_obs j.cnts (fun p x => { x with
    cores := x.cores.insert p.1 { CntSet.zero with cnt := p.2.1, startT := p.2.2.1, startS := p.2.2.2 } })
    { u with sram := x, cores := ks }
  have hoff : (imagesRestored { u with sram := x, cores := ks, obs := o } c).flag F.trEnable = false :=
    (flag_congr hregs _).trans htrace
  obtain ⟨v, honly, hv⟩ := endOwn_untraced hoff (.restore c) (imageOnDie [i]) (some 4) 0x0B 0 c.val 0 2 (imageSize [i])
  obtain ⟨t, ht, hgrants⟩ := GrantsOnly.refreshSaved.unit (.refl v)
  refine ⟨x, ks, o, v, t, hin, honly, hgrants, run_next hw (u := ()) ?_⟩
  rw [run_bind_ok (run_get s)]
  refine (run_bind_ok (run_guardWait hr s)).trans ?_
  rw [hi]
  refine (run_bind_ok (t := u) (a := [j]) ?_).trans ?_
  · exact (run_bind_ok hj).trans (run_bind_ok (run_pure _ u))
  refine (run_bind_ok (t := { u with sram := x, cores := ks, obs := o }) (a := ()) ?_).trans ?_
  · refine run_eachM_one ?_
    exact (run_bind_ok (run_modify _ u)).trans ((run_bind_ok hks).trans ho)
  rw [run_bind_ok (run_modCtx _ _ _)]
  exact (hv _).trans ht

end Sys2Proof.Machine

namespace Sys2Proof

open Sys2Proof.Machine

/-- Settles O31: the images carry the commands of the context's cores; saving and restoring leave the images as they are beside
the grants that settle; and cores that differ are put back one after another. -/
theorem images : Obligations.Images := by
  unfold Obligations.Images
  intro s c hw htrace x mine
  refine ⟨fun hp hs hmine hstopped => ?_, fun hs u hu hctxs hregs => ?_, fun hrun hp hs hr hne hcores hcols => ?_,
    fun i j u hr hi hj hctxs hregs hnodup => ?_, fun k cnt => if_pos rfl⟩
  · obtain ⟨u, is, honly, hworks, ht⟩ := exec_imageSave hw hp hs hmine hstopped
    refine ⟨_, ht, ?_, ?_, congrArg (List.filter _) honly.cores, honly.mem, honly.sram⟩
    · exact congrArg CtxSt.saving (AMap.getD_insert_same _ _ _ _)
    · exact (congrArg (fun y => (CtxSt.images y).map Image.command) (AMap.getD_insert_same _ _ _ _)).trans hworks
  · obtain ⟨v, t, honly, hgrants, ht⟩ := exec_imageSaveComplete hw htrace hs hu hregs
    have hctx : v.ctxs.getD c .absent = { x with saving := false } := by
      rw [honly.ctxs]
      refine (AMap.getD_insert_same _ _ _ _).trans ?_
      rw [hctxs]
    refine ⟨t, ht, (hgrants.saving c).trans ?_, (hgrants.images c).trans ?_, ?_, hgrants.cores.trans honly.cores⟩
    · rw [hctx]
    · rw [hctx]
    · rw [hgrants.mem, honly.mem]
      rfl
  · obtain ⟨u, v, is, t, hent, honly, hgrants, ht⟩ := exec_imageRestore hw hrun hp hs hr hne hcores hcols
    refine ⟨t, ht, (hgrants.restoring c).trans ?_, hgrants.cores.trans (honly.cores.trans hent.cores),
      hgrants.mem.trans (honly.mem.trans hent.mem), hgrants.sram.trans (honly.sram.trans hent.sram)⟩
    exact congrArg CtxSt.restoring (AMap.getD_insert_same _ _ _ _)
  · obtain ⟨y, ks, o, v, t, hin, honly, hgrants, ht⟩ := exec_imageRestoreComplete hw htrace hr hi hj hregs hnodup
    refine ⟨t, ht, (hgrants.restoring c).trans ?_, (hgrants.images c).trans ?_, fun p hp => ?_, ?_⟩
    · rw [honly.ctxs]
      exact congrArg CtxSt.restoring (AMap.getD_insert_same _ _ _ _)
    · rw [honly.ctxs]
      exact congrArg CtxSt.images (AMap.getD_insert_same _ _ _ _)
    · rw [hgrants.cores, honly.cores]
      exact hin p hp
    · rw [hgrants.mem, honly.mem]
      rfl

end Sys2Proof
end

section
/-! PROOFS. A shard whose source answers with an error (R376) while a channel that the route to its next source is read from is
being retrained (R265). -/

namespace Sys2Proof.Machine

/-- An event that must wait for another one: the arrival of a shard's error changes nothing while its retry waits. -/
theorem exec_shardArrival_waits {s u : State} {m : Model} {k : Nat} {p : Package} {f : ShardSt}
    (hp : (s.wtOf m).pkg = some p) (hf : (s.wtOf m).flight.find? (fun f => f.k == k) = some f)
    (hwait : retryShard m p f s = .error .wait u) : exec (.shardArrival m k none) s = .next s := by
  refine run_stays (e := .wait) (t := u) ?_
  rw [run_bind_ok (run_get s)]
  dsimp only
  rw [hp, run_bind_ok (run_needSome p s), hf, run_bind_ok (run_needSome f s)]
  exact hwait

/-- A package of one layer in one shard of 80 bytes with its tag. -/
def onePackage : Package :=
  { version := 7, setId := 9, wrapped := [], key := some 0, layers := [(64, 0, 1)], shards := [(0, 80, 0, 0, 0)] }

/-- The weight state with that package, its shard in flight from a queue pair; the next source is a window of device 9 (R372). -/
def peerNext : WtSt :=
  { WtSt.none with
    pkg := some onePackage, sources := [⟨1, 5, 0, 0, none⟩, ⟨2, 0, 0, 0, some ⟨3, 1, 9, 0, 0, 80⟩⟩], flight := [⟨0, 0, 0, []⟩] }

/-- Model 15 is LOADING so. The route table is valid, and so is the root of context 0, whose table lies at DPA 0: in channel 0
of stack 0, which is being retrained. -/
def retrainingRoot : State :=
  { ((State.reset.setFld (F.wState 15) 1).setFlag F.rtValid true).setFlag (F.rootValid 0) true with
    mem := { State.reset.mem with retrain := [⟨0, 0, none, none⟩] }
    wts := [(15, peerNext)] }

theorem works_retrainingRoot : retrainingRoot.works = true := by decide +kernel

/-- The computation ends in a wait for another event. -/
def endsInWait {α : Type} (r : EStateM.Result Err State α) : Bool :=
  match r with
  | .error .wait _ => true
  | _ => false

theorem exists_of_endsInWait {α : Type} {r : EStateM.Result Err State α} (h : endsInWait r = true) :
    ∃ u, r = .error .wait u := by
  unfold endsInWait at h
  split at h
  · exact ⟨_, rfl⟩
  · cases h

/-- The shard's READs need the route to device 9, which the walk from the root does not reach before the channel is retrained. -/
theorem retryShard_retrainingRoot : endsInWait (retryShard 15 onePackage ⟨0, 0, 0, []⟩ retrainingRoot) = true := by
  decide +kernel

theorem shardArrival_retrainingRoot : exec (.shardArrival 15 0 none) retrainingRoot = .next retrainingRoot :=
  let ⟨_, hwait⟩ := exists_of_endsInWait retryShard_retrainingRoot
  exec_shardArrival_waits rfl rfl hwait

end Sys2Proof.Machine

namespace Sys2Proof

open Sys2Proof.Machine

/-- Refutes O35: it does not ask that the accesses of memory go on. While a channel is being retrained that the route to a PEER
source is read from, a shard whose source answers with an error is not followed by that next one: the event waits, and changes
nothing (log 3). -/
theorem not_weightMovement : ¬ Obligations.WeightMovement := by
  unfold Obligations.WeightMovement
  rintro ⟨hshards, -⟩
  obtain ⟨-, hnext, -⟩ := hshards retrainingRoot 15 0 onePackage ⟨0, 0, 0, []⟩ (0, 80, 0, 0, 0) works_retrainingRoot rfl rfl rfl
  obtain ⟨t, ht, hflight, -⟩ := hnext _ _ rfl rfl
  rw [shardArrival_retrainingRoot] at ht
  cases ht
  exact absurd hflight (by decide)

end Sys2Proof
end

section
/-! PROOFS. What O34 turns on: whether some content key unwraps (R369), which the model leaves to a constant without a body. So
O34 stays unsettled. -/

namespace Sys2Proof.Machine

variable {s t u : State} {α β : Type}

/-! ### No content key unwraps -/

/-- The computation ends well from no state. -/
def NeverOk (m : M α) : Prop := ∀ s a t, m s ≠ .ok a t

namespace NeverOk

theorem bind_left {m : M α} {f : α → M β} (h : NeverOk m) : NeverOk (m >>= f) := fun s _ _ e =>
  let ⟨a, u, ha, _⟩ := bind_ok e
  h s a u ha

theorem bind_right {m : M α} {f : α → M β} (h : ∀ a, NeverOk (f a)) : NeverOk (m >>= f) := fun _ b t e =>
  let ⟨a, u, _, hb⟩ := bind_ok e
  h a u b t hb

theorem throw (e : Err) : NeverOk (throw e : M α) := fun s _ _ h => by rw [run_throw] at h; cases h

theorem checkSecurity (fault : Nat) : NeverOk (checkSecurity (none : Option α) fault) := .bind_right fun _ => .throw _

end NeverOk

/-- No key unwraps what a manifest can hold. -/
def NoKeyUnwraps : Prop := ∀ key (wrapped : List Byte), Config.keyUnwrap key (natBytes wrapped) = none

theorem contentKey_none (h : NoKeyUnwraps) (s : State) (setId : Nat) (wrapped : List Byte) :
    s.contentKey setId wrapped = none := by
  unfold State.contentKey
  split
  · exact h _ _
  · rfl

/-- Then the checks of R374 never pass: the last but one of them asks for the content key. -/
theorem neverOk_wtChecks (h : NoKeyUnwraps) (m : Model) (x : Cmd) (load : Bool) : NeverOk (wtChecks m x load) := by
  unfold wtChecks
  refine .bind_right fun s => .bind_right fun w => .bind_right fun _ => .bind_right fun _ => .bind_right fun _man =>
    .bind_right fun _pub => .bind_right fun _ => .bind_right fun _head => .bind_right fun _ => .bind_right fun _ =>
    .bind_right fun _key => .bind_right fun b => .bind_right fun _ => .bind_right fun _ => .bind_right fun _ =>
    .bind_right fun _ => .bind_right fun _ => .bind_right fun _ => ?_
  extract_lets _bytes onward
  have honward : ∀ a, NeverOk (onward a) := fun _ => .bind_right fun _ => .bind_left <| by
    rw [contentKey_none h]
    exact .checkSecurity _
  split
  · exact .bind_right honward
  · exact honward ()

/-! ### The route of a READ while its table cannot be reached -/

/-- The computation, from the state, must wait for another event. -/
def Waits (m : M α) (t : State) : Prop := ∃ u, m t = .error .wait u

namespace Waits

theorem first {m : M α} {f : α → M β} (h : Waits m t) : Waits (m >>= f) t :=
  let ⟨u, hu⟩ := h
  ⟨u, run_bind_error hu⟩

theorem later {m : M α} {f : α → M β} {a : α} (hm : m t = .ok a u) (hf : Waits (f a) u) : Waits (m >>= f) t := by
  rwa [Waits, run_bind_ok hm]

theorem after {P : State → Prop} {m : M α} {f : α → M β} (hm : Preserves P m) (ht : P t) (hf : ∀ a u, P u → Waits (f a) u) :
    Waits (m >>= f) t :=
  let ⟨a, u, hu, hP⟩ := hm t ht
  .later hu (hf a u hP)

/-- A handler of errors takes no wait. -/
theorem attempt {m : M α} (h : Waits m t) : Waits (attempt m) t :=
  let ⟨u, hu⟩ := h
  ⟨u, by rw [Machine.attempt, hu]⟩

end Waits

/-- The registers that the fetch of a shard over a route reads. -/
def Reg.ofFetch : Reg → Bool
  | .ssWctrl | .jlRtbase | .trRoot _ | .kvInst _ | .trCtrl => true
  | _ => false

/-- These registers and device memory are those of `retrainingRoot`, and the weights of model 15 are `w`. -/
structure FetchShut (w : WtSt) (t : State) : Prop where
  mem : t.mem = retrainingRoot.mem
  reg : ∀ r, r.ofFetch = true → t.reg r = retrainingRoot.reg r
  weights : t.wtOf 15 = w

theorem Reg.ofFetch_of_ofEngines {r : Reg} (h : r.ofEngines = true) : r.ofFetch = false := by
  unfold Reg.ofEngines at h
  split at h <;> [rfl; rfl; rfl; rfl; rfl; cases h]

namespace FetchShut

variable {w : WtSt}

theorem fld (h : FetchShut w t) {f : Fld} (hf : f.reg.ofFetch = true) : t.fld f = retrainingRoot.fld f := by
  rw [State.fld, State.fld, h.reg _ hf]

theorem flag (h : FetchShut w t) {f : Fld} (hf : f.reg.ofFetch = true) : t.flag f = retrainingRoot.flag f := by
  rw [State.flag, State.flag, h.fld hf]

theorem setFld (h : FetchShut w t) (f : Fld) (v : Nat) (hf : f.reg.ofFetch = false) : FetchShut w (t.setFld f v) where
  mem := h.mem
  reg r hr := (reg_setFld_other (by rintro rfl; exact absurd (hf.symm.trans hr) nofun)).trans (h.reg r hr)
  weights := h.weights

theorem blind : EngineBlind (FetchShut w) where
  setFld f v hf h := h.setFld f v (Reg.ofFetch_of_ofEngines hf)
  engines h := ⟨h.mem, h.reg, h.weights⟩

/-- Granule 0 lies in the channel that is being retrained. -/
theorem reachGranule (h : FetchShut w t) : Waits (reachGranule 0) t := by
  have hplace : place retrainingRoot.mem.partNow (0 * 256) = some (0, 0, 0, 0) := by decide +kernel
  refine .later (run_get t) ?_
  rw [h.mem, hplace]
  exact .first ⟨t, run_guardWait_false t⟩

theorem readDpa (h : FetchShut w t) (slot : Nat) : Waits (readDpa slot 0 8) t := h.reachGranule.first.first.first

/-- No entry is cached, so that the walk begins at the root's table. -/
theorem walkFrom (h : FetchShut w t) (c : Ctx) (gen : Nat) {va : Nat} (hva : va < 2 ^ 48) :
    Waits (walkFrom c gen va walkLevels 0) t := by
  have hlook (k : TlbKey) : tlbLook k t = .ok none t := by
    unfold tlbLook
    rw [run_bind_ok (run_get t), h.mem]
    exact run_pure _ t
  have hat : 0 + 8 * bitsOf va 48 9 = 0 := by rw [bitsOf, Nat.div_eq_of_lt hva, Nat.zero_mod]
  unfold walkLevels Machine.walkFrom
  refine .later (hlook _) (.later (run_getFld _ t) (.first ?_))
  rw [hat]
  exact h.readDpa _

theorem walk (h : FetchShut w t) {va : Nat} (hva : va < 2 ^ 48) : Waits (walk 0 va) t := by
  have hroot : t.flag (F.rootValid 0) = true := (h.flag rfl).trans (by decide +kernel)
  have hbase : t.fld (F.root 0) * 4096 = 0 := by rw [h.fld rfl]; decide +kernel
  have hin : (va / 2 ^ 57 ≠ 0 || va / 2 ^ 48 == 0x1FE || !t.flag (F.rootValid 0)) = false := by
    rw [hroot, Nat.div_eq_of_lt hva, Nat.div_eq_of_lt (hva.trans (by norm_num))]; rfl
  refine .later (run_get t) ?_
  rw [hin, if_neg Bool.false_ne_true, hbase]
  exact (h.walkFrom _ _ hva).first

theorem poolOf (h : FetchShut w t) (va : Nat) : t.poolOf va = none := by
  have hoff (i : CacheInst) : t.flag (F.kvEnable i) = false := (h.flag rfl).trans (by revert i; decide +kernel)
  unfold State.poolOf
  simp [hoff]

theorem translate (h : FetchShut w t) {va : Nat} (hva : va < 2 ^ 48) (need : Right) : Waits (translate 0 va need) t := by
  refine .later (run_get t) ?_
  rw [h.poolOf]
  exact (h.walk hva).first

/-- The route to device 9 waits for the channel. -/
theorem routeTo (h : FetchShut w t) : Waits (routeTo 9) t := by
  have hvalid : t.flag F.rtValid = true := (h.flag rfl).trans (by decide +kernel)
  have hbase : bitsOf (t.reg .jlRtbase) 12 45 * 4096 + 16 * 9 = 144 := by rw [h.reg _ rfl]; decide +kernel
  have hread : Waits (vaRead 0 144 16) t := by
    unfold vaRead vaReadAs translatePieces
    rw [pieces_one (by norm_num) (by norm_num)]
    exact (h.translate (by norm_num) _).first.first.first
  refine .later (run_get t) ?_
  rw [hvalid, Bool.not_true, if_neg Bool.false_ne_true, hbase]
  exact hread.attempt.first

theorem sendRouted (h : FetchShut w t) (type c c' : Nat) (body : List Byte) (eng : Option (DmaEng × Nat × Nat × Nat)) :
    Waits (sendRouted type 9 c c' body eng) t :=
  .later (run_get t) <| .later (run_set _ t) <| .first <| routeTo (w := w) ⟨h.mem, h.reg, h.weights⟩

theorem refreshSets : Preserves (FetchShut w) refreshSets :=
  .modify fun _ h => (h.setFld F.setsHeld _ rfl).setFld F.setsInUse _ rfl

theorem putWtState (st : Nat) : Preserves (FetchShut w) (putWtState 15 st) :=
  .bind (.modify fun _ h => h.setFld (F.wState 15) _ rfl) fun _ => .bind refreshSets fun _ => .bind .read fun _ =>
    .modify fun _ h => h.setFld (F.wLayer 15) _ rfl

theorem sysRunning (q : QIdx) (x : Cmd) : Preserves (FetchShut w) (sysRunning q x) :=
  .modify fun _ h => ⟨h.mem, h.reg, h.weights⟩

/-- A change of the weights, and what follows it. -/
theorem modWt_then (h : FetchShut w t) {f : WtSt → WtSt} {g : PUnit → M α} (hg : ∀ u, FetchShut (f w) u → Waits (g ⟨⟩) u) :
    Waits (modWt 15 f >>= g) t := by
  have hset : FetchShut (f w) { t with wts := t.wts.insert 15 (f (t.wtOf 15)) } :=
    ⟨h.mem, h.reg, by rw [State.wtOf, AMap.getD_insert_same, h.weights]⟩
  obtain ⟨u, hu, hshut⟩ := refreshSets.unit hset
  exact .later ((run_bind_ok (run_modify _ t)).trans hu) (hg u hshut)

/-- Where no shard is in flight none is dropped. -/
theorem dropFlight_then (h : FetchShut w t) (hw : w.flight = []) {p : ShardSt → Bool} {g : PUnit → M α}
    (hg : ∀ u, FetchShut { w with flight := [] } u → Waits (g ⟨⟩) u) : Waits (dropFlight 15 p >>= g) t := by
  have hdrop : dropFlight 15 p t = modWt 15 (fun w => { w with flight := w.flight.filter fun f => !p f }) t := by
    unfold dropFlight
    rw [run_bind_ok (run_get t), h.weights, hw]
    exact run_bind_ok (run_eachM_nil _ t)
  have hmod := h.modWt_then (f := fun w => { w with flight := w.flight.filter fun f => !p f }) (g := g)
    fun u hu => hg u (by rwa [hw] at hu)
  rwa [Waits, run_bind, ← hdrop, ← run_bind] at hmod

end FetchShut

/-- The package `onePackage` as it was bound: wrapped so, and with the content key that the module then holds. -/
def boundPackage (wrapped : List Byte) (key : Option Nat) : Package := { onePackage with wrapped := wrapped, key := key }

/-- Weights of that package, whose only source is a window of device 9 (R372); the command `q` runs. -/
def peerOnly (q : Option SysRef) (wrapped : List Byte) (key : Option Nat) : WtSt :=
  { WtSt.none with
    q := q, pkg := some (boundPackage wrapped key), sources := [⟨2, 0, 0, 0, some ⟨3, 1, 9, 0, 0, 80⟩⟩] }

namespace FetchShut

variable {w : WtSt} {q : Option SysRef} {wrapped : List Byte} {key : Option Nat}

/-- The source is asked over the route, which waits. -/
theorem sourceAsk (h : FetchShut w t) : Waits (sourceAsk 15 (peerOnly q wrapped key) (boundPackage wrapped key) ⟨0, 0, 0, []⟩) t :=
  (h.sendRouted _ _ _ _ _).first.first

/-- The fetch of the one shard takes a channel of a die, and then waits. -/
theorem fetchSome (h : FetchShut (peerOnly q wrapped key) t) : Waits (fetchSome 15 [0] 0) t := by
  have hroom : t.fld F.inflight = 16 := by rw [h.fld rfl]; decide +kernel
  refine .later (run_get t) ?_
  rw [h.weights, hroom]
  exact h.modWt_then fun _ h1 => .first <| .after blind.fresh h1 fun _ _ h2 => .after (blind.beginOwn _ _) h2 fun _ _ h3 =>
    h3.sourceAsk

theorem fetchResident (h : FetchShut (peerOnly q wrapped key) t) : Waits (fetchResident 15) t := by
  have hleft : t.shardsLeft 15 = [0] := by
    unfold State.shardsLeft
    rw [h.weights]
    split <;> rfl
  refine .later (run_get t) ?_
  rw [hleft]
  exact h.fetchSome

end FetchShut

/-! ### A resumed replacement that waits for its route -/

/-- The row of a SYSTEM command whose work waits leaves the state as it was (log 3). -/
theorem exec_system_waits {i : Instr} {work : Cmd → M Unit} {q : QIdx} {op : Nat} {x : Cmd} (h : SysStarted s q op x)
    (hi : exec i s = run (do let x ← sysStarted q op; sysRun q x (work x)) s) (hwait : Waits (work x) s) :
    exec i s = .next s := by
  have hrow : Waits (do let x ← sysStarted q op; sysRun q x (work x)) s :=
    .later (run_sysStarted h) <| .later (run_get s) <| hwait.attempt.first
  obtain ⟨u, hu⟩ := hrow
  rw [hi]
  exact run_stays hu

/-- WT_RESUME of model 15, entry 0 of its queue (R385). -/
def resumeCmd : Cmd :=
  { Cmd.blank 0 with kind := 5, phase := .started, started := true, body := leBytes 2 0x12 ++ leBytes 1 15 }

/-- Model 15 is PAUSED with that command started on queue 1, in `retrainingRoot`; slot 0 holds the key of its package's set. -/
def resuming (key : Nat) (wrapped : List Byte) : State :=
  State.setFld { retrainingRoot with
    queues := [((0, 1), { QueueSt.empty with cmds := [resumeCmd] })]
    sec := { retrainingRoot.sec with sets := [(0, 9, key)] }
    wts := [(15, peerOnly none wrapped none)] } (F.wState 15) 5

variable {key ck : Nat} {wrapped : List Byte}

theorem works_resuming : (resuming key wrapped).works = true :=
  show (retrainingRoot.setFld (F.wState 15) 5).works = true by decide +kernel

theorem wState_resuming : (resuming key wrapped).fld (F.wState 15) = 5 := fld_setFld_same _ 5 (by decide)

theorem sysStarted_resuming : SysStarted (resuming key wrapped) 1 0x12 resumeCmd where
  works := works_resuming
  first := show List.find? _ [resumeCmd] = _ by decide +kernel
  named := show List.find? _ [resumeCmd] = _ by decide +kernel
  open' := rfl

theorem fetchShut_resuming : FetchShut (peerOnly none wrapped none) (resuming key wrapped) :=
  have hbase : FetchShut (peerOnly none wrapped none) { retrainingRoot with
    queues := [((0, 1), { QueueSt.empty with cmds := [resumeCmd] })]
    sec := { retrainingRoot.sec with sets := [(0, 9, key)] }
    wts := [(15, peerOnly none wrapped none)] } := ⟨rfl, fun _ _ => rfl, rfl⟩
  hbase.setFld (F.wState 15) 5 rfl

theorem contentKey_resuming (h : Config.keyUnwrap key (natBytes wrapped) = some ck) :
    (resuming key wrapped).contentKey 9 wrapped = some ck := h

/-- The key unwraps, all checks pass, and the fetch waits for the route. -/
theorem wtResume_resuming (h : Config.keyUnwrap key (natBytes wrapped) = some ck) :
    exec (.wtResume 1) (resuming key wrapped) = .next (resuming key wrapped) := by
  refine exec_system_waits sysStarted_resuming rfl ?_
  have h0 := (fetchShut_resuming (key := key) (wrapped := wrapped)).setFld (F.wRefetch 15) 0 rfl
  have hstate : ((resuming key wrapped).setFld (F.wRefetch 15) 0).fld (F.wState 15) = 5 := by
    rw [fld_setFld_apart (f := F.wRefetch 15) (g := F.wState 15) _ _ rfl (by decide) (by decide), wState_resuming]
  have hsec : ((resuming key wrapped).setFld (F.wRefetch 15) 0).sec.sets = [(0, 9, key)] := rfl
  have hmodel : finOf 16 (recField resumeCmd.body 2 1) = some 15 := by decide +kernel
  have hzero : zeroFrom resumeCmd.body 3 = true := by decide +kernel
  dsimp only
  rw [hmodel]
  refine .later (run_pure (15 : Model) _) (.later (run_putFld _ _ _) ?_)
  generalize (resuming key wrapped).setFld (F.wRefetch 15) 0 = s0 at h0 hstate hsec ⊢
  have hallow : (zeroFrom resumeCmd.body 3 && s0.wtAllows 15 0x12) = true := by
    rw [hzero, Bool.true_and]
    simp [State.wtAllows, hstate]
  have hset : s0.sec.sets.any (fun k => k.2.1 == (boundPackage wrapped none).setId) = true := by rw [hsec]; rfl
  have hkey : s0.contentKey (boundPackage wrapped none).setId (boundPackage wrapped none).wrapped = some ck := by
    rw [State.contentKey, hsec]; exact h
  refine .later (run_get s0) <| .later (run_guardCode hallow _ _ s0) ?_
  rw [h0.weights]
  refine .later (run_guardCode rfl _ _ s0) <| .later (run_pure (boundPackage wrapped none) s0) <|
    .later (run_guardCode hset _ _ s0) ?_
  rw [hkey]
  refine .later (run_pure ck s0) ?_
  exact .after (FetchShut.sysRunning _ _) h0 fun _ _ h1 => h1.dropFlight_then rfl fun _ h2 => h2.modWt_then fun _ h3 =>
    .after (FetchShut.putWtState _) h3 fun _ _ h4 =>
      FetchShut.fetchResident (q := some (s0.sysRef 1 0)) (wrapped := wrapped) (key := some ck) h4

end Sys2Proof.Machine

namespace Sys2Proof

open Sys2Proof.Machine

/-- O34 holds exactly if no content key ever unwraps. With none the checks of WT_LOAD, WT_REPLACE and WT_RESUME never pass; with
one, a WT_RESUME that passes them and whose PEER source is reached over a route in a channel that is being retrained waits
(log 3), for O34 does not ask that the accesses of memory go on. Key unwrap is a constant without a body: neither O34 nor its
negation follows from the model. -/
theorem weightCommands_iff_noKeyUnwraps : Obligations.WeightCommands ↔ NoKeyUnwraps := by
  unfold Obligations.WeightCommands
  constructor
  · intro hcommands key wrapped
    by_contra hsome
    obtain ⟨ck, hck⟩ := Option.ne_none_iff_exists'.mp hsome
    obtain ⟨-, -, -, hresume⟩ := hcommands (resuming key wrapped) 1 resumeCmd 15 (by decide)
    obtain ⟨t, ht, ⟨hruns, -⟩, -⟩ := hresume (boundPackage wrapped none) ck sysStarted_resuming (by decide) wState_resuming rfl
      rfl rfl (contentKey_resuming hck)
    rw [wtResume_resuming hck] at ht
    cases ht
    rw [sysStarted_resuming.named] at hruns
    exact absurd hruns (by decide)
  · intro hnone s q x m _
    refine ⟨fun _ _ _ _ _ hchecks => ?_, fun _ _ _ _ hchecks => ?_, fun _ _ _ hchecks => ?_, fun p _ _ _ _ _ _ _ hkey => ?_⟩
    · exact absurd hchecks (neverOk_wtChecks hnone _ _ _ _ _ _)
    · exact absurd hchecks (neverOk_wtChecks hnone _ _ _ _ _ _)
    · exact absurd hchecks (neverOk_wtChecks hnone _ _ _ _ _ _)
    · exact absurd (hkey.symm.trans (contentKey_none hnone s p.setId p.wrapped)) nofun

end Sys2Proof
end

section
/-! PROOFS. Every command answers a state, and a step is the command at the front of the queue (logs 3 and 5). -/

namespace Sys2Proof.Machine

/-- A command in any phase answers the state that its computation reaches, or the one it was given. -/
theorem runAny_total (m : M Unit) (s : State) : ∃ t, runAny m s = .next t := by
  unfold runAny
  split <;> exact ⟨_, rfl⟩

/-- A command that rests on a condition of the module answers too. -/
theorem gated_total (b : Bool) (m : M Unit) (s : State) :
    ∃ t, (if b then runAny m s else Host.Outcome.next s) = .next t := by
  split
  · exact runAny_total m s
  · exact ⟨s, rfl⟩

/-- The named rows run in any phase of the module's life, and every other one under its condition. -/
theorem exec_total (c : Instr) (s : State) : ∃ t, exec c s = .next t := by
  cases c
  case fwImage | attest | peerFetchTimeout | entropyRecovery | perstAssert | perstDeassert | startUpStage | powerRemoval
      | powerApply | registerWrite | mctpMessage =>
    exact runAny_total _ s
  case entropyFail | doeDiscovery => exact ⟨_, rfl⟩
  all_goals exact gated_total _ _ s

theorem goesOn_all (s : State) : goesOn s := by
  unfold goesOn step
  split
  · exact ⟨s, rfl⟩
  · exact exec_total _ _

end Sys2Proof.Machine

namespace Sys2Proof

open Sys2Proof.Machine

/-- Settles O57: the queue is matched on its front, and no word decodes. -/
theorem stepRunsFront : Obligations.StepRunsFront := by
  unfold Obligations.StepRunsFront
  refine ⟨fun _ _ => rfl, fun s h => ?_, fun _ _ _ => ⟨rfl, rfl⟩⟩
  rw [step, h]

/-- Settles O58: every row is a computation that is run under a condition, or without one, and both answer. -/
theorem everyCommandGoesOn : Obligations.EveryCommandGoesOn := by
  unfold Obligations.EveryCommandGoesOn
  exact ⟨exec_total, fun _ t _ => goesOn_all t⟩

end Sys2Proof
end

section
/-! SUPPORT. The reset of a context that has no command and no job (R500, R502), where no event is to be written: its grant and
its images end, its generation advances, and its teardown begins. -/

namespace Sys2Proof.Machine

variable {s t : State} {c : Ctx} {x : CtxSt}

/-- A reset of a context is under way: the context is `x` by now, the memories, the cores and the queues are those of `s`, and
the same events are enabled. -/
structure Resetting (s : State) (c : Ctx) (x : CtxSt) (t : State) : Prop where
  ctx : t.ctxs.getD c .absent = x
  queues : t.queues = s.queues
  events : ∀ d, t.reg (.feEvcfg d) = s.reg (.feEvcfg d)
  mem : t.mem = s.mem
  sram : t.sram = s.sram
  cores : t.cores = s.cores

namespace Resetting

theorem blind : EngineBlind (Resetting s c x) where
  setFld f _ hf h := ⟨h.ctx, h.queues, fun d => (reg_setFld_other (by rintro e; rw [e] at hf; cases hf)).trans (h.events d),
    h.mem, h.sram, h.cores⟩
  engines h := ⟨h.ctx, h.queues, h.events, h.mem, h.sram, h.cores⟩

theorem setReg (h : Resetting s c x t) (r : Reg) (v : Nat) (hr : ∀ d, r ≠ .feEvcfg d) : Resetting s c x (t.setReg r v) :=
  ⟨h.ctx, h.queues, fun d => (reg_setReg_other (hr d)).trans (h.events d), h.mem, h.sram, h.cores⟩

theorem putFld (f : Fld) (v : Nat) (hf : ∀ d, f.reg ≠ .feEvcfg d) : Preserves (Resetting s c x) (putFld f v) :=
  .modify fun _ h => h.setReg _ _ hf

/-- A change of the context itself. -/
theorem modCtx (f : CtxSt → CtxSt) (h : Resetting s c x t) :
    Resetting s c (f x) { t with ctxs := t.ctxs.insert c (f (t.ctxs.getD c .absent)) } :=
  ⟨by rw [AMap.getD_insert_same, h.ctx], h.queues, h.events, h.mem, h.sram, h.cores⟩

theorem modJob (c' : Ctx) (f : JobSt → JobSt) : Preserves (Resetting s c x) (modJob c' f) :=
  .modify fun t h => by
    split
    · exact ⟨h.ctx, h.queues, h.events, h.mem, h.sram, h.cores⟩
    · exact h

theorem refreshSaved : Preserves (Resetting s c x) refreshSaved :=
  .bind .read fun _ => .bind (.eachM _ fun d => putFld (F.saved d) _ nofun) fun _ =>
    .eachM _ fun p => putFld (F.partSaved p.1) _ nofun

theorem startDrain (c' : Ctx) (q : Option QIdx) (v : Nat) : Preserves (Resetting s c x) (startDrain c' q v) :=
  .bind (.modify fun _ h => ⟨h.ctx, h.queues, h.events, h.mem, h.sram, h.cores⟩) fun _ =>
    .modify fun _ h => h.setReg _ _ nofun

theorem advanceQueue (c' : Ctx) (q : QIdx) : Preserves (Resetting s c x) (advanceQueue c' q) :=
  .bind (.bind .read fun _ => .pure _) fun _ => .bind (putFld (F.qGen c' q) _ nofun) fun _ => startDrain c' _ _

/-- A queue without commands has no records to write. -/
theorem recordQueue (hq : ∀ q, (s.queueOf c q).cmds = []) (q : QIdx) : Preserves (Resetting s c x) (recordQueue c q) :=
  .get_bind fun t h => by
    have hcmds : (t.queueOf c q).cmds = [] := by rw [State.queueOf, h.queues]; exact hq q
    dsimp only
    rw [hcmds]
    exact ⟨(), _, (run_bind_ok (run_modify _ t)).trans (run_eachM_nil _ _), h.ctx, h.queues, h.events, h.mem, h.sram, h.cores⟩

/-- Where no event is enabled, none is written. -/
theorem eventBoth (hoff : ∀ d, s.flag (F.evEnable d) = false) (c' : Ctx) (code detail : Nat) :
    Preserves (Resetting s c x) (eventBoth c' code detail) := by
  have hraise (d : Ctx) (about : Nat) : Preserves (Resetting s c x) (raiseEvent d code about detail) := fun t h => by
    have hflag : t.flag (F.evEnable d) = false := by
      rw [← hoff d, State.flag, State.flag, State.fld, State.fld]
      exact congrArg (fun v => bitsOf v _ _ == 1) (h.events d)
    exact ⟨(), t, LinksOnly.raiseEvent_off hflag _ _ _, h⟩
  unfold Machine.eventBoth
  split
  · exact hraise _ _
  · exact .bind (hraise _ _) fun _ => hraise _ _

end Resetting

/-- A context without commands and jobs has nothing to be cancelled but its requests. -/
theorem cancelContext_idle (hj : s.jobs = []) (hq : ∀ q, (s.queueOf c q).cmds = []) : cancelContext c none s =
    .ok () { s with sched := { s.sched with reqs := s.sched.reqs.filter (fun r => r.ctx ≠ c) } } := by
  have hcmds : eachM (List.finRange 64) (fun q => do
      eachM ((← get).queueOf c q).cmds (fun x => stopWork (.cmd c q x.idx) ⟨1, 0xB5, none⟩)) s = .ok () s := by
    obtain ⟨t, ht, rfl⟩ := eachM_ok (P := fun t => t = s) (List.finRange 64) (s := s) (f := fun q => do
        eachM ((← get).queueOf c q).cmds (fun x => stopWork (.cmd c q x.idx) ⟨1, 0xB5, none⟩))
      (fun q _ t e => ⟨s, by subst e; rw [run_bind_ok (run_get t), hq q]; exact run_eachM_nil _ t, rfl⟩) rfl
    exact ht
  have habort : abortJob c 0xB5 true s = .ok () s := by
    unfold abortJob
    rw [run_bind_ok (run_get s), hj]
    exact run_pure () s
  unfold cancelContext
  dsimp only
  rw [run_bind_ok hcmds, run_bind_ok habort, run_modify]

theorem modCtx_resetting (f : CtxSt → CtxSt) (h : Resetting s c x t) :
    ∃ u, modCtx c f t = .ok () u ∧ Resetting s c (f x) u := ⟨_, run_modCtx c f t, h.modCtx f⟩

/-- The grant and the images of the context end. -/
theorem endGrant_resetting (h : Resetting s c x t) : ∃ u, endGrant c t = .ok () u ∧ Resetting s c
    { x with holds := [], claims := [], preempt := false, saving := false, restoring := false, images := [] } u := by
  obtain ⟨v, hv, h⟩ := modCtx_resetting (fun x =>
    { x with holds := [], claims := [], preempt := false, saving := false, restoring := false, images := [] }) h
  unfold endGrant
  rw [run_bind_ok hv]
  exact Preserves.unit (.bind (.eachM _ fun _ => Resetting.blind.endOwn _ _) fun _ =>
    .bind (.modify fun _ h => h.setReg _ _ nofun) fun _ => Resetting.refreshSaved) h

/-- The generation of the context advances, and those of its queues. -/
theorem advanceContext_resetting (h : Resetting s c x t) : ∃ u, advanceContext c t = .ok () u ∧
    Resetting s c { x with gen := (x.gen + 1) % 4096 } u := by
  have hgen : t.genOf c = x.gen := by rw [State.genOf, h.ctx]
  obtain ⟨v, hv, h⟩ := modCtx_resetting (fun x => { x with gen := (t.genOf c + 1) % 4096 }) h
  rw [hgen] at h
  unfold advanceContext
  rw [run_bind_ok (run_get t), run_bind_ok hv]
  exact Preserves.unit (.bind (Resetting.startDrain _ _ _) fun _ => .eachM _ fun q => Resetting.advanceQueue _ q) h

/-- What is left of a context that has been reset, before its teardown is finished. -/
def tornContext (s : State) (c : Ctx) (cause : ResetCause) : CtxSt :=
  { CtxSt.absent with
    phase := .teardown, gen := (s.genOf c + 1) % 4096, destroyer := (s.ctxs.getD c .absent).destroyer
    cause := resetCode cause }

/-- A context that is being torn down is no client. -/
theorem not_mem_clients (h : (t.ctxs.getD c .absent).phase = .teardown) : c ∉ t.clients := by
  simp [State.clients, State.ctxLive, h]

theorem modCtx_other {d : Ctx} (hd : d ≠ c) (f : CtxSt → CtxSt) :
    Preserves (fun t => t.ctxs.getD c .absent = x) (modCtx d f) :=
  .modify fun _ h => (AMap.getD_insert_other hd).trans h

/-- The grants of the others settle; a context in teardown takes no part. -/
theorem settleGrants_torn (h : t.ctxs.getD c .absent = x) (hx : x.phase = .teardown) :
    ∃ u, settleGrants t = .ok () u ∧ u.ctxs.getD c .absent = x := by
  let P : State → Prop := fun t => t.ctxs.getD c .absent = x
  have hput (f : Fld) (v : Nat) : Preserves P (putFld f v) := .modify fun _ h => h
  have hne {t : State} (h : P t) : ∀ d ∈ t.clients, d ≠ c := by
    rintro d hd rfl
    exact not_mem_clients (by rw [show t.ctxs.getD d .absent = x from h]; exact hx) hd
  have hrelease (d : Ctx) (hd : d ≠ c) : Preserves P (releaseGrant d) :=
    .bind .read fun _ => .ite (.bind (modCtx_other hd _) fun _ => hput _ _) (.pure _)
  have htake (d : Ctx) (hd : d ≠ c) : Preserves P (takeClaims d) :=
    .bind .read fun _ => .ite (.bind (modCtx_other hd _) fun _ => .bind (hput _ _) fun _ => hput _ _) (.pure _)
  have hrefresh : Preserves P refreshGranted := .bind .read fun _ => .bind (.eachM _ fun _ => hput _ _) fun _ =>
    .eachM _ fun _ => hput _ _
  obtain ⟨v, hv, h1⟩ := eachM_ok (P := P) t.clients (fun d hd t ht => (hrelease d (hne h d hd)).unit ht) h
  obtain ⟨w, hw, h2⟩ := eachM_ok (P := P) v.clients (fun d hd t ht => (htake d (hne h1 d hd)).unit ht) h1
  unfold settleGrants
  rw [run_bind_ok (run_get t), run_bind_ok hv, run_bind_ok (run_get v), run_bind_ok hw]
  exact hrefresh.unit h2

/-- What a reset leaves of the context, with the queues of the others, the memories and the cores as they were. -/
structure ResetDone (s : State) (c : Ctx) (cause : ResetCause) (t : State) : Prop where
  ctx : t.ctxs.getD c .absent = tornContext s c cause
  queues : t.queues = s.queues.filter (fun p => p.1.1 ≠ c)
  mem : t.mem = s.mem
  sram : t.sram = s.sram
  cores : t.cores = s.cores

theorem resetContext_ok (hj : s.jobs = []) (hq : ∀ q, (s.queueOf c q).cmds = []) (hc : c ≠ 0) (hl : s.ctxLive c = true)
    (hoff : ∀ d, s.flag (F.evEnable d) = false) (cause : ResetCause) :
    ∃ t, resetContext c cause none s = .ok () t ∧ ResetDone s c cause t := by
  let s0 : State := { s with sched := { s.sched with reqs := s.sched.reqs.filter (fun r => r.ctx ≠ c) } }
  obtain ⟨s1, h1, r1⟩ := endGrant_resetting (t := s0) (s := s) (c := c) ⟨rfl, rfl, fun _ => rfl, rfl, rfl, rfl⟩
  obtain ⟨s2, h2, r2⟩ := (Resetting.modJob c (fun j => { j with drain := none })).unit r1
  obtain ⟨s3, h3, r3⟩ := advanceContext_resetting r2
  obtain ⟨s4, h4, r4⟩ := (Preserves.eachM (List.finRange 64) (Resetting.recordQueue hq)).unit r3
  obtain ⟨s5, h5, r5⟩ := (Resetting.eventBoth hoff c 0x08 (resetCode cause
    + b2n (s.fld (F.drainState c) == 1 || s.fld (F.drainState c) == 2) * 2 ^ 8
    + b2n (!(s.ctxs.getD c .absent).images.isEmpty || (s.ctxs.getD c .absent).saving || (s.ctxs.getD c .absent).restoring)
      * 2 ^ 9)).unit r4
  obtain ⟨s6, h6, r6⟩ := modCtx_resetting (fun y => { CtxSt.absent with
    phase := .teardown, gen := y.gen, destroyer := y.destroyer, cause := resetCode cause })
    (r5.setReg F.resetsContexts.reg (putBits (s5.reg F.resetsContexts.reg) F.resetsContexts.lo F.resetsContexts.width
      (satAdd (2 ^ F.resetsContexts.width - 2) (s5.fld F.resetsContexts) 1)) nofun)
  let s7 : State := { s6.resetPage c with queues := s6.queues.filter (fun p => p.1.1 ≠ c) }
  obtain ⟨t, ht, hctx⟩ := settleGrants_torn (t := s7) (c := c) r6.ctx rfl
  have hgrants : GrantsOnly s7 t := Retains.of_preserves GrantsOnly.settleGrants _ _ _ (.refl s7) ht
  refine ⟨t, ?_, hctx, ?_, hgrants.mem.trans r6.mem, hgrants.sram.trans r6.sram, hgrants.cores.trans r6.cores⟩
  · unfold resetContext
    rw [run_bind_ok (run_get s), if_neg (by simp [hc, hl]), run_bind_ok (cancelContext_idle hj hq), run_bind_ok (run_get _),
      run_bind_ok h1, run_bind_ok h2, run_bind_ok h3, run_bind_ok h4]
    refine (run_bind_ok h5).trans ?_
    rw [run_bind_ok (run_bump _ s5)]
    refine (run_bind_ok h6).trans ?_
    rw [run_bind_ok (run_modify _ s6)]
    exact ht
  · rw [hgrants.queues]
    exact congrArg (List.filter _) r6.queues

end Sys2Proof.Machine
end

section
/-! PROOFS. The reset and the destruction of a context (R23, R499, R500, R502). -/

namespace Sys2Proof.Machine

variable {s t : State} {c : Ctx} {q : QIdx} {x : Cmd}

/-- A queue of another context keeps its commands. -/
theorem ResetDone.cmdOf {cause : ResetCause} (h : ResetDone s c cause t) {d : Ctx} (hd : d ≠ c) (q : QIdx) (i : W32) :
    t.cmdOf d q i = s.cmdOf d q i := by
  have hfind : AMap.find? t.queues (d, q) = s.queues.find? (d, q) := by
    rw [h.queues]
    exact (find?_filter_fst s.queues (fun k => decide (k.1 ≠ c)) (d, q)).trans (if_pos (decide_eq_true hd))
  simp only [State.cmdOf, State.queueOf, AMap.getD, hfind]

/-- A context is reset as its cause has it. -/
theorem contextReset_completes (hw : s.works = true) (hj : s.jobs = []) (hq : ∀ q, (s.queueOf c q).cmds = []) (hc : c ≠ 0)
    (hl : s.ctxLive c = true) (hoff : ∀ d, s.flag (F.evEnable d) = false) (cause : ResetCause) :
    completes (.contextReset c cause) s (ResetDone s c cause) := by
  refine completes_of_run hw rfl ?_
  rw [run_bind_ok (run_get s), run_bind_ok (run_guardWait (by simp [hc, hl]) s)]
  exact resetContext_ok hj hq hc hl hoff cause

theorem exec_contextReset_system (cause : ResetCause) (s : State) : exec (.contextReset 0 cause) s = .next s := by
  refine run_stays (e := .wait) (t := s) ?_
  rw [run_bind_ok (run_get s)]
  exact run_bind_error (run_guardWait_false s)

/-- The state in which CTX_DESTROY runs and waits for the teardown that it is about to begin. -/
def destroyWaits (s : State) (q : QIdx) (x : Cmd) (c : Ctx) : State :=
  let y := s.ctxs.getD c .absent
  { setCmd s 0 q x.idx (fun y => { y with phase := .running }) with
    ctxs := s.ctxs.insert c { y with destroyer := y.destroyer ++ [s.sysRef q x.idx] } }

theorem destroyWaits_ctx : (destroyWaits s q x c).ctxs.getD c .absent =
    { s.ctxs.getD c .absent with destroyer := (s.ctxs.getD c .absent).destroyer ++ [s.sysRef q x.idx] } :=
  AMap.getD_insert_same _ _ _ _

/-- CTX_DESTROY resets its context and runs on. -/
theorem ctxDestroy_completes (h : SysStarted s q 2 x) (hn : recField x.body 2 2 = c.val) (hz : zeroFrom x.body 4 = true)
    (hj : s.jobs = []) (hq : ∀ q, (s.queueOf c q).cmds = []) (hc : c ≠ 0) (hl : s.ctxLive c = true)
    (hoff : ∀ d, s.flag (F.evEnable d) = false) :
    completes (.ctxDestroy q) s (ResetDone (destroyWaits s q x c) c .destroy) := by
  have hlive : (destroyWaits s q x c).ctxLive c = true := by
    rw [State.ctxLive, destroyWaits_ctx]
    exact hl
  have hcmds (r : QIdx) : ((destroyWaits s q x c).queueOf c r).cmds = [] := by
    have hne : ((0 : Ctx), q) ≠ (c, r) := fun e => hc (congrArg Prod.fst e).symm
    exact (congrArg QueueSt.cmds (AMap.getD_insert_other hne)).trans (hq r)
  obtain ⟨t, ht, hdone⟩ := resetContext_ok (s := destroyWaits s q x c) hj hcmds hc hlive hoff .destroy
  refine ⟨t, exec_system h rfl ?_, hdone⟩
  rw [run_bind_ok (run_bodyCtx hn hc s), run_bind_ok (run_get s)]
  refine (run_bind_ok (run_guardCode ?_ _ _ s)).trans ?_
  · simp [hz, phase_of_live hl]
  unfold sysRunning
  rw [run_bind_ok (run_modCmd _ _ _ _ s), run_bind_ok (run_modCtx _ _ _)]
  exact ht

/-- The deadline of a reclaim of one context resets it. -/
theorem reclaimDeadline_completes {r : ReclaimSt} (hw : s.works = true) (hr : s.sched.reclaims = [r]) (hcs : r.ctxs = [c])
    (hd : r.deadline ≤ s.fld F.tkStep) (hj : s.jobs = []) (hq : ∀ q, (s.queueOf c q).cmds = []) (hc : c ≠ 0)
    (hl : s.ctxLive c = true) (hoff : ∀ d, s.flag (F.evEnable d) = false) :
    completes .reclaimDeadline s (ResetDone s c .reclaim) := by
  obtain ⟨t, ht, hdone⟩ := resetContext_ok hj hq hc hl hoff .reclaim
  have hdue : s.sched.reclaims.filter (fun r => decide (r.deadline ≤ s.stepNo) && r.ctxs.any s.ctxLive) = [r] := by
    simp [hr, hcs, hl, State.stepNo, hd]
  refine completes_of_run hw rfl ⟨t, ?_, hdone⟩
  unfold reclaimDeadline
  rw [run_bind_ok (run_get s), hdue]
  refine (run_bind_ok (run_guardWait rfl s)).trans ?_
  rw [List.flatMap_singleton, hcs]
  exact run_eachM_one ht

end Sys2Proof.Machine

namespace Sys2Proof

open Sys2Proof.Machine

/-- Settles O29: a reset leaves the context in teardown with its next generation, whatever its cause; a CTX_DESTROY has joined
the list of those that wait for the teardown before it resets. -/
theorem contextReset : Obligations.ContextReset := by
  unfold Obligations.ContextReset
  intro s c cause hw hs hj hq hc hl torn
  have htorn {cause : ResetCause} {t : State} (h : ResetDone s c cause t) : torn t := by
    obtain ⟨hctx, -, hmem, hsram, hcores⟩ := h
    refine ⟨?_, ?_, ?_, ?_, hmem, hsram, hcores⟩ <;> rw [hctx] <;> rfl
  refine ⟨?_, fun q x hx hn hz => ?_, fun r hr hcs hd => ?_, exec_contextReset_system cause s⟩
  · obtain ⟨t, ht, hdone⟩ := contextReset_completes hw hj hq hc hl hs.events cause
    exact ⟨t, ht, htorn hdone⟩
  · obtain ⟨t, ht, hdone⟩ := ctxDestroy_completes hx hn hz hj hq hc hl hs.events
    have hgen : (destroyWaits s q x c).genOf c = s.genOf c := by rw [State.genOf, destroyWaits_ctx]; rfl
    have hdestroyer : ((destroyWaits s q x c).ctxs.getD c .absent).destroyer =
        (s.ctxs.getD c .absent).destroyer ++ [s.sysRef q x.idx] := by rw [destroyWaits_ctx]
    refine ⟨t, ht, ⟨?_, ?_, ?_, ?_, hdone.mem, hdone.sram, hdone.cores⟩, ?_, ?_⟩
    · rw [hdone.ctx]; rfl
    · rw [hdone.ctx, tornContext, hgen]
    · rw [hdone.ctx]; rfl
    · rw [hdone.ctx]; rfl
    · rw [hdone.cmdOf (Ne.symm hc)]
      exact cmdOf_setCmd_same hx.named fun _ => rfl
    · rw [hdone.ctx, tornContext, hdestroyer]
      rfl
  · obtain ⟨t, ht, hdone⟩ := reclaimDeadline_completes hw hr hcs hd hj hq hc hl hs.events
    exact ⟨t, ht, htorn hdone⟩

end Sys2Proof
end

section
/-! PROOFS. A lane that a spare replaces while start-up is in OPTICS (R415, R505, R531): before the module is ready, no repair
is counted. -/

namespace Sys2Proof.Machine

/-- Start-up is in OPTICS, and the module has not reported ready. -/
def startingOptics : State :=
  let s := (State.reset.setFlag F.pwReady false).setFld F.bootStage 7
  { s with
    pow := { State.reset.pow with booting := true }
    fab := { State.reset.fab with ports := [(0, { PortSt.down with lanes := [0], spare := some 1, trained := true })] } }

/-- The outcome is a next state that meets a test. -/
def nextMeets (test : State → Bool) (o : Host.Outcome State Fault Refusal) : Bool :=
  match o with
  | .next t => test t
  | _ => false

theorem nextMeets_next {test : State → Bool} {t : State} : nextMeets test (.next t) = test t := rfl

theorem silent_startingOptics : Silent startingOptics where
  trace := by decide +kernel
  events c := ((flag_setFld_other (by simp [F.bootStage, F.evEnable])).trans
    (flag_setFlag_other (by simp [F.pwReady, F.evEnable]))).trans (evEnable_reset c)

/-- The spare takes the place of lane 0, and no repair is counted. -/
theorem laneFailure_startingOptics :
    nextMeets (fun t => t.fld F.repairs == 0) (exec (.laneFailure 0 0 .lost) startingOptics) = true := by decide +kernel

end Sys2Proof.Machine

namespace Sys2Proof

open Sys2Proof.Machine

/-- Refutes O45: it counts every replacement of a lane as a repair. While start-up is in OPTICS the links run and a spare
takes the place of a lane, but what is repaired before the module is ready raises no event and no count (R505). -/
theorem not_portsAndLanes : ¬ Obligations.PortsAndLanes := by
  unfold Obligations.PortsAndLanes
  intro h
  obtain ⟨hlane, -⟩ := h startingOptics 0 (by decide +kernel)
  obtain ⟨t, ht, -, -, -, -, -, hcount, -⟩ := hlane 0 1 .lost silent_startingOptics (by decide +kernel) rfl (by decide)
    (by decide) (by decide) rfl rfl
  have hnone := laneFailure_startingOptics
  rw [ht, nextMeets_next, hcount] at hnone
  exact absurd hnone (by decide +kernel)

end Sys2Proof
end

section
/-! PROOFS. The abort of a job (R406) that ends a command whose DMA request has written to host memory (R284): the read
that makes those writes visible leaves with it. -/

namespace Sys2Proof.Machine

/-- The job of context 0, on which core 0 has one operation pending. -/
def pendingJob : JobSt :=
  { job := 77, die := 2, channels := 3, kind := 2, rank := 1, table := [(9, 4), (0, 0)], cistern := 0, cisternBytes := 0
    creator := none, destroyer := [], waited := 0, filled := true, joins := [], aborted := false, dying := false
    ops := [(0, [{ core := 0, pc := 0, q := 1, idx := 0, opNum := 0, bytes := [], prog := [], headerOk := true
                   headerSent := true, partialsIn := 0, valuesIn := 0, silent := 0, ownDone := 0 }])]
    nextOp := [(0, 1)], drain := none, noOpt := false }

/-- A COPY of core 0 that has written 8 bytes of an object in host memory. -/
def halfWritten : DmaReq :=
  { parseRec [] 0 0 1 0 (some 0) with op := 1, dstObj := some ⟨2, 3, 0, 0, 0x1000, 64⟩, done := 8 }

/-- Core 0 runs its command, with that request on its engine and that operation of the ACTIVE job. -/
def writingJob : State :=
  { (setCore State.reset 0 runningCore).setFld (F.clState 0) 2 with
    queues := [((0, 1), { QueueSt.empty with cmds := [Cmd.blank 0] })]
    jobs := [(0, pendingJob)]
    dma := [(.core 0, { DmaEngSt.idle with chans := [(0, { DmaCh.empty with reqs := [halfWritten] })] })] }

/-- The abort sends the read of length zero to the host. -/
theorem abort_writingJob : nextMeets (fun t => !t.out.isEmpty) (exec (.abort 77 0 0) writingJob) = true := by
  decide +kernel

end Sys2Proof.Machine

namespace Sys2Proof

open Sys2Proof.Machine

/-- Refutes O38: it has an abort that arrives send nothing. The command that it ends may have a DMA request that has written
to host memory, and a read of length zero then follows those writes (R284). -/
theorem not_jobAbortsAndDrains : ¬ Obligations.JobAbortsAndDrains := by
  unfold Obligations.JobAbortsAndDrains
  rintro ⟨haborts, -⟩
  have hstage : ∀ p ∈ pendingJob.ops, ∀ o ∈ p.2, ∀ k, writingJob.cores.find? o.core = some k → k.stage = none := by
    rintro p hp o ho k hk
    cases List.mem_singleton.mp hp
    cases List.mem_singleton.mp ho
    cases hk
    rfl
  obtain ⟨-, habort⟩ := haborts writingJob 0 pendingJob (by decide +kernel) rfl rfl hstage
  obtain ⟨t, ht, -, -, hout, -⟩ := habort 77 0 0 (by decide +kernel) (by decide) (by decide +kernel)
  have hread := abort_writingJob
  rw [ht, nextMeets_next, hout] at hread
  exact absurd hread (by decide)

end Sys2Proof
end

section
/-! PROOFS. A SIGNAL that a state keeps for a shard (R376, R430). -/

namespace Sys2Proof.Machine

/-- A SIGNAL that has been sent again, and that the state keeps as the READ of a shard is kept. -/
def signalOfShard : SentMsg :=
  { id := 0, type := 4, hdr := ⟨0, 0, 0, 0, 0, 0, 0, []⟩, resent := true, eng := none, body := []
    shard := some (0, 0, 0, 0) }

/-- Model 0 has the shard in flight, and no further source for it. -/
def shardOfSignal : State := { State.reset with
  fab := { State.reset.fab with sent := [signalOfShard] }
  wts := [(0, { WtSt.none with pkg := some onePackage, flight := [⟨0, 0, 0, []⟩] })] }

/-- The fetch ends in state 5. -/
theorem e2eTimeout_shardOfSignal : nextMeets (fun t => t.fld (F.wState 0) == 5) (exec (.e2eTimeout 0) shardOfSignal) = true := by
  decide +kernel

end Sys2Proof.Machine

namespace Sys2Proof

open Sys2Proof.Machine

/-- Refutes O48: it does not ask that a SIGNAL be kept without a shard. The second timeout of one that is kept with a shard
makes the fetch of the shard's model fail. No SIGNAL is sent so. -/
theorem not_routedTraffic : ¬ Obligations.RoutedTraffic := by
  unfold Obligations.RoutedTraffic
  rintro ⟨-, htraffic⟩
  obtain ⟨-, htimeout, -⟩ := htraffic shardOfSignal 0 signalOfShard.hdr (by decide +kernel) (by decide +kernel)
  obtain ⟨hlost, -⟩ := htimeout 0 signalOfShard (by decide +kernel)
  have hfails := e2eTimeout_shardOfSignal
  rw [hlost rfl rfl rfl, nextMeets_next] at hfails
  exact absurd hfails (by decide +kernel)

end Sys2Proof
end

section
/-! PROOFS. A host store to a line of the host-managed window that lies in the cistern of a job (R393, R451). -/

namespace Sys2Proof.Machine

/-- The window admits its first segment under slot 1025, whose DPAs begin at 0, where the cistern of a job lies. -/
def cisternInWindow : State :=
  { (((State.reset.setFld F.hdmSize 1).setFlag F.hdmValid true).setFlag (F.segValid 0) true).setFld (F.segSlot 0) 1025 with
    jobs := [(0, { pendingJob with cisternBytes := 65536, ops := [] })] }

/-- The write of byte 5 at DPA 0 as the window would make it. -/
def storeInCistern : M (Nat × List Byte) :=
  ignoringHeld (do
    checkWrite 1025 (0 / 256) false
    writeGranule 1025 0 [5]
    pure (0, []))

/-- The computation ends well, in a state that meets a test. -/
def okMeets {α : Type} (test : State → Bool) (r : EStateM.Result Err State α) : Bool :=
  match r with
  | .ok _ t => test t
  | _ => false

theorem exists_of_okMeets {α : Type} {test : State → Bool} {r : EStateM.Result Err State α} (h : okMeets test r = true) :
    ∃ a t, r = .ok a t ∧ test t = true := by
  unfold okMeets at h
  split at h
  · exact ⟨_, _, rfl, h⟩
  · cases h

/-- The write itself would succeed and count no error of the window. -/
theorem storeInCistern_ok : okMeets (fun t => t.fld F.hdmErr == 0) (storeInCistern cisternInWindow) = true := by
  decide +kernel

/-- The host's store is counted as an error. -/
theorem hostMemAccess_cisternInWindow :
    nextMeets (fun t => t.fld F.hdmErr == 1) (exec (.hostMemAccess 0 (some [5]) 0) cisternInWindow) = true := by
  decide +kernel

end Sys2Proof.Machine

namespace Sys2Proof

open Sys2Proof.Machine

/-- Refutes O50: it does not ask that the line lie outside the cisterns. A line that the window admits is refused to the host
where a job has its cistern (R393), though the write itself would succeed. -/
theorem not_hostAttachment : ¬ Obligations.HostAttachment := by
  unfold Obligations.HostAttachment
  rintro ⟨hwindow, -⟩
  obtain ⟨-, hstore, -⟩ := hwindow cisternInWindow (by decide +kernel)
  obtain ⟨r, u, hwrite, hnone⟩ := exists_of_okMeets storeInCistern_ok
  have hstep := hstore 0 [5] 0 1025 0 r u (by decide +kernel) (by decide) (by decide) hwrite
  have hcounted := hostMemAccess_cisternInWindow
  rw [hstep, nextMeets_next, beq_iff_eq, beq_iff_eq.mp hnone] at hcounted
  exact absurd hcounted (by decide)

end Sys2Proof
end

section
/-! SUPPORT. The spillways close (R416, R518, R530): every link ends, no port begins to train, and nothing else changes. -/

namespace Sys2Proof.Machine

variable {s t u : State} {p q : Port} {k : Fin 8}

/-! ### A port goes DOWN (R417) -/

/-- What is listed for a port whose link has ended. -/
def PortSt.ended (x : PortSt) : PortSt :=
  { PortSt.down with transition := x.transition, mismatch := x.mismatch, cfgRemote := x.cfgRemote }

/-- The state in which a port has gone DOWN. -/
def portOff (p : Port) (s : State) : State :=
  linkOff p { s with fab := { s.fab with ports := s.fab.ports.insert p (s.portOf p).ended } }

theorem run_portDown (p : Port) (s : State) : portDown p s = .ok ⟨⟩ (portOff p s) := Eq.trans rfl rfl

theorem linkOff_fab (p : Port) (s : State) : (linkOff p s).fab = s.fab := rfl

theorem portOff_port (p : Port) (s : State) : (portOff p s).portOf p = (s.portOf p).ended := by
  rw [State.portOf, portOff, linkOff_fab]
  exact AMap.getD_insert_same _ _ _ _

theorem portOff_closed (p : Port) (s : State) : (portOff p s).fab.closed = s.fab.closed := rfl

theorem portOff_state (p : Port) (s : State) : (portOff p s).fld (F.portState p) = 0 := linkOff_state p _

theorem portOff_reg (p : Port) (s : State) {r : Reg} (h : r ≠ .jlPortStat p) : (portOff p s).reg r = s.reg r := by
  have h' : Reg.jlPortStat p ≠ r := h.symm
  simp only [portOff, linkOff, State.setFlag]
  rw [reg_setFld_other h', reg_setFld_other h', reg_setFld_other h', reg_setFld_other h', reg_setFld_other h']
  rfl

theorem portOff_state_other (s : State) (h : p ≠ q) : (portOff p s).fld (F.portState q) = s.fld (F.portState q) :=
  congrArg (bitsOf · 0 3) (portOff_reg p s (by simpa [F.portState] using h.symm))

/-- A port that is DOWN in a state stays so as another goes DOWN. -/
theorem portOff_state_zero (s : State) (h : q = p ∨ s.fld (F.portState q) = 0) : (portOff p s).fld (F.portState q) = 0 := by
  by_cases hq : p = q
  · rw [← hq]
    exact portOff_state p s
  · rw [portOff_state_other s hq]
    exact h.resolve_left (Ne.symm hq)

/-! ### One spillway -/

/-- Beside the status of ports and the fabric, `t` is `s`. -/
structure SpillsOnly (s t : State) : Prop where
  rest : t = { s with regs := t.regs, fab := t.fab }
  reg : ∀ r, (∀ p, r ≠ .jlPortStat p) → t.reg r = s.reg r

namespace SpillsOnly

theorem refl (s : State) : SpillsOnly s s := ⟨rfl, fun _ _ => rfl⟩

theorem trans (a : SpillsOnly s t) (b : SpillsOnly t u) : SpillsOnly s u :=
  ⟨by rw [b.rest, a.rest], fun r hr => (b.reg r hr).trans (a.reg r hr)⟩

theorem mem (h : SpillsOnly s t) : t.mem = s.mem := (congrArg State.mem h.rest :)
theorem sram (h : SpillsOnly s t) : t.sram = s.sram := (congrArg State.sram h.rest :)
theorem cores (h : SpillsOnly s t) : t.cores = s.cores := (congrArg State.cores h.rest :)
theorem rep (h : SpillsOnly s t) : t.rep = s.rep := (congrArg State.rep h.rest :)
theorem pins (h : SpillsOnly s t) : t.pins = s.pins := (congrArg State.pins h.rest :)

theorem flag (h : SpillsOnly s t) {f : Fld} (hf : ∀ p, f.reg ≠ .jlPortStat p) : t.flag f = s.flag f := by
  rw [State.flag, State.fld, h.reg _ hf]
  rfl

theorem portOff (p : Port) (s : State) : SpillsOnly s (portOff p s) := ⟨rfl, fun _ hr => portOff_reg p s (hr p)⟩

theorem setFab (s : State) (f : FabSt) : SpillsOnly s { s with fab := f } := ⟨rfl, fun _ _ => rfl⟩

theorem setFlag (s : State) (p : Port) (b : Bool) : SpillsOnly s (s.setFlag (F.portSpill p) b) :=
  ⟨rfl, fun _ hr => reg_setFld_other (hr p).symm⟩

end SpillsOnly

/-- The position of a spillway does not share a bit with the state of a port. -/
theorem portState_setSpill (s : State) (p q : Port) (b : Bool) :
    (s.setFlag (F.portSpill p) b).fld (F.portState q) = s.fld (F.portState q) := by
  by_cases h : p = q
  · subst h
    exact fld_bits_apart s (.jlPortStat p) (by decide) (by decide)
  · exact fld_setFlag_other (by simpa [F.portSpill, F.portState] using h)

/-- Behind a closed spillway no port begins to train. -/
theorem beginTraining_closed (h : pairOf p ∈ s.fab.closed) : beginTraining p s = .ok () s := by
  have hoff : s.mayTrain p = false := by simp [State.mayTrain, h]
  unfold beginTraining
  rw [run_bind_ok (run_get s), hoff]
  exact run_pure _ _

theorem pairOf_cases : ∀ (p : Port) (k : Fin 8), pairOf p = k → p = evenPort k ∨ p = oddPort k := by decide

/-- A spillway's list of those that are closed, once it has closed. -/
def closeOne (s : State) (k : Fin 8) : List (Fin 8) := if s.fab.closed.contains k then s.fab.closed else k :: s.fab.closed

theorem mem_closeOne {s : State} {k j : Fin 8} : j ∈ closeOne s k ↔ j = k ∨ j ∈ s.fab.closed := by
  unfold closeOne
  split
  case isTrue h => exact ⟨.inr, fun e => e.elim (fun e => e ▸ by simpa using h) id⟩
  case isFalse => exact List.mem_cons

/-- The spillway of a pair is listed among the closed ones, and is no longer on its way. -/
def listClosed (k : Fin 8) (s : State) : State :=
  { s with fab := { s.fab with closed := closeOne s k, moving := s.fab.moving.filter (fun m => m.1 ≠ k) } }

theorem listClosed_closed (k : Fin 8) (s : State) : (listClosed k s).fab.closed = closeOne s k := rfl

theorem listClosed_fld (k : Fin 8) (s : State) (f : Fld) : (listClosed k s).fld f = s.fld f := rfl

theorem portOff_closeOne (p : Port) (s : State) (k : Fin 8) : closeOne (portOff p s) k = closeOne s k := by
  rw [closeOne, portOff_closed]
  rfl

/-- The state in which both ports of a pair are DOWN behind their closed spillway. -/
def spillShut (k : Fin 8) (s : State) : State :=
  ((listClosed k (portOff (oddPort k) (portOff (evenPort k) s))).setFlag (F.portSpill (evenPort k)) true).setFlag
    (F.portSpill (oddPort k)) true

theorem spillShut_closed (k : Fin 8) (s : State) {j : Fin 8} : j ∈ (spillShut k s).fab.closed ↔ j = k ∨ j ∈ s.fab.closed := by
  rw [spillShut, setFlag_fab, setFlag_fab, listClosed_closed, portOff_closeOne, portOff_closeOne, mem_closeOne]

theorem spillShut_only (k : Fin 8) (s : State) : SpillsOnly s (spillShut k s) :=
  (((SpillsOnly.portOff _ s).trans (.portOff _ _)).trans (.setFab _ _)).trans ((SpillsOnly.setFlag _ _ _).trans (.setFlag _ _ _))

theorem spillShut_state (h : pairOf p = k ∨ s.fld (F.portState p) = 0) : (spillShut k s).fld (F.portState p) = 0 := by
  rw [spillShut, portState_setSpill, portState_setSpill, listClosed_fld]
  refine portOff_state_zero _ ?_
  by_cases hp : p = oddPort k
  · exact .inl hp
  · exact .inr (portOff_state_zero _ (h.imp_left fun e => (pairOf_cases p k e).resolve_right hp))

theorem run_setSpillway_true (k : Fin 8) (s : State) : setSpillway k true s = .ok () (spillShut k s) := by
  have hclosed : ∀ p, pairOf p = k → pairOf p ∈ (spillShut k s).fab.closed := fun p h => (spillShut_closed k s).mpr (.inl h)
  have heven : ∀ k, pairOf (evenPort k) = k := by decide
  have hodd : ∀ k, pairOf (oddPort k) = k := by decide
  unfold setSpillway
  rw [run_bind_ok (run_portDown _ s), run_bind_ok (run_portDown _ _), run_bind_ok (run_modify _ _), run_bind_ok (run_putFlag _ _ _),
    run_bind_ok (run_putFlag _ _ _)]
  exact (run_bind_ok (beginTraining_closed (hclosed _ (heven k)))).trans (beginTraining_closed (hclosed _ (hodd k)))

/-! ### Every spillway -/

/-- The spillways of a list close one after the other. -/
theorem eachM_setSpillway (l : List (Fin 8)) (s : State) : ∃ t, eachM l (fun k => setSpillway k true) s = .ok () t ∧
    SpillsOnly s t ∧ (∀ j, j ∈ l ∨ j ∈ s.fab.closed → j ∈ t.fab.closed) ∧
    ∀ p, pairOf p ∈ l ∨ s.fld (F.portState p) = 0 → t.fld (F.portState p) = 0 := by
  induction l generalizing s with
  | nil => exact ⟨s, run_pure _ _, .refl s, fun j h => h.resolve_left List.not_mem_nil, fun p h => h.resolve_left List.not_mem_nil⟩
  | cons k l ih =>
    obtain ⟨t, ht, honly, hclosed, hstate⟩ := ih (spillShut k s)
    refine ⟨t, (run_bind_ok (run_setSpillway_true k s)).trans ht, (spillShut_only k s).trans honly, fun j hj => ?_, fun p hp => ?_⟩
    · refine hclosed j ?_
      rw [spillShut_closed]
      rcases hj with hj | hj
      · exact (List.mem_cons.mp hj).symm.imp_right .inl
      · exact .inr (.inr hj)
    · refine hstate p ?_
      rcases hp with hp | hp
      · exact (List.mem_cons.mp hp).symm.imp_right fun e => spillShut_state (.inl e)
      · exact .inr (spillShut_state (.inr hp))

/-- The module has no open spillway left, and every port is DOWN. -/
structure Shut (s t : State) : Prop extends SpillsOnly s t where
  closed : ∀ k, k ∈ t.fab.closed
  portState : ∀ p, t.fld (F.portState p) = 0

theorem closeSpillways_ok (s : State) : ∃ t, closeSpillways s = .ok () t ∧ Shut s t := by
  obtain ⟨t, ht, honly, hclosed, hstate⟩ := eachM_setSpillway (List.finRange 8) s
  exact ⟨t, ht, ⟨honly, fun k => hclosed k (.inl (List.mem_finRange k)), fun p => hstate p (.inl (List.mem_finRange _))⟩⟩

/-- The state of a module that has met a fault, before its spillways close (R518). -/
def faulted (s : State) : State :=
  { s.setFlag F.moduleFault true with rep := { s.rep with moduleFault := true }, pins := { s.pins with alert := true } }

theorem enterModuleFault_ok (s : State) : ∃ t, enterModuleFault s = .ok () t ∧ Shut (faulted s) t := by
  obtain ⟨t, ht, h⟩ := closeSpillways_ok (faulted s)
  exact ⟨t, (run_bind_ok (run_putFlag _ _ s)).trans ((run_bind_ok (run_modify _ _)).trans ht), h⟩

/-- The state of a module that has tripped, before its spillways close (R530). -/
def tripped (s : State) : State := { s.setFlag F.pwTripped true with pins := { s.pins with thermtrip := true } }

theorem thermalTrip_ok (s : State) : ∃ t, thermalTrip s = .ok () t ∧ Shut (tripped s) t := by
  obtain ⟨t, ht, h⟩ := closeSpillways_ok (tripped s)
  exact ⟨t, (run_bind_ok (run_putFlag _ _ s)).trans ((run_bind_ok (run_modify _ _)).trans ht), h⟩

end Sys2Proof.Machine
end

section
/-! SUPPORT. Plinth cores and their roles (R496–R498): the exchange of a role's cores, and the retirement of one. -/

namespace Sys2Proof.Machine

variable {s t : State}

/-! ### A repair is recorded, whether or not the module is ready (R505) -/

/-- Beside the repair map and its registers, `t` is `s`; of the repair part only the map differs. -/
structure MapsOnly (s t : State) : Prop extends RepairsOnly s t where
  rep : ∃ m, t.rep = { s.rep with map := m }

namespace MapsOnly

theorem refl (s : State) : MapsOnly s s := ⟨⟨rfl, fun _ _ => rfl⟩, _, rfl⟩

theorem setReg (h : MapsOnly s t) {r : Reg} (v : Nat) (hr : r.ofRepairs = true) : MapsOnly s (t.setReg r v) :=
  ⟨h.toRepairsOnly.setReg v hr, h.rep⟩

theorem bump (f : Fld) (hf : f.reg.ofRepairs = true) : Preserves (MapsOnly s) (bump f) := .modify fun _ h => h.setReg _ hf

theorem setMap (f : List Nat → List Nat) : Preserves (MapsOnly s) (setMap f) := by
  refine .bind (.modify fun t h => ?_) fun _ => .bind .read fun _ =>
    .bind (.modify fun _ h => h.setReg _ rfl) fun _ => .modify fun _ h => h.setReg _ rfl
  obtain ⟨⟨hrest, hreg⟩, m, hm⟩ := h
  exact ⟨⟨by rw [hrest], hreg⟩, _, by rw [hm]⟩

theorem systemEvent (he : s.flag (F.evEnable 0) = false) (code about detail : Nat) :
    Preserves (MapsOnly s) (systemEvent code about detail) := fun t h =>
  ⟨(), t, LinksOnly.raiseEvent_off ((h.flag rfl).trans he) code about detail, h⟩

theorem raiseRepair (he : s.flag (F.evEnable 0) = false) (kind : Nat) (exhausted : Bool) (die unit sub physical : Nat) :
    Preserves (MapsOnly s) (raiseRepair kind exhausted die unit sub physical) :=
  .bind (setMap _) fun _ => .bind .read fun _ =>
    .ite (.bind (bump _ rfl) fun _ => .bind (bump _ rfl) fun _ => systemEvent he _ _ _) (.pure _)

end MapsOnly

/-! ### The cores of a role -/

theorem run_modRep (f : RepairSt → RepairSt) (s : State) : modRep f s = .ok ⟨⟩ { s with rep := f s.rep } := run_modify _ s

variable {k a b : Nat}

/-- The cores `a` and `b` of a role have exchanged its two places: `b` is active, and `a` is being tested. -/
def rolesSwapped (s : State) (k a b : Nat) : State :=
  (((s.setFld (F.roleActive k) b).setFld (F.roleStandby k) a).setFld (F.plinth b) 0).setFld (F.plinth a) 2

theorem rolesSwapped_reg (s : State) {r : Reg} (h : r ≠ .pwRoles ∧ r ≠ .rpPlinth) : (rolesSwapped s k a b).reg r = s.reg r := by
  obtain ⟨hr, hp⟩ := h
  rw [rolesSwapped, reg_setFld_other (f := F.plinth a) hp.symm, reg_setFld_other (f := F.plinth b) hp.symm,
    reg_setFld_other (f := F.roleStandby k) hr.symm, reg_setFld_other (f := F.roleActive k) hr.symm]

theorem fld_pwRoles_setPlinth (s : State) (n v lo w : Nat) : (s.setFld (F.plinth n) v).fld ⟨.pwRoles, lo, w⟩ = s.fld ⟨.pwRoles, lo, w⟩ :=
  fld_setFld_other (by simp [F.plinth])

theorem rolesSwapped_active (s : State) (hk : k < 4) (hb : b < 8) : (rolesSwapped s k a b).fld (F.roleActive k) = b := by
  rw [rolesSwapped, F.roleActive, fld_pwRoles_setPlinth, fld_pwRoles_setPlinth, F.roleStandby]
  rw [fld_bits_apart _ _ (by omega) (by omega), fld_bits_same _ _ (by omega)]
  exact Nat.mod_eq_of_lt hb

theorem rolesSwapped_standby (s : State) (hk : k < 4) (ha : a < 8) : (rolesSwapped s k a b).fld (F.roleStandby k) = a := by
  rw [rolesSwapped, F.roleStandby, fld_pwRoles_setPlinth, fld_pwRoles_setPlinth]
  rw [fld_bits_same _ _ (by omega)]
  exact Nat.mod_eq_of_lt ha

theorem rolesSwapped_plinth (s : State) (ha : a < 8) (hb : b < 8) (hab : a ≠ b) :
    (rolesSwapped s k a b).fld (F.plinth b) = 0 ∧ (rolesSwapped s k a b).fld (F.plinth a) = 2 := by
  simp (disch := omega) only [rolesSwapped, F.plinth, fld_bits_apart, fld_bits_same, Nat.zero_mod, true_and]
  rfl

theorem run_swapRoles (k a b : Nat) (rest : M Unit) (s : State) : (do
    putFld (F.roleActive k) b
    putFld (F.roleStandby k) a
    putFld (F.plinth b) 0
    putFld (F.plinth a) 2
    rest) s = rest (rolesSwapped s k a b) :=
  (run_bind_ok (run_putFld _ _ s)).trans <| (run_bind_ok (run_putFld _ _ _)).trans <|
    (run_bind_ok (run_putFld _ _ _)).trans (run_bind_ok (run_putFld _ _ _))

/-- Where no event is written, a change of roles shows in the registers alone (R498). -/
theorem roleChanged_off (he : s.flag (F.evEnable 0) = false) (k : Fin 4) (cause former : Nat) :
    roleChanged k cause former s = .ok () s :=
  (run_bind_ok (run_get s)).trans (LinksOnly.raiseEvent_off he _ _ _)

/-! ### A core is retired -/

/-- A role has lost core `b`, before the repair is recorded. -/
def roleBereft (s : State) (k b : Nat) : State := (s.setFld (F.plinth b) 3).setFlag (F.roleNoStandby k) true

theorem roleBereft_reg (s : State) {r : Reg} (h : r ≠ .pwRoles ∧ r ≠ .rpPlinth) : (roleBereft s k b).reg r = s.reg r :=
  (reg_setFld_other (f := F.roleNoStandby k) h.1.symm).trans (reg_setFld_other (f := F.plinth b) h.2.symm)

theorem roleBereft_plinth (s : State) (hb : b < 8) : (roleBereft s k b).fld (F.plinth b) = 3 := by
  rw [roleBereft, fld_setFlag_other (by simp [F.roleNoStandby, F.plinth])]
  exact fld_bits_same s _ (by omega)

theorem roleBereft_noStandby (s : State) (hk : k < 4) : (roleBereft s k b).flag (F.roleNoStandby k) = true :=
  flag_setFlag_same _ _ (by simp only [F.roleNoStandby]; omega) rfl

theorem roleBereft_active (s : State) (hk : k < 4) : (roleBereft s k b).fld (F.roleActive k) = s.fld (F.roleActive k) := by
  rw [roleBereft, State.setFlag, F.roleActive, F.roleNoStandby, fld_bits_apart _ _ (by omega) (by omega),
    fld_pwRoles_setPlinth]

theorem retirePlinth_ok (he : s.flag (F.evEnable 0) = false) (k : Fin 4) (b : Nat) :
    ∃ t, retirePlinth k b s = .ok () t ∧ MapsOnly (roleBereft s k.val b) t := by
  have he' : (roleBereft s k.val b).flag (F.evEnable 0) = false :=
    (congrArg (fun r => bitsOf r 0 1 == 1) (roleBereft_reg s (r := .feEvcfg 0) ⟨nofun, nofun⟩)).trans he
  obtain ⟨t, ht, h⟩ := (MapsOnly.raiseRepair he' 9 true (b / 2) b 0 0xFF).unit (.refl _)
  exact ⟨t, (run_bind_ok (run_putFld _ _ s)).trans ((run_bind_ok (run_putFlag _ _ _)).trans ht), h⟩

end Sys2Proof.Machine
end

section
/-! PROOFS. Plinth cores, takeover and the module fault (R496–R498, R518). -/

namespace Sys2Proof.Machine

variable {s t : State} {k : Fin 4}

theorem roleActive_lt (s : State) (k : Nat) : s.fld (F.roleActive k) < 8 := fld_lt s _
theorem roleStandby_lt (s : State) (k : Nat) : s.fld (F.roleStandby k) < 8 := fld_lt s _

/-- The standby has taken the role, and the former active core waits for its self-test. -/
def takenOver (s : State) (k : Fin 4) : State :=
  let u := rolesSwapped s k.val (s.fld (F.roleActive k.val)) (s.fld (F.roleStandby k.val))
  { u with rep := { u.rep with takeover := u.rep.takeover ++ [k.val] } }

theorem heartbeatMiss_takesOver (hw : s.works = true) (he : s.flag (F.evEnable 0) = false) (hr : s.standbyReady k = true)
    (hu : s.updating k.val = false) : exec (.heartbeatMiss k false) s = .next (takenOver s k) := by
  have he' : (takenOver s k).flag (F.evEnable 0) = false :=
    (congrArg (fun r => bitsOf r 0 1 == 1) (rolesSwapped_reg s (r := .feEvcfg 0) ⟨nofun, nofun⟩)).trans he
  refine run_next hw (u := ()) ?_
  rw [run_bind_ok (run_get s)]
  rw [if_neg (by simp), hu, if_neg (by simp), hr, if_pos rfl, run_swapRoles]
  exact (run_bind_ok (run_modRep _ _)).trans (roleChanged_off he' k 1 _)

theorem heartbeatMiss_losesStandby (hw : s.works = true) (he : s.flag (F.evEnable 0) = false) (hr : s.standbyReady k = true)
    (hu : s.updating k.val = false) :
    ∃ t, exec (.heartbeatMiss k true) s = .next t ∧ MapsOnly (roleBereft s k.val (s.fld (F.roleStandby k.val))) t := by
  obtain ⟨t, ht, h⟩ := retirePlinth_ok he k (s.fld (F.roleStandby k.val))
  refine ⟨t, run_next hw (u := ()) ?_, h⟩
  rw [run_bind_ok (run_get s)]
  rw [if_pos rfl, hr, run_bind_ok (run_guardWait_true s), run_bind_ok ht, hu, if_neg (by simp)]
  exact run_pure _ _

theorem heartbeatMiss_faults (hw : s.works = true) (hr : s.standbyReady k = false) (hu : s.updating k.val = false) :
    ∃ t, exec (.heartbeatMiss k false) s = .next t ∧ Shut (faulted s) t := by
  obtain ⟨t, ht, h⟩ := enterModuleFault_ok s
  refine ⟨t, run_next hw (u := ()) ?_, h⟩
  rw [run_bind_ok (run_get s)]
  rw [if_neg (by simp), hu, if_neg (by simp), hr, if_neg (by simp)]
  exact ht

/-- The takeover of a role is over, and the core that failed has yet to be judged. -/
def takeoverEnded (s : State) (k : Fin 4) : State :=
  { s with rep := { s.rep with takeover := s.rep.takeover.filter (· ≠ k.val) } }

theorem takeoverComplete_passes (hw : s.works = true) (hk : k.val ∈ s.rep.takeover) :
    exec (.takeoverComplete k true) s = .next ((takeoverEnded s k).setFld (F.plinth (s.fld (F.roleStandby k.val))) 1) := by
  have hlisted : s.rep.takeover.contains k.val = true := by simpa using hk
  refine run_next hw (u := ()) ?_
  rw [run_bind_ok (run_get s), hlisted, run_bind_ok (run_guardWait_true s), run_bind_ok (run_modRep _ s)]
  rfl

theorem takeoverComplete_fails (hw : s.works = true) (he : s.flag (F.evEnable 0) = false) (hk : k.val ∈ s.rep.takeover) :
    ∃ t, exec (.takeoverComplete k false) s = .next t ∧
      MapsOnly (roleBereft (takeoverEnded s k) k.val (s.fld (F.roleStandby k.val))) t := by
  have hlisted : s.rep.takeover.contains k.val = true := by simpa using hk
  obtain ⟨t, ht, h⟩ := retirePlinth_ok (s := takeoverEnded s k) he k (s.fld (F.roleStandby k.val))
  refine ⟨t, run_next hw (u := ()) ?_, h⟩
  rw [run_bind_ok (run_get s), hlisted, run_bind_ok (run_guardWait_true s), run_bind_ok (run_modRep _ s)]
  exact ht

/-! ### The module fault -/

theorem moduleFault_shuts (hw : s.works = true) : ∃ t, exec (.moduleFault .security) s = .next t ∧ Shut (faulted s) t := by
  obtain ⟨t, ht, h⟩ := enterModuleFault_ok s
  refine ⟨t, run_next hw (u := ()) ?_, h⟩
  rw [run_bind_ok (run_get s)]
  exact (run_bind_ok (run_guardWait_true s)).trans ht

theorem works_of_moduleFault (h : s.rep.moduleFault = true) : s.works = false := by
  simp [State.works, State.unstopped, h]

theorem linksRun_of_moduleFault (h : s.rep.moduleFault = true) : s.linksRun = false := by
  simp [State.linksRun, State.works, State.unstopped, h]

theorem run_stopped (h : s.rep.moduleFault = true) (m : M Unit) : run m s = .next s := by
  rw [run, works_of_moduleFault h]
  rfl

theorem runLink_stopped (h : s.rep.moduleFault = true) (m : M Unit) : runLink m s = .next s := by
  rw [runLink, linksRun_of_moduleFault h]
  rfl

end Sys2Proof.Machine

namespace Sys2Proof

open Sys2Proof.Machine

/-- Settles O43: the exchange of a role's cores is read off the registers; where no standby is ready the module faults, and
every row of an engine asks first whether the module works. -/
theorem plinthAndModuleFault : Obligations.PlinthAndModuleFault := by
  unfold Obligations.PlinthAndModuleFault
  refine ⟨fun s k hw hs => ?_, fun s => ⟨fun hw => ?_, fun hf n w50 w c q x e ch h v cores i hi => ?_⟩⟩
  · have ha := roleActive_lt s k.val
    have hb := roleStandby_lt s k.val
    have he := hs.events 0
    refine ⟨fun hr hab hu => ?_, fun hr hu => ?_, fun hr hu => ?_, fun hk => ⟨takeoverComplete_passes hw hk, ?_⟩⟩
    · obtain ⟨hpb, hpa⟩ := rolesSwapped_plinth (k := k.val) s ha hb hab
      exact ⟨_, heartbeatMiss_takesOver hw he hr hu, rolesSwapped_active s k.isLt hb, rolesSwapped_standby s k.isLt ha, hpb,
        hpa, rfl, rfl, rfl⟩
    · obtain ⟨t, ht, h⟩ := heartbeatMiss_losesStandby hw he hr hu
      refine ⟨t, ht, ?_, ?_, ?_, h.mem, h.cores⟩
      · rw [h.fld rfl, roleBereft_plinth s hb]
      · rw [h.flag rfl, roleBereft_noStandby s k.isLt]
      · rw [h.fld rfl, roleBereft_active s k.isLt]
    · obtain ⟨t, ht, h⟩ := heartbeatMiss_faults hw hr hu
      exact ⟨t, ht, congrArg RepairSt.moduleFault h.rep, h.mem, h.cores⟩
    · obtain ⟨t, ht, h⟩ := takeoverComplete_fails hw he hk
      obtain ⟨m, hm⟩ := h.rep
      refine ⟨t, ht, ?_, ?_, congrArg RepairSt.takeover hm⟩
      · rw [h.fld rfl, roleBereft_plinth _ hb]
      · rw [h.flag rfl, roleBereft_noStandby _ k.isLt]
  · obtain ⟨t, ht, h⟩ := moduleFault_shuts hw
    have hfault : t.rep.moduleFault = true := congrArg RepairSt.moduleFault h.rep
    refine ⟨t, ht, hfault, ?_, congrArg PinSt.alert h.pins, works_of_moduleFault hfault, h.closed, h.portState, h.mem, h.sram,
      h.cores⟩
    rw [h.flag (by simp [F.moduleFault])]
    exact flag_setFlag_same s true (by decide) rfl
  · simp only [List.mem_cons, List.not_mem_nil, or_false] at hi
    rcases hi with rfl | rfl | rfl | rfl | rfl | rfl | rfl | rfl | rfl | rfl | rfl | rfl | rfl | rfl | rfl | rfl | rfl | rfl |
      rfl | rfl | rfl
    iterate 20 exact run_stopped hf _
    exact runLink_stopped hf _

end Sys2Proof
end

section
/-! SUPPORT. SYSTEM commands: the operands that their checks take, and the end of one that another event names. -/

namespace Sys2Proof.Machine

variable {s t : State} {α : Type}

theorem finOf_val {n k : Nat} (i : Fin n) (h : k = i.val) : finOf n k = some i := by
  subst h
  exact dif_pos i.isLt

theorem run_orErr {o : Option α} {a : α} (h : o = some a) (e : Err) (s : State) : orErr o e s = .ok a s := by
  subst h
  exact run_pure a s

theorem run_readAs {m : M α} {a : α} (h : m s = .ok a t) (fault : Nat) : readAs fault m s = .ok a t :=
  (run_bind_ok (run_attempt_ok h)).trans (run_pure a t)

/-- A SYSTEM command that its reference still names is ended. -/
theorem run_endSys_ref {r : SysRef} {x : Cmd} (hx : s.sysCmd r = some x) (ho : x.ending = none) (st fault : Nat) :
    endSys r st fault s = .ok () (setCmd s 0 r.1 r.2.2 (ends st fault)) := by
  unfold endSys
  rw [run_bind_ok (run_get s), hx]
  dsimp only
  rw [ho, Option.isNone_none, if_pos rfl]
  exact run_modCmd _ _ _ _ s

theorem cmdOf_of_sysCmd {r : SysRef} {x : Cmd} (hx : s.sysCmd r = some x) : s.cmdOf 0 r.1 r.2.2 = some x := by
  unfold State.sysCmd at hx
  split at hx
  · exact hx
  · cases hx

/-- The queues and the generation of its queue are what a reference to a SYSTEM command rests on. -/
theorem sysCmd_congr {r : SysRef} (hq : t.queues = s.queues) (hg : t.fld (F.qGen 0 r.1) = s.fld (F.qGen 0 r.1)) :
    t.sysCmd r = s.sysCmd r := by
  rw [State.sysCmd, State.sysCmd, hg, cmdOf_congr hq]

theorem ended_of_sysCmd {r : SysRef} {x : Cmd} (hx : s.sysCmd r = some x) (st fault : Nat) :
    ended (setCmd s 0 r.1 r.2.2 (ends st fault)) 0 r.1 r.2.2 ⟨st, fault, none⟩ :=
  ⟨ends st fault x, cmdOf_setCmd_same (cmdOf_of_sysCmd hx) fun _ => rfl, rfl, rfl⟩

theorem run_modPow (f : PowerSt → PowerSt) (s : State) : modPow f s = .ok ⟨⟩ { s with pow := f s.pow } := run_modify _ s

/-- An access of memory is what it leaves in the memory system and in the count of free values. -/
theorem onlyMem_eq {s u : State} (h : onlyMem s u) : ∃ m d, u = { s with mem := m, seed := d } := ⟨_, _, h⟩

end Sys2Proof.Machine
end

section
/-! PROOFS. Firmware update (R536–R538). -/

namespace Sys2Proof.Machine

variable {s t u : State} {q : QIdx} {x : Cmd} {h : HandleObj}

/-! ### The update begins -/

/-- The standby of the role copies the image, where it still has its digest. -/
theorem updateRole_ok {r : FwUpd} {b : List Byte} (hno : s.flag (F.roleNoStandby r.role) = false) (hx : s.sysCmd r.q = some x)
    (hh : x.handleAt 4 = some h) (hb : vaRead 0 h.address h.size { s with pow := { s.pow with upd := some r } } = .ok b t)
    (hd : imageDigest b = r.digest) : updateRole r s = .ok () t := by
  unfold updateRole
  rw [run_bind_ok (run_get s), run_bind_ok (run_modPow _ s), hno, if_neg (by simp), hx, Option.bind_some, hh]
  dsimp only
  rw [run_bind_ok (run_attempt_ok hb)]
  dsimp only
  rw [if_pos hd]
  exact run_pure _ t

/-- The update that FW_UPDATE of an image begins. -/
def firstRole (s : State) (q : QIdx) (x : Cmd) (b : List Byte) : FwUpd :=
  { q := s.sysRef q x.idx, role := 0, reload := false, digest := imageDigest b, version := recField b 8 8
    logVersion := recField b 4 2 }

/-- FW_UPDATE runs, before its first role is under way. -/
def updateShown (s : State) (q : QIdx) (x : Cmd) : State :=
  ((setCmd s 0 q x.idx (fun y => { y with phase := .running })).setFld F.updState 1).setFld F.updRolesNew 0

theorem fld_updateShown {f : Fld} (hf : f.reg ≠ .pwFwUpd) : (updateShown s q x).fld f = s.fld f := by
  rw [updateShown, fld_setFld_other (f := F.updRolesNew) hf.symm, fld_setFld_other (f := F.updState) hf.symm]
  rfl

/-- What FW_UPDATE asks of its body and of the module before it reads the image (R536). -/
structure UpdateMayRun (s : State) (x : Cmd) (h : HandleObj) : Prop where
  body : recField x.body 2 2 = 0
  rest : zeroFrom x.body 8 = true
  handle : x.handleAt 4 = some h
  kind : h.kind = 1
  readable : bitOf h.rights 0 = true
  size : 0x800 + 3328 ≤ h.size
  idle : s.pow.upd = none
  noLc : s.sec.lcJob = none
  noTrans : s.pow.trans = none
  standbys : ∀ k < 4, s.flag (F.roleNoStandby k) = false

theorem exec_fwUpdate {head b b' : List Byte} {u1 w' : State} (hx : SysStarted s q 0x40 x) (hm : UpdateMayRun s x h)
    (hhead : vaRead 0 h.address 0x20 s = .ok head u) (hu : onlyMem s u) (hlen : imageLength head ≤ h.size)
    (himage : vaRead 0 h.address (imageLength head) u = .ok b u1) (hu1 : onlyMem s u1)
    (hverify : imageVerifies b u1 = .ok true u1) (hlog : ∀ r ∈ s.pow.roleFw, recField b 6 2 ≤ r.2)
    (hcopy : vaRead 0 h.address h.size
      { updateShown u1 q x with pow := { s.pow with upd := some (firstRole s q x b) } } = .ok b' w')
    (hd : imageDigest b' = imageDigest b) : exec (.fwUpdate q) s = .next w' := by
  obtain ⟨hbody, hrest, hhandle, hkind, hread, hsize, hidle, hlc, htrans, hstand⟩ := hm
  obtain ⟨m, d, rfl⟩ := onlyMem_eq hu
  obtain ⟨m1, d1, rfl⟩ := onlyMem_eq hu1
  refine exec_system hx rfl ?_
  rw [run_bind_ok (run_guardCode (by simp [hbody, hrest]) _ _ s), run_bind_ok (run_orErr hhandle _ s),
    run_bind_ok (run_guardCode (by simp [hkind, hread, hsize]) _ _ s), run_bind_ok (run_readAs hhead _),
    run_bind_ok (run_guardCode (by simpa using hlen) _ _ _), run_bind_ok (run_get _),
    run_bind_ok (run_guardCode (by simp [hidle, hlc, htrans]) _ _ _)]
  have hall : ((upTo 4).all fun k => !s.flag (F.roleNoStandby k)) = true := by
    simpa [upTo, List.all_eq_true] using hstand
  refine (run_bind_ok (run_guardCode hall _ _ _)).trans ?_
  rw [run_bind_ok (run_readAs himage _), run_bind_ok hverify, run_bind_ok (run_guardCode rfl _ _ _), run_bind_ok (run_guardCode (by simpa using hlog) _ _ _)]
  unfold sysRunning
  rw [run_bind_ok (run_modCmd _ _ _ _ _), run_bind_ok (run_putFld _ _ _), run_bind_ok (run_putFld _ _ _)]
  refine updateRole_ok (s := updateShown { s with mem := m1, seed := d1 } q x) (x := { x with phase := .running }) ?_ ?_ hhandle
    hcopy hd
  · rw [State.flag, fld_updateShown (f := F.roleNoStandby 0) nofun]
    exact hstand 0 (by decide)
  · have hgen : (updateShown { s with mem := m1, seed := d1 } q x).fld (F.qGen 0 q) = s.fld (F.qGen 0 q) :=
      fld_updateShown nofun
    have hcmd : (updateShown { s with mem := m1, seed := d1 } q x).cmdOf 0 q x.idx = some { x with phase := .running } :=
      cmdOf_setCmd_same (s := { s with mem := m1, seed := d1 }) hx.named fun _ => rfl
    rw [State.sysCmd]
    exact (if_pos hgen).trans hcmd

end Sys2Proof.Machine
end

section
/-! PROOFS. The roles of a firmware update, calibration and the configuration check (R513–R516, R537, R538, R540). -/

namespace Sys2Proof.Machine

variable {s t u : State} {k : Fin 4} {q : QIdx} {x : Cmd} {p : Port} {r : FwUpd}

/-! ### A role goes over to its standby (R537) -/

theorem nthD_setNth_same {α : Type} {l : List α} {n : Nat} (v d : α) (h : n < l.length) : nthD (setNth l n v) n d = v := by
  induction l generalizing n with
  | nil => exact absurd h (Nat.not_lt_zero n)
  | cons a l ih =>
    cases n with
    | zero => rfl
    | succ n => exact ih (Nat.lt_of_succ_lt_succ h)

/-- The roles have exchanged their cores, and the update notes it. -/
def handedOver (s : State) (k : Fin 4) (r : FwUpd) : State :=
  { rolesSwapped s k.val (s.fld (F.roleActive k.val)) (s.fld (F.roleStandby k.val)) with
    pow := { s.pow with
      upd := some { r with reload := true }, roleFw := setNth s.pow.roleFw k.val (r.digest, r.logVersion)
      fwVersion := if k.val = 3 then r.version else s.pow.fwVersion } }

/-- With the last role the module shows the new version. -/
def versionShown (s : State) (k : Fin 4) (v : Nat) : State := if k.val = 3 then s.setFld F.fwVersion v else s

theorem versionShown_reg {v : Nat} (s : State) {g : Reg} (h : g ≠ .pwFw) : (versionShown s k v).reg g = s.reg g := by
  unfold versionShown
  split
  · exact reg_setFld_other (f := F.fwVersion) h.symm
  · rfl

theorem versionShown_rest {v : Nat} (s : State) : (versionShown s k v).pow = s.pow ∧ (versionShown s k v).mem = s.mem ∧
    (versionShown s k v).cores = s.cores := by
  unfold versionShown
  split
  · exact ⟨setFld_pow s _ _, setFld_mem s _ _, setFld_cores s _ _⟩
  · exact ⟨rfl, rfl, rfl⟩

theorem exec_roleHandover (hw : s.works = true) (he : s.flag (F.evEnable 0) = false) (hu : s.pow.upd = some r)
    (hk : r.role = k.val) (hl : r.reload = false) (hr : s.standbyReady k = true) :
    exec .roleHandover s = .next (versionShown (handedOver s k r) k r.version) := by
  have he' : (versionShown (handedOver s k r) k r.version).flag (F.evEnable 0) = false := by
    refine (congrArg (fun x => bitsOf x 0 1 == 1) ?_).trans he
    exact (versionShown_reg _ (g := .feEvcfg 0) nofun).trans (rolesSwapped_reg s ⟨nofun, nofun⟩)
  refine run_next hw (u := ()) ?_
  rw [hu, run_bind_ok (run_needSome r s), finOf_val k hk, run_bind_ok (run_needSome k s), hl, hr]
  refine (run_bind_ok (run_guardWait rfl s)).trans ?_
  refine (run_swapRoles k.val (s.fld (F.roleActive k.val)) (s.fld (F.roleStandby k.val)) _ s).trans ?_
  refine (run_bind_ok (t := handedOver s k r) (run_modPow _ _)).trans ?_
  refine Eq.trans ?_ (roleChanged_off he' k 2 (s.fld (F.roleActive k.val)))
  unfold versionShown
  by_cases h3 : k.val = 3
  · rw [if_pos h3, if_pos h3]
    exact run_bind_ok (run_putFld _ _ _)
  · rw [if_neg h3, if_neg h3]

/-! ### The former active core reloads (R538) -/

/-- The standby of the last role has reloaded, and the update is done. -/
def updateDone (s : State) (k : Fin 4) : State :=
  let v := (s.setFld (F.plinth (s.fld (F.roleStandby k.val))) 1).setFld F.updRolesNew (putBits (s.fld F.updRolesNew) k.val 1 1)
  State.setFld { v with pow := { v.pow with upd := none } } F.updState 2

theorem updateDone_reg {g : Reg} (h : g ≠ .pwFwUpd ∧ g ≠ .rpPlinth) : (updateDone s k).reg g = s.reg g := by
  obtain ⟨hu, hp⟩ := h
  refine (reg_setFld_other (f := F.updState) hu.symm).trans ?_
  exact (reg_setFld_other (f := F.updRolesNew) hu.symm).trans (reg_setFld_other (f := F.plinth _) hp.symm)

theorem updateDone_plinth : (updateDone s k).fld (F.plinth (s.fld (F.roleStandby k.val))) = 1 := by
  have hb := roleStandby_lt s k.val
  refine (fld_setFld_other (f := F.updState) (by simp [F.updState, F.plinth])).trans ?_
  refine (fld_setFld_other (f := F.updRolesNew) (by simp [F.updRolesNew, F.plinth])).trans ?_
  exact fld_bits_same s _ (by omega)

theorem roleReload_ends (hw : s.works = true) (hu : s.pow.upd = some r) (hk : r.role = k.val) (hl : r.reload = true)
    (hx : s.sysCmd r.q = some x) (ho : x.ending = none) (h3 : k = 3) :
    exec (.roleReloadComplete true) s = .next (setCmd (updateDone s k) 0 r.q.1 r.q.2.2 (ends 0 0)) := by
  have hgen : (updateDone s k).fld (F.qGen 0 r.q.1) = s.fld (F.qGen 0 r.q.1) :=
    congrArg (bitsOf · _ _) (updateDone_reg ⟨nofun, nofun⟩)
  have hx' : (updateDone s k).sysCmd r.q = some x := (sysCmd_congr (s := s) (t := updateDone s k) rfl hgen).trans hx
  refine run_next hw (u := ()) ?_
  rw [hu, run_bind_ok (run_needSome r s), finOf_val k hk, run_bind_ok (run_needSome k s), hl, run_bind_ok (run_guardWait rfl s)]
  refine Eq.trans ?_ (run_endSys_ref hx' ho 0 0)
  subst h3
  rfl

/-- An update that has stopped. -/
def updateStopped (s : State) (fault : Nat) : State :=
  (State.setFld { s with pow := { s.pow with upd := none } } F.updState 3).setFld F.updFault fault

theorem updateStopped_reg {g : Reg} {fault : Nat} (h : g ≠ .pwFwUpd) : (updateStopped s fault).reg g = s.reg g :=
  (reg_setFld_other (f := F.updFault) h.symm).trans (reg_setFld_other (f := F.updState) h.symm)

theorem updateStopped_state {fault : Nat} (hf : fault < 256) :
    (updateStopped s fault).fld F.updState = 3 ∧ (updateStopped s fault).fld F.updFault = fault := by
  refine ⟨(fld_bits_apart _ .pwFwUpd (by decide) (by decide)).trans (fld_bits_same _ .pwFwUpd (by decide)), ?_⟩
  exact (fld_bits_same _ .pwFwUpd (by decide)).trans (Nat.mod_eq_of_lt hf)

theorem stopUpdate_ok {st fault : Nat} (hu : s.pow.upd = some r) (hx : s.sysCmd r.q = some x) (ho : x.ending = none) :
    stopUpdate st fault s = .ok () (setCmd (updateStopped s fault) 0 r.q.1 r.q.2.2 (ends st fault)) := by
  have hgen : (updateStopped s fault).fld (F.qGen 0 r.q.1) = s.fld (F.qGen 0 r.q.1) :=
    congrArg (bitsOf · _ _) (updateStopped_reg nofun)
  have hx' : (updateStopped s fault).sysCmd r.q = some x := (sysCmd_congr (s := s) (t := updateStopped s fault) rfl hgen).trans hx
  unfold stopUpdate
  rw [run_bind_ok (run_get s), hu]
  dsimp only
  rw [run_bind_ok (run_modPow _ s), run_bind_ok (run_putFld _ _ _), run_bind_ok (run_putFld _ _ _)]
  exact run_endSys_ref hx' ho st fault

theorem roleReload_fails (hw : s.works = true) (he : s.flag (F.evEnable 0) = false) (hu : s.pow.upd = some r)
    (hk : r.role = k.val) (hl : r.reload = true) (hx : s.sysCmd r.q = some x) (ho : x.ending = none) :
    ∃ v, MapsOnly (roleBereft s k.val (s.fld (F.roleStandby k.val))) v ∧ v.sysCmd r.q = some x ∧
      exec (.roleReloadComplete false) s =
        .next (setCmd (updateStopped v 0xC3) 0 r.q.1 r.q.2.2 (ends 1 0xC3)) := by
  obtain ⟨v, hv, h⟩ := retirePlinth_ok he k (s.fld (F.roleStandby k.val))
  have hgen : v.fld (F.qGen 0 r.q.1) = s.fld (F.qGen 0 r.q.1) :=
    (h.fld rfl).trans (congrArg (bitsOf · _ _) (roleBereft_reg s ⟨nofun, nofun⟩))
  have hqueues : v.queues = s.queues := (congrArg State.queues h.rest :)
  have hpow : v.pow = s.pow := (congrArg State.pow h.rest :)
  have hx' : v.sysCmd r.q = some x := (sysCmd_congr hqueues hgen).trans hx
  refine ⟨v, h, hx', run_next hw (u := ()) ?_⟩
  rw [hu, run_bind_ok (run_needSome r s), finOf_val k hk, run_bind_ok (run_needSome k s), hl, run_bind_ok (run_guardWait rfl s)]
  exact (run_bind_ok hv).trans (stopUpdate_ok (by rw [hpow, hu]) hx' ho)

/-! ### Calibration (R540) -/

/-- The factory's calibration is in force again, and the command that asked for it is over. -/
def restoredTo (s : State) (q : QIdx) (x : Cmd) (kind a b : Nat) : State :=
  { setCmd s 0 q x.idx (ends 0 0) with pow := { s.pow with fieldCal := s.pow.fieldCal.erase (kind, a, b) } }

theorem toFactory_ends (h : SysStarted s q 0x41 x) (kind a b : Nat) :
    (do toFactory kind a b; endSys (s.sysRef q x.idx) 0 0 : M Unit) s = .ok () (restoredTo s q x kind a b) :=
  (run_bind_ok (run_modify _ s)).trans <|
    run_endSys (s := s) (t := { s with pow := { s.pow with fieldCal := s.pow.fieldCal.erase (kind, a, b) } }) rfl h.named h.open' 0 0

theorem restoreFactory_lane (h : SysStarted s q 0x41 x) (hz : zeroFrom x.body 5 = true) (hkind : recField x.body 2 1 = 1)
    (hp : recField x.body 3 1 = p.val) (hlane : recField x.body 4 1 ≤ 8) (hmode : s.fld (F.portMode p) = 0)
    (hfree : (∀ l ∈ (s.portOf p).lanes, l.val ≠ recField x.body 4 1) ∨ (s.portOf p).spare.isSome = true) :
    exec (.restoreFactory q) s = .next (restoredTo s q x 1 p.val (recField x.body 4 1)) := by
  have hguard : (s.fld (F.portMode p) == 0 &&
      (!(s.portOf p).lanes.any (fun l => l.val == recField x.body 4 1) || (s.portOf p).spare.isSome)) = true := by
    rcases hfree with hlanes | hspare
    · have : (s.portOf p).lanes.any (fun l => l.val == recField x.body 4 1) = false := by simpa using hlanes
      simp [hmode, this]
    · simp [hmode, hspare]
  refine exec_system h rfl ?_
  rw [run_bind_ok (run_get s), run_bind_ok (run_guardCode hz _ _ s), hkind]
  refine (run_bind_ok (run_orErr (finOf_val p hp) _ s)).trans ?_
  rw [run_bind_ok (run_guardCode (by simpa using hlane) _ _ s)]
  refine (run_bind_ok ((run_bind_ok (run_get s)).trans (run_guardCode hguard _ _ s))).trans ?_
  exact toFactory_ends h 1 p.val _

theorem restoreFactory_sensor (h : SysStarted s q 0x41 x) (hz : zeroFrom x.body 5 = true) (hkind : recField x.body 2 1 = 3)
    (hi : recField x.body 3 1 < 56) (h4 : recField x.body 4 1 = 0) :
    exec (.restoreFactory q) s = .next (restoredTo s q x 3 (recField x.body 3 1) 0) := by
  refine exec_system h rfl ?_
  rw [run_bind_ok (run_get s), run_bind_ok (run_guardCode hz _ _ s), hkind]
  refine (run_bind_ok (run_guardCode (by simp [hi, h4]) _ _ s)).trans ?_
  exact toFactory_ends h 3 _ 0

theorem restoreFactory_channel {j : Stack} {ch : Fin 32} (h : SysStarted s q 0x41 x) (hz : zeroFrom x.body 5 = true)
    (hkind : recField x.body 2 1 = 2) (hj : recField x.body 3 1 = j.val) (hch : recField x.body 4 1 = ch.val)
    (hfree : ∀ r ∈ s.mem.retrain, r.stack ≠ j) (hawake : j ∉ s.mem.selfRefresh) :
    exec (.restoreFactory q) s = .next { setCmd s 0 q x.idx (fun y => { y with phase := .running }) with
      mem := { s.mem with retrain := s.mem.retrain ++ [⟨j, ch, none, some (s.sysRef q x.idx)⟩] } } := by
  have hguard : (!s.mem.retrain.any (fun r => r.stack == j) && !s.mem.selfRefresh.contains j) = true := by
    simpa [hawake] using hfree
  refine exec_system h rfl ?_
  rw [run_bind_ok (run_get s), run_bind_ok (run_guardCode hz _ _ s), hkind]
  refine (run_bind_ok (run_orErr (finOf_val j hj) _ s)).trans ?_
  rw [run_bind_ok (run_orErr (finOf_val ch hch) _ s),
    run_bind_ok (run_guardWait hguard s), run_bind_ok (run_modMem _ s)]
  exact run_modCmd _ _ _ _ _

end Sys2Proof.Machine
end

section
/-! PROOFS. The configuration check (R513–R516), and the settlement of what the updates, calibration and that check do. -/

namespace Sys2Proof.Machine

variable {s t u : State} {p : Port}

/-! ### What is listed for a port -/

/-- The state with a port listed anew. -/
def withPort (s : State) (p : Port) (x : PortSt) : State := { s with fab := { s.fab with ports := s.fab.ports.insert p x } }

theorem withPort_port (s : State) (p : Port) (x : PortSt) : (withPort s p x).portOf p = x := AMap.getD_insert_same _ _ _ _

theorem withPort_fld (s : State) (p : Port) (x : PortSt) (f : Fld) : (withPort s p x).fld f = s.fld f := rfl

theorem withPort_flag (s : State) (p : Port) (x : PortSt) (f : Fld) : (withPort s p x).flag f = s.flag f := rfl

theorem setFld_port (s : State) (f : Fld) (v : Nat) (p : Port) : (s.setFld f v).portOf p = s.portOf p := rfl

theorem run_modPort_with (p : Port) (f : PortSt → PortSt) (s : State) : modPort p f s = .ok ⟨⟩ (withPort s p (f (s.portOf p))) :=
  run_modPort p f s

/-- A command of a link whose computation ends well answers the state it reaches, while the links run. -/
theorem runLink_ok {m : M Unit} (hw : s.linksRun = true) (h : m s = .ok () t) : runLink m s = .next t := by
  rw [runLink, if_pos hw, runAny_ok h]

/-- A bit that is cleared in a field reads as clear. -/
theorem bitOf_fld_clearBit (s : State) {f : Fld} (x : Nat) {i : Nat} (h : f.lo + f.width ≤ 64) :
    bitOf ((s.setFld f (putBits x i 1 0)).fld f) i = false := by
  rw [fld_setFld_same s _ h, bitOf_eq_testBit, Nat.testBit_mod_two_pow, testBit_putBits, if_pos (by omega)]
  simp

/-! ### Agreement -/

/-- The values that a CONFIG has brought are noted. -/
def remoteNoted (s : State) (p : Port) (epoch : W32) : State :=
  withPort s p { s.portOf p with cfgRemote := (1, s.fld (F.peerDevice p), epoch.toNat) }

/-- The port's transition and its mismatch have ended. -/
def agreed (s : State) (p : Port) : State :=
  (withPort s p { s.portOf p with transition := none, mismatch := 0 }).setFld F.cfgPorts (putBits (s.fld F.cfgPorts) p.val 1 0)

theorem configConsistent_ok (hf : (s.portOf p).flagSent = false) : configConsistent p s = .ok () (agreed s p) := by
  unfold configConsistent
  rw [run_bind_ok (run_get s), run_bind_ok (run_modPort_with _ _ s), run_bind_ok (run_putFld _ _ _)]
  exact (congrFun (if_neg (by simp [hf])) _).trans (run_pure _ _)

theorem exec_config {d : BitVec 128} {e : W32} {m : Bool} (hw : s.linksRun = true) (hmode : s.fld (F.portMode p) = 0)
    (hup : s.fld (F.portState p) = 4) (h : checkConfig p 1 d e m s = .ok () t) : exec (.config p d e m) s = .next t := by
  refine runLink_ok hw ?_
  rw [run_bind_ok (run_get s), run_bind_ok (run_guardWait (by simp [hmode, hup]) s)]
  exact h

theorem checkConfig_agrees (hf : (s.portOf p).flagSent = false) :
    checkConfig p 1 s.configDigest s.rep.epochNow false s = .ok () (agreed (remoteNoted s p s.rep.epochNow) p) := by
  have hf' : ((remoteNoted s p s.rep.epochNow).portOf p).flagSent = false := by
    rw [remoteNoted, withPort_port]
    exact hf
  unfold checkConfig
  rw [run_bind_ok (run_get s), run_bind_ok (run_modPort_with _ _ s)]
  refine (congrFun (if_pos rfl) _).trans ?_
  refine (congrFun (if_neg (by simp)) _).trans ?_
  refine (congrFun (if_neg (by simp)) _).trans ?_
  exact configConsistent_ok hf'

/-! ### Mismatch -/

/-- The port has a mismatch for a reason, and it is counted. -/
def mismatched (s : State) (p : Port) (reason : Nat) : State :=
  ((withPort s p { s.portOf p with mismatch := reason }).setFld F.cfgPorts (putBits (s.fld F.cfgPorts) p.val 1 1)).bump F.cfgEvents

theorem mismatched_port (s : State) (p : Port) (reason : Nat) : ((mismatched s p reason).portOf p).mismatch = reason :=
  congrArg PortSt.mismatch (withPort_port s p _)

theorem mismatched_ports (s : State) (p : Port) (reason : Nat) : bitOf ((mismatched s p reason).fld F.cfgPorts) p.val = true :=
  (congrArg (bitOf · p.val) (fld_bits_apart _ .rpCfgStat (by decide) (by decide))).trans
    (bitOf_fld_putBits _ _ (by decide) p.isLt)

theorem mismatched_events (s : State) (p : Port) (reason : Nat) :
    (mismatched s p reason).fld F.cfgEvents = satAdd (2 ^ F.cfgEvents.width - 2) (s.fld F.cfgEvents) 1 := by
  refine (fld_bump_same _ (by decide)).trans (congrArg (satAdd (2 ^ F.cfgEvents.width - 2) · 1) ?_)
  exact fld_bits_apart _ .rpCfgStat (by decide) (by decide)

theorem configMismatch_ok {reason : Nat} (he : s.flag (F.evEnable 0) = false) (hne : (s.portOf p).mismatch ≠ reason)
    (hf : (s.portOf p).flagSent = true) : configMismatch p reason s = .ok () (mismatched s p reason) := by
  have he' : (mismatched s p reason).flag (F.evEnable 0) = false := by
    refine (flag_setFld_other (f := F.cfgEvents) (by simp [F.cfgEvents, F.evEnable])).trans ?_
    exact (flag_setFld_other (f := F.cfgPorts) (by simp [F.cfgPorts, F.evEnable])).trans he
  unfold configMismatch
  rw [run_bind_ok (run_get s), if_neg hne, run_bind_ok (run_modPort_with _ _ s), run_bind_ok (run_putFld _ _ _), run_bind_ok (run_bump _ _)]
  refine (run_bind_ok (LinksOnly.raiseEvent_off he' _ _ _)).trans ?_
  exact (congrFun (if_pos hf) _).trans (run_pure _ _)

theorem checkConfig_differs {d : BitVec 128} (he : s.flag (F.evEnable 0) = false) (hd : d ≠ s.configDigest)
    (hne : (s.portOf p).mismatch ≠ 1) (hf : (s.portOf p).flagSent = true) :
    checkConfig p 1 d s.rep.epochNow false s = .ok () (mismatched (remoteNoted s p s.rep.epochNow) p 1) := by
  have hport : (remoteNoted s p s.rep.epochNow).portOf p = _ := withPort_port s p _
  unfold checkConfig
  rw [run_bind_ok (run_get s), run_bind_ok (run_modPort_with _ _ s)]
  refine (congrFun (if_pos rfl) _).trans ?_
  refine (congrFun (if_pos hd.symm) _).trans ?_
  exact configMismatch_ok (s := remoteNoted s p s.rep.epochNow) he (by rw [hport]; exact hne) (by rw [hport]; exact hf)

theorem exec_graceExpiry {τ : Nat} (hw : s.linksRun = true) (he : s.flag (F.evEnable 0) = false)
    (ht : (s.portOf p).transition = some τ) (hlate : s.fld F.graceTicks < s.time.ticks - τ) (hne : (s.portOf p).mismatch ≠ 3)
    (hf : (s.portOf p).flagSent = true) : exec (.graceExpiry p) s = .next (mismatched s p 3) := by
  refine runLink_ok hw ?_
  unfold graceExpiry
  rw [run_bind_ok (run_get s), ht, run_bind_ok (run_needSome τ s), run_bind_ok (run_guardWait (by simpa using hlate) s)]
  exact configMismatch_ok he hne hf

end Sys2Proof.Machine

namespace Sys2Proof

open Sys2Proof.Machine

/-- Settles O44: each event's computation is run to the state that it reaches, and the registers of that state are read. -/
theorem firmwareAndConfig : Obligations.FirmwareAndConfig := by
  unfold Obligations.FirmwareAndConfig
  refine ⟨fun s => ⟨?_, fun u k hw hs hu hk => ⟨fun hl hr hab hlen => ?_, fun x hl hx ho => ⟨fun h3 => ?_, ?_⟩⟩⟩,
    fun s q x p => ⟨fun hx hz => ⟨restoreFactory_lane hx hz, restoreFactory_sensor hx hz, fun j ch => restoreFactory_channel hx hz⟩,
      fun hw hmode hup hf => ?_, fun d hw hs hmode hup hf hd hne => ?_, fun τ hw hs ht hlate hne hf => ?_⟩⟩
  · intro q x h head u b u1 u2 b' w' hx hbody hrest hhandle hkind hread hsize hhead hu hlen hupd hlc htrans hstand himage hu1
      hverify he hlog upd w hcopy hd
    subst he
    exact exec_fwUpdate hx ⟨hbody, hrest, hhandle, hkind, hread, hsize, hupd, hlc, htrans, hstand⟩ hhead hu hlen himage hu1
      hverify hlog hcopy hd
  · have ha := roleActive_lt s k.val
    have hb := roleStandby_lt s k.val
    obtain ⟨hpow, hmem, hcores⟩ := versionShown_rest (k := k) (v := u.version) (handedOver s k u)
    obtain ⟨hpb, hpa⟩ := rolesSwapped_plinth (k := k.val) s ha hb hab
    have hroles : ∀ lo w, (versionShown (handedOver s k u) k u.version).fld ⟨.pwRoles, lo, w⟩ = (handedOver s k u).fld ⟨.pwRoles, lo, w⟩ :=
      fun lo w => congrArg (bitsOf · lo w) (versionShown_reg _ nofun)
    have hplinths : ∀ n, (versionShown (handedOver s k u) k u.version).fld (F.plinth n) = (handedOver s k u).fld (F.plinth n) :=
      fun n => congrArg (bitsOf · (2 * n) 2) (versionShown_reg _ nofun)
    refine ⟨_, exec_roleHandover hw (hs.events 0) hu hk hl hr, ?_, ?_, ?_, ?_, ?_, ?_, hmem, hcores⟩
    · exact (hroles _ _).trans (rolesSwapped_active s k.isLt hb)
    · exact (hroles _ _).trans (rolesSwapped_standby s k.isLt ha)
    · exact (hplinths _).trans hpb
    · exact (hplinths _).trans hpa
    · rw [hpow]
      rfl
    · rw [hpow]
      exact nthD_setNth_same _ _ (by rw [hlen]; exact k.isLt)
  · have hx' : (updateDone s k).sysCmd u.q = some x :=
      (sysCmd_congr (s := s) (t := updateDone s k) rfl (congrArg (bitsOf · _ _) (updateDone_reg ⟨nofun, nofun⟩))).trans hx
    refine ⟨_, roleReload_ends hw hu hk hl hx ho h3, ended_of_sysCmd hx' 0 0, rfl, ?_, updateDone_plinth, rfl, rfl⟩
    exact fld_bits_same _ .pwFwUpd (by decide)
  · obtain ⟨v, h, hx', hstep⟩ := roleReload_fails hw (hs.events 0) hu hk hl hx ho
    have hx'' : (updateStopped v 0xC3).sysCmd u.q = some x :=
      (sysCmd_congr (s := v) (t := updateStopped v 0xC3) rfl (congrArg (bitsOf · _ _) (updateStopped_reg nofun))).trans hx'
    obtain ⟨hstate, hfault⟩ := updateStopped_state (s := v) (fault := 0xC3) (by decide)
    refine ⟨_, hstep, ended_of_sysCmd hx'' 1 0xC3, rfl, hstate, hfault, ?_, ?_, h.mem, h.cores⟩
    · refine (congrArg (bitsOf · _ 2) (updateStopped_reg (s := v) (g := .rpPlinth) nofun)).trans ?_
      exact (h.fld (f := F.plinth _) rfl).trans (roleBereft_plinth s (roleStandby_lt s k.val))
    · refine (congrArg (fun r => bitsOf r _ 1 == 1) (updateStopped_reg (s := v) (g := .pwRoles) nofun)).trans ?_
      exact (h.flag (f := F.roleNoStandby _) rfl).trans (roleBereft_noStandby s k.isLt)
  · have hport : ((agreed (remoteNoted s p s.rep.epochNow) p).portOf p) = _ := withPort_port (remoteNoted s p s.rep.epochNow) p _
    refine ⟨_, exec_config hw hmode hup (checkConfig_agrees hf), ?_, ?_, bitOf_fld_clearBit _ _ (by decide), rfl, rfl⟩ <;>
      rw [hport]
  · exact ⟨_, exec_config hw hmode hup (checkConfig_differs (hs.events 0) hd hne hf), mismatched_port _ p 1,
      mismatched_ports _ p 1, mismatched_events _ p 1, rfl⟩
  · exact ⟨_, exec_graceExpiry hw (hs.events 0) ht hlate hne hf, mismatched_port s p 3, mismatched_ports s p 3,
      mismatched_events s p 3, rfl⟩

end Sys2Proof
end

section
/-! PROOFS. Power transitions (R521–R524): a write of PW_REQ, and the end of a transition. -/

namespace Sys2Proof.Machine

variable {s t u : State} {h : Half} {v : W64} {d : Die}

/-! ### Requests (R521) -/

theorem parkChange_same (old : Nat) (b : Bool) : parkChange old old b = [] := by simp [parkChange]

/-- The write asks for something else than the last one did. -/
def asksChange (s : State) (h : Half) (v : W64) : Prop :=
  ¬((s.asksPw h v).1 = s.fld F.pwReqMode ∧ (s.asksPw h v).2 = s.fld F.pwReqPark)

theorem asksChange_of_park {b : Bool} (hp : parkChange (s.fld F.pwReqPark) (s.asksPw h v).2 b ≠ []) : asksChange s h v :=
  fun hsame => hp (by rw [hsame.2, parkChange_same])

theorem writePwReq_refuses {n : Nat} (hc : asksChange s h v) (hr : s.pwRefusal (s.asksPw h v).1 (s.asksPw h v).2 = some n) :
    writePwReq h v s = .ok () ((s.setFlag F.pwReject true).setFld F.pwReason n) := by
  unfold writePwReq
  refine (run_bind_ok (run_get s)).trans ((congrFun (if_neg hc) s).trans ?_)
  unfold State.asksPw at hr
  rw [hr]
  exact (run_bind_ok (run_putFlag _ _ s)).trans (run_putFld _ _ _)

/-- The state in which the steps of a request have begun. -/
def requested (s : State) (mode park : Nat) : State :=
  { ((s.setFld F.pwReqMode mode).setFld F.pwReqPark park).setFlag F.pwBusy true with
    pow := { s.pow with trans := (s.pwSteps mode park).head?, transRest := (s.pwSteps mode park).drop 1, transTick := false } }

theorem writePwReq_runs (hc : asksChange s h v) (hr : s.pwRefusal (s.asksPw h v).1 (s.asksPw h v).2 = none) :
    writePwReq h v s = .ok () (requested s (s.asksPw h v).1 (s.asksPw h v).2) := by
  unfold writePwReq
  refine (run_bind_ok (run_get s)).trans ((congrFun (if_neg hc) s).trans ?_)
  unfold State.asksPw at hr
  rw [hr]
  exact (run_bind_ok (run_putFld _ _ s)).trans <| (run_bind_ok (run_putFld _ _ _)).trans <|
    (run_bind_ok (run_putFlag _ _ _)).trans (run_modPow _ _)

theorem runPw_ok {m : M Unit} (hready : s.flag F.pwReady = true) (hf : s.rep.moduleFault = false) (hm : m s = .ok () t) :
    runPw m s = .next t := by
  rw [runPw, hready, hf, Bool.not_false, Bool.and_true, if_pos rfl, runAny_ok hm]

/-- A row of PW_REQ whose condition holds is the write. -/
theorem exec_pwReq {i : Instr} {b : Bool} (hi : exec i s = runPw (do guardWait b; writePwReq h v) s)
    (hready : s.flag F.pwReady = true) (hf : s.rep.moduleFault = false) (hb : b = true) (hc : asksChange s h v) :
    (∀ n, s.pwRefusal (s.asksPw h v).1 (s.asksPw h v).2 = some n →
      exec i s = .next ((s.setFlag F.pwReject true).setFld F.pwReason n)) ∧
    (s.pwRefusal (s.asksPw h v).1 (s.asksPw h v).2 = none →
      exec i s = .next (requested s (s.asksPw h v).1 (s.asksPw h v).2)) := by
  refine ⟨fun n hr => ?_, fun hr => ?_⟩ <;> refine hi.trans (runPw_ok hready hf ((run_bind_ok (run_guardWait hb s)).trans ?_))
  · exact writePwReq_refuses hc hr
  · exact writePwReq_runs hc hr

/-! ### The end of a transition (R522, R524) -/

/-- No transition runs any more. -/
def transEnded (s : State) : State :=
  State.setFlag { s with pow := { s.pow with trans := none, transRest := [], transTick := false } } F.pwBusy false

theorem transEnded_reg {r : Reg} (hr : r ≠ .pwStatus) : (transEnded s).reg r = s.reg r := reg_setFld_other (f := F.pwBusy) hr.symm

theorem transEnded_busy : (transEnded s).flag F.pwBusy = false := flag_setFlag_same _ _ (by decide) rfl

theorem transEnded_mode : (transEnded s).fld F.pwMode = s.fld F.pwMode := fld_bits_apart _ .pwStatus (by decide) (by decide)

theorem transEnded_parked : (transEnded s).fld F.pwParked = s.fld F.pwParked := fld_bits_apart _ .pwStatus (by decide) (by decide)

/-- What ends the transition, or begins the next one of the same write. -/
def nextTrans : M Unit := do
  modPow (fun y => { y with trans := y.transRest.head?, transRest := y.transRest.drop 1, transTick := false })
  putFlag F.pwBusy (← get).pow.trans.isSome

theorem nextTrans_ends (hr : s.pow.transRest = []) : nextTrans s = .ok () (transEnded s) := by
  refine (run_bind_ok (run_modPow _ s)).trans ((run_bind_ok (run_get _)).trans ?_)
  rw [hr]
  exact run_putFlag _ _ _

theorem powerTransitionComplete_toQuiet (hw : s.works = true) (ht : s.pow.trans = some .toQuiet) (hr : s.pow.transRest = [])
    (hq : s.quietReady = true) : exec .powerTransitionComplete s = .next (transEnded (s.setFld F.pwMode 1)) := by
  refine run_next hw (u := ()) ?_
  rw [ht, run_bind_ok (run_needSome _ s)]
  refine (run_bind_ok (run_guardWait hq s)).trans ((run_bind_ok (run_putFld _ _ s)).trans ?_)
  exact nextTrans_ends hr

theorem powerTransitionComplete_toActive (hw : s.works = true) (ht : s.pow.trans = some .toActive) (hr : s.pow.transRest = []) :
    exec .powerTransitionComplete s = .next (transEnded (s.setFld F.pwMode 0)) := by
  refine run_next hw (u := ()) ?_
  rw [ht, run_bind_ok (run_needSome _ s)]
  refine (run_bind_ok (run_putFld _ _ s)).trans ?_
  exact nextTrans_ends hr

/-! ### Roles on a die that is parked, or no longer (R522) -/

/-- Beside the registers of roles and plinth cores, `t` is `s`. -/
structure RolesOnly (s t : State) : Prop where
  rest : t = { s with regs := t.regs }
  reg : ∀ r, r ≠ .pwRoles → r ≠ .rpPlinth → t.reg r = s.reg r

namespace RolesOnly

theorem refl (s : State) : RolesOnly s s := ⟨rfl, fun _ _ _ => rfl⟩

theorem setFld {f : Fld} (v : Nat) (hf : f.reg = .pwRoles ∨ f.reg = .rpPlinth) (a : RolesOnly s t) : RolesOnly s (t.setFld f v) :=
  ⟨by rw [a.rest]; rfl, fun r hr hp => (reg_setFld_other (by rcases hf with e | e <;> rw [e] <;> exact Ne.symm ‹_›)).trans
    (a.reg r hr hp)⟩

theorem putRole {f : Fld} (v : Nat) (hf : f.reg = .pwRoles) : Preserves (RolesOnly s) (putFld f v) :=
  .modify fun _ a => a.setFld v (.inl hf)

theorem putPlinth (n v : Nat) : Preserves (RolesOnly s) (putFld (F.plinth n) v) := .modify fun _ a => a.setFld v (.inr rfl)

theorem roleChanged (he : s.flag (F.evEnable 0) = false) (k : Fin 4) (cause former : Nat) :
    Preserves (RolesOnly s) (roleChanged k cause former) := fun t a => by
  have heq : t.flag (F.evEnable 0) = s.flag (F.evEnable 0) :=
    congrArg (fun r => bitsOf r 0 1 == 1) (a.reg (.feEvcfg 0) nofun nofun)
  exact ⟨(), t, roleChanged_off (heq.trans he) k cause former, a⟩

theorem parkRole (he : s.flag (F.evEnable 0) = false) (d : Die) (k : Fin 4) : Preserves (RolesOnly s) (parkRole d k) := by
  refine .bind .read fun t => .ite (.ite ?_ (.pure _)) (.ite ?_ (.pure _))
  · exact .bind (putRole _ rfl) fun _ => .bind (putRole _ rfl) fun _ => .bind (putRole (f := F.roleNoStandby _) _ rfl) fun _ =>
      .bind (putPlinth _ _) fun _ => .bind (putPlinth _ _) fun _ => roleChanged he k 3 _
  · exact .bind (putRole (f := F.roleNoStandby _) _ rfl) fun _ => putPlinth _ _

theorem unparkRole (d : Die) (k : Fin 4) : Preserves (RolesOnly s) (unparkRole d k) :=
  .bind .read fun _ => .ite (.bind (putRole (f := F.roleNoStandby _) _ rfl) fun _ => putPlinth _ _) (.pure _)

end RolesOnly

/-- The memory system with a die's part of it parked: its pool cache is clean and its stacks are in self-refresh. -/
def MemSt.park (m : MemSt) (d : Die) : MemSt :=
  { m with
    dirty := m.dirty.filter (fun p => homeDie m.partNow (p.1 * 256) != d.val)
    lines := m.lines.filter (fun p => homeDie m.partNow (p.1 * 256) != d.val)
    selfRefresh := m.selfRefresh ++ (List.finRange 16).filter (fun j => onStackOf d j.val && !m.selfRefresh.contains j) }

theorem MemSt.mem_park_selfRefresh (m : MemSt) {j : Stack} (hj : onStackOf d j.val = true) : j ∈ (m.park d).selfRefresh := by
  by_cases h : j ∈ m.selfRefresh
  · exact List.mem_append_left _ h
  · exact List.mem_append_right _ (by simp [hj, h])

theorem MemSt.not_home_of_park_dirty {m : MemSt} {p} (hp : p ∈ (m.park d).dirty) : homeDie m.partNow (p.1 * 256) ≠ d.val := by
  simpa using (List.mem_filter.mp hp).2

/-- The die is shown as parked, or as not parked. -/
def parkShown (s : State) (d : Die) (b : Nat) : State := s.setFld F.pwParked (putBits (s.fld F.pwParked) d.val 1 b)

theorem powerTransitionComplete_park (hw : s.works = true) (he : s.flag (F.evEnable 0) = false) (ht : s.pow.trans = some (.park d))
    (hr : s.pow.transRest = []) (hp : s.parkReady d = true) : ∃ t, RolesOnly { s with mem := s.mem.park d } t ∧
      exec .powerTransitionComplete s = .next (transEnded (parkShown t d 1)) := by
  obtain ⟨t, hrun, h⟩ := (Preserves.eachM (List.finRange 4) fun k =>
    RolesOnly.parkRole (s := { s with mem := s.mem.park d }) he d k).unit (.refl _)
  have hrest : (parkShown t d 1).pow.transRest = [] := (congrArg (fun t : State => t.pow.transRest) h.rest).trans hr
  refine ⟨t, h, run_next hw (u := ()) ?_⟩
  rw [ht, run_bind_ok (run_needSome _ s)]
  have hpark : parkDie d s = .ok () (parkShown t d 1) :=
    (run_bind_ok (run_modMem _ s)).trans <| (run_bind_ok hrun).trans <| (run_bind_ok (run_getFld _ t)).trans (run_putFld _ _ t)
  refine (run_bind_ok (run_guardWait hp s)).trans ((run_bind_ok hpark).trans ?_)
  exact nextTrans_ends hrest

theorem powerTransitionComplete_unpark (hw : s.works = true) (ht : s.pow.trans = some (.unpark d)) (hr : s.pow.transRest = [])
    (hj : ∀ j ∈ s.mem.selfRefresh, onStackOf d j.val = false) : ∃ t, RolesOnly s t ∧
      exec .powerTransitionComplete s =
        .next (transEnded (t.setFld F.pwParked (putBits (s.fld F.pwParked) d.val 1 0))) := by
  obtain ⟨t, hrun, h⟩ := (Preserves.eachM (List.finRange 4) fun k => RolesOnly.unparkRole (s := s) d k).unit (.refl _)
  have hrest : t.pow.transRest = [] := (congrArg (fun t : State => t.pow.transRest) h.rest).trans hr
  have hguard : (!s.mem.selfRefresh.any (fun j => onStackOf d j.val)) = true := by simpa using hj
  refine ⟨t, h, run_next hw (u := ()) ?_⟩
  rw [ht, run_bind_ok (run_needSome _ s)]
  refine (run_bind_ok (run_guardWait hguard s)).trans ((run_bind_ok hrun).trans ((run_bind_ok (run_putFld _ _ t)).trans ?_))
  exact nextTrans_ends hrest

end Sys2Proof.Machine
end

section
/-! PROOFS. The cap, the throttle and the trip (R525–R530, R542, R563), and the settlement of what power does. -/

namespace Sys2Proof.Machine

variable {s t u : State} {α : Type}

/-! ### What the control of power changes -/

/-- The registers that a control interval writes. -/
def Reg.ofPower : Reg → Bool
  | .pwStatus | .pwPace | .pwPower | .pwSensorData => true
  | _ => false

/-- Beside the registers and the state of power, the paces of open steps and the count of free values, `t` is `s`. -/
structure PowerOnly (s t : State) : Prop where
  rest : t = { s with regs := t.regs, pow := t.pow, sched := t.sched, seed := t.seed }
  reg : ∀ r, r.ofPower = false → t.reg r = s.reg r

namespace PowerOnly

theorem refl (s : State) : PowerOnly s s := ⟨rfl, fun _ _ => rfl⟩

theorem mem (h : PowerOnly s t) : t.mem = s.mem := (congrArg State.mem h.rest :)
theorem cores (h : PowerOnly s t) : t.cores = s.cores := (congrArg State.cores h.rest :)

theorem fld (h : PowerOnly s t) {f : Fld} (hf : f.reg.ofPower = false) : t.fld f = s.fld f := by
  rw [State.fld, h.reg _ hf]
  rfl

theorem flag (h : PowerOnly s t) {f : Fld} (hf : f.reg.ofPower = false) : t.flag f = s.flag f := by
  rw [State.flag, h.fld hf]
  rfl

theorem threshold (h : PowerOnly s t) (i : Nat) : t.threshold i = s.threshold i := by
  simp only [State.threshold, h.fld (f := F.throttleC) rfl, h.fld (f := F.dramThrottleC) rfl]

theorem setReg (h : PowerOnly s t) {r : Reg} (v : Nat) (hr : r.ofPower = true) : PowerOnly s (t.setReg r v) :=
  ⟨by rw [h.rest]; rfl, fun q hq => by
    have hne : r ≠ q := by rintro rfl; exact absurd (hr.symm.trans hq) nofun
    rw [reg_setReg_other hne, h.reg q hq]⟩

theorem setPow (h : PowerOnly s t) (p : PowerSt) : PowerOnly s { t with pow := p } := ⟨by rw [h.rest], h.reg⟩

theorem putFld {f : Fld} (v : Nat) (hf : f.reg.ofPower = true) : Preserves (PowerOnly s) (putFld f v) :=
  .modify fun _ h => h.setReg _ hf

theorem putFlag {f : Fld} (b : Bool) (hf : f.reg.ofPower = true) : Preserves (PowerOnly s) (putFlag f b) := putFld _ hf

theorem modPow (f : PowerSt → PowerSt) : Preserves (PowerOnly s) (modPow f) := .modify fun _ h => h.setPow _

theorem getFld (f : Fld) : Preserves (PowerOnly s) (getFld f) := .bind .read fun _ => .pure _

theorem refreshPace : Preserves (PowerOnly s) refreshPace := .modify fun _ h => h.setReg _ rfl

theorem refreshSensor : Preserves (PowerOnly s) refreshSensor := .modify fun _ h => (h.setReg _ rfl).setReg _ rfl

theorem lowerCapPace : Preserves (PowerOnly s) lowerCapPace :=
  .bind (.fresh fun _ h => ⟨by rw [h.rest], h.reg⟩) fun _ => .bind (getFld _) fun _ =>
    .bind (putFld (f := F.capPace) _ rfl) fun _ => refreshPace

theorem controlCap (mean : Nat) (volts amps : Int) : Preserves (PowerOnly s) (controlCap mean volts amps) := by
  refine .bind (putFlag (f := F.pwInputLow) _ rfl) fun _ => .bind .read fun t => ?_
  dsimp only
  refine .ite (.bind lowerCapPace fun _ => ?_) (.ite (.bind (putFld (f := F.capPace) _ rfl) fun _ => .bind refreshPace fun _ => ?_) ?_)
  all_goals exact .bind (getFld _) fun _ => putFlag (f := F.pwCapUnmet) _ rfl

theorem raiseThermal (he : s.flag (F.evEnable 0) = false) (start : Bool) (sensor : Nat) (temp : Int) :
    Preserves (PowerOnly s) (raiseThermal start sensor temp) := fun t h =>
  ⟨(), t, LinksOnly.raiseEvent_off ((h.flag (f := F.evEnable 0) rfl).trans he) _ _ _, h⟩

theorem controlThrottle (he : s.flag (F.evEnable 0) = false) (sensors : List Int) :
    Preserves (PowerOnly s) (controlThrottle sensors) := by
  refine .bind .read fun t => ?_
  dsimp only
  split
  · exact .bind (modPow _) fun _ => .bind (putFlag (f := F.pwThrottle) _ rfl) fun _ =>
      .bind (putFld (f := F.throttlePace) _ rfl) fun _ => .bind (raiseThermal he _ _ _) fun _ => refreshPace
  · exact .bind (putFld (f := F.throttlePace) _ rfl) fun _ => refreshPace
  · refine .ite (.bind (putFld (f := F.throttlePace) _ rfl) fun _ => .ite ?_ refreshPace) refreshPace
    exact .bind (modPow _) fun _ => .bind (putFlag (f := F.pwThrottle) _ rfl) fun _ => .bind (raiseThermal he _ _ _) fun _ =>
      refreshPace
  · exact refreshPace

end PowerOnly

/-! ### Both paces (R526) -/

/-- PW_PACE shows the lower of both paces. -/
def paced (s : State) : State := s.setFld F.pace (min (s.fld F.capPace) (s.fld F.throttlePace))

theorem run_refreshPace (s : State) : refreshPace s = .ok ⟨⟩ (paced s) := run_modify _ s

theorem paced_cap (s : State) : (paced s).fld F.capPace = s.fld F.capPace := fld_bits_apart s .pwPace (by decide) (by decide)

theorem paced_throttle (s : State) : (paced s).fld F.throttlePace = s.fld F.throttlePace :=
  fld_bits_apart s .pwPace (by decide) (by decide)

theorem paced_pace (s : State) : (paced s).fld F.pace = min (s.fld F.capPace) (s.fld F.throttlePace) :=
  (fld_bits_same s .pwPace (by decide)).trans (Nat.mod_eq_of_lt (Nat.lt_of_le_of_lt (Nat.min_le_left _ _) (fld_lt s F.capPace)))

theorem paced_flag (s : State) {f : Fld} (hf : f.reg ≠ .pwPace) : (paced s).flag f = s.flag f :=
  flag_setFld_other (f := F.pace) hf.symm

/-- Pc takes a value. -/
def capSet (s : State) (v : Nat) : State := paced (s.setFld F.capPace v)

theorem capSet_cap (s : State) {v : Nat} (hv : v < 128) : (capSet s v).fld F.capPace = v :=
  (paced_cap _).trans ((fld_bits_same s .pwPace (by decide)).trans (Nat.mod_eq_of_lt hv))

theorem capSet_throttle (s : State) (v : Nat) : (capSet s v).fld F.throttlePace = s.fld F.throttlePace :=
  (paced_throttle _).trans (fld_bits_apart s .pwPace (by decide) (by decide))

theorem capSet_flag (s : State) (v : Nat) {f : Fld} (hf : f.reg ≠ .pwPace) : (capSet s v).flag f = s.flag f :=
  (paced_flag _ hf).trans (flag_setFld_other (f := F.capPace) hf.symm)

/-- Pt takes a value. -/
def throttleSet (s : State) (v : Nat) : State := s.setFld F.throttlePace v

theorem throttleSet_throttle (s : State) {v : Nat} (hv : v < 128) : (throttleSet s v).fld F.throttlePace = v :=
  (fld_bits_same s .pwPace (by decide)).trans (Nat.mod_eq_of_lt hv)

theorem pwPace_setStatus (s : State) {f : Fld} (b : Bool) (lo w : Nat) (hf : f.reg = .pwStatus) :
    (s.setFlag f b).fld ⟨.pwPace, lo, w⟩ = s.fld ⟨.pwPace, lo, w⟩ := fld_setFlag_other (by rw [hf]; nofun)

/-- Pc has fallen, to 1 at the least (R525). -/
theorem lowerCapPace_ok (s : State) : ∃ v, 1 ≤ v ∧ v ≤ max 1 (s.fld F.capPace - 1) ∧ v < 128 ∧
    lowerCapPace s = .ok () (capSet { s with seed := s.seed + 1 } v) := by
  have hlt : s.fld F.capPace < 128 := fld_lt s F.capPace
  refine ⟨max 1 (s.fld F.capPace - (Config.paceDrop s.seed % 8 + 1)), by omega, by omega, by omega, ?_⟩
  exact (run_bind_ok (run_fresh s)).trans <| (run_bind_ok (run_getFld _ _)).trans <|
    (run_bind_ok (run_putFld _ _ _)).trans (run_refreshPace _)

/-! ### The cap (R525, R542) -/

/-- The interval shows whether the input is low. -/
def inputShown (s : State) (volts : Int) : State := s.setFlag F.pwInputLow (decide (volts < 768))

/-- The interval shows whether the cap is unmet at the lowest pace. -/
def unmetShown (s : State) (cap mean : Nat) : State := s.setFlag F.pwCapUnmet (decide (s.fld F.capPace = 1 ∧ cap < mean))

theorem inputShown_capW (s : State) (volts : Int) : (inputShown s volts).fld F.capW = s.fld F.capW :=
  fld_setFlag_other (f := F.pwInputLow) nofun

theorem inputShown_low {volts : Int} (s : State) (hv : 768 ≤ volts) : (inputShown s volts).flag F.pwInputLow = false :=
  (flag_setFlag_same s _ (by decide) rfl).trans (decide_eq_false (not_lt.mpr hv))

theorem controlCap_rises {mean : Nat} {volts : Int} (amps : Int) (hv : 768 ≤ volts) (hm : mean * 100 < s.fld F.capW * 98) :
    controlCap mean volts amps s =
      .ok () (unmetShown (capSet (inputShown s volts) (min 64 (s.fld F.capPace + 1))) (s.fld F.capW) mean) := by
  have hcap := inputShown_capW s volts
  have hlow := inputShown_low s hv
  have hpace : (inputShown s volts).fld F.capPace = s.fld F.capPace := pwPace_setStatus s _ _ _ rfl
  have hnot : ¬((inputShown s volts).fld F.capW < mean ∨ ((inputShown s volts).flag F.pwInputLow = true ∧ 1000 < amps)) := by
    simp only [hcap, hlow, Bool.false_eq_true, false_and, or_false]
    omega
  have hrise : mean * 100 < (inputShown s volts).fld F.capW * 98 ∧ (!(inputShown s volts).flag F.pwInputLow) = true := by
    simp only [hcap, hlow]
    exact ⟨hm, rfl⟩
  refine (run_bind_ok (run_putFlag _ _ s)).trans ((run_bind_ok (run_get _)).trans ?_)
  refine (congrFun (if_neg hnot) _).trans ((congrFun (if_pos hrise) _).trans ?_)
  refine (run_bind_ok (run_putFld _ _ _)).trans ((run_bind_ok (run_refreshPace _)).trans ((run_bind_ok (run_getFld _ _)).trans ?_))
  refine (run_putFlag _ _ _).trans ?_
  rw [← hpace, ← hcap]
  rfl

theorem controlCap_falls {mean : Nat} {volts : Int} (amps : Int) (hm : s.fld F.capW < mean) :
    ∃ v, 1 ≤ v ∧ v ≤ max 1 (s.fld F.capPace - 1) ∧ v < 128 ∧ controlCap mean volts amps s =
      .ok () (unmetShown (capSet { inputShown s volts with seed := s.seed + 1 } v) (s.fld F.capW) mean) := by
  have hcap := inputShown_capW s volts
  have hpace : (inputShown s volts).fld F.capPace = s.fld F.capPace := pwPace_setStatus s _ _ _ rfl
  obtain ⟨v, h1, hmax, hlt, hv⟩ := lowerCapPace_ok (inputShown s volts)
  refine ⟨v, h1, by rwa [hpace] at hmax, hlt, ?_⟩
  have hover : (inputShown s volts).fld F.capW < mean ∨ ((inputShown s volts).flag F.pwInputLow = true ∧ 1000 < amps) :=
    .inl (by rwa [hcap])
  refine (run_bind_ok (run_putFlag _ _ s)).trans ((run_bind_ok (run_get _)).trans ?_)
  refine (congrFun (if_pos hover) _).trans ((run_bind_ok hv).trans ((run_bind_ok (run_getFld _ _)).trans ?_))
  refine (run_putFlag _ _ _).trans ?_
  rw [← hcap]
  rfl

/-! ### The throttle (R529) -/

/-- The junction and DRAM sensors at their thresholds. -/
def hotSensors (s : State) (sensors : List Int) : List Nat := (upTo 32).filter (fun i => decide (s.threshold i ≤ nthD sensors i 0))

theorem controlThrottle_calm {sensors : List Int} (hcool : ∀ i < 32, nthD sensors i 0 < s.threshold i)
    (hby : s.pow.throttleBy = none) : controlThrottle sensors s = .ok () (paced s) := by
  have hnone : hotSensors s sensors = [] := by simpa [hotSensors, upTo] using hcool
  unfold controlThrottle
  rw [run_bind_ok (run_get s)]
  unfold hotSensors at hnone
  rw [hnone, hby]
  exact run_refreshPace s

/-- A sensor at its threshold lowers Pt, and holds the throttle. -/
theorem controlThrottle_hot {sensors : List Int} {i : Nat} (he : s.flag (F.evEnable 0) = false) (hi : i < 32)
    (hhot : s.threshold i ≤ nthD sensors i 0) : ∃ t, controlThrottle sensors s = .ok () t ∧
      t.fld F.throttlePace = max 1 (s.fld F.throttlePace - 8) ∧ t.pow.throttleBy.isSome = true ∧
      (s.pow.throttleBy = none → t.flag F.pwThrottle = true) := by
  have hlt : max 1 (s.fld F.throttlePace - 8) < 128 := by
    have := fld_lt s F.throttlePace
    simp only [F.throttlePace] at this ⊢
    omega
  have hmem : i ∈ hotSensors s sensors := by simpa [hotSensors, upTo] using ⟨hi, hhot⟩
  obtain ⟨j, hj⟩ : ∃ j, (hotSensors s sensors).head? = some j := by
    cases hl : hotSensors s sensors with
    | nil => rw [hl] at hmem; cases hmem
    | cons j l => exact ⟨j, rfl⟩
  unfold hotSensors at hj
  unfold controlThrottle
  rw [run_bind_ok (run_get s)]
  cases hby : s.pow.throttleBy with
  | some k =>
    refine ⟨paced (throttleSet s (max 1 (s.fld F.throttlePace - 8))), ?_, ?_, ?_, nofun⟩
    · dsimp only
      rw [hj]
      exact (run_bind_ok (run_putFld _ _ s)).trans (run_refreshPace _)
    · rw [paced_throttle, throttleSet_throttle s hlt]
    · exact congrArg Option.isSome hby
  | none =>
    let v := State.setFlag { s with pow := { s.pow with throttleBy := some j } } F.pwThrottle true
    have hv : v.fld F.throttlePace = s.fld F.throttlePace :=
      pwPace_setStatus { s with pow := { s.pow with throttleBy := some j } } _ _ _ rfl
    refine ⟨paced (throttleSet v (max 1 (v.fld F.throttlePace - 8))), ?_, ?_, rfl, fun _ => ?_⟩
    · have he' : (throttleSet v (max 1 (v.fld F.throttlePace - 8))).flag (F.evEnable 0) = false := by
        refine (flag_setFld_other (f := F.throttlePace) (by simp [F.throttlePace, F.evEnable])).trans ?_
        exact (flag_setFlag_other (f := F.pwThrottle) (by simp [F.pwThrottle, F.evEnable])).trans he
      dsimp only
      rw [hj]
      refine (run_bind_ok (run_modPow _ s)).trans ((run_bind_ok (run_putFlag _ _ _)).trans ((run_bind_ok (run_putFld _ _ _)).trans ?_))
      rw [← hv]
      exact (run_bind_ok (LinksOnly.raiseEvent_off he' _ _ _)).trans (run_refreshPace _)
    · rw [paced_throttle, throttleSet_throttle v (by rw [hv]; exact hlt), hv]
    · refine (paced_flag _ (f := F.pwThrottle) nofun).trans ?_
      refine (flag_setFld_other (f := F.throttlePace) (g := F.pwThrottle) nofun).trans ?_
      exact flag_setFlag_same _ _ (by decide) rfl

end Sys2Proof.Machine
end

section
/-! PROOFS. A control interval and a thermal trip (R525–R530), and the settlement of what power does. -/

namespace Sys2Proof.Machine

variable {s t u c : State} {mean peak : Nat} {sensors : List Int}

/-! ### The rest of an interval (R484, R527, R542) -/

/-- The interval has been counted: the paces, the status and the throttle are as they were. -/
structure Counted (s t : State) : Prop extends PowerOnly s t where
  pace : t.reg .pwPace = s.reg .pwPace
  status : t.reg .pwStatus = s.reg .pwStatus
  throttle : t.pow.throttleBy = s.pow.throttleBy

namespace Counted

theorem refl (s : State) : Counted s s := ⟨.refl s, rfl, rfl, rfl⟩

theorem setReg (h : Counted s t) {r : Reg} (v : Nat) (hr : r = .pwPower ∨ r = .pwSensorData) : Counted s (t.setReg r v) := by
  have hp : r.ofPower = true ∧ r ≠ .pwPace ∧ r ≠ .pwStatus := by rcases hr with rfl | rfl <;> decide
  obtain ⟨hof, hpace, hstatus⟩ := hp
  exact ⟨h.toPowerOnly.setReg v hof, (reg_setReg_other hpace).trans h.pace, (reg_setReg_other hstatus).trans h.status, h.throttle⟩

theorem putPower {f : Fld} (v : Nat) (hf : f.reg = .pwPower) : Preserves (Counted s) (putFld f v) :=
  .modify fun _ h => h.setReg _ (.inl hf)

theorem modPow {f : PowerSt → PowerSt} (hf : ∀ x, (f x).throttleBy = x.throttleBy) : Preserves (Counted s) (modPow f) :=
  .modify fun _ h => ⟨h.toPowerOnly.setPow _, h.pace, h.status, (hf _).trans h.throttle⟩

theorem refreshSensor : Preserves (Counted s) refreshSensor :=
  .modify fun _ h => (h.setReg _ (.inr rfl)).setReg _ (.inr rfl)

theorem gatherSecond (peak : Nat) (sensors : List Int) : Preserves (Counted s) (gatherSecond peak sensors) := by
  refine .bind .read fun t => ?_
  dsimp only
  refine .bind (.modify fun _ h => h.setReg _ (.inl rfl)) fun _ => .ite (modPow fun _ => rfl) ?_
  exact .bind (putPower (f := F.meanW) _ rfl) fun _ => .bind (putPower (f := F.peakW) _ rfl) fun _ =>
    .bind (modPow fun _ => rfl) fun _ => refreshSensor

theorem notePace : Preserves (Counted s) notePace := .modify fun _ h => ⟨⟨by rw [h.rest], h.reg⟩, h.pace, h.status, h.throttle⟩

theorem fld_pace (h : Counted s t) (lo w : Nat) : t.fld ⟨.pwPace, lo, w⟩ = s.fld ⟨.pwPace, lo, w⟩ := congrArg (bitsOf · lo w) h.pace

theorem flag_status (h : Counted s t) {f : Fld} (hf : f.reg = .pwStatus) : t.flag f = s.flag f := by
  rw [State.flag, State.flag, State.fld, State.fld, hf, h.status]

end Counted

/-- An interval that has done its work, the trip apart, has only been counted since the throttle was set. -/
theorem controlInterval_works (hw : s.works = true) (hlen : sensors.length = 56)
    (hcap : controlCap mean (nthD sensors 54 0) (nthD sensors 55 0) s = .ok () c) (hthr : controlThrottle sensors c = .ok () u) :
    ∃ v, Counted u v ∧ ∀ t, (if s.trips sensors then thermalTrip else pure ()) v = .ok () t →
      exec (.controlInterval mean peak sensors) s = .next t := by
  obtain ⟨a, ha, hca⟩ := (Counted.gatherSecond peak sensors).unit (.refl u)
  obtain ⟨v, hv, hcv⟩ := Counted.notePace.unit hca
  refine ⟨v, hcv, fun t ht => run_next hw (u := ()) ?_⟩
  rw [run_bind_ok (run_guardWait (by simp [hlen]) s), run_bind_ok hcap, run_bind_ok hthr, run_bind_ok ha, run_bind_ok hv]
  exact ht

/-- Without a trip, that is the interval. -/
theorem controlInterval_untripped (hw : s.works = true) (hlen : sensors.length = 56) (htrip : s.trips sensors = false)
    (hcap : controlCap mean (nthD sensors 54 0) (nthD sensors 55 0) s = .ok () c) (hthr : controlThrottle sensors c = .ok () u) :
    ∃ t, exec (.controlInterval mean peak sensors) s = .next t ∧ Counted u t := by
  obtain ⟨v, hcv, hv⟩ := controlInterval_works (peak := peak) hw hlen hcap hthr
  exact ⟨v, hv v (by rw [htrip]; exact run_pure _ _), hcv⟩

/-- What the cap's control answers differs from what it began with only in power. -/
theorem controlCap_only {volts amps : Int} (h : controlCap mean volts amps s = .ok () t) : PowerOnly s t := by
  obtain ⟨u, hu, hp⟩ := (PowerOnly.controlCap mean volts amps).unit (.refl s)
  rw [h] at hu
  cases hu
  exact hp

theorem controlThrottle_only (he : s.flag (F.evEnable 0) = false) (h : controlThrottle sensors s = .ok () t) : PowerOnly s t := by
  obtain ⟨u, hu, hp⟩ := (PowerOnly.controlThrottle he sensors).unit (.refl s)
  rw [h] at hu
  cases hu
  exact hp

theorem PowerOnly.trans (a : PowerOnly s t) (b : PowerOnly t u) : PowerOnly s u :=
  ⟨by rw [b.rest, a.rest], fun r hr => (b.reg r hr).trans (a.reg r hr)⟩

/-! ### The cap in an interval without a hot sensor -/

/-- A calm interval leaves Pc as the cap's control set it, and shows the lower pace. -/
theorem controlInterval_calm (hw : s.works = true) (hlen : sensors.length = 56)
    (htrip : s.trips sensors = false) (hcool : ∀ i < 32, nthD sensors i 0 < s.threshold i) (hby : s.pow.throttleBy = none)
    (hcap : controlCap mean (nthD sensors 54 0) (nthD sensors 55 0) s = .ok () c) (hkeep : c.pow.throttleBy = s.pow.throttleBy) :
    ∃ t, exec (.controlInterval mean peak sensors) s = .next t ∧ Counted (paced c) t ∧ t.mem = s.mem ∧ t.cores = s.cores := by
  have hc : PowerOnly s c := controlCap_only hcap
  have hthr : controlThrottle sensors c = .ok () (paced c) :=
    controlThrottle_calm (fun i hi => by rw [hc.threshold]; exact hcool i hi) (hkeep.trans hby)
  obtain ⟨t, ht, hct⟩ := controlInterval_untripped (peak := peak) hw hlen htrip hcap hthr
  exact ⟨t, ht, hct, hct.mem.trans hc.mem, hct.cores.trans hc.cores⟩

/-! ### A hot sensor -/

/-- The cap's control leaves what the throttle has set. -/
structure ThrottleKept (s t : State) : Prop where
  throttle : t.fld F.throttlePace = s.fld F.throttlePace
  pow : t.pow = s.pow

namespace ThrottleKept

theorem status {f : Fld} (b : Bool) (hf : f.reg = .pwStatus) : Preserves (ThrottleKept s) (putFlag f b) :=
  .modify fun t h => ⟨(pwPace_setStatus t b _ _ hf).trans h.throttle, h.pow⟩

theorem unmet (cap mean : Nat) : Preserves (ThrottleKept s) (do
    putFlag F.pwCapUnmet (decide ((← getFld F.capPace) = 1 ∧ cap < mean))) :=
  .bind (.bind .read fun _ => .pure _) fun _ => status _ rfl

theorem putCap (v : Nat) : Preserves (ThrottleKept s) (putFld F.capPace v) :=
  .modify fun t h => ⟨(fld_bits_apart t .pwPace (by decide) (by decide)).trans h.throttle, h.pow⟩

theorem refreshPace : Preserves (ThrottleKept s) refreshPace := .modify fun t h => ⟨(paced_throttle t).trans h.throttle, h.pow⟩

theorem controlCap (mean : Nat) (volts amps : Int) : Preserves (ThrottleKept s) (controlCap mean volts amps) := by
  refine .bind (status (f := F.pwInputLow) _ rfl) fun _ => .bind .read fun t => ?_
  dsimp only
  refine .ite (.bind ?_ fun _ => unmet _ _) (.ite (.bind (putCap _) fun _ => .bind refreshPace fun _ => unmet _ _) (unmet _ _))
  exact .bind (.fresh fun _ h => ⟨h.throttle, h.pow⟩) fun _ => .bind (.bind .read fun _ => .pure _) fun _ =>
    .bind (putCap _) fun _ => refreshPace

end ThrottleKept

theorem controlInterval_hot {i : Nat} (hw : s.works = true) (he : s.flag (F.evEnable 0) = false) (hlen : sensors.length = 56)
    (htrip : s.trips sensors = false) (hi : i < 32) (hhot : s.threshold i ≤ nthD sensors i 0) :
    ∃ t, exec (.controlInterval mean peak sensors) s = .next t ∧ t.fld F.throttlePace = max 1 (s.fld F.throttlePace - 8) ∧
      t.pow.throttleBy.isSome = true ∧ (s.pow.throttleBy = none → t.flag F.pwThrottle = true) ∧ t.mem = s.mem ∧
      t.cores = s.cores := by
  obtain ⟨c, hcap, hkept⟩ := (ThrottleKept.controlCap mean (nthD sensors 54 0) (nthD sensors 55 0)).unit (s := s) ⟨rfl, rfl⟩
  have hc : PowerOnly s c := controlCap_only hcap
  have he' : c.flag (F.evEnable 0) = false := (hc.flag rfl).trans he
  obtain ⟨u, hthr, hpace, hby, hflag⟩ := controlThrottle_hot he' hi (by rw [hc.threshold]; exact hhot)
  have hu : PowerOnly c u := controlThrottle_only he' hthr
  obtain ⟨t, ht, hct⟩ := controlInterval_untripped (peak := peak) hw hlen htrip hcap hthr
  refine ⟨t, ht, ?_, ?_, fun hnone => ?_, ?_, ?_⟩
  · rw [F.throttlePace, hct.fld_pace]
    exact hpace.trans (by rw [hkept.throttle]; rfl)
  · rw [hct.throttle]
    exact hby
  · rw [hct.flag_status rfl]
    exact hflag (by rw [hkept.pow]; exact hnone)
  · rw [hct.mem, hu.mem, hc.mem]
  · rw [hct.cores, hu.cores, hc.cores]

/-! ### A trip -/

theorem tripped_flag (s : State) : (tripped s).flag F.pwTripped = true := flag_setFlag_same s true (by decide) rfl

theorem Shut.tripped (h : Shut (tripped s) t) : t.flag F.pwTripped = true ∧ t.pins.thermtrip = true ∧ t.works = false := by
  have hflag : t.flag F.pwTripped = true := (h.flag (by simp [F.pwTripped])).trans (tripped_flag s)
  exact ⟨hflag, congrArg PinSt.thermtrip h.pins, by simp [State.works, State.unstopped, hflag]⟩

theorem controlInterval_trips {i : Nat} (hw : s.works = true) (he : s.flag (F.evEnable 0) = false) (hlen : sensors.length = 56)
    (hi : i < 32) (hhot : s.tripAt i ≤ nthD sensors i 0) :
    ∃ v t, exec (.controlInterval mean peak sensors) s = .next t ∧ PowerOnly s v ∧ Shut (tripped v) t := by
  have htrip : s.trips sensors = true := List.any_eq_true.mpr ⟨i, List.mem_range.mpr hi, decide_eq_true hhot⟩
  obtain ⟨c, hcap, hc⟩ := (PowerOnly.controlCap mean (nthD sensors 54 0) (nthD sensors 55 0)).unit (.refl s)
  have he' : c.flag (F.evEnable 0) = false := (hc.flag rfl).trans he
  obtain ⟨u, hthr, hu⟩ := (PowerOnly.controlThrottle he' sensors).unit (.refl c)
  obtain ⟨v, hcv, hv⟩ := controlInterval_works (peak := peak) hw hlen hcap hthr
  obtain ⟨t, ht, hshut⟩ := thermalTrip_ok v
  exact ⟨v, t, hv t (by rw [htrip]; exact ht), (hc.trans hu).trans hcv.toPowerOnly, hshut⟩

theorem exec_thermalTrip {i : Fin 56} (hw : s.works = true) (hi : i.val < 32) :
    ∃ t, exec (.thermalTrip i) s = .next t ∧ Shut (tripped s) t := by
  obtain ⟨t, ht, h⟩ := thermalTrip_ok s
  exact ⟨t, run_next hw (u := ()) ((run_bind_ok (run_guardWait (by simpa using hi) s)).trans ht), h⟩

/-! ### A low input (R563) -/

theorem exec_inputLow {volts amps : Nat} (hw : s.works = true) (hv : volts < 768)
    (h : (if 1000 < amps then lowerCapPace else pure ()) (s.setFlag F.pwInputLow true) = .ok () t) :
    exec (.inputLow volts amps) s = .next t := by
  refine run_next hw (u := ()) ?_
  rw [run_bind_ok (run_guardWait (by simpa using hv) s), run_bind_ok (run_putFlag _ _ s)]
  exact h

end Sys2Proof.Machine

namespace Sys2Proof

open Sys2Proof.Machine

/-- Settles O52: a request is refused or begins its steps; each transition's end, and each part of a control interval, is run
to the state that it reaches, whose paces and status are then read. -/
theorem power : Obligations.Power := by
  unfold Obligations.Power
  refine ⟨fun s => ⟨?_, fun tr hw hs ht hrest => ⟨?_, ?_, fun d hd hp => ?_, fun d hd hj => ?_⟩⟩,
    fun s hw => ⟨?_, ?_, ?_, ?_, ?_, ?_⟩⟩
  · intro h v hready hf m k r hr
    simp only [List.mem_cons, List.not_mem_nil, or_false] at hr
    rcases hr with rfl | rfl | rfl | rfl <;> intro hc
    · exact exec_pwReq rfl hready hf (by simpa using hc) fun e =>
        absurd (hc.1.symm.trans (e.1.trans hc.2)) (by decide)
    · exact exec_pwReq rfl hready hf (by simpa using hc) fun e =>
        absurd (hc.1.symm.trans (e.1.trans hc.2)) (by decide)
    · exact exec_pwReq rfl hready hf (by simpa using hc) (asksChange_of_park hc)
    · exact exec_pwReq rfl hready hf (by simpa using hc) (asksChange_of_park hc)
  · rintro rfl hq
    refine ⟨_, powerTransitionComplete_toQuiet hw ht hrest hq, ?_, transEnded_busy, rfl, rfl⟩
    rw [transEnded_mode]
    exact fld_bits_same s .pwStatus (by decide)
  · rintro rfl
    refine ⟨_, powerTransitionComplete_toActive hw ht hrest, ?_, transEnded_busy, rfl, rfl⟩
    rw [transEnded_mode]
    exact fld_bits_same s .pwStatus (by decide)
  · subst hd
    obtain ⟨t, h, hstep⟩ := powerTransitionComplete_park hw (hs.events 0) ht hrest hp
    have hmem : t.mem = s.mem.park d := (congrArg State.mem h.rest :)
    have hcores : t.cores = s.cores := (congrArg State.cores h.rest :)
    refine ⟨_, hstep, ?_, fun j hj => ?_, fun p hp => ?_, (congrArg MemSt.bytes hmem :), hcores⟩
    · rw [transEnded_parked]
      exact bitOf_fld_putBits t _ (by decide) d.isLt
    · exact (congrArg (fun m => j ∈ m.selfRefresh) hmem).mpr (MemSt.mem_park_selfRefresh _ hj)
    · exact MemSt.not_home_of_park_dirty ((congrArg (fun m => p ∈ m.dirty) hmem).mp hp)
  · subst hd
    obtain ⟨t, h, hstep⟩ := powerTransitionComplete_unpark hw ht hrest hj
    have hmem : t.mem = s.mem := (congrArg State.mem h.rest :)
    have hcores : t.cores = s.cores := (congrArg State.cores h.rest :)
    refine ⟨_, hstep, ?_, hmem, hcores⟩
    rw [transEnded_parked]
    exact bitOf_fld_clearBit t _ (by decide)
  · intro mean peak sensors hs hlen hlow hvolts hcool hby htrip
    refine ⟨fun hm => ?_, fun hm => ?_⟩
    · have hrise := controlCap_rises (nthD sensors 55 0) hvolts hm
      obtain ⟨t, ht, hct, hmem, hcores⟩ := controlInterval_calm (peak := peak) hw hlen htrip hcool hby hrise rfl
      have hpace : (inputShown s (nthD sensors 54 0)).fld F.throttlePace = s.fld F.throttlePace := pwPace_setStatus s _ _ _ rfl
      have hcapPace := capSet_cap (inputShown s (nthD sensors 54 0)) (v := min 64 (s.fld F.capPace + 1)) (by omega)
      have hthr := (capSet_throttle (inputShown s (nthD sensors 54 0)) (min 64 (s.fld F.capPace + 1))).trans hpace
      refine ⟨t, ht, ?_, ?_, ?_, hmem, hcores⟩
      · exact (hct.fld_pace _ _).trans ((paced_cap _).trans ((pwPace_setStatus _ _ _ _ rfl).trans hcapPace))
      · exact (hct.fld_pace _ _).trans ((paced_throttle _).trans ((pwPace_setStatus _ _ _ _ rfl).trans hthr))
      · refine (hct.fld_pace _ _).trans ((paced_pace _).trans ?_)
        exact congrArg₂ min ((pwPace_setStatus _ _ _ _ rfl).trans hcapPace) ((pwPace_setStatus _ _ _ _ rfl).trans hthr)
    · obtain ⟨v, h1, hmax, hlt, hfall⟩ := controlCap_falls (volts := nthD sensors 54 0) (nthD sensors 55 0) hm
      obtain ⟨t, ht, hct, hmem, hcores⟩ := controlInterval_calm (peak := peak) hw hlen htrip hcool hby hfall rfl
      have hcapPace := capSet_cap { inputShown s (nthD sensors 54 0) with seed := s.seed + 1 } hlt
      have hfinal : t.fld F.capPace = v :=
        (hct.fld_pace _ _).trans ((paced_cap _).trans ((pwPace_setStatus _ _ _ _ rfl).trans hcapPace))
      refine ⟨t, ht, by rwa [hfinal], by rwa [hfinal], ?_, hmem, hcores⟩
      rw [hfinal, hct.flag_status rfl, paced_flag _ (f := F.pwCapUnmet) nofun, unmetShown, flag_setFlag_same _ _ (by decide) rfl, hcapPace,
        decide_eq_decide]
      exact and_iff_left hm
  · intro mean peak sensors i hs hlen hi hhot htrip
    exact controlInterval_hot hw (hs.events 0) hlen htrip hi hhot
  · intro mean peak sensors i hs hlen hi hhot
    obtain ⟨v, t, ht, hv, hshut⟩ := controlInterval_trips (mean := mean) (peak := peak) hw (hs.events 0) hlen hi hhot
    obtain ⟨hflag, hpin, hworks⟩ := hshut.tripped
    exact ⟨t, ht, hflag, hpin, hworks, hshut.closed, hshut.mem.trans hv.mem, hshut.cores.trans hv.cores⟩
  · intro volts amps hv ha
    exact exec_inputLow hw hv ((congrFun (if_neg (not_lt.mpr ha)) _).trans (run_pure _ _))
  · intro volts amps hv ha
    obtain ⟨w, h1, hmax, hlt, hlow⟩ := lowerCapPace_ok (s.setFlag F.pwInputLow true)
    have hpace : (s.setFlag F.pwInputLow true).fld F.capPace = s.fld F.capPace := pwPace_setStatus s _ _ _ rfl
    have hcapPace := capSet_cap { s.setFlag F.pwInputLow true with seed := s.seed + 1 } hlt
    refine ⟨_, exec_inputLow hw hv ((congrFun (if_pos ha) _).trans hlow), ?_, ?_, ?_, rfl, rfl⟩
    · exact (capSet_flag _ _ (f := F.pwInputLow) nofun).trans (flag_setFlag_same s _ (by decide) rfl)
    · exact h1.trans_eq hcapPace.symm
    · exact hcapPace.trans_le (by rwa [hpace] at hmax)
  · intro i hi
    obtain ⟨t, ht, hshut⟩ := exec_thermalTrip hw hi
    obtain ⟨hflag, hpin, hworks⟩ := hshut.tripped
    exact ⟨t, ht, hflag, hpin, hworks, hshut.closed, hshut.mem, hshut.sram, hshut.cores⟩

end Sys2Proof
end

section
/-! SUPPORT. The restart of the module (R483, R531, R562): everything volatile is gone, and the registers show OTP. -/

namespace Sys2Proof.Machine

variable {s t u : State}

/-! ### The state without its registers -/

/-- Registers apart, the states are the same. -/
def SameBut (s t : State) : Prop := t = { s with regs := t.regs }

theorem SameBut.trans (a : SameBut s t) (b : SameBut t u) : SameBut s u := by
  unfold SameBut at *
  rw [b, a]

theorem sameBut_setReg (s : State) (r : Reg) (v : Nat) : SameBut s (s.setReg r v) := rfl

theorem sameBut_setFld (s : State) (f : Fld) (v : Nat) : SameBut s (s.setFld f v) := rfl

theorem sameBut_setFlag (s : State) (f : Fld) (b : Bool) : SameBut s (s.setFlag f b) := rfl

theorem sameBut_foldl {α : Type} (l : List α) (f : α → Fld) (b : Bool) (s : State) :
    SameBut s (l.foldl (fun x a => x.setFlag (f a) b) s) := by
  induction l generalizing s with
  | nil => rfl
  | cons a l ih => exact (sameBut_setFlag s (f a) b).trans (ih _)

theorem sameBut_showOtp (s : State) : SameBut s s.showOtp :=
  (((sameBut_setReg s .seSerial s.sec.serial).trans (sameBut_setFld _ F.lcState _)).trans
    ((sameBut_setFld _ F.lcPending _).trans (sameBut_setFlag _ F.lcActive _))).trans
    ((sameBut_setFld _ F.lcOwner _).trans (sameBut_setFld _ F.lcUsed _))

/-- The registers of identity and life cycle are those that show OTP. -/
theorem showOtp_reg (s : State) {r : Reg} (h : r ≠ .seSerial ∧ r ≠ .seLc) : s.showOtp.reg r = s.reg r := by
  obtain ⟨hser, hlc⟩ := h
  refine (reg_setFld_other (f := F.lcUsed) hlc.symm).trans ((reg_setFld_other (f := F.lcOwner) hlc.symm).trans ?_)
  refine (reg_setFld_other (f := F.lcActive) hlc.symm).trans ((reg_setFld_other (f := F.lcPending) hlc.symm).trans ?_)
  exact (reg_setFld_other (f := F.lcState) hlc.symm).trans (reg_setReg_other hser.symm)

theorem showOtp_fld (s : State) {f : Fld} (h : f.reg ≠ .seSerial ∧ f.reg ≠ .seLc) : s.showOtp.fld f = s.fld f :=
  congrArg (bitsOf · f.lo f.width) (showOtp_reg s h)

theorem showOtp_flag (s : State) {f : Fld} (h : f.reg ≠ .seSerial ∧ f.reg ≠ .seLc) : s.showOtp.flag f = s.flag f :=
  congrArg (· == 1) (showOtp_fld s h)

theorem showOtp_lcState (s : State) : s.showOtp.fld F.lcState = s.sec.lcRows % 8 := by
  refine (fld_bits_apart _ .seLc (by decide) (by decide)).trans ((fld_bits_apart _ .seLc (by decide) (by decide)).trans ?_)
  refine (fld_bits_apart _ .seLc (by decide) (by decide)).trans ((fld_bits_apart _ .seLc (by decide) (by decide)).trans ?_)
  exact fld_bits_same _ .seLc (by decide)

/-! ### What a restart keeps -/

/-- What a restart begins from, every register at its reset value. -/
def volatileGone (s : State) : State :=
  let r := State.reset
  { r with
    pending := s.pending, out := s.out, seed := s.seed, ctxs := [], mem := { r.mem with nextKey := s.mem.nextKey }
    fab := { r.fab with closed := List.finRange 8, calibrated := [] }
    sec := { r.sec with
      serial := s.sec.serial, rootDigest := s.sec.rootDigest, identitySeed := s.sec.identitySeed
      transportSeed := s.sec.transportSeed, mfgChain := s.sec.mfgChain, factory := s.sec.factory, owners := s.sec.owners, lcRows := s.sec.lcRows }
    pow := { r.pow with booting := true, powered := s.pow.powered, armed := s.pow.armed }
    pins := { r.pins with
      perst := s.pins.perst, thermtrip := s.pins.thermtrip, pwrGood := s.pins.pwrGood, mid := s.pins.mid } }

/-- The registers of a restart before they show OTP. -/
def restarting (s : State) : State :=
  let u := (List.finRange 16).foldl (fun (x : State) p => x.setFlag (F.portSpill p) true) (volatileGone s)
  let w := (u.setFlag F.pwTripped (s.flag F.pwTripped)).setFld F.pwMode (if s.flag F.pwTripped then s.fld F.pwMode else 0)
  ((w.setFlag F.pwReady false).setFld F.bootStage 0).setFld F.deviceId s.pins.mid.toNat

theorem restart_eq (s : State) : s.restart = (restarting s).showOtp := rfl

theorem sameBut_restart (s : State) : SameBut (volatileGone s) s.restart :=
  ((sameBut_foldl (List.finRange 16) F.portSpill true (volatileGone s)).trans
    (((sameBut_setFlag _ F.pwTripped _).trans (sameBut_setFld _ F.pwMode _)).trans
      (((sameBut_setFlag _ F.pwReady _).trans (sameBut_setFld _ F.bootStage _)).trans (sameBut_setFld _ F.deviceId _)))).trans
    (sameBut_showOtp _)

theorem restart_ready (s : State) : s.restart.flag F.pwReady = false := by
  rw [restart_eq, showOtp_flag (f := F.pwReady) _ ⟨nofun, nofun⟩]
  refine (flag_setFld_other (f := F.deviceId) (g := F.pwReady) nofun).trans ?_
  refine (flag_setFld_other (f := F.bootStage) (g := F.pwReady) nofun).trans ?_
  exact flag_setFlag_same _ _ (by decide) rfl

theorem restart_bootStage (s : State) : s.restart.fld F.bootStage = 0 := by
  rw [restart_eq, showOtp_fld (f := F.bootStage) _ ⟨nofun, nofun⟩]
  refine (fld_setFld_other (f := F.deviceId) (g := F.bootStage) nofun).trans ?_
  exact fld_bits_same _ .pwBoot (by decide)

theorem restart_tripped (s : State) : s.restart.flag F.pwTripped = s.flag F.pwTripped := by
  rw [restart_eq, showOtp_flag (f := F.pwTripped) _ ⟨nofun, nofun⟩]
  refine (flag_setFld_other (f := F.deviceId) (g := F.pwTripped) nofun).trans ?_
  refine (flag_setFld_other (f := F.bootStage) (g := F.pwTripped) nofun).trans ?_
  refine (congrArg (· == 1) (fld_bits_apart _ .pwStatus (by decide) (by decide))).trans ?_
  refine (congrArg (· == 1) (fld_bits_apart _ .pwStatus (by decide) (by decide))).trans ?_
  exact flag_setFlag_same _ _ (by decide) rfl

/-- Nothing volatile is left, and OTP is in force. -/
structure Restarted (s t : State) : Prop where
  ready : t.flag F.pwReady = false
  cores : t.cores = []
  ctxs : t.ctxs = []
  queues : t.queues = []
  bytes : t.mem.bytes = []
  keys : t.mem.keys = []
  jobs : t.jobs = []
  lcState : t.fld F.lcState = s.sec.lcRows % 8
  owners : t.sec.owners = s.sec.owners
  lcRows : t.sec.lcRows = s.sec.lcRows
  noLc : t.sec.lcJob = none

theorem restart_restarted (s : State) : Restarted s s.restart := by
  have h := sameBut_restart s
  have hsec : s.restart.sec = (volatileGone s).sec := (congrArg State.sec h :)
  have hmem : s.restart.mem = (volatileGone s).mem := (congrArg State.mem h :)
  refine ⟨restart_ready s, (congrArg State.cores h :), (congrArg State.ctxs h :), (congrArg State.queues h :),
    (congrArg MemSt.bytes hmem :), (congrArg MemSt.keys hmem :), (congrArg State.jobs h :), ?_, (congrArg SecSt.owners hsec :),
    (congrArg SecSt.lcRows hsec :), (congrArg SecSt.lcJob hsec :)⟩
  have hrows : (restarting s).sec.lcRows = s.sec.lcRows :=
    (congrArg (fun t : State => t.sec.lcRows) (sameBut_showOtp (restarting s))).symm.trans (congrArg SecSt.lcRows hsec :)
  rw [restart_eq, showOtp_lcState, hrows]

theorem restart_booting (s : State) : s.restart.pow.booting = true := (congrArg (fun t : State => t.pow.booting) (sameBut_restart s) :)

/-- Registers apart from those that a restart is judged by, and the state of power and of the pins, may still change. -/
theorem Restarted.congr (h : Restarted s t) (hu : u = { t with pow := u.pow, pins := u.pins }) : Restarted s u := by
  rw [hu]
  exact ⟨h.ready, h.cores, h.ctxs, h.queues, h.bytes, h.keys, h.jobs, h.lcState, h.owners, h.lcRows, h.noLc⟩

end Sys2Proof.Machine
end

section
/-! PROOFS. PERST#, the input power, and the stages of start-up (R531, R532, R559–R562). -/

namespace Sys2Proof.Machine

variable {s t u : State}

/-! ### PERST# and the input power -/

theorem cutTransition_none (hlc : s.sec.lcJob = none) : cutTransition s = .ok () s := by
  unfold cutTransition
  rw [run_bind_ok (run_get s), hlc]
  exact run_pure _ _

/-- PERST# is asserted over a state, and nothing boots. -/
def heldReset (r : State) : State :=
  { r with pow := { r.pow with booting := false, armed := true }, pins := { r.pins with perst := true } }

theorem run_heldReset (r : State) :
    (do modPow (fun x => { x with booting := false, armed := true })
        modify (fun s => { s with pins := { s.pins with perst := true } }) : M Unit) r = .ok () (heldReset r) :=
  (run_bind_ok (run_modPow _ r)).trans (run_modify _ _)

theorem exec_perstAssert (hp : s.pins.perst = false) (hpow : s.pow.powered = true) (hlc : s.sec.lcJob = none) :
    exec .perstAssert s = .next (heldReset s.restart) := by
  refine runAny_ok (a := ()) ?_
  rw [run_bind_ok (run_guardWait (by simp [hp]) s), hpow]
  refine (run_bind_ok (cutTransition_none hlc)).trans ((run_bind_ok (run_modify State.restart s)).trans ?_)
  exact run_heldReset s.restart

/-- The straps are read as PERST# goes. -/
def strapsRead (s : State) (straps : BitVec 12) : State :=
  State.setFld { s with pins := { s.pins with perst := false, mid := straps } } F.deviceId straps.toNat

theorem strapsRead_deviceId (straps : BitVec 12) : (strapsRead s straps).fld F.deviceId = straps.toNat := by
  have hlt := straps.isLt
  exact (fld_bits_same _ .jlCtrl (by decide)).trans (Nat.mod_eq_of_lt (by omega))

theorem exec_perstDeassert (straps : BitVec 12) (hp : s.pins.perst = true) :
    exec (.perstDeassert straps) s = .next { strapsRead s straps with
      pow := { s.pow with booting := if s.pow.powered && s.pow.armed && !s.flag F.pwTripped then true else s.pow.booting } } := by
  refine runAny_ok (a := ()) ?_
  refine (run_bind_ok (run_guardWait hp s)).trans ((run_bind_ok (run_modify _ s)).trans ?_)
  refine (run_bind_ok (run_putFld _ _ _)).trans ?_
  generalize (s.pow.powered && s.pow.armed && !s.flag F.pwTripped) = boots
  cases boots
  · exact run_pure _ _
  · exact (congrFun (if_pos rfl) _).trans (run_modPow _ _)

/-- The input is absent over a state. -/
def inputGone (r : State) : State :=
  { r with
    pow := { r.pow with booting := false, powered := false, armed := false }
    pins := { r.pins with pwrGood := false, thermtrip := false } }

theorem inputGone_flag (r : State) (f : Fld) : (inputGone r).flag f = r.flag f := rfl

theorem run_inputGone (r : State) :
    (do modPow (fun x => { x with booting := false, powered := false, armed := false })
        modify (fun s => { s with pins := { s.pins with pwrGood := false, thermtrip := false } }) : M Unit) r
      = .ok () (inputGone r) :=
  (run_bind_ok (run_modPow _ r)).trans (run_modify _ _)

/-- Every volatile state is lost, a thermal trip with it. -/
def unpowered (s : State) : State := inputGone (s.setFlag F.pwTripped false).restart

theorem exec_powerRemoval (hpow : s.pow.powered = true) (hlc : s.sec.lcJob = none) :
    exec .powerRemoval s = .next (unpowered s) := by
  refine runAny_ok (a := ()) ?_
  refine (run_bind_ok (run_guardWait hpow s)).trans ((run_bind_ok (cutTransition_none hlc)).trans ?_)
  refine (run_bind_ok (run_putFlag _ _ s)).trans ((run_bind_ok (run_modify State.restart _)).trans ?_)
  exact run_inputGone _

theorem unpowered_tripped : (unpowered s).flag F.pwTripped = false :=
  (inputGone_flag _ _).trans ((restart_tripped _).trans (flag_setFlag_same s _ (by decide) rfl))

theorem exec_powerApply (hpow : s.pow.powered = false) : exec .powerApply s = .next { s with
    pow := { s.pow with powered := true }, pins := { s.pins with pwrGood := true } } := by
  refine runAny_ok (a := ()) ?_
  rw [run_bind_ok (run_guardWait (by simp [hpow]) s)]
  exact (run_bind_ok (run_modPow _ s)).trans (run_modify _ _)

/-! ### A stage ends (R531, R532) -/

/-- A stage without work of its own ends: the next one begins. -/
theorem exec_startUpStage_plain {n : Nat} (hb : s.pow.booting = true) (hu : s.unstopped = true) (hn : s.fld F.bootStage = n)
    (h : n = 0 ∨ n = 1 ∨ n = 5) : exec (.startUpStage .ok) s = .next (s.setFld F.bootStage (n + 1)) := by
  refine runAny_ok (a := ()) ?_
  refine (run_bind_ok (run_guardWait (by simp [hb, hu]) s)).trans ?_
  rw [hn]
  rcases h with rfl | rfl | rfl
  all_goals
    refine (run_bind_ok (run_guardWait (by simp) s)).trans ((run_bind_ok (run_putFld _ _ s)).trans ?_)
    exact run_pure _ _

/-- Start-up has failed with a cause. -/
def bootFailed (s : State) (cause : Nat) : State :=
  let u := (s.setFld F.bootStage 15).setFld F.bootError cause
  { u with
    pow := { u.pow with booting := false }, rep := { u.rep with bootFailed := true }, pins := { u.pins with alert := true } }

theorem run_bootFails (cause : Nat) (s : State) : bootFails cause s = .ok () (bootFailed s cause) :=
  (run_bind_ok (run_putFld _ _ s)).trans <| (run_bind_ok (run_putFld _ _ _)).trans <|
    (run_bind_ok (run_modPow _ _)).trans (run_modify _ _)

theorem bootFailed_stage {cause : Nat} (hc : cause < 16) :
    (bootFailed s cause).fld F.bootStage = 15 ∧ (bootFailed s cause).fld F.bootError = cause := by
  refine ⟨(fld_bits_apart _ .pwBoot (by decide) (by decide)).trans (fld_bits_same _ .pwBoot (by decide)), ?_⟩
  exact (fld_bits_same _ .pwBoot (by decide)).trans (Nat.mod_eq_of_lt hc)

theorem bootFailed_ready (cause : Nat) : (bootFailed s cause).flag F.pwReady = s.flag F.pwReady :=
  (flag_setFld_other (f := F.bootError) (g := F.pwReady) nofun).trans (flag_setFld_other (f := F.bootStage) (g := F.pwReady) nofun)

theorem exec_startUpStage_fails {r : StageResult} {n cause : Nat} (hb : s.pow.booting = true) (hu : s.unstopped = true)
    (hn : s.fld F.bootStage = n) (h : (r, n, cause) ∈ ([(.security, 0, 1), (.dieDead, 1, 2), (.hbmFail, 5, 3)] : List (StageResult × Nat × Nat))) :
    exec (.startUpStage r) s = .next (bootFailed s cause) := by
  refine runAny_ok (a := ()) ?_
  refine (run_bind_ok (run_guardWait (by simp [hb, hu]) s)).trans ?_
  rw [hn]
  simp only [List.mem_cons, Prod.mk.injEq, List.not_mem_nil, or_false] at h
  rcases h with ⟨rfl, rfl, rfl⟩ | ⟨rfl, rfl, rfl⟩ | ⟨rfl, rfl, rfl⟩
  all_goals exact (run_bind_ok (run_guardWait (by simp) s)).trans (run_bootFails _ s)

/-- The module has reported ready, and context 0 exists. -/
def readyNow (s : State) (ms : Nat) : State :=
  let u := State.setFlag (State.setFld { s with seed := s.seed + 1 } F.bootMs ms) F.pwReady true
  { u with
    pow := { u.pow with booting := false }
    ctxs := u.ctxs.insert 0 { u.ctxs.getD 0 .absent with phase := .live } }

theorem run_becomeReady (s : State) : becomeReady s = .ok () (readyNow s (Config.bootMs s.seed)) :=
  (run_bind_ok (run_fresh s)).trans <| (run_bind_ok (run_putFld _ _ _)).trans <| (run_bind_ok (run_putFlag _ _ _)).trans <|
    (run_bind_ok (run_modPow _ _)).trans (run_modCtx _ _ _)

theorem readyNow_ready (ms : Nat) : (readyNow s ms).flag F.pwReady = true := flag_setFlag_same _ _ (by decide) rfl

theorem readyNow_stage (ms : Nat) : (readyNow s ms).fld F.bootStage = s.fld F.bootStage :=
  (fld_setFlag_other (f := F.pwReady) (g := F.bootStage) nofun).trans (fld_bits_apart _ .pwBoot (by decide) (by decide))

theorem readyNow_tripped (ms : Nat) : (readyNow s ms).flag F.pwTripped = s.flag F.pwTripped :=
  (congrArg (· == 1) (fld_bits_apart _ .pwStatus (by decide) (by decide))).trans
    (flag_setFld_other (f := F.bootMs) (g := F.pwTripped) nofun)

theorem readyNow_ctxLive (ms : Nat) : (readyNow s ms).ctxLive 0 = true := by
  simp [State.ctxLive, readyNow]

theorem exec_startUpStage_ready (hb : s.pow.booting = true) (hu : s.unstopped = true) (hn : s.fld F.bootStage = 7)
    (ht : s.fld F.tkState ≤ 2) :
    exec (.startUpStage .ok) s = .next (readyNow (s.setFld F.bootStage 8) (Config.bootMs s.seed)) := by
  refine runAny_ok (a := ()) ?_
  refine (run_bind_ok (run_guardWait (by simp [hb, hu]) s)).trans ?_
  rw [hn]
  refine (run_bind_ok (run_guardWait (by simp [ht]) s)).trans ((run_bind_ok (run_putFld _ _ s)).trans ?_)
  exact run_becomeReady _

end Sys2Proof.Machine
end

section
/-! PROOFS. Faulty columns that WIPE_BIST finds in a core of start-up (R12, R162). -/

namespace Sys2Proof.Machine

variable {s t : State}

/-! ### A field rests on its register -/

theorem fld_of_reg {f : Fld} (h : t.reg f.reg = s.reg f.reg) : t.fld f = s.fld f := congrArg (bitsOf · f.lo f.width) h

theorem flag_of_reg {f : Fld} (h : t.reg f.reg = s.reg f.reg) : t.flag f = s.flag f := congrArg (· == 1) (fld_of_reg h)

/-! ### Before the module is ready, a repair only enters the map -/

theorem raiseRepair_unready (hr : s.flag F.pwReady = false) (kind : Nat) (exhausted : Bool) (die unit sub physical : Nat) :
    Preserves (MapsOnly s) (raiseRepair kind exhausted die unit sub physical) :=
  .bind (MapsOnly.setMap _) fun _ => .get_of fun t h => by
    rw [(h.flag rfl).trans hr]
    exact .pure _

/-! ### A core is presented at its width (R161) -/

/-- A core that loses `m` columns is presented. -/
def narrowed (s : State) (n : CoreId) (m : Nat) : State :=
  ((s.setFld (F.mxWidth n) (widthOf m)).setFld (F.mxNextWidth n) (widthOf m)).setFld (F.mxFaulty n) (min 31 m)

theorem widthOf_le (m : Nat) : widthOf m ≤ 64 := Nat.min_le_left _ _

theorem narrowed_width (s : State) (n : CoreId) (m : Nat) : (narrowed s n m).fld (F.mxWidth n) = widthOf m := by
  have hle := widthOf_le m
  refine (fld_bits_apart _ (.mxShape n) (by decide) (by decide)).trans ((fld_bits_apart _ (.mxShape n) (by decide) (by decide)).trans ?_)
  exact (fld_bits_same _ (.mxShape n) (by decide)).trans (Nat.mod_eq_of_lt (by omega))

theorem narrowed_faulty (s : State) (n : CoreId) (m : Nat) : (narrowed s n m).fld (F.mxFaulty n) = min 31 m :=
  (fld_bits_same _ (.mxShape n) (by decide)).trans (Nat.mod_eq_of_lt (by omega))

theorem narrowed_reg (s : State) (n : CoreId) (m : Nat) {r : Reg} (h : Reg.mxShape n ≠ r) : (narrowed s n m).reg r = s.reg r :=
  (reg_setFld_other (f := F.mxFaulty n) h).trans ((reg_setFld_other (f := F.mxNextWidth n) h).trans (reg_setFld_other (f := F.mxWidth n) h))

/-- The self-test's columns of a physical core are noted, and the logical core is presented without them. -/
def arrayFound (s : State) (phys : Nat) (n : CoreId) (cols : List (Fin 66)) : State :=
  narrowed { s with rep := { s.rep with
    arrays := s.rep.arrays.insert phys cols
    coreCols := if cols.isEmpty then s.rep.coreCols.erase n else s.rep.coreCols.insert n cols } } n cols.length

theorem run_presentCore (n : CoreId) (cols : List (Fin 66)) (s : State) : presentCore n cols s = .ok ⟨⟩
    (narrowed { s with rep := { s.rep with
      coreCols := if cols.isEmpty then s.rep.coreCols.erase n else s.rep.coreCols.insert n cols } } n cols.length) :=
  (run_bind_ok (run_modRep _ s)).trans <| (run_bind_ok (run_putFld _ _ _)).trans <|
    (run_bind_ok (run_putFld _ _ _)).trans (run_putFld _ _ _)

/-- A find in the array of a core that has a logical number. -/
theorem applyFind_array {d : Die} {cl : Fin 14} {core : Fin 9} {cols : List (Fin 66)} {n : CoreId} (hcl : cl.val < 12)
    (hcore : core.val < 8) (hn : n.val = d.val * 96 + cl.val * 8 + core.val) (hr : s.flag F.pwReady = false) :
    ∃ t, applyFind (.array d cl core cols) s = .ok () t ∧
      MapsOnly (arrayFound s ((d.val * 14 + cl.val) * 9 + core.val) n cols.eraseDups) t := by
  have hready : (arrayFound s ((d.val * 14 + cl.val) * 9 + core.val) n cols.eraseDups).flag F.pwReady = false :=
    (flag_of_reg (f := F.pwReady) (narrowed_reg _ n _ nofun)).trans hr
  obtain ⟨t, ht, hmaps⟩ := (Preserves.eachM cols.eraseDups.zipIdx fun p =>
    raiseRepair_unready hready 1 (decide (1 ≤ p.2)) d.val cl.val core.val p.1.val).unit (.refl _)
  refine ⟨t, (run_bind_ok (run_modRep _ s)).trans ?_, hmaps⟩
  rw [finOf_val n hn.symm]
  exact (congrFun (if_pos ⟨hcl, hcore⟩) _).trans ((run_bind_ok (run_presentCore _ _ _)).trans ht)

/-! ### No spare is called for -/

/-- The columns of an array leave every core fit that was, where they leave its own core fit. -/
theorem coreFit_insert {phys : Nat} {cols : List (Fin 66)} (hdead : t.rep.deadCores = s.rep.deadCores)
    (harr : t.rep.arrays = s.rep.arrays.insert phys cols) (hw : 48 ≤ widthOf cols.length) {q : Nat} (hq : s.coreFit q = true) :
    t.coreFit q = true := by
  unfold State.coreFit State.arrayOf at *
  rw [hdead, harr]
  by_cases hpq : phys = q
  · subst hpq
    rw [AMap.getD_insert_same]
    simp only [Bool.and_eq_true, decide_eq_true_eq] at hq ⊢
    exact ⟨hq.1, hw⟩
  · rwa [AMap.getD_insert_other hpq]

theorem run_settleStart_none (hm : s.rep.marked = []) (hc : s.rep.markedClusters = []) (fuel : Nat) :
    settleStart (fuel + 1) s = .ok () s := by
  rw [settleStart, run_bind_ok (run_get s), hm]
  dsimp only [List.head?]
  rw [hc]
  exact run_pure () s

/-- Where every core is fit, the repairs of start-up are those of the finds. -/
theorem repairAtStart_fit {fs : List StartFind} (hf : eachM fs applyFind s = .ok () t)
    (hfit : ∀ i : CoreId, t.coreFit (t.physOf (clusterOf i) (i.val % 8)) = true) (hm : t.rep.marked = [])
    (hc : t.rep.markedClusters = []) : repairAtStart fs s = .ok () t := by
  have heach : ∃ u, eachM (List.finRange 384) (fun n => do
      let s ← get
      if s.coreFit (s.physOf (clusterOf n) (n.val % 8)) then pure () else markCore n true) t = .ok () u ∧ u = t :=
    eachM_ok (P := (· = t)) _ (fun n _ u hu => ⟨t, by
      subst hu
      rw [run_bind_ok (run_get u), hfit n]
      exact run_pure () u, rfl⟩) rfl
  obtain ⟨u, hu, rfl⟩ := heach
  exact (run_bind_ok hf).trans ((run_bind_ok hu).trans (run_settleStart_none hm hc 999))

/-- Every die keeps a cluster: no find fails WIPE_BIST. -/
theorem foundAtStart_fit {fs : List StartFind} (h : repairAtStart fs s = .ok () t) (hret : t.rep.retiredClusters = []) :
    foundAtStart 1 fs s = .ok true t := by
  refine (run_bind_ok h).trans ((run_bind_ok (run_get t)).trans ?_)
  rw [hret]
  exact run_pure _ t

theorem exec_startUpStage_found {fs : List StartFind} (hb : s.pow.booting = true) (hu : s.unstopped = true)
    (hn : s.fld F.bootStage = 1) (h : foundAtStart 1 fs s = .ok true t) :
    exec (.startUpStage (.found fs)) s = .next (t.setFld F.bootStage 2) := by
  refine runAny_ok (a := ()) ?_
  refine (run_bind_ok (run_guardWait (by simp [hb, hu]) s)).trans ?_
  rw [hn]
  refine (run_bind_ok (run_guardWait (by simp) s)).trans ((run_bind_ok (run_guardWait (by simp) s)).trans ?_)
  exact (run_bind_ok h).trans (run_putFld _ _ t)

/-- A find in one array that leaves its core wide enough narrows that core alone. -/
theorem exec_startUpStage_array {d : Die} {cl : Fin 14} {core : Fin 9} {cols : List (Fin 66)} {n : CoreId}
    (hb : s.pow.booting = true) (hu : s.unstopped = true) (hs : s.fld F.bootStage = 1) (hcl : cl.val < 12) (hcore : core.val < 8)
    (hn : n.val = d.val * 96 + cl.val * 8 + core.val) (hr : s.flag F.pwReady = false)
    (hfit : ∀ i : CoreId, s.coreFit (s.physOf (clusterOf i) (i.val % 8)) = true) (hm : s.rep.marked = [])
    (hmc : s.rep.markedClusters = []) (hrc : s.rep.retiredClusters = []) (hw : 48 ≤ widthOf cols.eraseDups.length) :
    ∃ t, MapsOnly (arrayFound s ((d.val * 14 + cl.val) * 9 + core.val) n cols.eraseDups) t ∧
      exec (.startUpStage (.found [.array d cl core cols])) s = .next (t.setFld F.bootStage 2) := by
  obtain ⟨t, ht, hmaps⟩ := applyFind_array (cols := cols) hcl hcore hn hr
  refine ⟨t, hmaps, exec_startUpStage_found hb hu hs ?_⟩
  obtain ⟨m, hrep⟩ := hmaps.rep
  have hphys : ∀ k c, t.physOf k c = s.physOf k c := fun k c => by rw [State.physOf, hrep]; rfl
  refine foundAtStart_fit (repairAtStart_fit (run_eachM_one ht) (fun i => ?_) ?_ ?_) ?_
  · rw [hphys]
    exact coreFit_insert (by rw [hrep]; rfl) (by rw [hrep]; rfl) hw (hfit i)
  all_goals rw [hrep]; assumption

end Sys2Proof.Machine
end

section
/-! PROOFS. The image over DOE, the fetch from a peer, and management messages (R533–R535, R541); the obligation O53. -/

namespace Sys2Proof.Machine

variable {s t : State}

/-! ### FW_IMAGE (R534, R535) -/

/-- FW_IMAGE is answered with a status and the bytes held. -/
def imageAnswered (s : State) (status : Nat) : State :=
  { s with out := s.out ++ [.doe (leBytes 4 status ++ leBytes 8 s.cxl.fwHeld.length)] }

theorem run_replyImage (status : Nat) (s : State) : replyImage status s = .ok () (imageAnswered s status) :=
  (run_bind_ok (run_get s)).trans (run_emit _ s)

section FwImage

variable {offset : Nat} {data : List Byte} (hu : s.unstopped = true) (hpow : s.pow.powered = true) (hp : s.pins.perst = false)
  (hd : data.length ≤ 1048568)

include hpow hp hd

/-- Outside FETCH no object is taken. -/
theorem exec_fwImage_outside (h : ¬(s.pow.booting = true ∧ s.fld F.bootStage = 2)) :
    exec (.fwImage offset data) s = .next (imageAnswered s 1) := by
  refine runAny_ok (a := ()) ?_
  refine (run_bind_ok (run_guardWait (by simp [hpow, hp, hd]) s)).trans ?_
  refine (congrFun (if_pos ?_) _).trans (run_replyImage 1 s)
  by_cases hb : s.pow.booting = true
  · have hs : s.fld F.bootStage ≠ 2 := fun e => h ⟨hb, e⟩
    simp [hs]
  · simp [hb]

section InFetch

include hu
variable (hb : s.pow.booting = true) (hs : s.fld F.bootStage = 2)
include hb hs

theorem exec_fwImage_offset (ho : offset ≠ s.cxl.fwHeld.length) :
    exec (.fwImage offset data) s = .next (imageAnswered s 2) := by
  refine runAny_ok (a := ()) ?_
  refine (run_bind_ok (run_guardWait (by simp [hpow, hp, hd]) s)).trans ((congrFun (if_neg (by simp [hb, hu, hs])) _).trans ?_)
  exact (congrFun (if_pos ho) _).trans (run_replyImage 2 s)

theorem exec_fwImage_kept (hhead : (s.cxl.fwHeld ++ data).length < 0x20 ∨ imageHeaderOk (s.cxl.fwHeld ++ data) = true)
    (hlen : (s.cxl.fwHeld ++ data).length < imageLength (s.cxl.fwHeld ++ data)) :
    exec (.fwImage s.cxl.fwHeld.length data) s
      = .next (imageAnswered { s with cxl := { s.cxl with fwHeld := s.cxl.fwHeld ++ data } } 0) := by
  refine runAny_ok (a := ()) ?_
  refine (run_bind_ok (run_guardWait (by simp [hpow, hp, hd]) s)).trans ((congrFun (if_neg (by simp [hb, hu, hs])) _).trans ?_)
  refine (congrFun (if_neg (by simp)) _).trans ((congrFun (if_neg ?_) _).trans ((congrFun (if_pos hlen) _).trans ?_))
  · rintro (⟨hge, hbad⟩ | hlong)
    · rcases hhead with hshort | hok
      · omega
      · rw [hok] at hbad
        exact absurd hbad (by decide)
    · omega
  · exact (run_bind_ok (run_modify _ s)).trans (run_replyImage 0 _)

end InFetch
end FwImage

/-! ### The fetch from a peer (R533) -/

/-- No port has come up, and what a spillway in motion does not touch is as it was. -/
structure NoneUp (s t : State) : Prop where
  mem : t.mem = s.mem
  out : t.out = s.out
  pow : t.pow = s.pow
  down : ∀ p, s.fld (F.portState p) ≠ 4 → t.fld (F.portState p) ≠ 4

theorem NoneUp.of_fab (h : NoneUp s t) (g : FabSt → FabSt) : NoneUp s { t with fab := g t.fab } := ⟨h.mem, h.out, h.pow, h.down⟩

theorem NoneUp.calibrating (h : NoneUp s t) (p : Port) : NoneUp s (t.setFld (F.portState p) 1) := by
  refine ⟨h.mem, h.out, h.pow, fun q hq => ?_⟩
  by_cases hpq : p = q
  · subst hpq
    rw [F.portState, fld_bits_same _ _ (by decide)]
    decide
  · have hother : (t.setFld (F.portState p) 1).fld (F.portState q) = t.fld (F.portState q) :=
      fld_setFld_other (f := F.portState p) (g := F.portState q) fun e => hpq (by simpa [F.portState] using e)
    rw [hother]
    exact h.down q hq

theorem NoneUp.requestSpillway (k : Fin 8) : Preserves (NoneUp s) (requestSpillway k) := by
  refine .bind .read fun u => .bind (.modify fun t h => h.of_fab fun x => { x with moving := x.moving.filter (fun m => m.1 ≠ k) })
    fun _ => .ite (.pure _) (.bind (.modify fun t h => h.of_fab fun x => { x with moving := (k, u.spillCause k) :: x.moving })
      fun _ => .ite (.pure _) (.eachM _ fun p => .ite (.modify fun t h => h.calibrating p) (.pure _)))

/-- From a port that is not UP nothing is fetched. -/
theorem run_fetchWhereUp_down {p : Port} (h : t.fld (F.portState p) ≠ 4) :
    (do if (← getFld (F.portState p)) = 4 then fetchStart p else pure () : M Unit) t = .ok () t :=
  (run_bind_ok (run_getFld _ t)).trans ((congrFun (if_neg h) _).trans (run_pure _ t))

/-- Where neither port is UP, the fetch waits for the first of them. -/
theorem exec_peerFetchTimeout_waits (hu : s.unstopped = true) (hb : s.pow.booting = true) (hs : s.fld F.bootStage = 2)
    (hl : s.fld F.lcState = 2) (hn : s.pow.peerFetch = none) (hw : s.cxl.fwHeld = []) (h0 : s.fld (F.portState 0) ≠ 4)
    (h1 : s.fld (F.portState 1) ≠ 4) :
    ∃ t, exec .peerFetchTimeout s = .next t ∧ NoneUp { s with pow := { s.pow with peerFetch := some [] } } t := by
  obtain ⟨t, ht, hup⟩ := (NoneUp.requestSpillway 0).unit
    (⟨rfl, rfl, rfl, fun _ h => h⟩ : NoneUp { s with pow := { s.pow with peerFetch := some [] } } _)
  refine ⟨t, runAny_ok (a := ()) ?_, hup⟩
  refine (run_bind_ok (run_guardWait (by simp [hu, hb, hs, hl, hn, hw]) s)).trans ((run_bind_ok (run_modPow _ s)).trans ?_)
  exact (run_bind_ok ht).trans ((run_bind_ok (run_fetchWhereUp_down (hup.down 0 h0))).trans
    (run_eachM_one (run_fetchWhereUp_down (hup.down 1 h1))))

/-! ### Management messages (R541) -/

section Mctp

variable (hu : s.unstopped = true) (hpow : s.pow.powered = true) (hp : s.pins.perst = false) (h4 : 4 ≤ s.fld F.bootStage)
  (h8 : s.fld F.bootStage ≤ 8)

include hu hpow hp h4 h8

theorem exec_mctp_readSensor {i : Nat} (hi : i < 56) : exec (.mctpMessage (.readSensor i)) s = .next { s with
    out := s.out ++ [.mctp (leBytes 2 (toUnsigned 16 (nthD s.pow.sensors i 0)))] } := by
  refine runAny_ok (a := ()) ?_
  refine (run_bind_ok (run_guardWait (by simp [hu, hpow, hp, h4, h8]) s)).trans ?_
  exact (run_bind_ok (run_guardWait (by simp [hi]) s)).trans (run_emit _ s)

theorem exec_mctp_readState : exec (.mctpMessage .readState) s = .next { s with
    out := s.out ++ [.mctp (leBytes 1 (s.fld F.pwMode + s.fld F.pwParked * 16) ++ leBytes 1 (s.fld F.pwTripped)
      ++ leBytes 1 (s.fld F.lcState))] } := by
  refine runAny_ok (a := ()) ?_
  exact (run_bind_ok (run_guardWait (by simp [hu, hpow, hp, h4, h8]) s)).trans (run_emit _ s)

theorem exec_mctp_setEffecter (w : Nat) : exec (.mctpMessage (.setEffecter w)) s = .next
    (if 1200 ≤ w ∧ w ≤ 3000 ∧ w % 50 = 0 then s.setFld F.capW w else s) := by
  refine runAny_ok (a := ()) ?_
  refine (run_bind_ok (run_guardWait (by simp [hu, hpow, hp, h4, h8]) s)).trans ?_
  by_cases hw : 1200 ≤ w ∧ w ≤ 3000 ∧ w % 50 = 0
  · rw [if_pos hw]
    exact (congrFun (if_pos (decide_eq_true hw)) _).trans (run_putFld _ _ s)
  · rw [if_neg hw]
    exact (congrFun (if_neg (by simp [capOk, hw])) _).trans (run_pure _ s)

end Mctp

end Sys2Proof.Machine

namespace Sys2Proof

open Sys2Proof.Machine

/-- Settles O53: PERST# and the removal of the input restart the module, each stage of start-up does as it ends, and objects
of FW_IMAGE and management messages are answered. -/
theorem startUp : Obligations.StartUp := by
  unfold Obligations.StartUp
  refine ⟨fun s => ⟨fun hp hpow hlc => ?_, fun straps hp => ?_, fun hpow hlc => ?_, exec_powerApply, fun hb hu => ⟨fun hs => ?_,
    fun d cl core cols n hs hcl hcore hn hr hfit hm hmc hrc hw => ?_, fun hs htk => ?_, fun r hr hs => ?_⟩⟩,
    fun s hu hpow hp => ⟨fun offset data hd => ⟨exec_fwImage_outside hpow hp hd, fun hb hs =>
      ⟨exec_fwImage_offset hu hpow hp hd hb hs, ?_⟩⟩, fun hb hs hl hn hw h0 h1 => ?_, fun h4 h8 =>
      ⟨fun i hi => exec_mctp_readSensor hu hpow hp h4 h8 hi, exec_mctp_readState hu hpow hp h4 h8,
        exec_mctp_setEffecter hu hpow hp h4 h8⟩⟩⟩
  case refine_1 =>
    have h := (restart_restarted s).congr (u := heldReset s.restart) rfl
    exact ⟨_, exec_perstAssert hp hpow hlc, ⟨h.ready, h.cores, h.ctxs, h.queues, h.bytes, h.keys, h.jobs, h.lcState, h.owners⟩,
      rfl, rfl, rfl⟩
  case refine_2 => exact ⟨_, exec_perstDeassert straps hp, rfl, strapsRead_deviceId straps, rfl, rfl⟩
  case refine_3 =>
    have h := (restart_restarted (s.setFlag F.pwTripped false)).congr (u := unpowered s) rfl
    exact ⟨_, exec_powerRemoval hpow hlc, ⟨h.ready, h.cores, h.ctxs, h.queues, h.bytes, h.keys, h.jobs, h.lcState, h.owners⟩,
      rfl, rfl, rfl, rfl, unpowered_tripped⟩
  case refine_4 => exact exec_startUpStage_plain hb hu rfl (by simpa using hs)
  case refine_5 =>
    obtain ⟨t, hmaps, hrun⟩ := exec_startUpStage_array (cols := cols) hb hu hs hcl hcore hn hr hfit hm hmc hrc hw
    have hshape : ∀ i, (t.setFld F.bootStage 2).reg (.mxShape i)
        = (arrayFound s ((d.val * 14 + cl.val) * 9 + core.val) n cols.eraseDups).reg (.mxShape i) :=
      fun i => (reg_setFld_other (s := t) (f := F.bootStage) (r := .mxShape i) nofun).trans (hmaps.reg (.mxShape i) rfl)
    refine ⟨_, hrun, fld_bits_same t .pwBoot (by decide), ?_, ?_, fun i hi => ?_, hmaps.mem, hmaps.cores⟩
    · exact (fld_of_reg (f := F.mxWidth n) (hshape n)).trans (narrowed_width _ _ _)
    · exact (fld_of_reg (f := F.mxFaulty n) (hshape n)).trans (narrowed_faulty _ _ _)
    · refine (fld_of_reg (f := F.mxWidth i) (hshape i)).trans (fld_of_reg (f := F.mxWidth i) (narrowed_reg _ _ _ ?_))
      exact fun e => hi (Reg.mxShape.inj e).symm
  case refine_6 =>
    refine ⟨_, exec_startUpStage_ready hb hu hs htk, (readyNow_stage _).trans (fld_bits_same s .pwBoot (by decide)),
      readyNow_ready _, ?_, readyNow_ctxLive _, rfl⟩
    have htrip : (s.setFld F.bootStage 8).flag F.pwTripped = s.flag F.pwTripped := flag_setFld_other nofun
    rw [State.works, readyNow_ready, State.unstopped, readyNow_tripped, htrip]
    exact hu
  case refine_7 =>
    have hcause : r.2.2 < 16 := by
      simp only [List.mem_cons, List.not_mem_nil, or_false] at hr
      rcases hr with rfl | rfl | rfl <;> decide
    exact ⟨_, exec_startUpStage_fails hb hu hs hr, (bootFailed_stage hcause).1, (bootFailed_stage hcause).2, rfl, rfl,
      bootFailed_ready _, rfl⟩
  case refine_8 =>
    rintro b rfl hhead hlen
    exact exec_fwImage_kept hu hpow hp hd hb hs hhead hlen
  case refine_9 =>
    obtain ⟨t, ht, hup⟩ := exec_peerFetchTimeout_waits hu hb hs hl hn hw h0 h1
    exact ⟨t, ht, by rw [hup.pow], hup.mem, hup.out⟩

end Sys2Proof
end

section
/-! PROOFS. Received flits, NAKs and retries of a link (R420–R424); the obligation O47. -/

namespace Sys2Proof.Machine

variable {s t : State} {p : Port} {f : Flit}

/-! ### What a received flit does -/

theorem run_bumpBy (f : Fld) (n : Nat) (s : State) : bumpBy f n s = .ok ⟨⟩ (s.bumpBy f n) := run_modify _ s

/-- A flit without corrected symbols has been counted in. -/
def noneCorrected (s : State) (p : Port) : State := s.bumpBy (F.fecCorrected p) 0

theorem bump_port (s : State) (f : Fld) (p : Port) : (s.bump f).portOf p = s.portOf p := rfl

theorem noneCorrected_port (s : State) (p : Port) : (noneCorrected s p).portOf p = s.portOf p := rfl

theorem noneCorrected_out (s : State) (p : Port) : (noneCorrected s p).out = s.out := rfl

theorem noneCorrected_link (s : State) (p : Port) {f : Fld} (h : Reg.jlPortFec p ≠ f.reg) : (noneCorrected s p).fld f = s.fld f :=
  fld_setFld_other (f := F.fecCorrected p) h

theorem noneCorrected_uncorr (s : State) (p : Port) : (noneCorrected s p).fld (F.fecUncorr p) = s.fld (F.fecUncorr p) :=
  fld_bits_apart s (.jlPortFec p) (by decide) (by decide)

/-- A NAK has been sent for what follows the last flit in order. -/
def nakSent (s : State) (p : Port) : State :=
  { withPort s p { s.portOf p with nakked := true } with out := s.out ++ [.nak p (((s.portOf p).rxSeq + 4095) % 4096)] }

theorem nakSent_port (s : State) (p : Port) : (nakSent s p).portOf p = { s.portOf p with nakked := true } := withPort_port s p _

theorem nakSent_out (s : State) (p : Port) : (nakSent s p).out = s.out ++ [.nak p (((s.portOf p).rxSeq + 4095) % 4096)] := rfl

theorem nakSent_mem (s : State) (p : Port) : (nakSent s p).mem = s.mem := rfl

theorem run_sendNak (h : (s.portOf p).nakked = false) : sendNak p s = .ok () (nakSent s p) := by
  refine (run_bind_ok (run_get s)).trans ((congrFun (if_neg (by simp [h])) _).trans ?_)
  exact (run_bind_ok (run_modPort_with _ _ s)).trans (run_emit _ _)

section Received

variable (hw : s.linksRun = true) (hmode : s.fld (F.portMode p) = 0) (hup : s.fld (F.portState p) = 4)

include hmode hup in
theorem run_linkCarries : linkCarries p s = .ok (s.portOf p) s := by
  refine (run_bind_ok (run_get s)).trans ((run_bind_ok (run_guardWait ?_ s)).trans (run_pure _ s))
  rw [hmode, hup]
  simp

include hw hmode hup in
/-- A flit without corrected symbols is judged by what follows their count. -/
theorem exec_flit_next {k : State → PortSt → M Unit} (hc : f.corrected = 0)
    (h : exec (.flit p f) s = runLink (do
      let s ← get
      let x ← linkCarries p
      bumpBy (F.fecCorrected p) f.corrected
      k s x) s) (hk : k s (s.portOf p) (noneCorrected s p) = .ok () t) : exec (.flit p f) s = .next t := by
  rw [h]
  refine runLink_ok hw ((run_bind_ok (run_get s)).trans ((run_bind_ok (run_linkCarries hmode hup)).trans ?_))
  rw [hc]
  exact (run_bind_ok (run_bumpBy _ _ s)).trans hk

include hw hmode hup in
theorem exec_flit_badFec (hc : f.corrected = 0) (hg : f.good = false) (hn : (s.portOf p).nakked = false) :
    exec (.flit p f) s = .next (nakSent ((noneCorrected s p).bump (F.fecUncorr p)) p) := by
  refine exec_flit_next hw hmode hup hc rfl ((congrFun (if_pos (by simp [hg])) _).trans ?_)
  exact (run_bind_ok (run_bump _ _)).trans (run_sendNak hn)

/-- A failed tag has been counted. -/
def tagFailed (s : State) (p : Port) : State :=
  withPort ((noneCorrected s p).bump (F.linkTagFail p)) p { s.portOf p with tagFails := (s.portOf p).tagFails + 1 }

theorem tagFailed_port (s : State) (p : Port) :
    (tagFailed s p).portOf p = { s.portOf p with tagFails := (s.portOf p).tagFails + 1 } := withPort_port _ p _

theorem tagFailed_out (s : State) (p : Port) : (tagFailed s p).out = s.out := rfl

include hw hmode hup in
theorem exec_flit_badTag (hc : f.corrected = 0) (hg : f.good = true) (ht : s.tagOk p f = false) (hn : (s.portOf p).nakked = false) :
    exec (.flit p f) s = .next (if 16 ≤ (s.portOf p).tagFails then portOff p (tagFailed s p) else nakSent (tagFailed s p) p) := by
  refine exec_flit_next hw hmode hup hc rfl ((congrFun (if_neg (by simp [hg])) _).trans ((congrFun (if_pos (by simp [ht])) _).trans ?_))
  refine (run_bind_ok (run_bump _ _)).trans ((run_bind_ok (run_modPort_with _ _ _)).trans ?_)
  by_cases h16 : 16 ≤ (s.portOf p).tagFails
  · rw [if_pos h16]
    exact (congrFun (if_pos (by omega)) _).trans (run_portDown _ _)
  · rw [if_neg h16]
    exact (congrFun (if_neg (by omega)) _).trans
      (run_sendNak ((congrArg PortSt.nakked (withPort_port _ p { s.portOf p with tagFails := (s.portOf p).tagFails + 1 })).trans hn))

end Received

/-! ### A flit whose tag checks (R421, R423) -/

/-- The port after a flit's frame counter and credit. -/
def PortSt.counted (x : PortSt) (f : Flit) : PortSt :=
  { x with
    rxFrame := fullFrame x.rxFrame f.frame.toNat + 1
    credits := setNth x.credits f.creditVc.val (nthD x.credits f.creditVc.val 0 + f.credit.toNat) }

theorem PortSt.counted_rxFrame (x : PortSt) (f : Flit) : (x.counted f).rxFrame = fullFrame x.rxFrame f.frame.toNat + 1 := rfl

theorem PortSt.counted_frameEnd (x : PortSt) (f : Flit) : (x.counted f).frameEnd = x.frameEnd := rfl

/-- The peer has received everything up to `a`. -/
def PortSt.acked (x : PortSt) (a : Nat) : PortSt :=
  { x with
    retry := x.retry.filter (fun g => !ackedBy a g)
    wait := x.wait.filter (fun g => g.seq.isNone || !ackedBy a g) }

/-- The port after a flit's header: frame counter, credit and acknowledgement. -/
def PortSt.tookHeader (x : PortSt) (f : Flit) : PortSt := (x.counted f).acked f.ack.toNat

theorem PortSt.tookHeader_rxFrame (x : PortSt) (f : Flit) : (x.tookHeader f).rxFrame = fullFrame x.rxFrame f.frame.toNat + 1 := by
  simp only [PortSt.tookHeader, PortSt.acked, PortSt.counted_rxFrame]

theorem PortSt.tookHeader_rxSeq (x : PortSt) (f : Flit) : (x.tookHeader f).rxSeq = x.rxSeq := rfl

/-- The port's state after a header, which may end the last generation agreed. -/
def headerTaken (s : State) (p : Port) (f : Flit) : State :=
  withPort (if ((s.portOf p).counted f).rxFrame = ((s.portOf p).counted f).frameEnd then s.setFlag (F.keyHold p) true else s) p
    ((s.portOf p).tookHeader f)

theorem headerTaken_port (s : State) (p : Port) (f : Flit) : (headerTaken s p f).portOf p = (s.portOf p).tookHeader f :=
  withPort_port _ p _

theorem headerTaken_rxFrame (s : State) (p : Port) (f : Flit) :
    ((headerTaken s p f).portOf p).rxFrame = fullFrame (s.portOf p).rxFrame f.frame.toNat + 1 := by
  rw [headerTaken_port, PortSt.tookHeader_rxFrame]

theorem headerTaken_out (s : State) (p : Port) (f : Flit) : (headerTaken s p f).out = s.out := by
  unfold headerTaken
  split <;> rfl

theorem headerTaken_mem (s : State) (p : Port) (f : Flit) : (headerTaken s p f).mem = s.mem := by
  unfold headerTaken
  split <;> rfl

theorem headerTaken_keyHold (h : fullFrame (s.portOf p).rxFrame f.frame.toNat + 1 = (s.portOf p).frameEnd) :
    (headerTaken s p f).flag (F.keyHold p) = true := by
  unfold headerTaken
  rw [PortSt.counted_frameEnd, PortSt.counted_rxFrame, if_pos h]
  exact flag_setFlag_same (f := F.keyHold p) _ _ (Nat.le_of_ble_eq_true rfl) rfl

theorem withPort_withPort (s : State) (p : Port) (x y : PortSt) : withPort (withPort s p x) p y = withPort s p y := by
  simp only [withPort, AMap.insert_insert]

theorem run_drainPort_empty (h : (s.portOf p).wait = []) : drainPort p s = .ok () s := by
  refine (run_bind_ok (run_get s)).trans ?_
  rw [h]
  exact run_pure () s

theorem run_acknowledge (a : Nat) (s : State) : acknowledge p a s = .ok ⟨⟩ (withPort s p ((s.portOf p).acked a)) :=
  run_modPort_with p _ s

/-- The counter of received frames may end the last generation agreed. -/
theorem run_frameEnd (s : State) (x : PortSt) (k : PUnit → M Unit) :
    (if x.rxFrame = x.frameEnd then putFlag (F.keyHold p) true >>= k else k ()) (withPort s p x)
      = k () (withPort (if x.rxFrame = x.frameEnd then s.setFlag (F.keyHold p) true else s) p x) := by
  split
  · exact run_bind_ok (run_putFlag _ _ _)
  · rfl

theorem run_takeHeader (hk : (s.portOf p).keys ≠ []) (hn : f.nak = false) (hwait : (s.portOf p).wait = []) :
    takeHeader p f s = .ok () (headerTaken s p f) := by
  have hk' : (s.portOf p).keys.isEmpty = false := by simpa using hk
  have hempty : ((headerTaken s p f).portOf p).wait = [] := by
    rw [headerTaken_port]
    exact List.filter_eq_nil_iff.mpr (by simp [PortSt.counted, hwait])
  have hcount : modPort p (fun y => { y with
      rxFrame := if y.keys.isEmpty then y.rxFrame else fullFrame y.rxFrame f.frame.toNat + 1
      credits := setNth y.credits f.creditVc.val (nthD y.credits f.creditVc.val 0 + f.credit.toNat) }) s
      = .ok ⟨⟩ (withPort s p ((s.portOf p).counted f)) := by
    rw [run_modPort_with]
    simp only [hk', Bool.false_eq_true, if_false, PortSt.counted]
  refine (run_bind_ok hcount).trans ((run_bind_ok (run_get _)).trans ?_)
  rw [withPort_port]
  refine (run_frameEnd s ((s.portOf p).counted f) _).trans ?_
  refine (run_bind_ok (run_acknowledge _ _)).trans ?_
  rw [withPort_port, withPort_withPort, hn]
  exact (congrFun (if_neg Bool.false_ne_true) _).trans (run_drainPort_empty hempty)

/-- The flit expected next is the one with sequence number `n`, and a credit of a channel is returned. -/
def creditReturned (s : State) (p : Port) (n vc : Nat) : State :=
  { withPort s p { s.portOf p with rxSeq := n, nakked := false } with out := s.out ++ [.credit p vc 1] }

theorem creditReturned_port (s : State) (p : Port) (n vc : Nat) :
    (creditReturned s p n vc).portOf p = { s.portOf p with rxSeq := n, nakked := false } := withPort_port s p _

theorem creditReturned_rxFrame (s : State) (p : Port) (n vc : Nat) :
    ((creditReturned s p n vc).portOf p).rxFrame = (s.portOf p).rxFrame := by rw [creditReturned_port]

theorem creditReturned_flag (s : State) (p : Port) (n vc : Nat) (f : Fld) : (creditReturned s p n vc).flag f = s.flag f := rfl

theorem creditReturned_out (s : State) (p : Port) (n vc : Nat) :
    (creditReturned s p n vc).out = s.out ++ [.credit p vc 1] := rfl

theorem creditReturned_mem (s : State) (p : Port) (n vc : Nat) : (creditReturned s p n vc).mem = s.mem := rfl

theorem run_returnCredit (n vc : Nat) (s : State) : (do
      modPort p (fun y => { y with rxSeq := n, nakked := false })
      emit (.credit p vc 1) : M Unit) s = .ok () (creditReturned s p n vc) :=
  (run_bind_ok (run_modPort_with _ _ s)).trans (run_emit _ _)

section Accepted

variable (hw : s.linksRun = true) (hmode : s.fld (F.portMode p) = 0) (hup : s.fld (F.portState p) = 4)
  (hc : f.corrected = 0) (hg : f.good = true) (ht : s.tagOk p f = true) (hk : (s.portOf p).keys ≠ []) (hn : f.nak = false)
  (hi : f.idle = false) (hb : f.vc ≠ 0 ∨ f.type.toNat ≠ 7) (hwait : (s.portOf p).wait = [])


include hw hmode hup hc hg ht hk hn hi hb hwait

/-- What follows the header of a flit that carries data: its place in the sequence. -/
theorem exec_flit_taken (h : (if (f.seq.toNat + 4096 - (s.portOf p).rxSeq) % 4096 = 0 then do
        modPort p (fun y => { y with rxSeq := ((s.portOf p).rxSeq + 1) % 4096, nakked := false })
        emit (.credit p f.vc.val 1)
      else if (f.seq.toNat + 4096 - (s.portOf p).rxSeq) % 4096 < 2048 then sendNak p
      else pure () : M Unit) (headerTaken (noneCorrected s p) p f) = .ok () t) : exec (.flit p f) s = .next t := by
  refine exec_flit_next hw hmode hup hc rfl ((congrFun (if_neg (by simp [hg])) _).trans ((congrFun (if_neg (by simp [ht])) _).trans ?_))
  refine (congrFun (if_neg fun e => hk (by simpa using e.1)) _).trans ((run_bind_ok (run_takeHeader (s := noneCorrected s p) hk hn hwait)).trans ?_)
  refine (congrFun (if_neg (by simp [hi])) _).trans ((congrFun (if_neg fun e => ?_) _).trans h)
  exact hb.elim (fun hv => hv e.1) fun hty => hty e.2

theorem exec_flit_inOrder (hs : f.seq.toNat = (s.portOf p).rxSeq) : exec (.flit p f) s = 
    .next (creditReturned (headerTaken (noneCorrected s p) p f) p (((s.portOf p).rxSeq + 1) % 4096) f.vc.val) := by
  refine exec_flit_taken hw hmode hup hc hg ht hk hn hi hb hwait ?_
  have h0 : (f.seq.toNat + 4096 - (s.portOf p).rxSeq) % 4096 = 0 := by omega
  rw [if_pos h0]
  exact run_returnCredit _ _ _

theorem exec_flit_gap (h0 : 0 < (f.seq.toNat + 4096 - (s.portOf p).rxSeq) % 4096)
    (h1 : (f.seq.toNat + 4096 - (s.portOf p).rxSeq) % 4096 < 2048) (hnak : (s.portOf p).nakked = false) :
    exec (.flit p f) s = .next (nakSent (headerTaken (noneCorrected s p) p f) p) := by
  refine exec_flit_taken hw hmode hup hc hg ht hk hn hi hb hwait ?_
  rw [if_neg (Nat.ne_of_gt h0), if_pos h1]
  exact (run_sendNak ((congrArg PortSt.nakked (headerTaken_port _ p f)).trans hnak))

end Accepted

/-! ### Flits are sent again (R424) -/

/-- The flits without an acknowledgement wait to be sent again, and the retry is counted. -/
def retried (s : State) (p : Port) (y : PortSt) : State :=
  State.bump (withPort s p { y with wait := y.retry ++ y.wait, retry := [] }) (F.linkRetry p)

theorem run_resend (s : State) : resend p s = drainPort p (retried s p (s.portOf p)) :=
  (run_bind_ok (run_modPort_with _ _ s)).trans (run_bind_ok (run_bump _ _))

theorem drainPort_ok (p : Port) (s : State) : ∃ t, drainPort p s = .ok () t := by
  obtain ⟨t, ht, -⟩ := (FlitsOnly.sendFlits (s.portOf p).wait.length).unit (FlitsOnly.refl p s)
  exact ⟨t, (run_bind_ok (run_get s)).trans ht⟩

section Again

variable (hw : s.linksRun = true) (hmode : s.fld (F.portMode p) = 0) (hup : s.fld (F.portState p) = 4)
include hw hmode hup

theorem exec_nak {seq : BitVec 12} (h : drainPort p (retried s p ((s.portOf p).acked seq.toNat)) = .ok () t) :
    exec (.nak p seq) s = .next t := by
  refine runLink_ok hw ((run_bind_ok (run_linkCarries hmode hup)).trans ((run_bind_ok (run_acknowledge _ s)).trans ?_))
  rw [run_resend, withPort_port, retried, withPort_withPort]
  exact h

theorem exec_retryTimeout (hr : (s.portOf p).retry ≠ []) (h : drainPort p (retried s p (s.portOf p)) = .ok () t) :
    exec (.retryTimeout p) s = .next t := by
  refine runLink_ok hw ((run_bind_ok (run_linkCarries hmode hup)).trans ((run_bind_ok (run_guardWait (by simpa using hr) s)).trans ?_))
  rw [run_resend]
  exact h

end Again

end Sys2Proof.Machine

namespace Sys2Proof

open Sys2Proof.Machine

/-- Settles O47: a received flit is accepted or answered with a NAK, and a NAK or a silent peer has what is not acknowledged
sent again. -/
theorem flits : Obligations.Flits := by
  unfold Obligations.Flits
  refine fun s p hw hmode hup => ⟨fun f hc => ⟨fun hg hn => ?_, fun hg ht hn => ?_, fun hg ht hk hnak hi hb hwait =>
    ⟨fun hs => ?_, fun _ h0 h1 hn => ?_⟩⟩, fun seq => ?_, fun hr => ?_⟩
  case refine_1 =>
    refine ⟨_, exec_flit_badFec hw hmode hup hc hg hn, ?_, ?_, ?_, rfl⟩
    · refine (fld_bump_same _ (f := F.fecUncorr p) (Nat.le_of_ble_eq_true rfl)).trans ?_
      rw [noneCorrected_uncorr]
    · rw [nakSent_port, bump_port, noneCorrected_port]
    · rw [nakSent_out, bump_port, noneCorrected_port, bump_out, noneCorrected_out]
  case refine_2 =>
    refine ⟨_, exec_flit_badTag hw hmode hup hc hg ht hn, ?_, fun h16 => ?_, fun h16 => ?_⟩
    · split <;> rfl
    · rw [if_neg (by omega), nakSent_port, nakSent_out, tagFailed_port, tagFailed_out]
      refine ⟨rfl, rfl, (fld_bump_same (noneCorrected s p) (f := F.linkTagFail p) (Nat.le_of_ble_eq_true rfl)).trans ?_⟩
      rw [noneCorrected_link s p (f := F.linkTagFail p) nofun]
    · rw [if_pos h16]
      exact ⟨portOff_state p _, (congrArg PortSt.retry (portOff_port p _) :)⟩
  case refine_3 =>
    have hport := creditReturned_port (headerTaken (noneCorrected s p) p f) p (((s.portOf p).rxSeq + 1) % 4096) f.vc.val
    have hhead := headerTaken_port (noneCorrected s p) p f
    rw [noneCorrected_port] at hhead
    refine ⟨_, exec_flit_inOrder hw hmode hup hc hg ht hk hnak hi hb hwait hs, ?_, ?_, ?_, fun he => ?_, ?_, ?_, ?_⟩
    · rw [hport]
    · rw [creditReturned_rxFrame, headerTaken_rxFrame, noneCorrected_port]
    · rw [hport]
    · rw [creditReturned_flag]
      exact headerTaken_keyHold (by rw [noneCorrected_port, he])
    · rw [hport, hhead]
      rfl
    · rw [creditReturned_out, headerTaken_out]
      rfl
    · rw [creditReturned_mem, headerTaken_mem]
      rfl
  case refine_4 =>
    have hhead := headerTaken_port (noneCorrected s p) p f
    rw [noneCorrected_port] at hhead
    refine ⟨_, exec_flit_gap hw hmode hup hc hg ht hk hnak hi hb hwait h0 h1 hn, ?_, ?_, ?_, ?_⟩
    · rw [nakSent_port, hhead]
      rfl
    · rw [nakSent_port]
    · rw [nakSent_out, headerTaken_out, hhead, PortSt.tookHeader_rxSeq, noneCorrected_out]
    · rw [nakSent_mem, headerTaken_mem]
      rfl
  case refine_5 =>
    obtain ⟨t, ht⟩ := drainPort_ok p (retried s p ((s.portOf p).acked seq.toNat))
    exact ⟨t, ht, exec_nak hw hmode hup ht⟩
  case refine_6 =>
    obtain ⟨t, ht⟩ := drainPort_ok p (retried s p (s.portOf p))
    exact ⟨t, ht, exec_retryTimeout hw hmode hup hr ht⟩

end Sys2Proof
end

section
/-! SUPPORT. What sending flits of a port leaves of the port's handshake (R418–R421): everything but the counters and queues of
flits. -/

namespace Sys2Proof.Machine

variable {s t u : State} {p : Port}

/-! ### A port without its flits -/

/-- What is listed for a port, without the counters and queues of its flits. -/
def PortSt.sansFlits (x : PortSt) : PortSt := { x with txFrame := 0, txSeq := 0, retry := [], wait := [], credits := [] }

/-- Nothing has been sent but flits of a port, in clear where the port had no key; beside them, the counters of the port have moved. -/
structure Sends (p : Port) (s t : State) : Prop where
  mem : t.mem = s.mem
  reg : ∀ r, r ≠ .jlPortTx p → r ≠ .jlPortStat p → t.reg r = s.reg r
  stat : ∀ lo n, lo + n ≤ 14 → t.fld ⟨.jlPortStat p, lo, n⟩ = s.fld ⟨.jlPortStat p, lo, n⟩
  port : (t.portOf p).sansFlits = (s.portOf p).sansFlits
  out : ∃ l, t.out = s.out ++ l ∧ ∀ o ∈ l, ∃ f h k, o = Out.flit p f h k ∧ ((s.portOf p).keys = [] → k = none)

namespace Sends

theorem refl (p : Port) (s : State) : Sends p s s := ⟨rfl, fun _ _ _ => rfl, fun _ _ _ => rfl, rfl, [], by simp, by simp⟩

theorem fld (h : Sends p s t) {f : Fld} (hx : f.reg ≠ .jlPortTx p) (hs : f.reg ≠ .jlPortStat p) : t.fld f = s.fld f :=
  fld_of_reg (h.reg f.reg hx hs)

theorem flag (h : Sends p s t) {f : Fld} (hx : f.reg ≠ .jlPortTx p) (hs : f.reg ≠ .jlPortStat p) : t.flag f = s.flag f :=
  congrArg (· == 1) (h.fld hx hs)

theorem keys (h : Sends p s t) : (t.portOf p).keys = (s.portOf p).keys := (congrArg PortSt.keys h.port :)
theorem keyGen (h : Sends p s t) : (t.portOf p).keyGen = (s.portOf p).keyGen := (congrArg PortSt.keyGen h.port :)
theorem rekeying (h : Sends p s t) : (t.portOf p).rekeying = (s.portOf p).rekeying := (congrArg PortSt.rekeying h.port :)
theorem eseed (h : Sends p s t) : (t.portOf p).eseed = (s.portOf p).eseed := (congrArg PortSt.eseed h.port :)
theorem peerKey (h : Sends p s t) : (t.portOf p).peerKey = (s.portOf p).peerKey := (congrArg PortSt.peerKey h.port :)
theorem sealed (h : Sends p s t) : (t.portOf p).sealed = (s.portOf p).sealed := (congrArg PortSt.sealed h.port :)
theorem encapIn (h : Sends p s t) : (t.portOf p).encapIn = (s.portOf p).encapIn := (congrArg PortSt.encapIn h.port :)

theorem fresh : Preserves (Sends p s) fresh := .fresh fun _ h => ⟨h.mem, h.reg, h.stat, h.port, h.out⟩

theorem modPort {f : PortSt → PortSt} (hf : ∀ x, (f x).sansFlits = x.sansFlits) : Preserves (Sends p s) (modPort p f) :=
  .modify fun t h => ⟨h.mem, h.reg, h.stat, (congrArg PortSt.sansFlits (withPort_port t p _)).trans ((hf _).trans h.port), h.out⟩

theorem keyHeld : Preserves (Sends p s) (putFlag (F.keyHold p) true) :=
  .modify fun t h => ⟨h.mem, fun r hx hs => (reg_setFld_other hs.symm).trans (h.reg r hx hs),
    fun lo n hlo => (fld_bits_apart t (.jlPortStat p) (Nat.le_of_ble_eq_true rfl) (.inr hlo)).trans (h.stat lo n hlo), h.port, h.out⟩

theorem counted (frame : Nat) : Preserves (Sends p s) (putFld (F.txFrames p) frame) :=
  .modify fun _ h => ⟨h.mem, fun r hx hs => (reg_setFld_other hx.symm).trans (h.reg r hx hs),
    fun lo n hlo => (fld_setFld_other (f := F.txFrames p) (g := ⟨.jlPortStat p, lo, n⟩) nofun).trans (h.stat lo n hlo), h.port, h.out⟩

theorem noteFrame (frame : Nat) : Preserves (Sends p s) (noteFrame p frame) :=
  .bind .read fun _ => .bind (modPort fun _ => rfl) fun _ => .bind (counted frame) fun _ => .ite keyHeld (.pure _)

theorem passIdle : Preserves (Sends p s) (passIdle p) :=
  .bind .read fun _ => .bind fresh fun _ => .bind (noteFrame _) fun _ => .pure _

theorem emitFlit (f : SentFlit) (h : List Byte) {k : Option Nat} (hk : (s.portOf p).keys = [] → k = none) :
    Preserves (Sends p s) (emit (.flit p f h k)) :=
  .modify fun t a => by
    obtain ⟨l, hl, hf⟩ := a.out
    refine ⟨a.mem, a.reg, a.stat, a.port, l ++ [.flit p f h k], by simp [hl], fun o ho => ?_⟩
    rcases List.mem_append.mp ho with ho | ho
    · exact hf o ho
    · exact ⟨f, h, k, List.mem_singleton.mp ho, hk⟩

theorem sendFlit (f : SentFlit) (frame : Nat) : Preserves (Sends p s) (sendFlit p f frame) :=
  .get_of fun t h => .bind (modPort fun _ => rfl) fun _ => emitFlit _ _ fun hk => by
    rw [h.keys, hk]
    rfl

theorem sendFlits (n : Nat) : Preserves (Sends p s) (sendFlits p n) := by
  induction n with
  | zero => exact .pure _
  | succ k ih =>
    unfold Machine.sendFlits
    refine .bind .read fun t => ?_
    dsimp only
    split
    · exact .pure _
    · refine .ite (.bind (sendFlit _ _) fun _ => ih) (.bind passIdle fun frame => .ite (.pure _) ?_)
      exact .bind (sendFlit _ _) fun _ => .bind (noteFrame _) fun _ => ih

theorem transmit (type : Nat) (bytes : List Byte) : Preserves (Sends p s) (transmit p type bytes) :=
  .bind (modPort fun _ => rfl) fun _ => .bind .read fun _ => sendFlits _

end Sends

/-- A LINK message goes out before the flits of its port. -/
theorem sendLink_sends (p : Port) (subtype : Nat) (bs : List Byte) (s : State) : ∃ t, sendLink p subtype bs s = .ok () t ∧
    Sends p { s with out := s.out ++ [.link p subtype bs] } t := by
  obtain ⟨t, ht, h⟩ := (Sends.transmit 11 (leBytes 1 subtype ++ bs)).unit (.refl p { s with out := s.out ++ [.link p subtype bs] })
  exact ⟨t, (run_bind_ok (run_emit _ s)).trans ht, h⟩

/-! ### Reports (R470) -/

/-- Beside TK_TIME and the count of free values, `t` is `s`. -/
structure TimeOnly (s t : State) : Prop where
  rest : t = { s with regs := t.regs, seed := t.seed }
  reg : ∀ r, r ≠ .tkTime → t.reg r = s.reg r

namespace TimeOnly

theorem refl (s : State) : TimeOnly s s := ⟨rfl, fun _ _ => rfl⟩

theorem fresh : Preserves (TimeOnly s) fresh := .fresh fun _ h => ⟨by rw [h.rest], h.reg⟩

theorem sampleTime : Preserves (TimeOnly s) sampleTime := fun t h => by
  obtain ⟨now, g, htime⟩ := sampleTime_ok t
  have hsample := sampleTime_run htime
  rw [hsample] at htime
  exact ⟨now, _, htime, by rw [h.rest]; rfl, fun r hr => (reg_setFld_other (f := F.tkTime) hr.symm).trans (h.reg r hr)⟩

theorem signedReport (purpose : Nat) (bound : List Byte) : Preserves (TimeOnly s) (signedReport purpose bound) := by
  refine .bind sampleTime fun now => .bind fresh fun r => .bind .read fun u => ?_
  dsimp only
  split
  · exact .pure _
  · exact .ite (.pure _) (.pure _)

end TimeOnly

/-! ### This side's part of a key agreement -/

/-- What is listed for a port, without its flits and what this side answers a HELLO with. -/
def PortSt.sansOwn (x : PortSt) : PortSt := { x.sansFlits with eseed := none, ownReport := 0 }

/-- Beside device time, what is sent on the port and this side's key and report, `t` is `s`. -/
structure Reports (p : Port) (s t : State) : Prop where
  mem : t.mem = s.mem
  reg : ∀ r, r ≠ .jlPortTx p → r ≠ .jlPortStat p → r ≠ .tkTime → t.reg r = s.reg r
  stat : ∀ lo n, lo + n ≤ 14 → t.fld ⟨.jlPortStat p, lo, n⟩ = s.fld ⟨.jlPortStat p, lo, n⟩
  port : (t.portOf p).sansOwn = (s.portOf p).sansOwn

namespace Reports

theorem refl (p : Port) (s : State) : Reports p s s := ⟨rfl, fun _ _ _ _ => rfl, fun _ _ _ => rfl, rfl⟩

theorem sends (h : Reports p s t) (hu : Sends p t u) : Reports p s u :=
  ⟨hu.mem.trans h.mem, fun r hx hs ht => (hu.reg r hx hs).trans (h.reg r hx hs ht), fun lo n hlo => (hu.stat lo n hlo).trans (h.stat lo n hlo),
    (congrArg (fun x : PortSt => { x with eseed := none, ownReport := 0 }) hu.port).trans h.port⟩

theorem modPort {f : PortSt → PortSt} (hf : ∀ x, (f x).sansOwn = x.sansOwn) : Preserves (Reports p s) (modPort p f) :=
  .modify fun t h => ⟨h.mem, h.reg, h.stat, (congrArg PortSt.sansOwn (withPort_port t p _)).trans ((hf _).trans h.port)⟩

theorem freshKey : Preserves (Reports p s) (freshKey p) :=
  .bind (fun t h => ⟨t.flag F.entropyFail, t, run_getFlag _ t, h⟩) fun _ => .ite (.pure _) (.bind (.fresh fun _ h => ⟨h.mem, h.reg, h.stat, h.port⟩) fun _ =>
    .bind (modPort fun _ => rfl) fun _ => .pure _)

theorem emitted (h : Reports p s t) (o : List Out) : Reports p s { t with out := o } := ⟨h.mem, h.reg, h.stat, h.port⟩

theorem timed (h : Reports p s t) (hu : TimeOnly t u) : Reports p s u := by
  have hport : u.portOf p = t.portOf p := (congrArg (fun x : State => x.portOf p) hu.rest :)
  refine ⟨(congrArg State.mem hu.rest :).trans h.mem, fun r hx hs ht => (hu.reg r ht).trans (h.reg r hx hs ht), fun lo n hlo => ?_,
    (congrArg PortSt.sansOwn hport).trans h.port⟩
  exact (fld_of_reg (f := ⟨.jlPortStat p, lo, n⟩) (hu.reg _ nofun)).trans (h.stat lo n hlo)

theorem signedReport (purpose : Nat) (bound : List Byte) : Preserves (Reports p s) (signedReport purpose bound) := fun t h => by
  obtain ⟨o, u, ho, hu⟩ := TimeOnly.signedReport purpose bound t (.refl t)
  exact ⟨o, u, ho, h.timed hu⟩

theorem sendLink (subtype : Nat) (bs : List Byte) : Preserves (Reports p s) (sendLink p subtype bs) := fun t h => by
  obtain ⟨u, hu, hs⟩ := sendLink_sends p subtype bs t
  exact ⟨(), u, hu, (h.emitted _).sends hs⟩

theorem sendReport : Preserves (Reports p s) (sendReport p) := by
  refine .bind .read fun t => ?_
  dsimp only
  split
  · refine .bind freshKey fun k => ?_
    split
    · exact .pure _
    · refine .bind (signedReport _ _) fun r => ?_
      split
      · exact .pure _
      · exact .bind (modPort fun _ => rfl) fun _ => .bind .read fun _ => sendLink _ _
  · exact .pure _

end Reports

end Sys2Proof.Machine
end

section
/-! PROOFS. Bring-up of a link and its rekeys (R418, R419, R421, R462); the obligation O46. -/

namespace Sys2Proof.Machine

variable {s t u : State} {p : Port}

/-! ### HELLO (R418) -/

/-- The peer of a HELLO is noted, and the port is ATTESTING. -/
def helloNoted (s : State) (p : Port) (device : BitVec 16) (peerPort width : BitVec 8) (nonce : List Byte) : State :=
  let u := withPort s p { s.portOf p with helloPeer := some (device.toNat, peerPort.toNat, width.toNat, nonce) }
  (((u.setFld (F.peerDevice p) device.toNat).setFld (F.peerPort p) peerPort.toNat).setFld (F.portWidth p)
    (min (s.fld (F.portWidth p)) width.toNat)).setFld (F.portState p) 3

section Hello

variable {device : BitVec 16} {peerPort width : BitVec 8} {nonce : List Byte}

theorem helloNoted_port : ((helloNoted s p device peerPort width nonce).portOf p).helloPeer
    = some (device.toNat, peerPort.toNat, width.toNat, nonce) :=
  congrArg PortSt.helloPeer (withPort_port s p _)

theorem helloNoted_state : (helloNoted s p device peerPort width nonce).fld (F.portState p) = 3 :=
  fld_bits_same _ (.jlPortStat p) (Nat.le_of_ble_eq_true rfl)

theorem helloNoted_width : (helloNoted s p device peerPort width nonce).fld (F.portWidth p)
    = min (s.fld (F.portWidth p)) width.toNat := by
  have hlt : s.fld (F.portWidth p) < 2 ^ 4 := fld_lt s _
  refine (fld_bits_apart _ (.jlPortStat p) (Nat.le_of_ble_eq_true rfl) (.inl (Nat.le_of_ble_eq_true rfl))).trans ?_
  exact (fld_bits_same _ (.jlPortStat p) (Nat.le_of_ble_eq_true rfl)).trans
    (Nat.mod_eq_of_lt (Nat.lt_of_le_of_lt (Nat.min_le_left _ _) hlt))

theorem helloNoted_device : (helloNoted s p device peerPort width nonce).fld (F.peerDevice p) = device.toNat := by
  refine (fld_setFld_other (f := F.portState p) (g := F.peerDevice p) nofun).trans ?_
  refine (fld_setFld_other (f := F.portWidth p) (g := F.peerDevice p) nofun).trans ?_
  refine (fld_bits_apart _ (.jlPortPeer p) (Nat.le_of_ble_eq_true rfl) (.inr (Nat.le_of_ble_eq_true rfl))).trans ?_
  exact (fld_bits_same _ (.jlPortPeer p) (Nat.le_of_ble_eq_true rfl)).trans (Nat.mod_eq_of_lt device.isLt)

theorem exec_hello (hw : s.linksRun = true) (hs : s.fld (F.portState p) = 2) (ht : (s.portOf p).trained = true)
    (hn : nonce.length = 32) : ∃ t, exec (.hello p device peerPort width nonce) s = .next t ∧
      Reports p (helloNoted s p device peerPort width nonce) t := by
  obtain ⟨t, hrun, hrep⟩ := Reports.sendReport.unit (.refl p (helloNoted s p device peerPort width nonce))
  refine ⟨t, runLink_ok hw ?_, hrep⟩
  refine (run_bind_ok (run_get s)).trans ((run_bind_ok (run_guardWait (by simp [hs, ht, hn]) s)).trans ?_)
  refine (run_bind_ok (run_modPort_with _ _ s)).trans ((run_bind_ok (run_putFld _ _ _)).trans ?_)
  refine (run_bind_ok (run_putFld _ _ _)).trans ((run_bind_ok (run_putFld _ _ _)).trans ?_)
  exact (run_bind_ok (run_putFld _ _ _)).trans hrun

end Hello

/-! ### A failed attestation or key agreement (R418) -/

/-- The port is DOWN, and does not begin again for 1 s. -/
def attestFailed (s : State) (p : Port) : State :=
  (withPort (portOff p s) p { (portOff p s).portOf p with retryAt := true }).setFlag (F.attestFail p) true

theorem run_attestFails (p : Port) (s : State) : attestFails p s = .ok () (attestFailed s p) :=
  (run_bind_ok (run_portDown p s)).trans ((run_bind_ok (run_modPort_with _ _ _)).trans (run_putFlag _ _ _))

theorem attestFailed_port : (attestFailed s p).portOf p = { (s.portOf p).ended with retryAt := true } := by
  rw [← portOff_port]
  exact withPort_port _ p _

theorem attestFailed_state : (attestFailed s p).fld (F.portState p) = 0 :=
  (fld_bits_apart _ (.jlPortStat p) (Nat.le_of_ble_eq_true rfl) (.inr (Nat.le_of_ble_eq_true rfl))).trans (portOff_state p s)

theorem attestFailed_flag : (attestFailed s p).flag (F.attestFail p) = true :=
  flag_setFlag_same (f := F.attestFail p) _ _ (Nat.le_of_ble_eq_true rfl) rfl

theorem attestFailed_mem : (attestFailed s p).mem = s.mem := rfl

section Attesting

variable (hw : s.linksRun = true) (hs : s.fld (F.portState p) = 3) (hk : (s.portOf p).keys = []) (hl : s.fld F.lcState = 2)

include hw hs hk hl

theorem exec_keyAgreementTimeout : exec (.keyAgreementTimeout p) s = .next (attestFailed s p) := by
  refine runLink_ok hw ((run_bind_ok (run_get s)).trans ?_)
  exact (run_bind_ok (run_guardWait (by simp [hs, hk, hl]) s)).trans (run_attestFails p s)

/-- A REPORT that is not accepted; a signature that fails is counted. -/
theorem exec_report_refused {bytes : List Byte} (hpk : (s.portOf p).peerKey = none)
    (ha : s.acceptsReport (s.portOf p) bytes = false) : exec (.report p bytes) s
      = .next (attestFailed (if (reportRoot bytes).isNone then s.bump F.sigFail else s) p) := by
  refine runLink_ok hw ((run_bind_ok (run_get s)).trans ?_)
  refine (run_bind_ok (run_guardWait (by simp [hs, hk, hl, hpk]) s)).trans ((congrFun (if_neg (by simp [ha])) _).trans ?_)
  by_cases hr : (reportRoot bytes).isNone = true
  · rw [if_pos hr, if_pos hr]
    exact (run_bind_ok (run_bump F.sigFail s)).trans (run_attestFails p (s.bump F.sigFail))
  · rw [if_neg hr, if_neg hr]
    exact run_attestFails p s

end Attesting

theorem exec_attestRetry (hw : s.linksRun = true) (hr : (s.portOf p).retryAt = true) (hm : s.mayTrain p = true) :
    exec (.attestRetry p) s = .next (State.setFld (withPort s p { s.portOf p with retryAt := false }) (F.portState p) 2) := by
  refine runLink_ok hw ((run_bind_ok (run_get s)).trans ((run_bind_ok (run_guardWait (by simp [hr, hm]) s)).trans ?_))
  exact (run_bind_ok (run_modPort_with _ _ s)).trans (run_putFld _ _ _)

/-! ### ENCAP and the keys (R419) -/

/-- This side has encapsulated, and ENCAP is the next message. -/
def sealing (s : State) (p : Port) (ss : Nat) (ct : List Byte) : State :=
  { withPort s p { s.portOf p with sealed := some (ss, ct) } with seed := s.seed + 1, out := s.out ++ [.link p 3 ct] }

theorem sealing_port (s : State) (p : Port) (ss : Nat) (ct : List Byte) :
    (sealing s p ss ct).portOf p = { s.portOf p with sealed := some (ss, ct) } := withPort_port s p _

theorem sendEncap_ok {ek : List Byte} (hk : (s.portOf p).peerKey = some ek) (he : s.flag F.entropyFail = false) :
    ∃ ss ct t, sendEncap p s = .ok () t ∧ Sends p (sealing s p ss ct) t := by
  obtain ⟨t, ht, hsend⟩ := sendLink_sends p 3 (leBytes 1088 (Config.kemCipher (leNat ek) (Config.random s.seed)))
    (withPort { s with seed := s.seed + 1 } p { s.portOf p with
      sealed := some (Config.kemSecret (leNat ek) (Config.random s.seed), leBytes 1088 (Config.kemCipher (leNat ek) (Config.random s.seed))) })
  refine ⟨_, _, t, ?_, hsend⟩
  unfold sendEncap
  rw [run_bind_ok (run_get s), hk]
  refine (congrFun (if_neg (by simp [he])) _).trans ((run_bind_ok (run_fresh s)).trans ?_)
  exact (run_bind_ok (run_modPort_with _ _ _)).trans ht

/-- While a side has not encapsulated no key is derived. -/
theorem deriveKeys_waits (h : (s.portOf p).sealed = none ∨ (s.portOf p).encapIn = none) : deriveKeys p s = .ok () s := by
  unfold deriveKeys
  rw [run_bind_ok (run_get s)]
  dsimp only
  generalize (s.portOf p).eseed = seed
  generalize (s.portOf p).peerKey = key
  rcases h with h | h
  · rw [h]
    cases seed <;> cases key <;> exact run_pure () s
  · rw [h]
    generalize (s.portOf p).sealed = z
    cases seed <;> cases key <;> cases z <;> exact run_pure () s

/-- The first keys of a link are in force at the port. -/
def firstKeys (s : State) (p : Port) (k : Nat × Nat) (id : Nat) : State :=
  (withPort s p { s.portOf p with
    keys := AMap.insert [] 0 k, keyGen := 0, rxFrame := 0, rekeying := false
    eseed := none, peerKey := none, sealed := none, encapIn := none }).setFld (F.linkId p) id

/-- Outside UP, both sides' encapsulations give the keys of generation 0. -/
theorem deriveKeys_first {seed : Nat} {pk ctIn : List Byte} {z : Nat × List Byte} (hs : s.fld (F.portState p) = 3)
    (hk : (s.portOf p).keys = []) (hseed : (s.portOf p).eseed = some seed) (hpk : (s.portOf p).peerKey = some pk)
    (hz : (s.portOf p).sealed = some z) (hin : (s.portOf p).encapIn = some ctIn) :
    ∃ k id, deriveKeys p s = noteFrame p 0 (firstKeys s p k id) := by
  obtain ⟨ss, ct⟩ := z
  have hup : decide (3 = 4) = false := rfl
  unfold deriveKeys
  rw [run_bind_ok (run_get s), hseed, hpk, hz, hin, hs]
  dsimp only
  rw [run_bind_ok (run_modPort_with _ _ s), hk, hup]
  simp only [Bool.false_eq_true, if_false, List.filter_nil]
  exact ⟨_, _, run_bind_ok (run_putFld _ _ _)⟩

theorem firstKeys_port (s : State) (p : Port) (k : Nat × Nat) (id : Nat) : (firstKeys s p k id).portOf p = { s.portOf p with
    keys := AMap.insert [] 0 k, keyGen := 0, rxFrame := 0, rekeying := false
    eseed := none, peerKey := none, sealed := none, encapIn := none } := withPort_port s p _

/-- A direction's counter stands at the first frame. -/
def frameZero (s : State) (p : Port) : State := (withPort s p { s.portOf p with txFrame := 0 }).setFld (F.txFrames p) 0

theorem frameZero_port (s : State) (p : Port) : (frameZero s p).portOf p = { s.portOf p with txFrame := 0 } := withPort_port s p _

theorem frameZero_frames (s : State) (p : Port) : (frameZero s p).fld (F.txFrames p) = 0 :=
  fld_bits_same _ (.jlPortTx p) (Nat.le_of_ble_eq_true rfl)

theorem frameEnd_pos (x : PortSt) : 0 < x.frameEnd := Nat.mul_pos (Nat.succ_pos _) (Nat.two_pow_pos 32)

/-- A generation does not end at its first frame. -/
theorem noteFrame_zero (s : State) (p : Port) : noteFrame p 0 s = .ok () (frameZero s p) := by
  refine (run_bind_ok (run_get s)).trans ((run_bind_ok (run_modPort_with _ _ s)).trans ((run_bind_ok (run_putFld _ _ _)).trans ?_))
  exact (congrFun (if_neg (Nat.ne_of_lt (frameEnd_pos (s.portOf p)))) _).trans (run_pure () _)

section Encap

variable {ct : List Byte} (hw : s.linksRun = true) (hs : s.fld (F.portState p) = 3) (hk : (s.portOf p).keys = [])
  (hl : s.fld F.lcState = 2) (hct : ct.length = 1088) (hin : (s.portOf p).encapIn = none)

/-- The peer's ciphertext is kept. -/
def encapKept (s : State) (p : Port) (ct : List Byte) : State := withPort s p { s.portOf p with encapIn := some ct }

theorem encapKept_port (s : State) (p : Port) (ct : List Byte) :
    (encapKept s p ct).portOf p = { s.portOf p with encapIn := some ct } := withPort_port s p _

include hw hs hk hl hct hin

theorem exec_encap (h : deriveKeys p (encapKept s p ct) = .ok () t) : exec (.encap p ct) s = .next t := by
  refine runLink_ok hw ((run_bind_ok (run_get s)).trans ?_)
  refine (run_bind_ok (run_guardWait (by simp [hct, hin, hs, hk, hl]) s)).trans ?_
  exact (run_bind_ok (run_modPort_with _ _ s)).trans h

theorem exec_encap_waits (hz : (s.portOf p).sealed = none) : exec (.encap p ct) s = .next (encapKept s p ct) :=
  exec_encap hw hs hk hl hct hin (deriveKeys_waits (.inl (by rw [encapKept_port, hz])))

theorem exec_encap_keys {seed : Nat} {pk : List Byte} {z : Nat × List Byte} (hseed : (s.portOf p).eseed = some seed)
    (hpk : (s.portOf p).peerKey = some pk) (hz : (s.portOf p).sealed = some z) :
    ∃ k id, exec (.encap p ct) s = .next (frameZero (firstKeys (encapKept s p ct) p k id) p) := by
  have hport := encapKept_port s p ct
  obtain ⟨k, id, hkeys⟩ := deriveKeys_first (s := encapKept s p ct) hs (by rw [hport, hk]) (by rw [hport, hseed]) (by rw [hport, hpk])
    (by rw [hport, hz]) (by rw [hport])
  exact ⟨k, id, exec_encap hw hs hk hl hct hin (hkeys.trans (noteFrame_zero _ p))⟩

end Encap

/-! ### A REPORT that is accepted (R418, R462) -/

/-- The peer's key and the digest of its report are kept. -/
def peerKept (s : State) (p : Port) (ek r : List Byte) : State :=
  withPort s p { s.portOf p with peerKey := some ek, peerReport := Config.shake512 (natBytes (r.take 512)) }

theorem peerKept_port (s : State) (p : Port) (ek r : List Byte) : (peerKept s p ek r).portOf p
    = { s.portOf p with peerKey := some ek, peerReport := Config.shake512 (natBytes (r.take 512)) } := withPort_port s p _

theorem exec_report_accepted {bytes c r ek : List Byte} (hw : s.linksRun = true) (hs : s.fld (F.portState p) = 3)
    (hk : (s.portOf p).keys = []) (hl : s.fld F.lcState = 2) (hpk : (s.portOf p).peerKey = none)
    (ha : s.acceptsReport (s.portOf p) bytes = true) (he : s.flag F.entropyFail = false) (hin : (s.portOf p).encapIn = none)
    (hparts : reportParts bytes = (c, r, ek)) :
    ∃ ss ct t, exec (.report p bytes) s = .next t ∧ Sends p (sealing (peerKept s p ek r) p ss ct) t := by
  obtain ⟨ss, ct, t, ht, hsend⟩ := sendEncap_ok (p := p) (ek := ek) (s := peerKept s p ek r) (by rw [peerKept_port]) he
  refine ⟨ss, ct, t, runLink_ok hw ?_, hsend⟩
  have hwait : (t.portOf p).encapIn = none := by rw [hsend.encapIn, sealing_port, peerKept_port, hin]
  refine (run_bind_ok (run_get s)).trans ((run_bind_ok (run_guardWait (by simp [hs, hk, hl, hpk]) s)).trans ?_)
  refine (congrFun (if_pos ha) _).trans ?_
  rw [hparts]
  exact (run_bind_ok (run_modPort_with _ _ s)).trans ((run_bind_ok ht).trans (deriveKeys_waits (.inr hwait)))

/-! ### Rekeys (R421) -/

/-- This side has a fresh key, and REKEY is the next message. -/
def rekeyBegun (s : State) (p : Port) (seed : Nat) (ek : List Byte) : State :=
  { withPort s p { s.portOf p with eseed := some seed, rekeying := true } with seed := s.seed + 1, out := s.out ++ [.link p 6 ek] }

theorem rekeyBegun_port (s : State) (p : Port) (seed : Nat) (ek : List Byte) :
    (rekeyBegun s p seed ek).portOf p = { s.portOf p with eseed := some seed, rekeying := true } := withPort_port s p _

/-- This side's fresh key is kept. -/
def ownKeyKept (s : State) (p : Port) (seed : Nat) : State :=
  withPort { s with seed := s.seed + 1 } p { s.portOf p with eseed := some seed }

theorem freshKey_ok (he : s.flag F.entropyFail = false) : ∃ ek, freshKey p s = .ok (some ek) (ownKeyKept s p (Config.random s.seed)) := by
  unfold freshKey
  rw [run_bind_ok (run_getFlag _ s), he, if_neg Bool.false_ne_true, run_bind_ok (run_fresh s), run_bind_ok (run_modPort_with _ _ _)]
  exact ⟨_, run_pure _ _⟩

theorem startRekey_ok (he : s.flag F.entropyFail = false) :
    ∃ seed ek t, startRekey p s = .ok () t ∧ Sends p (rekeyBegun s p seed ek) t := by
  obtain ⟨ek, hkey⟩ := freshKey_ok (p := p) he
  have hmod : modPort p (fun x => { x with rekeying := true }) (ownKeyKept s p (Config.random s.seed)) = .ok ⟨⟩
      (withPort { s with seed := s.seed + 1 } p { s.portOf p with eseed := some (Config.random s.seed), rekeying := true }) := by
    rw [run_modPort_with, ownKeyKept, withPort_port, withPort_withPort]
  obtain ⟨t, ht, hsend⟩ := sendLink_sends p 6 ek
    (withPort { s with seed := s.seed + 1 } p { s.portOf p with eseed := some (Config.random s.seed), rekeying := true })
  exact ⟨_, _, t, (run_bind_ok hkey).trans ((run_bind_ok hmod).trans ht), hsend⟩

theorem run_linkUp (hm : s.fld (F.portMode p) = 0) (h4 : s.fld (F.portState p) = 4) : linkUp p s = .ok (s.portOf p) s :=
  (run_bind_ok (run_get s)).trans ((run_bind_ok (run_guardWait (by simp [hm, h4]) s)).trans (run_pure _ s))

/-- The peer's next key is kept. -/
def nextKeyKept (s : State) (p : Port) (key : List Byte) : State := withPort s p { s.portOf p with peerKey := some key }

theorem nextKeyKept_port (s : State) (p : Port) (key : List Byte) :
    (nextKeyKept s p key).portOf p = { s.portOf p with peerKey := some key } := withPort_port s p _

section Rekey

variable (hw : s.linksRun = true) (hm : s.fld (F.portMode p) = 0) (h4 : s.fld (F.portState p) = 4)
  (hr : (s.portOf p).rekeying = false) (he : s.flag F.entropyFail = false)

include hw hm h4 hr he

theorem exec_rekeyThreshold (hhalf : (s.portOf p).keyGen * 2 ^ 32 + 2 ^ 31 < max (s.portOf p).txFrame (s.portOf p).rxFrame) :
    ∃ seed ek t, exec (.rekeyThreshold p) s = .next t ∧ Sends p (rekeyBegun s p seed ek) t := by
  obtain ⟨seed, ek, t, ht, hsend⟩ := startRekey_ok (p := p) he
  refine ⟨seed, ek, t, runLink_ok hw ((run_bind_ok (run_linkUp hm h4)).trans ?_), hsend⟩
  exact (run_bind_ok (run_guardWait (by rw [hr, decide_eq_true hhalf]; rfl) s)).trans ht

/-- A REKEY has this side send its own key, and ENCAP to the peer's. -/
theorem exec_rekey {key : List Byte} (hl : key.length = 1184) (hpk : (s.portOf p).peerKey = none)
    (hin : (s.portOf p).encapIn = none) : ∃ seed ek t ss ct v, exec (.rekey p key) s = .next v ∧
      Sends p (rekeyBegun s p seed ek) t ∧ Sends p (sealing (nextKeyKept t p key) p ss ct) v := by
  obtain ⟨seed, ek, t, ht, hsend⟩ := startRekey_ok (p := p) he
  have hflag : (nextKeyKept t p key).flag F.entropyFail = false := (hsend.flag (f := F.entropyFail) nofun nofun).trans he
  obtain ⟨ss, ct, v, hv, hseal⟩ := sendEncap_ok (by rw [nextKeyKept_port]) hflag
  refine ⟨seed, ek, t, ss, ct, v, runLink_ok hw ((run_bind_ok (run_linkUp hm h4)).trans ?_), hsend, hseal⟩
  refine (run_bind_ok (run_getFlag _ s)).trans ((run_bind_ok (run_guardWait (by simp [hl, hpk, he]) s)).trans ?_)
  have hwait : (v.portOf p).encapIn = none := by
    rw [hseal.encapIn, sealing_port, nextKeyKept_port]
    dsimp only
    rw [hsend.encapIn, rekeyBegun_port, hin]
  rw [hr]
  refine (run_bind_ok ht).trans ((run_bind_ok (run_modPort_with _ _ t)).trans ((run_bind_ok hv).trans ?_))
  exact deriveKeys_waits (.inr hwait)

end Rekey

/-! ### A direction that has held for 100 ms -/

/-- The port is DOWN, or begins to train again. -/
def trainsAgain (s : State) (p : Port) : State :=
  if s.mayTrain p = true then (portOff p s).setFld (F.portState p) 2 else portOff p s

theorem portOff_mayTrain (s : State) (p : Port) : (portOff p s).mayTrain p = s.mayTrain p := by
  have hreg : (portOff p s).reg (.jlPortCfg p) = s.reg (.jlPortCfg p) := portOff_reg p s nofun
  have hlc : (portOff p s).fld F.lcState = s.fld F.lcState := fld_of_reg (portOff_reg p s nofun)
  have hon : (portOff p s).flag (F.portEnable p) = s.flag (F.portEnable p) := flag_of_reg hreg
  have hmode : (portOff p s).fld (F.portMode p) = s.fld (F.portMode p) := fld_of_reg hreg
  unfold State.mayTrain
  rw [hon, hmode, hlc]
  rfl

theorem exec_keyHoldTimeout (hw : s.linksRun = true) (hh : s.flag (F.keyHold p) = true) :
    exec (.keyHoldTimeout p) s = .next (trainsAgain s p) := by
  have hidle : ((portOff p s).portOf p).retryAt = false := by rw [portOff_port]; rfl
  refine runLink_ok hw ((run_bind_ok (run_getFlag _ s)).trans ((run_bind_ok (run_guardWait hh s)).trans ?_))
  refine (run_bind_ok (run_portDown p s)).trans ((run_bind_ok (run_get _)).trans ?_)
  rw [portOff_mayTrain, hidle, portOff_state]
  unfold trainsAgain
  by_cases hm : s.mayTrain p = true
  · rw [if_pos hm]
    exact (congrFun (if_pos (by simp [hm])) _).trans (run_putFld _ _ _)
  · rw [if_neg hm]
    exact (congrFun (if_neg (by simp [hm])) _).trans (run_pure _ _)

theorem portOff_keyHold (s : State) (p : Port) : (portOff p s).flag (F.keyHold p) = false :=
  flag_setFlag_same (f := F.keyHold p) _ _ (Nat.le_of_ble_eq_true rfl) rfl

theorem trainsAgain_port (s : State) (p : Port) : (trainsAgain s p).portOf p = (portOff p s).portOf p := by
  unfold trainsAgain
  split <;> rfl

theorem trainsAgain_mem (s : State) (p : Port) : (trainsAgain s p).mem = s.mem := by
  unfold trainsAgain
  split <;> rfl

theorem trainsAgain_state (s : State) (p : Port) : (trainsAgain s p).fld (F.portState p) = if s.mayTrain p = true then 2 else 0 := by
  unfold trainsAgain
  split
  · exact fld_bits_same _ (.jlPortStat p) (Nat.le_of_ble_eq_true rfl)
  · exact portOff_state p s

theorem trainsAgain_keyHold (s : State) (p : Port) : (trainsAgain s p).flag (F.keyHold p) = false := by
  unfold trainsAgain
  split
  · exact (congrArg (· == 1) (fld_bits_apart _ (.jlPortStat p) (Nat.le_of_ble_eq_true rfl) (.inl (Nat.le_of_ble_eq_true rfl)))).trans
      (portOff_keyHold s p)
  · exact portOff_keyHold s p

end Sys2Proof.Machine

namespace Sys2Proof

open Sys2Proof.Machine

/-- Settles O46: HELLO, REPORT and ENCAP bring a link up to its first keys, or take the port DOWN; REKEY brings the next ones. -/
theorem linkBringUp : Obligations.LinkBringUp := by
  unfold Obligations.LinkBringUp
  refine ⟨fun s p hw => ⟨fun device peerPort width nonce hs ht hn => ?_, fun hs hk hl => ⟨?_, fun bytes hpk ha => ?_,
    fun bytes hpk ha he hin => ?_, fun ct hct hin => ⟨fun hz => exec_encap_waits hw hs hk hl hct hin hz,
      fun seed pk z hseed hpk hz => ?_⟩⟩, fun hr hm => exec_attestRetry hw hr hm⟩,
    fun s p hw => ⟨fun hm h4 hr he => ⟨fun hhalf => ?_, fun key hl hpk hin => ?_⟩, fun hh => ?_⟩⟩
  case refine_1 =>
    obtain ⟨t, hrun, hrep⟩ := exec_hello (device := device) (peerPort := peerPort) (width := width) hw hs ht hn
    refine ⟨t, hrun, (hrep.stat 0 3 (by decide)).trans helloNoted_state, ?_, (hrep.stat 8 4 (by decide)).trans helloNoted_width,
      (congrArg PortSt.helloPeer hrep.port :).trans helloNoted_port, hrep.mem⟩
    exact (fld_of_reg (f := F.peerDevice p) (hrep.reg _ nofun nofun nofun)).trans helloNoted_device
  case refine_2 =>
    exact ⟨_, exec_keyAgreementTimeout hw hs hk hl, attestFailed_state, by rw [attestFailed_port], attestFailed_flag,
      by rw [attestFailed_port]; rfl, attestFailed_mem⟩
  case refine_3 =>
    refine ⟨_, exec_report_refused hw hs hk hl hpk ha, attestFailed_state, by rw [attestFailed_port], attestFailed_flag,
      by rw [attestFailed_port]; rfl, attestFailed_mem.trans ?_⟩
    split <;> rfl
  case refine_4 =>
    rcases hparts : reportParts bytes with ⟨c, r, ek⟩
    obtain ⟨ss, ct, t, hrun, hsend⟩ := exec_report_accepted hw hs hk hl hpk ha he hin hparts
    have hport := sealing_port (peerKept s p ek r) p ss ct
    have hkeys : ((sealing (peerKept s p ek r) p ss ct).portOf p).keys = [] := by rw [hport, peerKept_port, hk]
    obtain ⟨flits, hout, hflits⟩ := hsend.out
    refine ⟨t, hrun, hsend.peerKey.trans ?_, ⟨ss, ct, flits, hsend.sealed.trans ?_, ?_,
      fun o ho => ?_⟩, (hsend.stat 0 3 (by decide)).trans hs, hsend.mem⟩
    · rw [hport, peerKept_port]
    · rw [hport]
    · exact hout.trans (by rw [sealing, List.append_assoc]; rfl)
    · obtain ⟨f, h, k, rfl, hnone⟩ := hflits o ho
      exact ⟨f, h, by rw [hnone hkeys]⟩
  case refine_5 =>
    obtain ⟨k, id, hrun⟩ := exec_encap_keys hw hs hk hl hct hin hseed hpk hz
    refine ⟨_, hrun, ?_, ⟨k, ?_⟩, ?_, ?_, frameZero_frames _ p, rfl⟩
    all_goals rw [frameZero_port, firstKeys_port]
    rfl
  case refine_6 =>
    obtain ⟨seed, ek, t, hrun, hsend⟩ := exec_rekeyThreshold hw hm h4 hr he hhalf
    have hport := rekeyBegun_port s p seed ek
    refine ⟨t, hrun, hsend.rekeying.trans ?_, ?_, hsend.keys.trans ?_,
      (hsend.stat 0 3 (by decide)).trans h4, hsend.mem⟩
    · rw [hport]
    · rw [hsend.eseed, hport]
      rfl
    · rw [hport]
  case refine_7 =>
    obtain ⟨seed, ek, t, ss, ct, v, hrun, hbegun, hseal⟩ := exec_rekey hw hm h4 hr he hl hpk hin
    have h1 := rekeyBegun_port s p seed ek
    have h2 := nextKeyKept_port t p key
    have h3 := sealing_port (nextKeyKept t p key) p ss ct
    refine ⟨v, hrun, hseal.rekeying.trans ?_, hseal.peerKey.trans ?_, ?_,
      hseal.keyGen.trans ?_, hseal.mem.trans hbegun.mem⟩
    · rw [h3, h2]
      exact hbegun.rekeying.trans (by rw [h1])
    · rw [h3, h2]
    · rw [hseal.sealed, h3]
      rfl
    · rw [h3, h2]
      exact hbegun.keyGen.trans (by rw [h1])
  case refine_8 =>
    exact ⟨_, exec_keyHoldTimeout hw hh, trainsAgain_state s p, by rw [trainsAgain_port, portOff_port]; rfl,
      by rw [trainsAgain_port, portOff_port]; rfl, trainsAgain_keyHold s p, trainsAgain_mem s p⟩

end Sys2Proof
end

section
/-! SUPPORT. How an access of device memory may end (R246–R268): beside the memory system, the counts of INTEGRITY and the count of
free values nothing changes, whether it succeeds or fails; and where nothing makes an access wait, none waits. -/

namespace Sys2Proof.Machine

variable {s t u : State} {α β : Type}

/-! ### What an access changes -/

/-- Beside device memory's contents, its caches, the counts of INTEGRITY and the count of free values, `t` is `s`; every zero-fill
that was queued is queued. -/
structure AccessOnly (s t : State) : Prop where
  rest : t = { s with regs := t.regs, mem := t.mem, seed := t.seed }
  reg : ∀ r, (∀ j, r ≠ .msErr j) → t.reg r = s.reg r
  mem : t.mem = { s.mem with
    bytes := t.mem.bytes, tags := t.mem.tags, dirty := t.mem.dirty, lines := t.mem.lines, eccBad := t.mem.eccBad
    tlb := t.mem.tlb, fills := t.mem.fills }
  fills : t.mem.fills.map Fill.why = s.mem.fills.map Fill.why

namespace AccessOnly

theorem refl (s : State) : AccessOnly s s := ⟨rfl, fun _ _ => rfl, rfl, rfl⟩

theorem fab (h : AccessOnly s t) : t.fab = s.fab := (congrArg State.fab h.rest :)
theorem cxl (h : AccessOnly s t) : t.cxl = s.cxl := (congrArg State.cxl h.rest :)
theorem cores (h : AccessOnly s t) : t.cores = s.cores := (congrArg State.cores h.rest :)
theorem jobs (h : AccessOnly s t) : t.jobs = s.jobs := (congrArg State.jobs h.rest :)
theorem queues (h : AccessOnly s t) : t.queues = s.queues := (congrArg State.queues h.rest :)

theorem fld (h : AccessOnly s t) {f : Fld} (hf : ∀ j, f.reg ≠ .msErr j) : t.fld f = s.fld f := fld_of_reg (h.reg f.reg hf)

theorem flag (h : AccessOnly s t) {f : Fld} (hf : ∀ j, f.reg ≠ .msErr j) : t.flag f = s.flag f := flag_of_reg (h.reg f.reg hf)

/-- What makes accesses wait is not changed by one. -/
theorem awake (h : AccessOnly s t) (ha : Awake s) : Awake t := by
  obtain ⟨hsleep, htrain, hheld⟩ := ha
  exact ⟨(congrArg MemSt.selfRefresh h.mem :).trans hsleep, (congrArg MemSt.retrain h.mem :).trans htrain,
    (congrArg CxlSt.held h.cxl).trans hheld⟩

end AccessOnly

/-- However the computation ends it has only accessed device memory, and it does not wait where nothing makes an access wait. -/
def Accesses (s : State) (m : M α) : Prop := ∀ t, AccessOnly s t →
  match m t with
  | .ok _ u => AccessOnly s u
  | .error e u => AccessOnly s u ∧ (Awake s → e ≠ .wait)

namespace Accesses

/-! ### The rules -/

theorem ok_of {m : M α} (h : Accesses s m) {a : α} (ht : AccessOnly s t) (e : m t = .ok a u) : AccessOnly s u := by
  have := h t ht
  rwa [e] at this

theorem pure (a : α) : Accesses s (pure a : M α) := fun _ h => h

theorem read : Accesses s (get : M State) := fun _ h => h

theorem throw {e : Err} (he : e ≠ .wait) : Accesses s (throw e : M α) := fun _ h => ⟨h, fun _ => he⟩

theorem modify {f : State → State} (hf : ∀ t, AccessOnly s t → AccessOnly s (f t)) : Accesses s (modify f : M PUnit) := hf

theorem bind {m : M α} {f : α → M β} (hm : Accesses s m) (hf : ∀ a, Accesses s (f a)) : Accesses s (m >>= f) := fun t ht => by
  have h := hm t ht
  cases e : m t with
  | ok a u =>
    rw [e] at h
    rw [run_bind_ok e]
    exact hf a u h
  | error x u =>
    rw [e] at h
    rw [run_bind_error e]
    exact h

/-- A computation that goes on with the state it has read may use what holds of it. -/
theorem get_bind {f : State → M β} (hf : ∀ t, AccessOnly s t → Accesses s (f t)) : Accesses s (get >>= f) := fun t ht => by
  rw [run_bind_ok (run_get t)]
  exact hf t ht t ht

theorem ite {c : Prop} [Decidable c] {x y : M α} (hx : Accesses s x) (hy : Accesses s y) : Accesses s (if c then x else y) := by
  split <;> assumption

theorem guardWait {b : Bool} (h : Awake s → b = true) : Accesses s (guardWait b) := fun t ht => by
  cases b with
  | true => exact ht
  | false => exact ⟨ht, fun ha => absurd (h ha) nofun⟩

theorem fresh : Accesses s fresh := fun _ h => ⟨by rw [h.rest], h.reg, h.mem, h.fills⟩

theorem getFld (f : Fld) : Accesses s (getFld f) := .bind .read fun _ => .pure _

theorem modMem {f : MemSt → MemSt} (hf : ∀ x : MemSt, f x = { x with
      bytes := (f x).bytes, tags := (f x).tags, dirty := (f x).dirty, lines := (f x).lines, eccBad := (f x).eccBad
      tlb := (f x).tlb, fills := (f x).fills }) (hw : ∀ x : MemSt, (f x).fills.map Fill.why = x.fills.map Fill.why) :
    Accesses s (modMem f) :=
  .modify fun t h => ⟨by rw [h.rest], h.reg, (hf t.mem).trans (by rw [h.mem]), (hw t.mem).trans h.fills⟩

theorem eachM (l : List α) {f : α → M Unit} (hf : ∀ a, Accesses s (f a)) : Accesses s (eachM l f) := by
  induction l with
  | nil => exact .pure _
  | cons a l ih => exact .bind (hf a) fun _ => ih

theorem mapM' (l : List α) {f : α → M β} (hf : ∀ a, Accesses s (f a)) : Accesses s (mapM' l f) := by
  induction l with
  | nil => exact .pure _
  | cons a l ih => exact .bind (hf a) fun _ => .bind ih fun _ => .pure _

/-- What an access comes to is looked at: where none waits, the answer is there. -/
theorem attempt_ok {m : M α} (h : Accesses s m) (ha : Awake s) (ht : AccessOnly s t) :
    ∃ r u, attempt m t = .ok r u ∧ AccessOnly s u := by
  have hm := h t ht
  cases e : m t with
  | ok a u =>
    rw [e] at hm
    exact ⟨_, u, run_attempt_ok e, hm⟩
  | error x u =>
    rw [e] at hm
    exact ⟨_, u, run_attempt_error e (hm.2 ha), hm.1⟩

/-! ### Granules -/

theorem settleFill (g : Nat) : Accesses s (Machine.modMem fun m => m.settleFill g) := by
  refine modMem (fun x => ?_) fun x => ?_
  all_goals
    unfold MemSt.settleFill
    split
  · rfl
  · rfl
  · exact List.map_map ..
  · rfl

theorem reachGranule (g : Nat) : Accesses s (reachGranule g) := by
  refine .get_bind fun t ht => .bind (.guardWait fun ha => ?_) fun _ => .bind (.guardWait fun ha => ?_) fun _ => settleFill g
  · obtain ⟨hsleep, htrain, -⟩ := ht.awake ha
    rw [hsleep, htrain]
    split <;> rfl
  · rw [(ht.awake ha).noHeld]
    rfl

theorem burstOk (g : Nat) : Accesses s (burstOk g) := by
  unfold Machine.burstOk
  refine .bind .read fun t => ?_
  split
  · split
    · exact .ite (.bind fresh fun _ => .pure _) (.pure _)
    · exact .pure _
  · exact .pure _

theorem countIntegrity (j : Stack) : Accesses s (bump (F.msIntegrity j)) :=
  .modify fun _ h => ⟨by rw [h.rest]; rfl, fun r hr => (reg_setFld_other (f := F.msIntegrity j) (hr j).symm).trans (h.reg r hr),
    h.mem, h.fills⟩

theorem integrityFault (g : Nat) : Accesses s (integrityFault g : M α) := by
  unfold Machine.integrityFault
  refine .bind .read fun t => ?_
  cases stackOf t.mem.partNow (g * 256) with
  | none => exact Accesses.throw (e := .integrity) nofun
  | some j => exact .bind (countIntegrity j) fun _ => .throw nofun

theorem poolAccess (slot g : Nat) (reads : Bool) : Accesses s (poolAccess slot g reads) := by
  refine .bind (reachGranule g) fun _ => .bind (.bind (burstOk g) fun _ => .bind .read fun _ => .pure _) fun _ =>
    .bind .read fun _ => .bind ?_ fun _ => .ite (modMem (fun _ => rfl) fun _ => rfl) (integrityFault g)
  split
  · exact .pure _
  · exact .ite (.pure _) (.bind fresh fun _ => .pure _)

theorem readDpa (slot dpa n : Nat) : Accesses s (readDpa slot dpa n) :=
  .bind (.eachM _ fun _ => poolAccess _ _ true) fun _ => .bind .read fun _ => .pure _

/-! ### Translation -/

theorem tlbLook (k : TlbKey) : Accesses s (tlbLook k) :=
  .bind .read fun _ => by
    split
    · exact .pure _
    · exact .bind fresh fun _ => .pure _

theorem cacheEntry (k : TlbKey) (e : Nat) : Accesses s (Machine.modMem fun m => { m with tlb := m.tlb.insert k e }) :=
  modMem (fun _ => rfl) fun _ => rfl

theorem walkFrom (c : Ctx) (gen va : Nat) (ls : List (Nat × Nat × Nat)) (base : Nat) : Accesses s (walkFrom c gen va ls base) := by
  induction ls generalizing base with
  | nil => exact .throw nofun
  | cons l rest ih =>
    unfold Machine.walkFrom
    refine .bind (tlbLook _) fun hit => ?_
    split
    · exact .ite (.pure _) (ih _)
    · exact .bind (.getFld _) fun _ => .bind (readDpa _ _ _) fun _ => .ite (.throw nofun) <|
        .ite (.bind .read fun _ => .ite (.bind (cacheEntry _ _) fun _ => .pure _) (.throw nofun))
          (.ite (.bind (cacheEntry _ _) fun _ => ih _) (.throw nofun))

theorem walk (c : Ctx) (va : Nat) : Accesses s (walk c va) :=
  .bind .read fun _ => .ite (.throw nofun) <| .bind (walkFrom _ _ _ _ _) fun _ => .ite (.throw nofun) (.pure _)

theorem readRecord (j : Stack) (i : CacheInst) (x : Nat) : Accesses s (readRecord j i x) :=
  .bind (.getFld _) fun _ => .bind (.bind (.getFld _) fun _ => .bind (walk _ _) fun _ => .pure _) fun _ => readDpa _ _ _

theorem translate (c : Ctx) (va : Nat) (need : Right) : Accesses s (translate c va need) := by
  unfold Machine.translate
  refine .bind .read fun t => ?_
  split
  · refine .bind (readRecord _ _ _) fun _ => ?_
    extract_lets _owner onward
    have honward : ∀ a, Accesses s (onward a) := fun _ => by
      refine .bind (walk _ _) fun _ => ?_
      split
      refine .bind .read fun u => ?_
      split
      · exact .ite (.ite (.throw nofun) (.pure _)) (.throw nofun)
      · exact .throw nofun
    split
    · exact .bind (.throw (e := .translation) nofun) honward
    · exact honward ()
  · exact .bind (walk _ _) fun _ => .ite (.pure _) (.throw nofun)

theorem translatePieces (c : Ctx) (va n : Nat) (need : Right) : Accesses s (translatePieces c va n need) :=
  .mapM' _ fun _ => .bind (translate _ _ _) fun _ => .pure _

/-! ### Reads and writes -/

theorem vaRead (c : Ctx) (va n : Nat) : Accesses s (vaRead c va n) :=
  .bind (translatePieces _ _ _ _) fun _ => .bind (.eachM _ fun _ => poolAccess _ _ _) fun _ => .bind .read fun _ => .pure _

theorem writeGranule (slot dpa : Nat) (bs : List Byte) : Accesses s (writeGranule slot dpa bs) :=
  modMem (fun _ => rfl) fun _ => rfl

theorem writePieces (ps : List (Nat × Nat × Nat)) (bs : List Byte) : Accesses s (writePieces ps bs) := by
  induction ps generalizing bs with
  | nil => exact .pure _
  | cons p ps ih => exact .bind (writeGranule _ _ _) fun _ => ih _

theorem vaWrite (c : Ctx) (va : Nat) (bs : List Byte) : Accesses s (vaWrite c va bs) :=
  .bind (translatePieces _ _ _ _) fun _ => .bind (.eachM _ fun _ => poolAccess _ _ _) fun _ => writePieces _ _

end Accesses

end Sys2Proof.Machine
end

section
/-! PROOFS. Ethernet ports and their queue pairs (R435–R439, R411); the obligation O49. -/

namespace Sys2Proof.Machine

variable {s t u v w : State} {p : Port} {qp : Fin 4096} {b data : List Byte} {psn : BitVec 24}

/-! ### Frames (R435) -/

/-- A frame leaves, or waits while its priority is paused. -/
def frameSent (t : State) (qp : Nat) (x : Port × Nat) (f : Roce) : State :=
  if t.qpPaused qp then { t with fab := { t.fab with held := t.fab.held ++ [(x.1, x.2, qp, f)] } }
  else { t with out := t.out ++ [.roce qp f] }

theorem run_sendRoce {qp : Nat} {f : Roce} {x : Port × Nat} (h : advancePsn qp f s = .ok () t) (hx : t.qpPrio qp = some x) :
    sendRoce qp f s = .ok () (frameSent t qp x f) := by
  refine (run_bind_ok h).trans ((run_bind_ok (run_get t)).trans ?_)
  rw [hx, frameSent]
  cases t.qpPaused qp with
  | true => exact run_set _ t
  | false => exact run_emit _ t

/-! ### A queue pair that is READY (R435, R437) -/

theorem access_of_vaRead {c : Ctx} {a n : Nat} (hr : vaRead c a n s = .ok b u) : AccessOnly s u :=
  (Accesses.vaRead c a n).ok_of (.refl s) hr

theorem AccessOnly.qpAddr (h : AccessOnly s t) (qp : Nat) : t.qpAddr qp = s.qpAddr qp := by
  rw [State.qpAddr, State.qpAddr, h.reg .jlQpbase nofun]

/-- The receive head of the entry is in force. -/
def headTaken (u : State) (qp head : Nat) : State := { u with fab := { u.fab with rheads := u.fab.rheads.insert qp head } }

/-- A head that has not moved is in its range. -/
theorem rheadInForce_same {qp head tail : Nat} (h : u.fab.rheads.getD qp head = head) :
    rheadInForce qp head tail u = .ok head (headTaken u qp head) := by
  have hzero : (head + 2 ^ 32 - head) % 2 ^ 32 = 0 := by rw [Nat.add_sub_cancel_left, Nat.mod_self]
  refine (run_bind_ok (run_get u)).trans ?_
  dsimp only
  rw [h, hzero, if_pos (Nat.zero_le _)]
  exact (run_bind_ok (run_set _ u)).trans (run_pure _ _)

/-- What a SEND writes: its data behind its header in the slot at the tail, and the entry's tail and expected PSN. -/
def writeSend (ring slots tail entry : Nat) (psn : BitVec 24) (data : List Byte) : M Unit := do
  vaWrite 0 (ring + 4096 * (tail % slots) + 32) data
  vaWrite 0 (ring + 4096 * (tail % slots)) (leBytes 4 data.length ++ leBytes 4 psn.toNat ++ leBytes 4 tail ++ leBytes 20 0)
  vaWrite 0 (entry + 0x50) (leBytes 4 (tail + 1))
  vaWrite 0 (entry + 0x0C) (leBytes 4 ((psn.toNat + 1) % 2 ^ 24))

section Ready

variable (hv : s.flag F.qpValid = true) (hr : vaRead 0 (s.qpAddr qp.val) 128 s = .ok b u) (hok : qpOk b = true)
  (hm : s.fld (F.portMode (qpPort b)) ≠ 0)

include hv hr hok hm in
theorem readyQp_ok : readyQp qp.val s = .ok b u := by
  refine (run_bind_ok (run_get s)).trans ((run_bind_ok (run_guardWait hv s)).trans ((run_bind_ok (run_attempt_ok hr)).trans ?_))
  exact (run_bind_ok (run_guardWait (by simp [hok, hm]) u)).trans (run_pure b u)

include hv hr hok hm in
theorem exec_send_noRing (hw : s.linksRun = true) (h0 : recField b 0x40 8 = 0) (ht : sendRoce qp.val (.ack 1) u = .ok () t) :
    exec (.send qp psn data) s = .next t :=
  runLink_ok hw ((run_bind_ok (readyQp_ok hv hr hok hm)).trans ((congrFun (if_pos h0) _).trans ht))

section Ring

variable (hw : s.linksRun = true) (h0 : recField b 0x40 8 ≠ 0)
  (hhead : s.fab.rheads.getD qp.val (recField b 0x4C 4) = recField b 0x4C 4)

include hr hhead in
theorem rheadInForce_ready : rheadInForce qp.val (recField b 0x4C 4) (recField b 0x50 4) u
    = .ok (recField b 0x4C 4) (headTaken u qp.val (recField b 0x4C 4)) :=
  rheadInForce_same (by rw [(access_of_vaRead hr).fab, hhead])

include hv hr hok hm hw h0 hhead

theorem exec_send_full (hfull : (recField b 0x50 4 + 2 ^ 32 - recField b 0x4C 4) % 2 ^ 32 = 2 ^ (recField b 0x48 1 % 32))
    (ht : sendRoce qp.val (.ack 1) (headTaken u qp.val (recField b 0x4C 4)) = .ok () t) :
    exec (.send qp psn data) s = .next t := by
  refine runLink_ok hw ((run_bind_ok (readyQp_ok hv hr hok hm)).trans ((congrFun (if_neg h0) _).trans ?_))
  exact (run_bind_ok (rheadInForce_ready hr hhead)).trans ((congrFun (if_pos hfull) _).trans ht)

theorem exec_send_ring (hroom : (recField b 0x50 4 + 2 ^ 32 - recField b 0x4C 4) % 2 ^ 32 ≠ 2 ^ (recField b 0x48 1 % 32))
    (hlen : data.length ≤ 4064)
    (hwrite : writeSend (recField b 0x40 8) (2 ^ (recField b 0x48 1 % 32)) (recField b 0x50 4) (s.qpAddr qp.val) psn data
      (headTaken u qp.val (recField b 0x4C 4)) = .ok () w)
    (ht : sendRoce qp.val (.ack 0) w = .ok () t) : exec (.send qp psn data) s = .next t := by
  have haddr : (headTaken u qp.val (recField b 0x4C 4)).qpAddr qp.val = s.qpAddr qp.val := (access_of_vaRead hr).qpAddr qp.val
  refine runLink_ok hw ((run_bind_ok (readyQp_ok hv hr hok hm)).trans ((congrFun (if_neg h0) _).trans ?_))
  refine (run_bind_ok (rheadInForce_ready hr hhead)).trans ((congrFun (if_neg hroom) _).trans ?_)
  refine (congrFun (if_neg (by omega)) _).trans ((run_bind_ok (run_get _)).trans ?_)
  rw [haddr]
  exact (run_bind_ok (run_attempt_ok hwrite)).trans ht

end Ring

/-- A retry is counted. -/
def retryCounted (s u : State) (qp : Nat) : State :=
  { u with fab := { u.fab with qpRetry := u.fab.qpRetry.insert qp (s.fab.qpRetry.getD qp 0 + 1) } }

include hv hr hok hm in
theorem exec_qpAckTimeout_retries (hw : s.linksRun = true) (hbusy : s.qpBusy qp.val = true)
    (hleft : s.fab.qpRetry.getD qp.val 0 < recField b 0x3B 1 % 8)
    (ht : sendRoce qp.val .retry (retryCounted s u qp.val) = .ok () t) : exec (.qpAckTimeout qp) s = .next t := by
  have hfab : u.fab = s.fab := (access_of_vaRead hr).fab
  refine runLink_ok hw ((run_bind_ok (run_get s)).trans ((run_bind_ok (run_guardWait hbusy s)).trans ?_))
  refine (run_bind_ok (readyQp_ok hv hr hok hm)).trans ((run_bind_ok (run_get u)).trans ?_)
  rw [← hfab] at hleft
  refine (congrFun (if_pos hleft) _).trans ((run_bind_ok (run_modify _ u)).trans ?_)
  rw [hfab]
  rw [retryCounted, hfab] at ht
  exact ht

end Ready

/-! ### Rates (R439) -/

theorem exec_congestionNotification (hw : s.linksRun = true) : exec (.congestionNotification qp) s = .next { s with
    fab := { s.fab with rates := s.fab.rates.insert qp.val (s.rateOf qp.val / 2) } } :=
  runLink_ok hw ((run_bind_ok (run_get s)).trans (run_modify _ s))

theorem exec_rateRecovery (hw : s.linksRun = true) : exec (.rateRecovery qp) s = .next { s with
    fab := { s.fab with rates := s.fab.rates.insert qp.val (min (2 ^ 64) (s.rateOf qp.val + 2 ^ 60)) } } :=
  runLink_ok hw ((run_bind_ok (run_get s)).trans (run_modify _ s))

/-! ### A queue pair fails (R376, R411) -/

theorem exec_rdmaCompletion_ok (hw : s.linksRun = true) (hbusy : s.qpBusy qp.val = true) :
    exec (.rdmaCompletion qp .ok) s = .next { s with fab := { s.fab with qpRetry := s.fab.qpRetry.erase qp.val } } :=
  runLink_ok hw ((run_bind_ok (run_get s)).trans ((run_bind_ok (run_guardWait hbusy s)).trans (run_modify _ s)))

/-- The queue pair enters ERROR, where nothing makes an access wait. -/
theorem qpError_ok (ha : Awake s) (qp : Nat) : ∃ t, qpError qp s = .ok () t ∧ AccessOnly s t := by
  obtain ⟨r, t, ht, honly⟩ := (Accesses.vaWrite 0 (s.qpAddr qp) (leBytes 1 2)).attempt_ok ha (.refl s)
  exact ⟨t, (run_bind_ok (run_get s)).trans ((run_bind_ok ht).trans (run_pure () t)), honly⟩

/-- The drains of `done` are in DRAIN_FAILED; the cores and the count of retries are those of `s`. -/
structure DrainsFail (s : State) (done : List (Ctx × JobSt)) (t : State) : Prop where
  failed : ∀ d ∈ done, t.fld (F.drainState d.1) = 5
  retries : t.fab.qpRetry = s.fab.qpRetry
  cores : t.cores = s.cores

namespace DrainsFail

variable {done : List (Ctx × JobSt)}

theorem blind (s : State) (done : List (Ctx × JobSt)) : EngineBlind (DrainsFail s done) where
  setFld f v hf h := ⟨fun d hd => (fld_setFld_other (by rintro e; rw [e] at hf; cases hf)).trans (h.failed d hd), h.retries, h.cores⟩
  engines h := ⟨h.failed, h.retries, h.cores⟩

theorem drainBytes (c : Ctx) (n : Nat) : Preserves (DrainsFail s done) (putFld (F.drainBytes c) n) :=
  .modify fun t h => by
    refine ⟨fun d hd => Eq.trans ?_ (h.failed d hd), h.retries, h.cores⟩
    by_cases hc : c = d.1
    · rw [← hc]
      exact fld_bits_apart t (.clDrain c) (Nat.le_of_ble_eq_true rfl) (.inr (Nat.le_of_ble_eq_true rfl))
    · exact fld_setFld_other (f := F.drainBytes c) (g := F.drainState d.1) fun e => hc (Reg.clDrain.inj e)

theorem drainState {d : Ctx × JobSt} (h : DrainsFail s done t) : DrainsFail s (d :: done) (t.setFld (F.drainState d.1) 5) := by
  refine ⟨fun e he => ?_, h.retries, h.cores⟩
  by_cases hc : d.1 = e.1
  · rw [← hc]
    exact fld_bits_same t (.clDrain d.1) (Nat.le_of_ble_eq_true rfl)
  · refine (fld_setFld_other (f := F.drainState d.1) (g := F.drainState e.1) fun x => hc (Reg.clDrain.inj x)).trans ?_
    exact h.failed e ((List.mem_cons.mp he).resolve_left fun x => hc (congrArg Prod.fst x).symm)

end DrainsFail

/-- The drain of a context fails: what was acknowledged is shown. -/
def failDrain (d : Ctx × JobSt) : M Unit :=
  match d.2.drain with
  | some (_, _, _, _, slot) => do
    let a ← fresh
    putFld (F.drainBytes d.1) (Config.ackedBytes a % (drainLength d.2 slot + 1))
    endOwn (.drain d.1) (fun _ => 0)
    putFld (F.drainState d.1) 5
  | none => pure ()

theorem failDrain_ok {d : Ctx × JobSt} {done : List (Ctx × JobSt)} (hd : d.2.drain.isSome = true) (h : DrainsFail s done t) :
    ∃ u, failDrain d t = .ok () u ∧ DrainsFail s (d :: done) u := by
  obtain ⟨⟨i, q, rkey, base, slot⟩, hdrain⟩ := Option.isSome_iff_exists.mp hd
  have hblind := DrainsFail.blind s done
  obtain ⟨v, hv, hpv⟩ := (DrainsFail.drainBytes d.1 (Config.ackedBytes t.seed % (drainLength d.2 slot + 1))).unit
    (hblind.engines h : DrainsFail s done { t with seed := t.seed + 1 })
  obtain ⟨w, hw, hpw⟩ := (hblind.endOwn (.drain d.1) (fun _ => 0)).unit hpv
  refine ⟨_, ?_, hpw.drainState⟩
  unfold failDrain
  rw [hdrain]
  exact (run_bind_ok (run_fresh t)).trans ((run_bind_ok hv).trans ((run_bind_ok hw).trans (run_putFld _ _ w)))

theorem failDrains_ok (l : List (Ctx × JobSt)) (hl : ∀ d ∈ l, d.2.drain.isSome = true) {done : List (Ctx × JobSt)}
    (h : DrainsFail s done t) : ∃ u, eachM l failDrain t = .ok () u ∧ DrainsFail s (l ++ done) u := by
  induction l generalizing done t with
  | nil => exact ⟨t, run_eachM_nil _ t, h⟩
  | cons d l ih =>
    obtain ⟨v, hv, hpv⟩ := failDrain_ok (hl d List.mem_cons_self) h
    obtain ⟨u, hu, hpu⟩ := ih (fun e he => hl e (List.mem_cons_of_mem d he)) hpv
    refine ⟨u, (run_bind_ok hv).trans hu, ⟨fun e he => hpu.failed e ?_, hpu.retries, hpu.cores⟩⟩
    simp only [List.mem_append, List.mem_cons] at he ⊢
    tauto

theorem drainsOn_isSome {qp : Nat} {d : Ctx × JobSt} (hd : d ∈ s.drainsOn qp) : d.2.drain.isSome = true := by
  have h := (List.mem_filter.mp hd).2
  simp only [Bool.and_eq_true, beq_iff_eq] at h
  cases hdrain : d.2.drain with
  | none =>
    rw [hdrain] at h
    exact absurd h.2 nofun
  | some x => rfl

/-- The retries of a queue pair are forgotten. -/
def retriesGone (s : State) (qp : Nat) : State := { s with fab := { s.fab with qpRetry := s.fab.qpRetry.erase qp } }

theorem exec_rdmaCompletion_failed (hw : s.linksRun = true) (hbusy : s.qpBusy qp.val = true) (ha : Awake s)
    (hsh : s.shardsOn qp.val = []) : ∃ t, exec (.rdmaCompletion qp .failed) s = .next t ∧
      (∀ d ∈ s.drainsOn qp.val, t.fld (F.drainState d.1) = 5) ∧ t.fab.qpRetry = s.fab.qpRetry.erase qp.val ∧ t.cores = s.cores := by
  obtain ⟨u, hu, honly⟩ := qpError_ok ha qp.val
  obtain ⟨t, ht, hfail⟩ := failDrains_ok (s.drainsOn qp.val) (fun d hd => drainsOn_isSome hd)
    (⟨fun _ h => absurd h List.not_mem_nil, rfl, rfl⟩ : DrainsFail (retriesGone u qp.val) [] _)
  refine ⟨t, runLink_ok hw ?_, fun d hd => hfail.failed d (List.mem_append_left _ hd), ?_, hfail.cores.trans honly.cores⟩
  · refine (run_bind_ok (run_get s)).trans ((run_bind_ok (run_guardWait hbusy s)).trans ?_)
    refine (run_bind_ok (run_get s)).trans ((run_bind_ok hu).trans ((run_bind_ok (run_modify _ u)).trans ((run_bind_ok ht).trans ?_)))
    rw [hsh]
    exact run_eachM_nil _ t
  · refine hfail.retries.trans ?_
    rw [retriesGone, honly.fab]

/-! ### Pauses (R435) -/

section Pause

variable {prio : Fin 8} (hw : s.linksRun = true) (h5 : s.fld (F.portState p) = 5)

/-- A frame that a priority of a port holds. -/
def heldBy (p : Port) (prio : Fin 8) (h : Port × Nat × Nat × Roce) : Bool := h.1 == p && h.2.1 == prio.val

theorem run_emitFrames (l : List (Port × Nat × Nat × Roce)) (s : State) :
    eachM l (fun h => emit (.roce h.2.2.1 h.2.2.2)) s = .ok () { s with out := s.out ++ l.map fun h => .roce h.2.2.1 h.2.2.2 } := by
  induction l generalizing s with
  | nil => exact (run_eachM_nil _ s).trans (by rw [List.map_nil, List.append_nil])
  | cons h l ih => exact (run_bind_ok (run_emit _ s)).trans ((ih _).trans (by rw [List.append_assoc, List.map_cons, List.singleton_append]))

/-- The frames that a priority held have left. -/
def framesReleased (s : State) (p : Port) (prio : Fin 8) : State :=
  { s with
    fab := { s.fab with held := s.fab.held.filter fun h => !heldBy p prio h }
    out := s.out ++ (s.fab.held.filter (heldBy p prio)).map fun h => .roce h.2.2.1 h.2.2.2 }

theorem run_releaseFrames (s : State) : releaseFrames p prio s = .ok () (framesReleased s p prio) := by
  refine (run_bind_ok (run_get s)).trans ?_
  rw [List.partition_eq_filter_filter]
  exact (run_bind_ok (run_set _ s)).trans (run_emitFrames _ _)

include hw h5

theorem exec_pfcPause_on : exec (.pfcPause p prio true) s = .next (withPort s p { s.portOf p with
    paused := if (s.portOf p).paused.contains prio then (s.portOf p).paused else prio :: (s.portOf p).paused }) := by
  refine runLink_ok hw ((run_bind_ok (run_getFld _ s)).trans ((run_bind_ok (run_guardWait (by simp [h5]) s)).trans ?_))
  exact (run_bind_ok (run_modPort_with _ _ s)).trans (run_pure _ _)

theorem exec_pfcPause_off : exec (.pfcPause p prio false) s
    = .next (framesReleased (withPort s p { s.portOf p with paused := (s.portOf p).paused.filter (· ≠ prio) }) p prio) := by
  refine runLink_ok hw ((run_bind_ok (run_getFld _ s)).trans ((run_bind_ok (run_guardWait (by simp [h5]) s)).trans ?_))
  exact (run_bind_ok (run_modPort_with _ _ s)).trans (run_releaseFrames _)

end Pause

/-! ### The link of a port with one sub-port (R435, R436) -/

/-- The port shows its sub-ports, its state and its width. -/
def ethShown (s : State) (p : Port) (up state width : Nat) : State :=
  ((s.setFld (F.portSubUp p) up).setFld (F.portState p) state).setFld (F.portWidth p) width

theorem ethShown_flds {up state width : Nat} (hu : up < 4) (hs : state < 8) (hwd : width < 16) :
    (ethShown s p up state width).fld (F.portState p) = state ∧ (ethShown s p up state width).fld (F.portWidth p) = width ∧
      (ethShown s p up state width).fld (F.portSubUp p) = up := by
  simp (disch := omega) only [ethShown, F.portSubUp, F.portState, F.portWidth, fld_bits_apart, fld_bits_same]
  exact ⟨Nat.mod_eq_of_lt hs, Nat.mod_eq_of_lt hwd, Nat.mod_eq_of_lt hu⟩

theorem exec_ethLinkUp (hw : s.linksRun = true) (hon : s.flag (F.portEnable p) = true) (hm : s.fld (F.portMode p) = 1)
    (hcl : pairOf p ∉ s.fab.closed) (hmove : ∀ m ∈ s.fab.moving, m.1 ≠ pairOf p) (hlc : s.fld F.lcState ≠ 4)
    (hsub : s.fld (F.portSubUp p) = 0) : exec (.ethLinkUp p 0) s = .next (ethShown s p 1 5 8) := by
  refine runLink_ok hw ((run_bind_ok (run_get s)).trans ((run_bind_ok (run_guardWait ?_ s)).trans ?_))
  · have hall : s.fab.moving.all (fun m => m.1 != pairOf p) = true := List.all_eq_true.mpr fun m h => by simpa using hmove m h
    simp [hon, hm, hcl, hall, hlc]
  · rw [hsub, hm]
    exact (run_bind_ok (run_putFld _ _ s)).trans ((run_bind_ok (run_putFld _ _ _)).trans (run_putFld _ _ _))

/-- No frame waits for a port, and no priority of it is paused. -/
def unpaused (s : State) (p : Port) : State :=
  let u := withPort s p { s.portOf p with paused := [] }
  { u with fab := { u.fab with held := u.fab.held.filter fun h => h.1 ≠ p } }

theorem unpaused_port (s : State) (p : Port) : (unpaused s p).portOf p = { s.portOf p with paused := [] } := withPort_port s p _

theorem exec_ethLinkDown (hw : s.linksRun = true) (h5 : s.fld (F.portState p) = 5) (hsub : s.fld (F.portSubUp p) = 1)
    (hm : s.fld (F.portMode p) = 1) : exec (.ethLinkDown p 0) s = .next (unpaused (ethShown s p 0 0 0) p) := by
  refine runLink_ok hw ((run_bind_ok (run_get s)).trans ((run_bind_ok (run_guardWait (by rw [h5, hsub]; rfl) s)).trans ?_))
  rw [hsub, hm]
  refine (run_bind_ok (run_putFld _ _ s)).trans ((run_bind_ok (run_putFld _ _ _)).trans ((run_bind_ok (run_putFld _ _ _)).trans ?_))
  exact (run_bind_ok (run_modPort_with _ _ _)).trans (run_modify _ _)

end Sys2Proof.Machine

namespace Sys2Proof

open Sys2Proof.Machine

/-- Settles O49: frames wait while their priority is paused, a SEND is written to the ring or turned away, a queue pair's rate and
retries follow what comes back, and the sub-ports' links give the port's state and width. -/
theorem ethernetPorts : Obligations.EthernetPorts := by
  unfold Obligations.EthernetPorts
  refine fun s p qp hw => ⟨fun f x t => run_sendRoce, fun b u hv hr hok hm psn data => ⟨fun h0 t => exec_send_noRing hv hr hok hm hw h0,
    ?_, fun hbusy hleft t => exec_qpAckTimeout_retries hv hr hok hm hw hbusy hleft⟩, exec_congestionNotification hw, exec_rateRecovery hw,
    fun hbusy => ⟨exec_rdmaCompletion_ok hw hbusy, exec_rdmaCompletion_failed hw hbusy⟩, fun prio h5 => ⟨?_, ?_⟩,
    fun hon hm hcl hmove hlc hsub => ?_, fun h5 hsub hm => ?_⟩
  case refine_1 =>
    intro slots tail h0 hhead v
    exact ⟨fun hfull t => exec_send_full hv hr hok hm hw h0 hhead hfull,
      fun hroom hlen w hwrite t => exec_send_ring hv hr hok hm hw h0 hhead hroom hlen hwrite⟩
  case refine_2 =>
    refine ⟨_, exec_pfcPause_on hw h5, ?_, rfl, rfl⟩
    rw [withPort_port]
    dsimp only
    split
    next hc => simpa using hc
    next => exact List.mem_cons_self
  case refine_3 =>
    refine ⟨_, exec_pfcPause_off hw h5, ?_, rfl, rfl, rfl, rfl⟩
    have hport : (framesReleased (withPort s p { s.portOf p with paused := (s.portOf p).paused.filter (· ≠ prio) }) p prio).portOf p
        = { s.portOf p with paused := (s.portOf p).paused.filter (· ≠ prio) } := withPort_port s p _
    rw [hport]
    simp
  case refine_4 =>
    obtain ⟨hstate, hwidth, hup⟩ := ethShown_flds (s := s) (p := p) (up := 1) (state := 5) (width := 8) (by decide) (by decide) (by decide)
    exact ⟨_, exec_ethLinkUp hw hon hm hcl hmove hlc hsub, hstate, hwidth, hup, rfl, rfl⟩
  case refine_5 =>
    obtain ⟨hstate, hwidth, hup⟩ := ethShown_flds (s := s) (p := p) (up := 0) (state := 0) (width := 0) (by decide) (by decide) (by decide)
    exact ⟨_, exec_ethLinkDown hw h5 hsub hm, hstate, hwidth, hup, by rw [unpaused_port], rfl⟩

end Sys2Proof
end

section
/-! PROOFS. The registry and the sets (R462, R467, R473, R474). -/

namespace Sys2Proof.Machine

variable {s t u v w : State} {q : QIdx} {x : Cmd} {k : Fin 16}

theorem run_modSec (f : SecSt → SecSt) (s : State) : modSec f s = .ok ⟨⟩ { s with sec := f s.sec } := run_modify _ s

theorem run_seFree (h : s.sec.lcJob = none) : seFree s = .ok () s :=
  (run_bind_ok (run_get s)).trans (run_guardCode (by rw [h]; rfl) _ _ s)

/-- The command ends where nothing that names it has changed. -/
theorem run_endSys_of (h : SysStarted s q op x) (hq : t.queues = s.queues) (hg : t.fld (F.qGen 0 q) = s.fld (F.qGen 0 q)) (st fault : Nat) :
    endSys (s.sysRef q x.idx) st fault t = .ok () (setCmd t 0 q x.idx (ends st fault)) :=
  run_endSys hg ((cmdOf_congr hq).trans h.named) h.open' st fault

theorem ended_of_started (h : SysStarted s q op x) (hq : t.queues = s.queues) (st fault : Nat) :
    ended (setCmd t 0 q x.idx (ends st fault)) 0 q x.idx ⟨st, fault, none⟩ := ended_ends ((cmdOf_congr hq).trans h.named) st fault

/-! ### SE_REGISTER (R467) -/

/-- The bits of the slots that a condition picks: bit k stands for slot k. -/
theorem testBit_sum_filter (n : Nat) (b : Fin n → Bool) (k : Fin n) :
    ((((List.finRange n).filter b).map fun i : Fin n => 2 ^ i.val).sum).testBit k.val = b k := by
  induction n with
  | zero => exact k.elim0
  | succ n ih =>
    let rest := (((List.finRange n).filter (b ∘ Fin.succ)).map fun i : Fin n => 2 ^ i.val).sum
    have hsum : (((List.finRange (n + 1)).filter b).map fun i : Fin (n + 1) => 2 ^ i.val).sum = 2 * rest + (b 0).toNat := by
      have htail : ((((List.finRange n).map Fin.succ).filter b).map fun i : Fin (n + 1) => 2 ^ i.val).sum = 2 * rest := by
        rw [List.filter_map, List.map_map, ← List.sum_map_mul_left]
        exact congrArg List.sum (List.map_congr_left fun i _ => by simp [Nat.pow_succ, Nat.mul_comm])
      rw [List.finRange_succ, List.filter_cons]
      cases b 0 with
      | true => rw [if_pos rfl, List.map_cons, List.sum_cons, htail]; simp [Nat.add_comm]
      | false => rw [if_neg (by simp), htail]; rfl
    rw [hsum]
    cases k using Fin.cases with
    | zero => cases b 0 <;> simp
    | succ i =>
      rw [Fin.val_succ, Nat.testBit_succ]
      have hdiv : (2 * rest + (b 0).toNat) / 2 = rest := by
        have := Bool.toNat_lt (b 0)
        omega
      rw [hdiv]
      exact ih (b ∘ Fin.succ) i

/-- The registry's slots in use are shown. -/
def registryShown (s : State) (r : AMap (Fin 32) (Nat × Nat)) : State :=
  let u := { s with sec := { s.sec with registry := r } }
  u.setFld F.regUsed (((List.finRange 32).filter (fun k => (r.find? k).isSome)).map (fun k => 2 ^ k.val)).sum

theorem registryShown_used (s : State) (r : AMap (Fin 32) (Nat × Nat)) (k : Fin 32) :
    bitOf ((registryShown s r).fld F.regUsed) k.val = (r.find? k).isSome := by
  have hk := k.isLt
  rw [bitOf_eq_testBit, registryShown, F.regUsed, fld_bits_same _ _ (by decide), Nat.testBit_mod_two_pow, testBit_sum_filter]
  simp [hk]

/-- What the registry holds after SE_REGISTER of a slot. -/
def registered (s : State) (x : Cmd) (k : Fin 32) : AMap (Fin 32) (Nat × Nat) :=
  if recField x.body 3 1 = 0 then s.sec.registry.erase k else s.sec.registry.insert k (recField x.body 3 1, recField x.body 8 32)

theorem registered_same (s : State) (x : Cmd) (k : Fin 32) : (registered s x k).find? k
    = if recField x.body 3 1 = 0 then none else some (recField x.body 3 1, recField x.body 8 32) := by
  unfold registered
  split
  · exact AMap.find?_erase_same _ _
  · exact AMap.find?_insert_same _ _ _

theorem registered_other (s : State) (x : Cmd) {k j : Fin 32} (h : j ≠ k) : (registered s x k).find? j = s.sec.registry.find? j := by
  unfold registered
  split
  · exact AMap.find?_erase_other h.symm
  · exact AMap.find?_insert_other h.symm

theorem exec_seRegister {k : Fin 32} (hlc : s.sec.lcJob = none) (h : SysStarted s q 0x30 x) (hk : recField x.body 2 1 = k.val)
    (hclass : recField x.body 3 1 ≤ 3) (h4 : recField x.body 4 4 = 0) (hz : zeroFrom x.body 0x28 = true) :
    exec (.seRegister q) s = .next (setCmd (registryShown s (registered s x k)) 0 q x.idx (ends 0 0)) := by
  refine exec_system h rfl ?_
  refine (run_bind_ok (run_orErr (finOf_val k hk) _ s)).trans ?_
  refine (run_bind_ok (run_guardCode (by simp [hclass, h4, hz]) _ _ s)).trans ((run_bind_ok (run_seFree hlc)).trans ?_)
  refine (run_bind_ok (run_modSec _ s)).trans ((run_bind_ok (run_modify _ _)).trans ((run_bind_ok (run_get _)).trans ?_))
  exact run_endSys (s := registryShown s (registered s x k)) rfl h.named h.open' 0 0

/-! ### Sets (R473, R474) -/

/-- The sets held and in use are shown. -/
theorem refreshSets_ok (s : State) : ∃ a b, refreshSets s = .ok ⟨⟩ ((s.setFld F.setsHeld a).setFld F.setsInUse b) :=
  ⟨_, _, run_modify _ s⟩

/-- The sets of the module are shown, the identifier of slot `k` among them. -/
def setsShown (s : State) (sets : AMap (Fin 16) (Nat × Nat)) (k : Fin 16) (lo hi a b : Nat) : State :=
  ((((State.setFld { s with sec := { s.sec with sets := sets } } (F.setId0 k) lo).setFld (F.setId1 k) hi).setFld F.setsHeld a).setFld
    F.setsInUse b)

section Shown

variable {sets : AMap (Fin 16) (Nat × Nat)} {lo hi a b : Nat}

theorem setsShown_reg {r : Reg} (h : r ≠ .seSetId0 k ∧ r ≠ .seSetId1 k ∧ r ≠ .seSets) :
    (setsShown s sets k lo hi a b).reg r = s.reg r := by
  obtain ⟨h0, h1, hs⟩ := h
  refine (reg_setFld_other (f := F.setsInUse) hs.symm).trans ((reg_setFld_other (f := F.setsHeld) hs.symm).trans ?_)
  exact (reg_setFld_other (f := F.setId1 k) h1.symm).trans (reg_setFld_other (f := F.setId0 k) h0.symm)

theorem setsShown_gen (q : QIdx) : (setsShown s sets k lo hi a b).fld (F.qGen 0 q) = s.fld (F.qGen 0 q) :=
  fld_of_reg (setsShown_reg (r := (F.qGen 0 q).reg) ⟨nofun, nofun, nofun⟩)

theorem setsShown_queues : (setsShown s sets k lo hi a b).queues = s.queues := rfl

theorem setsShown_id0 : (setsShown s sets k lo hi a b).fld (F.setId0 k) = lo % 2 ^ 64 := by
  refine (fld_setFld_other (f := F.setsInUse) (g := F.setId0 k) nofun).trans ?_
  refine (fld_setFld_other (f := F.setsHeld) (g := F.setId0 k) nofun).trans ?_
  refine (fld_setFld_other (f := F.setId1 k) (g := F.setId0 k) nofun).trans ?_
  exact fld_bits_same _ (.seSetId0 k) (Nat.le_of_ble_eq_true rfl)

theorem setsShown_id1 : (setsShown s sets k lo hi a b).fld (F.setId1 k) = hi % 2 ^ 64 := by
  refine (fld_setFld_other (f := F.setsInUse) (g := F.setId1 k) nofun).trans ?_
  refine (fld_setFld_other (f := F.setsHeld) (g := F.setId1 k) nofun).trans ?_
  exact fld_bits_same _ (.seSetId1 k) (Nat.le_of_ble_eq_true rfl)

theorem run_showSets (k : Fin 16) (lo hi : Nat) (rest : M Unit) (f : SecSt → SecSt) (hf : f s.sec = { s.sec with sets := sets }) :
    ∃ a b, (do
      modSec f
      putFld (F.setId0 k) lo
      putFld (F.setId1 k) hi
      refreshSets
      rest) s = rest (setsShown s sets k lo hi a b) := by
  obtain ⟨a, b, hshow⟩ := refreshSets_ok
    ((State.setFld { s with sec := { s.sec with sets := sets } } (F.setId0 k) lo).setFld (F.setId1 k) hi)
  refine ⟨a, b, (run_bind_ok (run_modSec f s)).trans ?_⟩
  rw [hf]
  exact (run_bind_ok (run_putFld _ _ _)).trans ((run_bind_ok (run_putFld _ _ _)).trans (run_bind_ok hshow))

end Shown

/-- The set of a join takes its slot, and the command ends. -/
theorem joinSet_ok {setId key : Nat} (h : SysStarted s q op x) (hj : joinChecks x s = .ok (k, setId, key) u)
    (hq : u.queues = s.queues) (hg : u.fld (F.qGen 0 q) = s.fld (F.qGen 0 q)) : ∃ a b, joinSet (s.sysRef q x.idx) x s = .ok ()
      (setCmd (setsShown u (u.sec.sets.insert k (setId, key)) k (setId % 2 ^ 64) (setId / 2 ^ 64) a b) 0 q x.idx (ends 0 0)) := by
  generalize hlo : setId % 2 ^ 64 = lo
  generalize hhi : setId / 2 ^ 64 = hi
  obtain ⟨a, b, hrun⟩ := run_showSets (s := u) (sets := u.sec.sets.insert k (setId, key)) k lo hi (endSys (s.sysRef q x.idx) 0 0)
    (fun y => { y with sets := y.sets.insert k (setId, key) }) rfl
  refine ⟨a, b, (run_bind_ok hj).trans ?_⟩
  dsimp only
  rw [hlo, hhi]
  exact hrun.trans (run_endSys_of h (setsShown_queues.trans hq) ((setsShown_gen q).trans hg) 0 0)

theorem exec_seSetJoin {setId key : Nat} (h : SysStarted s q 0x31 x) (he : s.flag F.entropyFail = false)
    (hj : joinChecks x s = .ok (k, setId, key) u) (hq : u.queues = s.queues) (hg : u.fld (F.qGen 0 q) = s.fld (F.qGen 0 q)) :
    ∃ a b, exec (.seSetJoin q) s = .next
      (setCmd (setsShown u (u.sec.sets.insert k (setId, key)) k (setId % 2 ^ 64) (setId / 2 ^ 64) a b) 0 q x.idx (ends 0 0)) := by
  obtain ⟨a, b, hrun⟩ := joinSet_ok h hj hq hg
  refine ⟨a, b, exec_system h rfl ((run_bind_ok (run_get s)).trans ((run_bind_ok (run_getFlag _ s)).trans ?_))⟩
  rw [he]
  exact (congrFun (if_neg Bool.false_ne_true) _).trans hrun

/-- A join that waits for entropy. -/
def joinWaiting (s u : State) (q : QIdx) (x : Cmd) : State :=
  let t := setCmd u 0 q x.idx (fun y => { y with phase := .running })
  { t with sec := { t.sec with joinWait := t.sec.joinWait ++ [(s.sysRef q x.idx, 0)] } }

theorem exec_seSetJoin_waits {r : Fin 16 × Nat × Nat} (h : SysStarted s q 0x31 x) (he : s.flag F.entropyFail = true)
    (hj : joinChecks x s = .ok r u) : exec (.seSetJoin q) s = .next (joinWaiting s u q x) := by
  refine exec_system h rfl ((run_bind_ok (run_get s)).trans ((run_bind_ok (run_getFlag _ s)).trans ?_))
  rw [he]
  refine (congrFun (if_pos rfl) _).trans ((run_bind_ok hj).trans ?_)
  exact (run_bind_ok (run_modCmd _ _ _ _ u)).trans (run_modSec _ _)

theorem exec_seSetLeave (hlc : s.sec.lcJob = none) (h : SysStarted s q 0x32 x) (hk : recField x.body 2 1 = k.val)
    (hz : zeroFrom x.body 3 = true) (hb : ∀ p, s.sec.sets.find? k = some p → s.setBusy p.1 = false) : ∃ a b,
    exec (.seSetLeave q) s = .next (setCmd (setsShown s (s.sec.sets.erase k) k 0 0 a b) 0 q x.idx (ends 0 0)) := by
  have hidle : (s.sec.sets.find? k).any (fun p => s.setBusy p.1) = false := by
    cases hp : s.sec.sets.find? k with
    | none => rfl
    | some p => exact hb p hp
  obtain ⟨a, b, hrun⟩ := run_showSets (s := s) (sets := s.sec.sets.erase k) k 0 0 (endSys (s.sysRef q x.idx) 0 0)
    (fun y => { y with sets := y.sets.erase k }) rfl
  refine ⟨a, b, exec_system h rfl ((run_bind_ok (run_orErr (finOf_val k hk) _ s)).trans ?_)⟩
  refine (run_bind_ok (run_guardCode hz _ _ s)).trans ((run_bind_ok (run_get s)).trans ?_)
  refine (run_bind_ok (run_guardCode (by rw [hidle]; rfl) _ _ s)).trans ((run_bind_ok (run_seFree hlc)).trans (hrun.trans ?_))
  exact run_endSys_of h setsShown_queues (setsShown_gen q) 0 0

end Sys2Proof.Machine
end

section
/-! PROOFS. Attestation, the life cycle and the source of entropy (R462, R470–R472, R480–R483); the obligation O51. -/

namespace Sys2Proof.Machine

variable {s t u v w : State} {q : QIdx} {x : Cmd} {h : HandleObj}

/-! ### Reports (R470–R472) -/

theorem run_seObject {o right n : Nat} (hh : x.handleAt o = some h) (hk : h.kind = 1) (hr : bitOf h.rights right = true)
    (hn : n ≤ h.size) (s : State) : seObject x o right n s = .ok h s := by
  refine (run_bind_ok (run_orErr hh _ s)).trans ((run_bind_ok (run_guardCode ?_ _ _ s)).trans (run_pure h s))
  rw [hk, hr, decide_eq_true hn]
  rfl

/-- A report looks at device time and takes a free value; beside them nothing changes. -/
theorem timeOnly_of_signedReport {purpose : Nat} {bound : List Byte} {r : Option (List Byte)} (hr : signedReport purpose bound s = .ok r v) :
    TimeOnly s v :=
  Retains.of_preserves (TimeOnly.signedReport purpose bound) s r v (.refl s) hr

theorem exec_seAttest {r : List Byte} (hx : SysStarted s q 0x33 x) (hlc : s.sec.lcJob = none) (hb : recField x.body 2 2 = 0)
    (hz : zeroFrom x.body 0x28 = true) (hh : x.handleAt 4 = some h) (hk : h.kind = 1) (hr : bitOf h.rights 1 = true)
    (hn : (reportDelivery s (leBytes 3840 0)).length ≤ h.size) (hsign : signedReport 3 ((x.body.drop 8).take 32) s = .ok (some r) v)
    (hwrite : vaWrite 0 h.address (reportDelivery v r) v = .ok () w) (hw : onlyMem v w) :
    exec (.seAttest q) s = .next (setCmd w 0 q x.idx (ends 0 0)) := by
  have htime := timeOnly_of_signedReport hsign
  have hqueues : w.queues = s.queues := (congrArg State.queues hw :).trans (congrArg State.queues htime.rest :)
  have hgen : w.fld (F.qGen 0 q) = s.fld (F.qGen 0 q) :=
    (fld_congr (congrArg State.regs hw :) _).trans (fld_of_reg (f := F.qGen 0 q) (htime.reg (F.qGen 0 q).reg nofun))
  refine exec_system hx rfl ?_
  refine (run_bind_ok (run_guardCode (by simp [hb, hz]) _ _ s)).trans ((run_bind_ok (run_get s)).trans ?_)
  refine (run_bind_ok (run_seObject hh hk hr hn s)).trans ((run_bind_ok (run_seFree hlc)).trans ((run_bind_ok hsign).trans ?_))
  refine (run_bind_ok (run_get v)).trans ((run_bind_ok (run_readAs hwrite _)).trans ((run_bind_ok (run_get w)).trans ?_))
  rw [State.sysRef, hgen]
  exact run_endSys_of hx hqueues hgen 0 0

/-- What ATTEST answers over the mailbox. -/
def attestAnswer (v : State) (r : Option (List Byte)) : List Byte :=
  match r with
  | some r => reportDelivery v r
  | none => leBytes 4 0xFFFFFFFF

theorem exec_attest {nonce : List Byte} {r : Option (List Byte)} (hn : nonce.length = 32) (hu : s.unstopped = true)
    (hpow : s.pow.powered = true) (hp : s.pins.perst = false) (h0 : s.fld F.bootStage ≠ 0) (h15 : s.fld F.bootStage ≠ 15)
    (hsign : signedReport 1 nonce s = .ok r v) :
    exec (.attest nonce) s = .next { v with out := v.out ++ [.doe (attestAnswer v r)] } := by
  refine runAny_ok (a := ()) ((run_bind_ok (run_get s)).trans ?_)
  refine (run_bind_ok (run_guardWait (by simp [hn, hu, hpow, hp, h0, h15]) s)).trans ((run_bind_ok hsign).trans ?_)
  cases r with
  | none => exact run_emit _ v
  | some r => exact (run_bind_ok (run_get v)).trans (run_emit _ v)

/-! ### The life cycle (R480–R483) -/

/-- The transition runs. -/
def lcRunning (u : State) (q : QIdx) (x : Cmd) (j : LcJob) : State :=
  setCmd (State.setFlag { u with sec := { u.sec with lcJob := some j } } F.lcBusy true) 0 q x.idx (fun y => { y with phase := .running })

theorem lcRunning_busy (u : State) (q : QIdx) (x : Cmd) (j : LcJob) : (lcRunning u q x j).flag F.lcBusy = true :=
  flag_setFlag_same (f := F.lcBusy) _ _ (by decide) rfl

theorem lcRunning_state (u : State) (q : QIdx) (x : Cmd) (j : LcJob) : (lcRunning u q x j).fld F.lcState = u.fld F.lcState :=
  fld_bits_apart _ .seLc (by decide) (by decide)

theorem exec_seLc_starts {j : LcJob} (hx : SysStarted s q 0x34 x) (hlc : s.sec.lcJob = none) (hc : lcChecks q x s = .ok j u) :
    exec (.seLc q) s = .next (lcRunning u q x j) := by
  refine run_next hx.works (u := ()) ((run_bind_ok (run_get s)).trans ?_)
  rw [hlc]
  refine (run_bind_ok (run_sysStarted hx)).trans ((run_bind_ok (run_get s)).trans ?_)
  refine run_bind_ok (run_attempt_ok (a := ()) ((run_bind_ok hc).trans ?_))
  exact (run_bind_ok (run_modSec _ u)).trans ((run_bind_ok (run_putFlag _ _ _)).trans (run_modCmd _ _ _ _ _))

/-- The OTP writes of a transition are done. -/
def lcWritten (s : State) (j : LcJob) : State := { s with sec := s.sec.transition j }

/-- A transition whose command is gone ends: the module restarts in the new state. -/
theorem exec_seLc_ends {j : LcJob} (hw : s.works = true) (hj : s.sec.lcJob = some j) (hq : j.q.1 = q) (hx : s.sysCmd j.q = none) :
    exec (.seLc q) s = .next (lcWritten s j).restart := by
  have hgone : (lcWritten s j).sysCmd j.q = none := hx
  refine run_next hw (u := ()) ((run_bind_ok (run_get s)).trans ?_)
  rw [hj]
  refine (run_bind_ok (run_guardWait (by simp [hq]) s)).trans ((run_bind_ok (run_modSec _ s)).trans ?_)
  refine (run_bind_ok (run_get (lcWritten s j))).trans ?_
  rw [hgone]
  exact run_modify State.restart (lcWritten s j)

/-! ### The source of entropy (R462) -/

theorem resumeCreate_none {c : Ctx} (h : ∀ r n, (s.ctxs.getD c .absent).phase ≠ .creating r n) : resumeCreate c s = .ok () s := by
  refine (run_bind_ok (run_get s)).trans ?_
  cases hp : (s.ctxs.getD c .absent).phase with
  | creating r n => exact absurd hp (h r n)
  | _ => exact run_pure () s

theorem resumeCreates_none (h : ∀ c r n, (s.ctxs.getD c .absent).phase ≠ .creating r n) :
    eachM (List.finRange 1025) resumeCreate s = .ok () s := by
  obtain ⟨t, ht, rfl⟩ := eachM_ok (P := (· = s)) (s := s) (List.finRange 1025) (f := resumeCreate)
    (fun c _ t ht => ⟨s, by rw [ht]; exact resumeCreate_none (h c), rfl⟩) rfl
  exact ht

theorem resumeKeys_none (h : ∀ p, s.fld (F.portState p) ≠ 3) : resumeKeys s = .ok () s := by
  obtain ⟨t, ht, rfl⟩ := eachM_ok (P := (· = s)) (s := s) (List.finRange 16) (f := fun p => do
      let s ← get
      let x := s.portOf p
      if s.fld (F.portState p) = 3 ∧ x.keys.isEmpty then do
        if x.eseed.isNone then sendReport p else pure ()
        if x.peerKey.isSome ∧ x.sealed.isNone then do
          sendEncap p
          deriveKeys p
        else pure ()
      else pure ())
    (fun p _ t ht => ⟨s, by
      rw [ht, run_bind_ok (run_get s)]
      exact (congrFun (if_neg fun e => h p e.1) _).trans (run_pure _ s), rfl⟩) rfl
  exact ht

/-- The rekey that waited is done. -/
def entropyBack (s : State) (slot : Nat) : State :=
  { s.setFlag F.entropyFail false with mem := s.mem.rekeySlot slot, sec := { s.sec with joinWait := [], rekeyWait := [] } }

theorem exec_entropyRecovery {slot : Nat} (hf : s.flag F.entropyFail = true)
    (hc : ∀ c r n, (s.ctxs.getD c .absent).phase ≠ .creating r n) (hj : s.sec.joinWait = []) (hr : s.sec.rekeyWait = [slot])
    (hp : ∀ p, s.fld (F.portState p) ≠ 3) : exec .entropyRecovery s = .next (entropyBack s slot) := by
  have hports : ∀ p, (entropyBack s slot).fld (F.portState p) ≠ 3 := fun p => by
    have hkeep : (entropyBack s slot).fld (F.portState p) = s.fld (F.portState p) :=
      fld_setFlag_other (f := F.entropyFail) (g := F.portState p) nofun
    rw [hkeep]
    exact hp p
  refine runAny_ok (a := ()) ((run_bind_ok (run_getFlag _ s)).trans ((run_bind_ok (run_guardWait hf s)).trans ?_))
  refine (run_bind_ok (run_putFlag _ _ s)).trans ((run_bind_ok (resumeCreates_none (s := s.setFlag F.entropyFail false) hc)).trans ?_)
  refine (run_bind_ok (run_get _)).trans ((run_bind_ok (run_modSec _ _)).trans ?_)
  have hwaits : (s.setFlag F.entropyFail false).sec.joinWait = [] := hj
  rw [hwaits]
  refine (run_bind_ok (run_eachM_nil _ _)).trans ((run_bind_ok (run_get _)).trans ((run_bind_ok (run_modSec _ _)).trans ?_))
  have hslots : (s.setFlag F.entropyFail false).sec.rekeyWait = [slot] := hr
  rw [hslots]
  exact (run_bind_ok (run_eachM_one (run_modMem _ _))).trans (resumeKeys_none hports)

end Sys2Proof.Machine

namespace Sys2Proof

open Sys2Proof.Machine

/-- Settles O51: the registry, the sets and attestation do as their commands say, SE_LC runs and restarts the module in the new
state, and what waited for entropy goes on. -/
theorem security : Obligations.Security := by
  unfold Obligations.Security
  refine ⟨fun s q x hlc => ⟨fun k hx hk hclass h4 hz => ?_, fun k setId key u hx hj hu => ⟨fun he => ?_, fun he => ?_⟩,
    fun k hx hk hz hb => ?_⟩, fun s q x => ⟨fun h r v w hx hlc hb hz hh hk hr hn hsign hwrite hw => ?_,
    fun nonce hn hu hpow hp h0 h15 r v hsign => ?_, fun j u hx hlc hc hu => ?_, fun j hw hj hq hgone ht => ?_,
    runAny_ok (run_putFlag _ _ s), fun slot hf hc hj hr hp => ?_⟩⟩
  case refine_1 =>
    refine ⟨_, exec_seRegister hlc hx hk hclass h4 hz, ended_of_started hx rfl 0 0, registered_same s x k,
      fun j hj => registered_other s x hj, (registryShown_used s _ k).trans ?_, rfl, rfl⟩
    rw [registered_same]
    by_cases h0 : recField x.body 3 1 = 0 <;> simp [h0]
  case refine_2 =>
    obtain ⟨a, b, hrun⟩ := exec_seSetJoin hx he hj (congrArg State.queues hu :) (fld_congr (congrArg State.regs hu :) _)
    refine ⟨_, hrun, ended_of_started hx (congrArg State.queues hu :) 0 0, AMap.find?_insert_same _ _ _, setsShown_id0.trans (Nat.mod_mod _ _),
      setsShown_id1, rfl, (congrArg State.cores hu :)⟩
  case refine_3 =>
    have hcmd : u.cmdOf 0 q x.idx = some x := (cmdOf_congr (congrArg State.queues hu :)).trans hx.named
    refine ⟨_, exec_seSetJoin_waits hx he hj, cmdOf_setCmd_same hcmd fun _ => rfl, (congrArg (fun t : State => t.sec.sets) hu :), ?_, rfl⟩
    exact congrArg (· ++ [(s.sysRef q x.idx, 0)]) (congrArg (fun t : State => t.sec.joinWait) hu :)
  case refine_4 =>
    obtain ⟨a, b, hrun⟩ := exec_seSetLeave hlc hx hk hz hb
    exact ⟨_, hrun, ended_of_started hx rfl 0 0, AMap.find?_erase_same _ _, fun j hj => AMap.find?_erase_other hj.symm,
      setsShown_id0, setsShown_id1, rfl, rfl⟩
  case refine_5 =>
    have htime := timeOnly_of_signedReport hsign
    have hqueues : w.queues = s.queues := (congrArg State.queues hw :).trans (congrArg State.queues htime.rest :)
    exact ⟨_, exec_seAttest hx hlc hb hz hh hk hr hn hsign hwrite hw, ended_of_started hx hqueues 0 0, rfl,
      (congrArg State.cores hw :).trans (congrArg State.cores htime.rest :)⟩
  case refine_6 =>
    refine (exec_attest hn hu hpow hp h0 h15 hsign).trans ?_
    cases r <;> rfl
  case refine_7 =>
    have hcmd : u.cmdOf 0 q x.idx = some x := (cmdOf_congr (congrArg State.queues hu :)).trans hx.named
    exact ⟨_, exec_seLc_starts hx hlc hc, cmdOf_setCmd_same hcmd fun _ => rfl, rfl, lcRunning_busy u q x j,
      (lcRunning_state u q x j).trans (fld_congr (congrArg State.regs hu :) _), rfl, (congrArg State.cores hu :)⟩
  case refine_8 =>
    have hres := restart_restarted (lcWritten s j)
    refine ⟨_, exec_seLc_ends hw hj hq hgone, hres.lcState.trans (Nat.mod_eq_of_lt ht), hres.lcRows, hres.noLc, hres.ready,
      restart_bootStage _, hres.cores, hres.ctxs, hres.bytes, hres.keys, restart_booting _⟩
  case refine_9 =>
    rw [exec_entropyRecovery hf hc hj hr hp, entropyBack, ← hj]

end Sys2Proof
end

section
/-! SUPPORT. What the messages of a job that forms leave of it (R391, R425, R428): a message that is sent, over whatever route the
table gives, leaves the jobs, the commands, the cores, the job's registers, the joins kept and the zero-fills queued. -/

namespace Sys2Proof.Machine

variable {s t u : State} {c : Ctx} {α : Type}

/-- The jobs, the commands and the cores, the register of a context's job, the joins kept for a JOB_CREATE and the zero-fills queued
are those of `s`, and no access of device memory waits. -/
structure JobKept (c : Ctx) (s t : State) : Prop where
  jobs : t.jobs = s.jobs
  queues : t.queues = s.queues
  cores : t.cores = s.cores
  joins : t.fab.joins = s.fab.joins
  job : t.reg (.clJob c) = s.reg (.clJob c)
  fills : t.mem.fills.map Fill.why = s.mem.fills.map Fill.why
  awake : Awake t

namespace JobKept

theorem refl (h : Awake s) : JobKept c s s := ⟨rfl, rfl, rfl, rfl, rfl, rfl, h⟩

/-- An access of device memory leaves them. -/
theorem access (h : JobKept c s t) (hu : AccessOnly t u) : JobKept c s u :=
  ⟨hu.jobs.trans h.jobs, hu.queues.trans h.queues, hu.cores.trans h.cores, (congrArg FabSt.joins hu.fab).trans h.joins,
    (hu.reg (.clJob c) nofun).trans h.job, hu.fills.trans h.fills, hu.awake h.awake⟩

theorem setFld (h : JobKept c s t) {f : Fld} (hf : f.reg ≠ .clJob c) (v : Nat) : JobKept c s (t.setFld f v) :=
  ⟨h.jobs, h.queues, h.cores, h.joins, (reg_setFld_other hf).trans h.job, h.fills, ⟨h.awake.noSleep, h.awake.noRetrain, h.awake.noHeld⟩⟩

theorem putFld {f : Fld} (hf : f.reg ≠ .clJob c) (v : Nat) : Preserves (JobKept c s) (putFld f v) := .modify fun _ h => h.setFld hf v

theorem putFlag {f : Fld} (hf : f.reg ≠ .clJob c) (b : Bool) : Preserves (JobKept c s) (putFlag f b) := .modify fun _ h => h.setFld hf _

theorem bump {f : Fld} (hf : f.reg ≠ .clJob c) : Preserves (JobKept c s) (bump f) := .modify fun _ h => h.setFld hf _

theorem fresh : Preserves (JobKept c s) fresh :=
  .fresh fun _ h => ⟨h.jobs, h.queues, h.cores, h.joins, h.job, h.fills, ⟨h.awake.noSleep, h.awake.noRetrain, h.awake.noHeld⟩⟩

theorem emit (o : Out) : Preserves (JobKept c s) (emit o) :=
  .modify fun _ h => ⟨h.jobs, h.queues, h.cores, h.joins, h.job, h.fills, ⟨h.awake.noSleep, h.awake.noRetrain, h.awake.noHeld⟩⟩

/-- What an access of device memory comes to is looked at. -/
theorem attempt {m : M α} (hm : ∀ t, Accesses t m) : Preserves (JobKept c s) (attempt m) := fun t h => by
  obtain ⟨r, u, e, hu⟩ := (hm t).attempt_ok h.awake (.refl t)
  exact ⟨r, u, e, h.access hu⟩

/-! ### Flits (R420–R423) -/

theorem modPort (p : Port) (f : PortSt → PortSt) : Preserves (JobKept c s) (modPort p f) :=
  .modify fun _ h => ⟨h.jobs, h.queues, h.cores, h.joins, h.job, h.fills, ⟨h.awake.noSleep, h.awake.noRetrain, h.awake.noHeld⟩⟩

theorem noteFrame (p : Port) (frame : Nat) : Preserves (JobKept c s) (noteFrame p frame) :=
  .bind .read fun _ => .bind (modPort _ _) fun _ => .bind (putFld (f := F.txFrames p) nofun _) fun _ => .ite (putFlag (f := F.keyHold p) nofun _) (.pure _)

theorem sendFlit (p : Port) (f : SentFlit) (frame : Nat) : Preserves (JobKept c s) (sendFlit p f frame) :=
  .bind .read fun _ => .bind (modPort _ _) fun _ => emit _

theorem sendFlits (p : Port) (n : Nat) : Preserves (JobKept c s) (sendFlits p n) := by
  induction n with
  | zero => exact .pure _
  | succ n ih =>
    unfold Machine.sendFlits
    refine .bind .read fun t => ?_
    dsimp only
    split
    · exact .pure _
    · refine .ite (.bind (sendFlit _ _ _) fun _ => ih) ?_
      refine .bind (.bind .read fun _ => .bind fresh fun _ => .bind (noteFrame _ _) fun _ => .pure _) fun _ => .ite (.pure _) ?_
      exact .bind (sendFlit _ _ _) fun _ => .bind (noteFrame _ _) fun _ => ih

theorem transmit (p : Port) (type : Nat) (bs : List Byte) : Preserves (JobKept c s) (transmit p type bs) :=
  .bind (modPort _ _) fun _ => .bind .read fun _ => sendFlits _ _

/-! ### Routed messages (R425, R426, R428) -/

theorem sampleTime : Preserves (JobKept c s) sampleTime := fun t h => by
  obtain ⟨now, g, htime⟩ := sampleTime_ok t
  have hsample := sampleTime_run htime
  rw [hsample] at htime
  exact ⟨now, _, htime, h.jobs, h.queues, h.cores, h.joins, (reg_setFld_other (r := .clJob c) (f := F.tkTime) nofun).trans h.job, h.fills,
    ⟨h.awake.noSleep, h.awake.noRetrain, h.awake.noHeld⟩⟩

theorem trace (cls : Option Nat) (kind die ctx id arg0 arg1 : Nat) : Preserves (JobKept c s) (trace cls kind die ctx id arg0 arg1) := by
  unfold Machine.trace
  refine .bind .read fun t => ?_
  dsimp only
  refine .ite (.pure _) (.ite (bump (f := F.trLost) nofun) (.bind sampleTime fun _ => .bind (attempt fun t => Accesses.vaWrite _ _ _) fun r => ?_))
  split
  · exact putFld (f := F.trTail) nofun _
  · exact bump (f := F.trLost) nofun

theorem routeTo (dst : Nat) : Preserves (JobKept c s) (routeTo dst) := by
  unfold Machine.routeTo
  refine .bind .read fun t => .ite (.pure _) (.bind (attempt fun t => Accesses.vaRead _ _ _) fun r => ?_)
  split
  · exact .pure _
  · exact .ite (.pure _) (.pure _)

theorem launch (type : Nat) (h : MsgHdr) (body : List Byte) (again : Bool) : Preserves (JobKept c s) (launch type h body again) := by
  unfold Machine.launch
  refine .bind .read fun t => .ite (emit _) (.ite (bump (f := F.misroute) nofun) ?_)
  split
  · exact bump (f := F.misroute) nofun
  · exact .bind (emit _) fun _ => .bind (transmit _ _ _) fun _ => .bind .read fun _ => .ite (trace _ _ _ _ _ _ _) (.pure _)

theorem sendRouted (type dst dstCtx srcCtx : Nat) (body : List Byte) (eng : Option (DmaEng × Nat × Nat × Nat)) :
    Preserves (JobKept c s) (sendRouted type dst dstCtx srcCtx body eng) := by
  unfold Machine.sendRouted
  refine .get_of fun t ht => .bind (.set ⟨ht.jobs, ht.queues, ht.cores, ht.joins, ht.job, ht.fills,
    ⟨ht.awake.noSleep, ht.awake.noRetrain, ht.awake.noHeld⟩⟩) fun _ => .bind (routeTo _) fun r => ?_
  cases r with
  | none => exact .bind (bump (f := F.e2eFail) nofun) fun _ => .pure _
  | some r =>
    dsimp only
    have hlaunch : ∀ h, Preserves (JobKept c s) (do
        Machine.launch type h body false
        pure (some (BitVec.toNat t.fab.nextId))) := fun h => .bind (launch _ _ _ _) fun _ => .pure _
    split
    · exact .bind (.modify fun _ h => ⟨h.jobs, h.queues, h.cores, h.joins, h.job, h.fills,
        ⟨h.awake.noSleep, h.awake.noRetrain, h.awake.noHeld⟩⟩) fun _ => hlaunch _
    · exact hlaunch _

end JobKept

end Sys2Proof.Machine
end

section
/-! PROOFS. The end of a job (R391–R393): JOB_DESTROY, and joins that do not come in time. -/

namespace Sys2Proof.Machine

variable {s t u : State} {q : QIdx} {x : Cmd} {c : Ctx} {j : JobSt}

theorem run_modJob (h : s.jobs.find? c = some j) (f : JobSt → JobSt) :
    modJob c f s = .ok ⟨⟩ { s with jobs := s.jobs.insert c (f j) } := by
  refine (run_modify _ s).trans ?_
  rw [h]

theorem fld_sysRef (h : t.fld (F.qGen 0 q) = s.fld (F.qGen 0 q)) (i : W32) : t.sysRef q i = s.sysRef q i := by
  rw [State.sysRef, State.sysRef, h]

/-! ### JOB_DESTROY (R392, R393) -/

/-- A command runs. -/
def runningCmd (s : State) (q : QIdx) (x : Cmd) : State := setCmd s 0 q x.idx (fun y => { y with phase := .running })

/-- A job goes: it is aborted, and the zero-fill of its cistern is queued. -/
def jobGoes (s : State) (c : Ctx) (j : JobSt) : State :=
  { s with
    jobs := s.jobs.insert c { j with creator := none, aborted := true, dying := true, ops := [], drain := none }
    mem := { s.mem with fills := s.mem.fills ++ [⟨.job c, [(j.cistern / 256, (j.cistern + j.cisternBytes) / 256)]⟩] } }

theorem run_destroyJob (h : s.jobs.find? c = some j) (hc : j.creator = none) : destroyJob c s = .ok () (jobGoes s c j) := by
  refine (run_bind_ok (run_get s)).trans ?_
  rw [h]
  dsimp only
  rw [hc]
  exact (run_bind_ok (run_modJob h _)).trans (run_modMem _ _)

/-- The job remembers the command that waits for its end. -/
def jobAwaited (s : State) (q : QIdx) (x : Cmd) (c : Ctx) (j : JobSt) : State :=
  { runningCmd s q x with jobs := s.jobs.insert c { j with destroyer := j.destroyer ++ [s.sysRef q x.idx] } }

theorem exec_jobDestroy (hx : SysStarted s q 0x21 x) (hc : recField x.body 2 2 = c.val) (hz : zeroFrom x.body 4 = true)
    (hj : s.jobs.find? c = some j) (hops : j.ops = []) (hdying : j.dying = false) (hcr : j.creator = none) :
    exec (.jobDestroy q) s =
      .next (jobGoes (jobAwaited s q x c j) c { j with destroyer := j.destroyer ++ [s.sysRef q x.idx] }) := by
  refine exec_system hx rfl ((run_bind_ok (run_get s)).trans ?_)
  refine (run_bind_ok (run_orErr (finOf_val c hc) _ s)).trans ((run_bind_ok (run_orErr hj _ s)).trans ?_)
  refine (run_bind_ok (run_guardCode hz _ _ s)).trans ((run_bind_ok (run_modCmd _ _ _ _ s)).trans ?_)
  refine (congrFun (if_neg (by simp [hops])) _).trans ((run_bind_ok (run_modJob (s := runningCmd s q x) hj _)).trans ?_)
  refine (congrFun (if_neg (by simp [hdying])) _).trans ?_
  exact run_destroyJob (s := jobAwaited s q x c j) (AMap.find?_insert_same _ _ _) hcr

/-! ### Joins that do not come in time (R391) -/

/-- A job that was not created is gone. -/
def jobDropped (s : State) (c : Ctx) : State := State.setReg { s with jobs := s.jobs.erase c } (.clJob c) 0

/-- The counts of a die's engines are shown, in its register of them; nothing else changes. -/
theorem run_refreshEng (d : Die) (s : State) : ∃ g, refreshEng d s = .ok ⟨⟩ { s with regs := g } ∧
    ∀ r, r ≠ .clEng d → ({ s with regs := g } : State).reg r = s.reg r :=
  ⟨_, run_modify _ s, fun _ hr => (reg_setFld_other (f := F.engJobs d) hr.symm).trans (reg_setFld_other (f := F.engPending d) hr.symm)⟩

theorem run_dropJob (h : s.jobs.find? c = some j) (hd : j.destroyer = []) : dropJob c s = refreshEng j.die (jobDropped s c) := by
  refine (run_bind_ok (run_get s)).trans ?_
  rw [h]
  dsimp only
  rw [hd]
  exact (run_bind_ok (run_eachM_nil _ s)).trans ((run_bind_ok (run_modify _ s)).trans (run_bind_ok (run_modify _ _)))

theorem exec_joinTimeout {r : SysRef} (hw : s.works = true) (hj : s.jobs.find? c = some j) (hst : s.fld (F.clState c) = 1)
    (hdying : j.dying = false) (hlate : s.fld F.joinTicks ≤ j.waited) (hjoins : j.joins.length + 1 < j.members)
    (hcr : j.creator = some r) (hx : s.sysCmd r = some x) (ho : x.ending = none) (hd : j.destroyer = []) :
    ∃ g, exec (.joinTimeout c) s =
        .next { jobDropped (setCmd s 0 r.1 r.2.2 (ends 7 0)) c with regs := g } ∧
      ({ jobDropped (setCmd s 0 r.1 r.2.2 (ends 7 0)) c with regs := g } : State).reg (.clJob c) = 0 := by
  obtain ⟨g, hg, hreg⟩ := run_refreshEng j.die (jobDropped (setCmd s 0 r.1 r.2.2 (ends 7 0)) c)
  refine ⟨g, run_next hw (u := ()) ((run_bind_ok (run_get s)).trans ?_), (hreg (.clJob c) nofun).trans (reg_setReg_same _ _ _)⟩
  rw [hj]
  refine (run_bind_ok (run_needSome j s)).trans ((run_bind_ok (run_guardWait (by simp [hst, hdying, hlate, hjoins]) s)).trans ?_)
  refine (run_bind_ok (run_get s)).trans ?_
  rw [hj]
  dsimp only
  rw [hcr]
  exact (run_bind_ok (run_endSys_ref hx ho 7 0)).trans ((run_dropJob (s := setCmd s 0 r.1 r.2.2 (ends 7 0)) hj hd).trans hg)

end Sys2Proof.Machine
end

section
/-! PROOFS. JOB_CREATE (R390, R391); the obligation O37. -/

namespace Sys2Proof.Machine

variable {s t u v : State} {q : QIdx} {x : Cmd} {c : Ctx} {d : Die} {tb : List Byte}

/-! ### The checks (R390) -/

/-- The member table that a JOB_CREATE reads. -/
def memberTable (x : Cmd) (tb : List Byte) : List (Nat × Nat) :=
  (upTo (recField x.body 0xC 2)).map (fun i => (recField tb (4 * i) 2, recField tb (4 * i + 2) 2))

/-- The fields of a JOB_CREATE are in range. -/
structure CreateFields (x : Cmd) (c : Ctx) (d : Die) : Prop where
  ctx : recField x.body 2 2 = c.val
  die : recField x.body 8 1 = d.val
  someChannel : 1 ≤ recField x.body 9 1
  channels : recField x.body 9 1 ≤ 64
  someMember : 1 ≤ recField x.body 0xC 2
  members : recField x.body 0xC 2 ≤ 4096
  rank : recField x.body 0xE 2 < recField x.body 0xC 2
  reserved : recField x.body 0xB 1 = 0
  zero : zeroFrom x.body 0x28 = true
  tableAligned : recField x.body 0x10 8 % 64 = 0
  tableAt : recField x.body 0x10 8 < 2 ^ 57
  baseAligned : recField x.body 0x18 8 % 65536 = 0
  bytesAligned : recField x.body 0x20 8 % 65536 = 0
  kind : (recField x.body 0xA 1 = 1 ∧ c ≠ 0) ∨ (recField x.body 0xA 1 = 2 ∧ c = 0)

theorem CreateFields.inRange (h : CreateFields x c d) :
    (decide (1 ≤ recField x.body 9 1 ∧ recField x.body 9 1 ≤ 64 ∧ 1 ≤ recField x.body 0xC 2 ∧ recField x.body 0xC 2 ≤ 4096 ∧
        recField x.body 0xE 2 < recField x.body 0xC 2) && recField x.body 0xB 1 == 0 && zeroFrom x.body 0x28 &&
      recField x.body 0x10 8 % 64 == 0 && decide (recField x.body 0x10 8 < 2 ^ 57) && recField x.body 0x18 8 % 65536 == 0 &&
      recField x.body 0x20 8 % 65536 == 0) = true := by
  simp [-Nat.reducePow, h.someChannel, h.channels, h.someMember, h.members, h.rank, h.reserved, h.zero, h.tableAligned, h.tableAt,
    h.baseAligned, h.bytesAligned]

/-- The member table of a JOB_CREATE and its cistern are such that the job may form. -/
structure CreatePlaces (s : State) (x : Cmd) (c : Ctx) (d : Die) (tb : List Byte) : Prop where
  entries : (memberTable x tb).all (fun p => decide (p.2 < 2 ^ 11 ∧ p.1 ≠ 0xFFFF)) = true
  self : nthD (memberTable x tb) (recField x.body 0xE 2) (0, 0) = (s.fld F.deviceId, c.val)
  distinct : ((memberTable x tb).map (·.1)).Nodup
  cistern : ∃ w, windowOf s.mem.partNow (recField x.body 0x18 8) = some w ∧ w.cls = 1 ∧ w.unit = d.val ∧
    recField x.body 0x18 8 + recField x.body 0x20 8 ≤ w.base + w.size

theorem CreatePlaces.members (h : CreatePlaces s x c d tb) :
    ((memberTable x tb).map (·.1)).eraseDups.length = recField x.body 0xC 2 := by
  rw [eraseDups_of_nodup h.distinct, List.length_map, memberTable, List.length_map, upTo, List.length_range]

theorem CreatePlaces.tableOk (h : CreatePlaces u x c d tb) (hu : AccessOnly s u) :
    ((memberTable x tb).all (fun p => decide (p.2 < 2 ^ 11 ∧ p.1 ≠ 0xFFFF)) &&
      nthD (memberTable x tb) (recField x.body 0xE 2) (0, 0) == (s.fld F.deviceId, c.val) &&
      ((memberTable x tb).map (·.1)).eraseDups.length == recField x.body 0xC 2) = true := by
  have hself := h.self
  rw [hu.fld (f := F.deviceId) nofun] at hself
  exact Bool.and_eq_true_iff.mpr ⟨Bool.and_eq_true_iff.mpr ⟨h.entries, beq_iff_eq.mpr hself⟩, beq_iff_eq.mpr h.members⟩

theorem CreatePlaces.window (h : CreatePlaces u x c d tb) (hu : AccessOnly s u) :
    (match windowOf s.mem.partNow (recField x.body 0x18 8) with
      | some w => w.cls == 1 && w.unit == d.val && decide (recField x.body 0x18 8 + recField x.body 0x20 8 ≤ w.base + w.size)
      | none => false) = true := by
  obtain ⟨w, hw, hcls, hunit, hin⟩ := h.cistern
  have hpart : u.mem.partNow = s.mem.partNow := by rw [hu.mem]
  rw [← hpart, hw]
  simp [hcls, hunit, hin]

/-! ### The job forms (R391) -/

/-- The registers of a context's job are at their reset values; what its queue's generation is shown as is kept. -/
theorem run_clearJobRegs (c : Ctx) (s : State) : ∃ g, clearJobRegs c s = .ok ⟨⟩ { s with regs := g } ∧
    ∀ q, ({ s with regs := g } : State).fld (F.qGen 0 q) = s.fld (F.qGen 0 q) := by
  refine ⟨_, run_modify _ s, fun q => fld_of_reg (f := F.qGen 0 q) ?_⟩
  refine congrArg (fun o : Option W64 => (o.getD (BitVec.ofNat 64 (F.qGen 0 q).reg.reset)).toNat) ?_
  exact find?_filter_fst s.regs (fun r => match r with
    | .clJob x => x ≠ c
    | .clDigScrc x _ => x ≠ c
    | .clDigSbytes x _ => x ≠ c
    | .clDigRcrc x _ => x ≠ c
    | .clDigRbytes x _ => x ≠ c
    | _ => true) (F.qGen 0 q).reg

/-- The job that a JOB_CREATE makes. -/
def createdJob (s : State) (q : QIdx) (x : Cmd) (c : Ctx) (d : Die) (t : List (Nat × Nat)) : JobSt :=
  { job := BitVec.ofNat 32 (recField x.body 4 4), die := d, channels := recField x.body 9 1, kind := recField x.body 0xA 1
    rank := recField x.body 0xE 2, table := t, cistern := recField x.body 0x18 8, cisternBytes := recField x.body 0x20 8
    creator := some (s.sysRef q x.idx), destroyer := [], waited := 0, filled := false, joins := [], aborted := false
    dying := false, ops := [], nextOp := [], drain := none, noOpt := s.reclaiming c }

/-- A context has a job, the zero-fill of whose cistern is queued. -/
def jobListed (s : State) (c : Ctx) (j : JobSt) : State :=
  { s with
    jobs := s.jobs.insert c j
    mem := { s.mem with fills := s.mem.fills ++ [⟨.job c, [(j.cistern / 256, (j.cistern + j.cisternBytes) / 256)]⟩] } }

/-- A FORMING job is shown in its register. -/
def jobShown (s : State) (x : Cmd) (c : Ctx) (d : Die) : State :=
  ((((s.setFld (F.clJobId c) (recField x.body 4 4)).setFld (F.clRank c) (recField x.body 0xE 2)).setFld (F.clState c) 1).setFld
    (F.clChannels c) (recField x.body 9 1)).setFld (F.clDie c) d.val

/-- The job is listed and shown. -/
def jobBegun (s : State) (q : QIdx) (x : Cmd) (c : Ctx) (d : Die) (t : List (Nat × Nat)) : State :=
  jobShown (jobListed s c (createdJob s q x c d t)) x c d

theorem jobShown_jobId : (jobShown s x c d).fld (F.clJobId c) = recField x.body 4 4 := by
  simp (disch := omega) only [jobShown, F.clJobId, F.clRank, F.clState, F.clChannels, F.clDie, fld_bits_apart, fld_bits_same]
  exact Nat.mod_eq_of_lt (recField_lt _ _ _)

theorem jobShown_rank (h : recField x.body 0xE 2 < 4096) : (jobShown s x c d).fld (F.clRank c) = recField x.body 0xE 2 := by
  simp (disch := omega) only [jobShown, F.clRank, F.clState, F.clChannels, F.clDie, fld_bits_apart, fld_bits_same]
  exact Nat.mod_eq_of_lt h

theorem jobShown_state : (jobShown s x c d).fld (F.clState c) = 1 := by
  simp (disch := omega) only [jobShown, F.clState, F.clChannels, F.clDie, fld_bits_apart, fld_bits_same]
  rfl

theorem jobShown_channels (h : recField x.body 9 1 ≤ 64) : (jobShown s x c d).fld (F.clChannels c) = recField x.body 9 1 := by
  simp (disch := omega) only [jobShown, F.clChannels, F.clDie, fld_bits_apart, fld_bits_same]
  exact Nat.mod_eq_of_lt (by omega)

theorem jobShown_die : (jobShown s x c d).fld (F.clDie c) = d.val := by
  simp (disch := omega) only [jobShown, F.clDie, fld_bits_same]
  exact Nat.mod_eq_of_lt d.isLt

/-- The engines' counts are shown in another register than the job's. -/
theorem JobKept.refreshEng (d : Die) : Preserves (JobKept c s) (refreshEng d) :=
  .modify fun _ h => (h.setFld (f := F.engPending d) nofun _).setFld (f := F.engJobs d) nofun _

/-- The other members are told of the job (R391). -/
theorem JobKept.askMembers (x : Cmd) (c : Ctx) (t : List (Nat × Nat)) :
    Preserves (JobKept c s) (eachM (t.zipIdx.filter fun p => p.2 ≠ recField x.body 0xE 2) fun p => do
      let _ ← Machine.sendRouted 6 p.1.1 p.1.2 c.val (leBytes 4 (recField x.body 4 4) ++ leBytes 1 0 ++ leBytes 1 1 ++ leBytes 2 0 ++ leBytes 4 0
        ++ leBytes 4 0 ++ leBytes 2 (recField x.body 0xC 2) ++ leBytes 1 (recField x.body 9 1) ++ leBytes 1 (recField x.body 0xA 1)
        ++ leBytes 8 (tableCrc t)) none
      pure ()) := .eachM _ fun _ => .bind (JobKept.sendRouted _ _ _ _ _ _) fun _ => .pure ()

/-- Where no join came before the JOB_CREATE, none counts for it. -/
theorem earlyJoins_none {job : W32} (h : ∀ e ∈ s.fab.joins, e.job ≠ job) : earlyJoins c job s = .ok () s := by
  have hkept : s.fab.joins.filter (fun e => e.job != job) = s.fab.joins := List.filter_eq_self.mpr fun e he => by simpa using h e he
  have hnone : s.fab.joins.filter (fun e => e.job == job) = [] := List.filter_eq_nil_iff.mpr fun e he => by simpa using h e he
  refine (run_bind_ok (run_get s)).trans ((run_bind_ok (run_set _ s)).trans ?_)
  rw [hkept, hnone]
  exact run_eachM_nil _ s

/-- Where the command runs, the job is listed and shown, and the messages of its forming change none of it. -/
theorem exec_jobCreate (hx : SysStarted s q 0x20 x) (hf : CreateFields x c d) (hp : CreatePlaces u x c d tb)
    (hlive : s.ctxLive c = true) (hnone : s.jobs = []) (hread : vaRead 0 (recField x.body 0x10 8) (4 * recField x.body 0xC 2) s = .ok tb u)
    (howner : s.ownerState = true) (hawake : Awake s) (hearly : ∀ e ∈ s.fab.joins, e.job ≠ BitVec.ofNat 32 (recField x.body 4 4)) :
    ∃ g w v, w = { runningCmd u q x with regs := g } ∧ w.sysRef q x.idx = u.sysRef q x.idx ∧ exec (.jobCreate q) s = .next v ∧
      JobKept c (jobBegun w q x c d (memberTable x tb)) v := by
  have hacc := (Accesses.vaRead 0 _ _).ok_of (.refl s) hread
  obtain ⟨g, hclear, hgen⟩ := run_clearJobRegs c (runningCmd u q x)
  generalize hw : ({ runningCmd u q x with regs := g } : State) = w at hclear hgen
  have hbegin : JobKept c (jobBegun w q x c d (memberTable x tb)) (jobBegun w q x c d (memberTable x tb)) := by
    obtain ⟨hsleep, htrain, hheld⟩ := hacc.awake hawake
    subst hw
    exact .refl ⟨hsleep, htrain, hheld⟩
  obtain ⟨r, hr, hshown⟩ := (JobKept.refreshEng d).unit hbegin
  obtain ⟨v, hv, hkept⟩ := (JobKept.askMembers x c (memberTable x tb)).unit hshown
  have hjoins : v.fab.joins = s.fab.joins := by
    rw [hkept.joins, ← hacc.fab, ← hw]
    rfl
  refine ⟨g, w, v, hw.symm, fld_sysRef (hgen q) _, exec_system hx rfl ((run_bind_ok (run_get s)).trans ?_), hkept⟩
  refine (run_bind_ok (run_orErr (finOf_val c hf.ctx) _ s)).trans ((run_bind_ok (run_orErr (finOf_val d hf.die) _ s)).trans ?_)
  refine (run_bind_ok (run_guardCode hf.inRange _ _ s)).trans ?_
  refine (run_bind_ok (run_guardCode (by rw [hlive, hnone]; rfl) _ _ s)).trans ?_
  refine (run_bind_ok (run_guardCode (by simpa using hf.kind) _ _ s)).trans ((run_bind_ok (run_readAs hread _)).trans ?_)
  refine (run_bind_ok (run_guardCode (hp.tableOk hacc) _ _ u)).trans ?_
  refine (run_bind_ok (run_guardCode (by rw [hnone]; rfl) _ _ u)).trans ?_
  refine (run_bind_ok (run_guardCode (hp.window hacc) _ _ u)).trans ?_
  refine (run_bind_ok (run_guardCode (by rw [hnone]; rfl) _ _ u)).trans ((run_bind_ok (run_guardCode howner _ _ u)).trans ?_)
  refine (run_bind_ok (run_modCmd _ _ _ _ u)).trans ((run_bind_ok hclear).trans ((run_bind_ok (run_modify _ w)).trans ?_))
  refine (run_bind_ok (run_putFld _ _ _)).trans ((run_bind_ok (run_putFld _ _ _)).trans ((run_bind_ok (run_putFld _ _ _)).trans ?_))
  refine (run_bind_ok (run_putFld _ _ _)).trans ((run_bind_ok (run_putFld _ _ _)).trans ((run_bind_ok hr).trans ?_))
  exact (run_bind_ok hv).trans (earlyJoins_none (by rwa [hjoins]))

end Sys2Proof.Machine

namespace Sys2Proof

open Sys2Proof.Machine

/-- Settles O37: a job is created, is destroyed, and is not created where its joins do not come in time. -/
theorem jobLife : Obligations.JobLife := by
  unfold Obligations.JobLife
  refine fun s q x c => ⟨fun d u tb hx => ?_, fun j hx hc hz hj hops hdying hcr => ?_,
    fun j r y hw hj hst hdying hlate hjoins hcr hy ho hd => ?_⟩
  case refine_1 =>
    intro f M t hctx hdie hch hch' hM hM' hr hres hz hta htb hba hby hlive hnone hkind hread hu hall hself hdis hwin howner hawake hearly
    have hacc := (Accesses.vaRead 0 _ _).ok_of (.refl s) hread
    have hdev : u.fld F.deviceId = s.fld F.deviceId := hacc.fld (f := F.deviceId) nofun
    have hgen : u.fld (F.qGen 0 q) = s.fld (F.qGen 0 q) := hacc.fld (f := F.qGen 0 q) nofun
    obtain ⟨g, w, v, hw, href, hrun, hv⟩ := exec_jobCreate hx ⟨hctx, hdie, hch, hch', hM, hM', hr, hres, hz, hta, htb, hba, hby, hkind⟩
      ⟨hall, hself.trans (by rw [hdev]), hdis, hwin⟩ hlive hnone hread howner hawake hearly
    have hreg : ∀ {lo n}, v.fld ⟨.clJob c, lo, n⟩ = (jobBegun w q x c d t).fld ⟨.clJob c, lo, n⟩ := fld_of_reg hv.job
    have hqueues : v.queues = (runningCmd u q x).queues := hv.queues.trans (congrArg State.queues hw :)
    refine ⟨v, hrun, (cmdOf_congr hqueues).trans (cmdOf_setCmd_same ((cmdOf_congr hacc.queues).trans hx.named) fun _ => rfl),
      hreg.trans jobShown_state, hreg.trans jobShown_jobId, hreg.trans (jobShown_rank (hr.trans_le hM')),
      hreg.trans (jobShown_channels hch'), hreg.trans jobShown_die, ?_, ?_, ?_⟩
    · refine ⟨createdJob w q x c d t, ?_, rfl, rfl, rfl, rfl, rfl, rfl, congrArg some (href.trans (fld_sysRef hgen _))⟩
      rw [hv.jobs]
      exact AMap.find?_insert_same _ _ _
    · have hwhy : FillWhy.job c ∈ v.mem.fills.map Fill.why := by
        rw [hv.fills]
        simp [jobBegun, jobShown, jobListed]
      obtain ⟨z, hz, hwhy⟩ := List.mem_map.mp hwhy
      exact ⟨z, hz, hwhy⟩
    · exact hv.cores.trans ((congrArg State.cores hw :).trans hacc.cores)
  case refine_2 =>
    refine ⟨_, exec_jobDestroy hx hc hz hj hops hdying hcr, cmdOf_setCmd_same hx.named fun _ => rfl,
      (AMap.find?_insert_same _ _ _).trans ?_, rfl, rfl, rfl⟩
    rw [hops, hcr]
  case refine_3 =>
    obtain ⟨g, hrun, hreg⟩ := exec_joinTimeout hw hj hst hdying hlate hjoins hcr hy ho hd
    refine ⟨_, hrun, ended_of_sysCmd hy 7 0, AMap.find?_erase_same _ _, ?_, rfl, rfl⟩
    exact congrArg (fun n => bitsOf n 48 3) hreg

end Sys2Proof
end
